-- ==== Sys2Proof/Word.lean ====
section
/-! DEFINITION. The bit-vector types of the KQ9: bytes, lane words, scalar words, job-space addresses (R6, R12). -/

namespace Sys2Proof

/-- One byte; multi-byte values are little-endian (R6). -/
abbrev Byte := BitVec 8

/-- One lane of a vector register, and one instruction word (R12, R33). -/
abbrev Word := BitVec 32

/-- A scalar register (R15). -/
abbrev DWord := BitVec 64

/-- A job-space address (R25, R174). -/
abbrev Addr := BitVec 57

/-- One bit for each lane, lane l in bit l (R17). -/
abbrev Mask := BitVec 32

end Sys2Proof
end

