-- ==== Sys2Proof/Syntax.lean ====
section
/-! DEFINITION. The instructions and events of spec/opcode_table.json, one constructor a row, and the records that
events carry. A word's fields have the widths of its encoding (R34 to R47); an event's fields say which unit it
befalls and what the environment delivers with it. -/

namespace Sys2Proof

/-- Who writes a CSR: a privileged group (R335), the host port (R425) or the management port (R427). -/
inductive Writer where
  | group
  | host
  | mgmt
  deriving DecidableEq, Repr

/-- A logical link: a memory link by its number 0 to 191 (R363), or the link to a row or column peer (R365). -/
inductive LinkId where
  | memory (n : Nat)
  | peer (node : BitVec 12)
  deriving DecidableEq, Repr

/-- The part of a lane access that one packet carries for one lane (R386): the lane, the physical address of its
first byte at the home, the width in bytes, the datum, and the compare value of a CAS. -/
structure LaneOp where
  lane : Nat
  addr : Nat
  size : Nat
  data : BitVec 128
  cmp : BitVec 128
  deriving DecidableEq, Repr, Inhabited

/-- A packet of the pod fabric (R366, R385). The header fields are those of R366; the layout of the payload inside
the flits is not given by the manual, so what a packet carries is held as fields. -/
structure Packet where
  /-- packet operation, R385 -/
  op : BitVec 6
  src : BitVec 12
  dst : BitVec 12
  srcMod : Bool
  dstMod : Bool
  attempt : BitVec 2
  tag : BitVec 22
  job : BitVec 16
  /-- operations of the lanes, ascending (R386) -/
  ops : List LaneOp
  /-- function code of the atomic (R188), 3 to 12; 2 for CAS -/
  aop : BitVec 4
  /-- data bytes: SIGNAL, MCST, far data -/
  bytes : List Byte
  /-- physical address (MCST) or module address -/
  addr : Nat
  /-- status of a response: 0 done; for op 7 payload byte 0 (R419); for op 10, 1 when cancelled (R388) -/
  status : Nat
  /-- further numbers: SIGNAL grid, clu, team, ring (R393); op 20 the barrier, phase and arrivals (R399); op 8 the relay -/
  args : List Nat
  /-- the GCM tag verifies under the pair key held (R418); the manual's ciphers are outside standards -/
  authentic : Bool
  deriving DecidableEq, Repr, Inhabited

/-- What a management reply or PAIR message carries (R410, R427). -/
inductive MgmtMessage where
  /-- op 4: the reply to a frame the package sent -/
  | reply (seq : BitVec 16)
  /-- a PAIR message of the peer: its node and job, its measurement, its security version, whether its quote
  verifies, whether it holds the far keys of the job, and the far keys it passes -/
  | pair (node : BitVec 12) (job : BitVec 16) (measurement : BitVec 256) (svn : BitVec 4) (quoteOk : Bool)
      (holdsKeys : Bool) (keys : BitVec 384)
  deriving DecidableEq, Repr

/-- The instructions (R33 to R48) and the events (95_what_each_step_holds.md) of the KQ9. -/
inductive Instr where
  /-- R103: Does nothing; the all-zero word. -/
  | nop
  /-- R103: Lets every other ready group of the slot issue once before this group is selected again. -/
  | yield
  /-- R103: Holds the fragment until every completion flag named in the mask is done. -/
  | waitf (m : BitVec 12)
  /-- R99: Uniform unconditional branch to PC + 4 × offset. -/
  | bra (o : BitVec 22)
  /-- R100: Writes PC + 4 into s63 and branches. -/
  | call (o : BitVec 22)
  /-- R99: Branches when condition flag kn is 1 (cond 3 to 6). -/
  | bk (k : BitVec 2) (o : BitVec 22)
  /-- R99: Branches when condition flag kn is 0 (cond 7 to 10). -/
  | bkNot (k : BitVec 2) (o : BitVec 22)
  /-- R99: Branches when predicate pn is 1 in at least one lane whose EXEC bit is 1 (cond 11 to 18). -/
  | bpAny (p : BitVec 3) (o : BitVec 22)
  /-- R99: Branches when EXEC is nonzero and pn is 1 in every lane whose EXEC bit is 1 (cond 19 to 26). -/
  | bpAll (p : BitVec 3) (o : BitVec 22)
  /-- R100: Jumps to the address in sn after checking it, and pops the return predictor. -/
  | ret (s : BitVec 6)
  /-- R100: Jumps to the address in sn after checking it. -/
  | jmpr (s : BitVec 6)
  /-- R102: Waits at the reconvergence address and fuses the fragments of the split entry, or otherwise restores EXEC to the membership. -/
  | join
  /-- R104: Ends the executing fragment, and the group when it is the last fragment. -/
  | exit
  /-- R101: Divergent branch on pn: splits the fragment and creates a split entry with a reconvergence address. -/
  | bdv (p : BitVec 3) (t : BitVec 12) (j : BitVec 12)
  /-- R137: Reads a spilled split entry back when a fragment needs it, or raises a split-spill fault. -/
  | splitRefill
  /-- R93: Scalar add modulo 2^64. -/
  | sadd (d : BitVec 6) (a : BitVec 6) (b : BitVec 6)
  /-- R93: Scalar subtract. -/
  | ssub (d : BitVec 6) (a : BitVec 6) (b : BitVec 6)
  /-- R93: Low 64 bits of the product. -/
  | smul (d : BitVec 6) (a : BitVec 6) (b : BitVec 6)
  /-- R93: High 64 bits of the signed product. -/
  | smulh (d : BitVec 6) (a : BitVec 6) (b : BitVec 6)
  /-- R94: Signed quotient truncated toward zero. -/
  | sdiv (d : BitVec 6) (a : BitVec 6) (b : BitVec 6)
  /-- R94: Signed remainder. -/
  | srem (d : BitVec 6) (a : BitVec 6) (b : BitVec 6)
  /-- R93: Bitwise AND. -/
  | sand (d : BitVec 6) (a : BitVec 6) (b : BitVec 6)
  /-- R93: Bitwise OR. -/
  | sor (d : BitVec 6) (a : BitVec 6) (b : BitVec 6)
  /-- R93: Bitwise XOR. -/
  | sxor (d : BitVec 6) (a : BitVec 6) (b : BitVec 6)
  /-- R93: A AND NOT B. -/
  | sandn (d : BitVec 6) (a : BitVec 6) (b : BitVec 6)
  /-- R93: Shift left by B[5:0]. -/
  | sshl (d : BitVec 6) (a : BitVec 6) (b : BitVec 6)
  /-- R93: Logical shift right. -/
  | sshr (d : BitVec 6) (a : BitVec 6) (b : BitVec 6)
  /-- R93: Arithmetic shift right. -/
  | ssra (d : BitVec 6) (a : BitVec 6) (b : BitVec 6)
  /-- R93: Rotate left. -/
  | srot (d : BitVec 6) (a : BitVec 6) (b : BitVec 6)
  /-- R93: Signed minimum. -/
  | smin (d : BitVec 6) (a : BitVec 6) (b : BitVec 6)
  /-- R93: Signed maximum. -/
  | smax (d : BitVec 6) (a : BitVec 6) (b : BitVec 6)
  /-- R93: Natural minimum. -/
  | sminn (d : BitVec 6) (a : BitVec 6) (b : BitVec 6)
  /-- R93: Natural maximum. -/
  | smaxn (d : BitVec 6) (a : BitVec 6) (b : BitVec 6)
  /-- R93: Count of leading zero bits. -/
  | sclz (d : BitVec 6) (a : BitVec 6)
  /-- R93: Count of one bits. -/
  | spop (d : BitVec 6) (a : BitVec 6)
  /-- R93: Bit reverse. -/
  | sbrev (d : BitVec 6) (a : BitVec 6)
  /-- R93: Sign-extends from 8 bits. -/
  | ssextB8 (d : BitVec 6) (a : BitVec 6)
  /-- R93: Sign-extends from 16 bits. -/
  | ssextB16 (d : BitVec 6) (a : BitVec 6)
  /-- R93: Sign-extends from 32 bits. -/
  | ssextB32 (d : BitVec 6) (a : BitVec 6)
  /-- R93: Zero-extends from 8 bits. -/
  | szextB8 (d : BitVec 6) (a : BitVec 6)
  /-- R93: Zero-extends from 16 bits. -/
  | szextB16 (d : BitVec 6) (a : BitVec 6)
  /-- R93: Zero-extends from 32 bits. -/
  | szextB32 (d : BitVec 6) (a : BitVec 6)
  /-- R93: Selects A when kn is 1, else B; the flag is carried in fn 27 to 30. -/
  | ssel (d : BitVec 6) (a : BitVec 6) (b : BitVec 6) (k : BitVec 2)
  /-- R93: Scalar copy. -/
  | smov (d : BitVec 6) (a : BitVec 6)
  /-- R95: Compares two scalars and writes a condition flag. -/
  | scmp (k : BitVec 2) (a : BitVec 6) (b : BitVec 6) (c : BitVec 3)
  /-- R93: A + (B << sh). -/
  | slea (d : BitVec 6) (a : BitVec 6) (b : BitVec 6) (h : BitVec 3)
  /-- R299: Checks a launch record and enters it into the device list of the issuing grid's queue. -/
  | launch (d : BitVec 6) (a : BitVec 6)
  /-- R96: sd := sd + immediate. -/
  | saddi (d : BitVec 6) (i : BitVec 16)
  /-- R96: sd := sd AND immediate. -/
  | sandi (d : BitVec 6) (i : BitVec 16)
  /-- R96: sd := sd OR immediate. -/
  | sori (d : BitVec 6) (i : BitVec 16)
  /-- R96: sd := sd XOR immediate. -/
  | sxori (d : BitVec 6) (i : BitVec 16)
  /-- R96: Immediate shift left. -/
  | sshli (d : BitVec 6) (i : BitVec 16)
  /-- R96: Immediate logical shift right. -/
  | sshri (d : BitVec 6) (i : BitVec 16)
  /-- R96: Immediate arithmetic shift right. -/
  | ssrai (d : BitVec 6) (i : BitVec 16)
  /-- R97: Compares sn with an immediate and writes kn, with n shared. -/
  | scmpi (n : BitVec 2) (c : BitVec 3) (i : BitVec 16)
  /-- R96: Loads an immediate. -/
  | sli (d : BitVec 6) (i : BitVec 16)
  /-- R97: Shifts sd left by 16 and inserts imm16. -/
  | slih (d : BitVec 6) (i : BitVec 16)
  /-- R98: Reads a control or special register by selector. -/
  | srd (d : BitVec 6) (e : BitVec 8)
  /-- R98: Writes a control register by selector. -/
  | swr (d : BitVec 6) (e : BitVec 8)
  /-- R108: Loads one value per group into a scalar register. -/
  | lds (d : BitVec 6) (a : BitVec 6) (w : BitVec 2) (s : BitVec 3)
  /-- R108: Stores one value per group from a scalar register. -/
  | sts (d : BitVec 6) (a : BitVec 6) (w : BitVec 2) (s : BitVec 3)
  /-- R113: FP32 add. -/
  | vadd (d : BitVec 7) (a : BitVec 7) (b : BitVec 7)
  /-- R113: FP32 subtract. -/
  | vsub (d : BitVec 7) (a : BitVec 7) (b : BitVec 7)
  /-- R113: FP32 multiply. -/
  | vmul (d : BitVec 7) (a : BitVec 7) (b : BitVec 7)
  /-- R113: FP32 fused a × b + d. -/
  | vfma (d : BitVec 7) (a : BitVec 7) (b : BitVec 7)
  /-- R113: FP32 fused a × b − d. -/
  | vfms (d : BitVec 7) (a : BitVec 7) (b : BitVec 7)
  /-- R113: FP32 fused −(a × b) + d. -/
  | vfnma (d : BitVec 7) (a : BitVec 7) (b : BitVec 7)
  /-- R113: FP32 fused −(a × b) − d. -/
  | vfnms (d : BitVec 7) (a : BitVec 7) (b : BitVec 7)
  /-- R113: FP32 divide. -/
  | vdiv (d : BitVec 7) (a : BitVec 7) (b : BitVec 7)
  /-- R114: FP32 minimum, with optional early decision. -/
  | vmin (d : BitVec 7) (a : BitVec 7) (b : BitVec 7)
  /-- R114: FP32 maximum, with optional early decision. -/
  | vmax (d : BitVec 7) (a : BitVec 7) (b : BitVec 7)
  /-- R114: FP32 Min(Max(d, a), b). -/
  | vclamp (d : BitVec 7) (a : BitVec 7) (b : BitVec 7)
  /-- R113: a × 2^n with n from vb. -/
  | vscale (d : BitVec 7) (a : BitVec 7) (b : BitVec 7)
  /-- R115: FP32 compare into a predicate. -/
  | vcmp (p : BitVec 3) (a : BitVec 7) (b : BitVec 7) (c : BitVec 3)
  /-- R115: FP32 compare into a predicate that decides early and may cancel producers. -/
  | vcmpc (p : BitVec 3) (a : BitVec 7) (b : BitVec 7) (c : BitVec 3)
  /-- R116: Bitwise select on pn. -/
  | vsel (d : BitVec 7) (a : BitVec 7) (b : BitVec 7) (n : BitVec 3)
  /-- R117: Packed-pair add. -/
  | vaddPair (d : BitVec 7) (a : BitVec 7) (b : BitVec 7) (t : BitVec 2)
  /-- R117: Packed-pair subtract. -/
  | vsubPair (d : BitVec 7) (a : BitVec 7) (b : BitVec 7) (t : BitVec 2)
  /-- R117: Packed-pair multiply. -/
  | vmulPair (d : BitVec 7) (a : BitVec 7) (b : BitVec 7) (t : BitVec 2)
  /-- R117: Packed-pair fused multiply-add. -/
  | vfmaPair (d : BitVec 7) (a : BitVec 7) (b : BitVec 7) (t : BitVec 2)
  /-- R117: Packed-pair fused multiply-subtract. -/
  | vfmsPair (d : BitVec 7) (a : BitVec 7) (b : BitVec 7) (t : BitVec 2)
  /-- R117: Packed-pair negated fused multiply-add. -/
  | vfnmaPair (d : BitVec 7) (a : BitVec 7) (b : BitVec 7) (t : BitVec 2)
  /-- R117: Packed-pair negated fused multiply-subtract. -/
  | vfnmsPair (d : BitVec 7) (a : BitVec 7) (b : BitVec 7) (t : BitVec 2)
  /-- R117: Packed-pair minimum. -/
  | vminPair (d : BitVec 7) (a : BitVec 7) (b : BitVec 7) (t : BitVec 2)
  /-- R117: Packed-pair maximum. -/
  | vmaxPair (d : BitVec 7) (a : BitVec 7) (b : BitVec 7) (t : BitVec 2)
  /-- R117: Packed-pair clamp. -/
  | vclampPair (d : BitVec 7) (a : BitVec 7) (b : BitVec 7) (t : BitVec 2)
  /-- R118: Adds a two-term dot product into an FP32 accumulator. -/
  | vdot2 (d : BitVec 7) (a : BitVec 7) (b : BitVec 7) (t : BitVec 2)
  /-- R118: Adds a four-term FP8 dot product into an FP32 accumulator. -/
  | vdot4 (d : BitVec 7) (a : BitVec 7) (b : BitVec 7) (t : BitVec 1)
  /-- R119: 32-bit integer add. -/
  | viadd (d : BitVec 7) (a : BitVec 7) (b : BitVec 7)
  /-- R119: 32-bit integer subtract. -/
  | visub (d : BitVec 7) (a : BitVec 7) (b : BitVec 7)
  /-- R119: Low 32 bits of the product. -/
  | vimul (d : BitVec 7) (a : BitVec 7) (b : BitVec 7)
  /-- R119: High 32 bits of the signed product. -/
  | vimulhI32 (d : BitVec 7) (a : BitVec 7) (b : BitVec 7)
  /-- R119: High 32 bits of the natural product. -/
  | vimulhN32 (d : BitVec 7) (a : BitVec 7) (b : BitVec 7)
  /-- R119: Low 32 bits of A × B + D. -/
  | vimad (d : BitVec 7) (a : BitVec 7) (b : BitVec 7)
  /-- R119: Signed minimum. -/
  | vimin (d : BitVec 7) (a : BitVec 7) (b : BitVec 7)
  /-- R119: Signed maximum. -/
  | vimax (d : BitVec 7) (a : BitVec 7) (b : BitVec 7)
  /-- R119: Natural minimum. -/
  | viminn (d : BitVec 7) (a : BitVec 7) (b : BitVec 7)
  /-- R119: Natural maximum. -/
  | vimaxn (d : BitVec 7) (a : BitVec 7) (b : BitVec 7)
  /-- R119: Integer absolute value. -/
  | viabs (d : BitVec 7) (a : BitVec 7)
  /-- R119: Bitwise AND. -/
  | viand (d : BitVec 7) (a : BitVec 7) (b : BitVec 7)
  /-- R119: Bitwise OR. -/
  | vior (d : BitVec 7) (a : BitVec 7) (b : BitVec 7)
  /-- R119: Bitwise XOR. -/
  | vixor (d : BitVec 7) (a : BitVec 7) (b : BitVec 7)
  /-- R119: A AND NOT B. -/
  | viandn (d : BitVec 7) (a : BitVec 7) (b : BitVec 7)
  /-- R119: Shift left by B[4:0]. -/
  | vishl (d : BitVec 7) (a : BitVec 7) (b : BitVec 7)
  /-- R119: Logical shift right. -/
  | vishr (d : BitVec 7) (a : BitVec 7) (b : BitVec 7)
  /-- R119: Arithmetic shift right. -/
  | visra (d : BitVec 7) (a : BitVec 7) (b : BitVec 7)
  /-- R119: Count of one bits. -/
  | vpop (d : BitVec 7) (a : BitVec 7)
  /-- R119: Count of leading zeros. -/
  | vclz (d : BitVec 7) (a : BitVec 7)
  /-- R120: Bit-field extract. -/
  | vbfe (d : BitVec 7) (a : BitVec 7) (b : BitVec 7)
  /-- R120: Bit-field insert. -/
  | vbfi (d : BitVec 7) (a : BitVec 7) (b : BitVec 7)
  /-- R120: Byte permute with selectors from vd. -/
  | vprm (d : BitVec 7) (a : BitVec 7) (b : BitVec 7)
  /-- R121: Integer compare into a predicate. -/
  | vicmp (p : BitVec 3) (a : BitVec 7) (b : BitVec 7) (c : BitVec 3)
  /-- R122: FP32 add of an immediate. -/
  | vaddImm (d : BitVec 7) (i : BitVec 16)
  /-- R122: FP32 multiply by an immediate. -/
  | vmulImm (d : BitVec 7) (i : BitVec 16)
  /-- R122: FP32 minimum with an immediate. -/
  | vminImm (d : BitVec 7) (i : BitVec 16)
  /-- R122: FP32 maximum with an immediate. -/
  | vmaxImm (d : BitVec 7) (i : BitVec 16)
  /-- R122: Integer add of an immediate. -/
  | viaddImm (d : BitVec 7) (i : BitVec 16)
  /-- R122: AND with an immediate. -/
  | viandImm (d : BitVec 7) (i : BitVec 16)
  /-- R122: OR with an immediate. -/
  | viorImm (d : BitVec 7) (i : BitVec 16)
  /-- R122: XOR with an immediate. -/
  | vixorImm (d : BitVec 7) (i : BitVec 16)
  /-- R122: Immediate shift left. -/
  | vishlImm (d : BitVec 7) (i : BitVec 16)
  /-- R122: Immediate logical shift right. -/
  | vishrImm (d : BitVec 7) (i : BitVec 16)
  /-- R122: Immediate arithmetic shift right. -/
  | visraImm (d : BitVec 7) (i : BitVec 16)
  /-- R122: Writes an FP32 immediate. -/
  | vmoviF32 (d : BitVec 7) (i : BitVec 16)
  /-- R122: Writes a 32-bit immediate. -/
  | vmoviB32 (d : BitVec 7) (i : BitVec 16)
  /-- R122: Writes an FP16 immediate in both halves. -/
  | vmoviF16x2 (d : BitVec 7) (i : BitVec 16)
  /-- R122: Writes an E4M3 pair in both halves. -/
  | vmoviF8e4x2 (d : BitVec 7) (i : BitVec 16)
  /-- R122: Writes an E5M2 pair in both halves. -/
  | vmoviF8e5x2 (d : BitVec 7) (i : BitVec 16)
  /-- R123: Correctly rounded square root. -/
  | vsqrt (d : BitVec 7) (a : BitVec 7)
  /-- R123: Reciprocal square root. -/
  | vrsq (d : BitVec 7) (a : BitVec 7)
  /-- R123: Reciprocal. -/
  | vrcp (d : BitVec 7) (a : BitVec 7)
  /-- R123: Clears bit 31. -/
  | vabs (d : BitVec 7) (a : BitVec 7)
  /-- R123: Inverts bit 31. -/
  | vneg (d : BitVec 7) (a : BitVec 7)
  /-- R123: 2^x. -/
  | vexp2 (d : BitVec 7) (a : BitVec 7)
  /-- R123: log2 x. -/
  | vlog2 (d : BitVec 7) (a : BitVec 7)
  /-- R123: sin(πx). -/
  | vsinp (d : BitVec 7) (a : BitVec 7)
  /-- R123: cos(πx). -/
  | vcosp (d : BitVec 7) (a : BitVec 7)
  /-- R123: tanh x. -/
  | vtanh (d : BitVec 7) (a : BitVec 7)
  /-- R123: Rounds to an integral value. -/
  | vrnd (d : BitVec 7) (a : BitVec 7)
  /-- R123: Exponent of x as FP32. -/
  | vgetexp (d : BitVec 7) (a : BitVec 7)
  /-- R123: Significand of x. -/
  | vgetman (d : BitVec 7) (a : BitVec 7)
  /-- R125: Converts between element types. -/
  | vcvt (d : BitVec 7) (a : BitVec 7) (y : BitVec 4) (x : BitVec 4)
  /-- R124: Copies 32 bits of va. -/
  | vmov (d : BitVec 7) (a : BitVec 7)
  /-- R124: Writes the lane number. -/
  | vmovLane (d : BitVec 7)
  /-- R124: Broadcasts s[n][31:0] into every active lane. -/
  | vmovs (d : BitVec 7) (s : BitVec 6)
  /-- R143: Copies from the lane indexed by vb. -/
  | vshfl (d : BitVec 7) (a : BitVec 7) (b : BitVec 7)
  /-- R144: Rotates lanes within segments. -/
  | vrotw (d : BitVec 7) (a : BitVec 7) (g : BitVec 3) (n : BitVec 5)
  /-- R144: Copies from lane l XOR m. -/
  | vxorw (d : BitVec 7) (a : BitVec 7) (m : BitVec 5)
  /-- R144: Broadcasts lane j. -/
  | vbcst (d : BitVec 7) (a : BitVec 7) (j : BitVec 5)
  /-- R144: Broadcasts the lowest active lane. -/
  | vbcstFirst (d : BitVec 7) (a : BitVec 7)
  /-- R146: One butterfly reduction step. -/
  | vrstep (d : BitVec 7) (a : BitVec 7) (o : BitVec 4) (s : BitVec 3)
  /-- R147: Reduces the active lanes into a scalar register. -/
  | vred (e : BitVec 6) (a : BitVec 7) (o : BitVec 4)
  /-- R148: Prefix over the active lanes. -/
  | vscan (d : BitVec 7) (a : BitVec 7) (o : BitVec 4) (x : BitVec 1)
  /-- R149: Writes masks of lanes with equal keys. -/
  | vmatch (d : BitVec 7) (a : BitVec 7) (k : BitVec 2)
  /-- R150: Ballot of pa over the active lanes into sd. -/
  | vball (e : BitVec 6) (p : BitVec 3)
  /-- R150: Compacts the selected values into the low active lanes. -/
  | vcomp (d : BitVec 7) (a : BitVec 7) (p : BitVec 3)
  /-- R153: Predicate AND. -/
  | pand (d : BitVec 3) (a : BitVec 3) (b : BitVec 3)
  /-- R153: Predicate OR. -/
  | por (d : BitVec 3) (a : BitVec 3) (b : BitVec 3)
  /-- R153: Predicate XOR. -/
  | pxor (d : BitVec 3) (a : BitVec 3) (b : BitVec 3)
  /-- R153: Predicate NOT. -/
  | pnot (d : BitVec 3) (a : BitVec 3)
  /-- R153: Predicate copy. -/
  | pmov (d : BitVec 3) (a : BitVec 3)
  /-- R153: Sets a predicate from the bits of a scalar. -/
  | pset (d : BitVec 3) (s : BitVec 6)
  /-- R153: Counts active lanes with pa set. -/
  | ppop (s : BitVec 6) (p : BitVec 3)
  /-- R153: Reads EXEC into a scalar. -/
  | exrd (s : BitVec 6)
  /-- R154: Clears EXEC of active lanes whose pa is 0. -/
  | exwr (p : BitVec 3)
  /-- R105: Weak lane load. -/
  | ld (d : BitVec 7) (s : BitVec 6) (v : BitVec 7) (w : BitVec 3) (x : BitVec 4)
  /-- R105: Weak lane store. -/
  | st (d : BitVec 7) (s : BitVec 6) (v : BitVec 7) (w : BitVec 3) (x : BitVec 4)
  /-- R187: Lane load with an order and a scope. -/
  | scopedLd (d : BitVec 7) (s : BitVec 6) (v : BitVec 7) (c : BitVec 3)
  /-- R187: Lane store with an order and a scope. -/
  | scopedSt (d : BitVec 7) (s : BitVec 6) (v : BitVec 7) (c : BitVec 3)
  /-- R191: Compare and conditionally swap. -/
  | cas (d : BitVec 7) (s : BitVec 6) (v : BitVec 7) (c : BitVec 3)
  /-- R188: Atomic integer add. -/
  | atomAdd (d : BitVec 7) (s : BitVec 6) (v : BitVec 7) (c : BitVec 3)
  /-- R188: Atomic AND. -/
  | atomAnd (d : BitVec 7) (s : BitVec 6) (v : BitVec 7) (c : BitVec 3)
  /-- R188: Atomic OR. -/
  | atomOr (d : BitVec 7) (s : BitVec 6) (v : BitVec 7) (c : BitVec 3)
  /-- R188: Atomic XOR. -/
  | atomXor (d : BitVec 7) (s : BitVec 6) (v : BitVec 7) (c : BitVec 3)
  /-- R188: Atomic signed minimum. -/
  | atomMin (d : BitVec 7) (s : BitVec 6) (v : BitVec 7) (c : BitVec 3)
  /-- R188: Atomic signed maximum. -/
  | atomMax (d : BitVec 7) (s : BitVec 6) (v : BitVec 7) (c : BitVec 3)
  /-- R188: Atomic natural minimum. -/
  | atomMinn (d : BitVec 7) (s : BitVec 6) (v : BitVec 7) (c : BitVec 3)
  /-- R188: Atomic natural maximum. -/
  | atomMaxn (d : BitVec 7) (s : BitVec 6) (v : BitVec 7) (c : BitVec 3)
  /-- R188: Atomic exchange. -/
  | atomExch (d : BitVec 7) (s : BitVec 6) (v : BitVec 7) (c : BitVec 3)
  /-- R190: Atomic FP32 add at the home, nearest-even. -/
  | atomFadd (d : BitVec 7) (s : BitVec 6) (v : BitVec 7) (c : BitVec 3)
  /-- R193: Release, acquire, both or sc fence at a scope. -/
  | fence (o : BitVec 3) (c : BitVec 3)
  /-- R194: Waits for the group's stores to a line to reach home, then invalidates it in the L1. -/
  | cflush (l : BitVec 1) (s : BitVec 6)
  /-- R194: Invalidates a line, or all lines, in the core's data L1. -/
  | cinv (l : BitVec 1) (s : BitVec 6)
  /-- R194: Invalidates the instruction cache and refetches after the word. -/
  | cinvI (l : BitVec 1) (s : BitVec 6)
  /-- R156: Arrives at a team barrier and waits for the phase. -/
  | tbar (n : BitVec 1) (b : BitVec 4) (s : BitVec 6) (c : BitVec 3)
  /-- R156: Arrives at a team barrier without waiting. -/
  | tbara (n : BitVec 1) (b : BitVec 4) (s : BitVec 6) (c : BitVec 3)
  /-- R158: Waits for the group's outstanding arrival at a team barrier to complete. -/
  | tbarw (b : BitVec 4) (c : BitVec 3)
  /-- R156: Arrives at a cluster barrier and waits for the phase. -/
  | cbar (n : BitVec 1) (b : BitVec 4) (s : BitVec 6) (c : BitVec 3)
  /-- R219: Matrix multiply-accumulate into an accumulator. -/
  | mma (a : BitVec 6) (b : BitVec 6) (r : BitVec 1)
  /-- R220: 2:4 sparse matrix multiply-accumulate. -/
  | mmas (a : BitVec 6) (b : BitVec 6) (r : BitVec 1)
  /-- R219: Matrix multiply-accumulate that also updates the row sums. -/
  | mmao (a : BitVec 6) (b : BitVec 6) (r : BitVec 1)
  /-- R228: Zeros the rows of active lanes of an accumulator. -/
  | mzero (n : BitVec 4)
  /-- R232: Reads accumulator columns through the epilogue chain into registers. -/
  | mrd (a : BitVec 6) (b : BitVec 6) (c : BitVec 6) (l : BitVec 2)
  /-- R228: Writes register values into accumulator columns. -/
  | mwr (a : BitVec 6) (r : BitVec 1) (l : BitVec 2)
  /-- R232: Reads accumulator columns through the epilogue chain into a tile. -/
  | mepi (a : BitVec 6) (b : BitVec 6) (c : BitVec 6) (l : BitVec 2)
  /-- R225: Discards B and scale bytes that the engine holds for the group. -/
  | mrdy
  /-- R223: Closes the open batch into batch b and binds a flag. -/
  | mfen (a : BitVec 6) (b : BitVec 4)
  /-- R224: Holds the group until batch b is complete. -/
  | mwait (b : BitVec 4)
  /-- R235: Resets the rmax and rsum side registers. -/
  | mstatReset (a : BitVec 6)
  /-- R235: Updates the running row maxima and rescales the accumulator. -/
  | mstatMax (a : BitVec 6)
  /-- R235: Reads rsum and rmax into registers. -/
  | mstatRead (a : BitVec 6)
  /-- R237: The engine completes a matrix word and writes its results. -/
  | matrixWordComplete
  /-- R247: Defines a tile-table entry's geometry, empty or ready. -/
  | tdef (a : BitVec 6) (b : BitVec 6) (r : BitVec 1)
  /-- R248: Removes a tile definition. -/
  | trel (a : BitVec 6)
  /-- R248: Reads a tile's state. -/
  | tstate (a : BitVec 6) (d : BitVec 6)
  /-- R252: Fetches a descriptor window into a tile or ring slot. -/
  | tfetch (a : BitVec 6) (b : BitVec 6) (c : BitVec 6) (r : BitVec 1)
  /-- R252: Gathers indexed row blocks into a tile or ring slot. -/
  | tgath (a : BitVec 6) (b : BitVec 6) (c : BitVec 6) (r : BitVec 1)
  /-- R264: Writes a tile back to its descriptor window. -/
  | tcommit (a : BitVec 6) (b : BitVec 6) (c : BitVec 6)
  /-- R255: Sets the team's fetch window. -/
  | twin (a : BitVec 6)
  /-- R255: Reads the team's fetch window. -/
  | twinRd (a : BitVec 6)
  /-- R258: Arms an arrival barrier with a count. -/
  | abar (a : BitVec 6)
  /-- R258: Waits until an arrival barrier fires. -/
  | abwait (a : BitVec 6)
  /-- R260: Makes a ring live or dissolves it. -/
  | rginit (a : BitVec 6)
  /-- R262: Claims the next published ring slot, waiting if none. -/
  | rgawait (a : BitVec 6) (d : BitVec 6)
  /-- R262: Releases a claimed ring slot. -/
  | rgrel (a : BitVec 6)
  /-- R268: Decodes a shared-exponent block of a tile into BF16 registers. -/
  | vdecode (a : BitVec 6)
  /-- R286: Starts or resumes a re-shard from its cursor. -/
  | rshard (a : BitVec 6) (b : BitVec 6) (c : BitVec 6)
  /-- R288: Stops an active re-shard at a box boundary. -/
  | rsstop (a : BitVec 6)
  /-- R289: Reads the state of the latest re-shard or plan for a cursor. -/
  | rsstat (a : BitVec 6) (d : BitVec 6)
  /-- R287: Writes the plan of a re-shard without copying. -/
  | rsplan (a : BitVec 6) (b : BitVec 6) (c : BitVec 6)
  /-- R265: Copies a far window to another far window in the module controllers. -/
  | tcopy (a : BitVec 6) (b : BitVec 6) (c : BitVec 6)
  /-- R265: Fills a far window with a pattern. -/
  | tfill (a : BitVec 6) (b : BitVec 6) (c : BitVec 6)
  /-- R266: Reduces a tile into a far window at the module. -/
  | tredf (a : BitVec 6) (b : BitVec 6) (c : BitVec 6) (o : BitVec 4)
  /-- R394: Sends tile bytes into the next slot of a remote mode-1 ring. -/
  | signal (a : BitVec 6) (b : BitVec 6) (c : BitVec 6) (f : BitVec 4)
  /-- R396: Stores a flag after the group's earlier accesses to that node are performed. -/
  | fflag (a : BitVec 6) (b : BitVec 6) (w : BitVec 1)
  /-- R398: Arrives at a pod barrier and waits for the phase. -/
  | pbar (a : BitVec 6)
  /-- R397: Writes tile bytes into the package memory of every member of a multicast group. -/
  | mcst (a : BitVec 6) (b : BitVec 6) (f : BitVec 4)
  /-- R324: Stops the group with a software trap cause. -/
  | trap (n : BitVec 6) (b : BitVec 6) (g : BitVec 1)
  /-- R324: Stops the group with a breakpoint cause. -/
  | bkpt (n : BitVec 5)
  /-- R326: Writes a watchpoint slot. -/
  | watch (a : BitVec 6) (b : BitVec 6)
  /-- R330: Stops selected groups and posts stop records. -/
  | gstop (a : BitVec 6) (b : BitVec 6)
  /-- R331: Resumes stopped groups, reissuing the reported unit. -/
  | gresumeRetry (a : BitVec 6) (b : BitVec 6) (w : BitVec 1)
  /-- R331: Resumes stopped groups, reissuing the unit on the faulting lanes only. -/
  | gresumeFmask (a : BitVec 6) (b : BitVec 6) (w : BitVec 1)
  /-- R331: Resumes stopped groups after the reported unit. -/
  | gresumeSkip (a : BitVec 6) (b : BitVec 6) (w : BitVec 1)
  /-- R332: Ends selected groups as if they executed EXIT. -/
  | gkill (a : BitVec 6) (b : BitVec 6)
  /-- R335: Reads a CSR. -/
  | csrrd (a : BitVec 6) (d : BitVec 6)
  /-- R335: Writes a CSR. -/
  | csrwr (a : BitVec 6) (b : BitVec 6)
  /-- R336: Drops cached translations of a page, the job or all jobs. -/
  | tlbinv (a : BitVec 6) (r : BitVec 2)
  /-- R79: Opens a run after checking it and waiting on its flags. -/
  | hrun (l : BitVec 5) (w : BitVec 12) (a : BitVec 4) (b : BitVec 4)
  /-- R43: Closes a run and binds its commit flag. -/
  | hend (f : BitVec 4) (x : BitVec 7) (y : BitVec 7) (z : BitVec 7)
  /-- R45: Supplies a wide immediate to the next word. -/
  | himm (p : BitVec 25)
  /-- R46: Supplies a guard, rounding override, cut bit or X attributes to the next word. -/
  | hmod (g : BitVec 1) (n : BitVec 1) (p : BitVec 3) (r : BitVec 1) (m : BitVec 3) (c : BitVec 1) (o : BitVec 3) (w : BitVec 3) (s : BitVec 3)
  /-- R79: A run's first word issues once HRUN's wait mask is satisfied. -/
  | runStart
  /-- R76: A word's stream or latency ends and its destination is committed. -/
  | resultCommit (i : Nat)
  /-- R84: A deciding word settles its outcome when its digits fix it and may cancel producers. -/
  | earlyDecision (i : Nat)
  /-- R294: A launch queue takes and checks its next host-ring record. -/
  | queueTakeRecord (q : BitVec 6)
  /-- R300: Each clock the scheduler tries to place one cluster or return a swapped-out one. -/
  | placeCluster
  /-- R305: A cluster whose fragments have all waited past the wait threshold is saved to shadow storage. -/
  | swapOut (c : Nat)
  /-- R311: A launch completes when its groups have ended and its outstanding counters reach zero. -/
  | launchComplete (grid : BitVec 48)
  /-- R309: An armed package starts a gang slice when pod time reaches start and pre-emption is complete. -/
  | gangSliceStart
  /-- R256: A fetch's last chunk is marked, its arrival is recorded and its tile, flag, window and barrier are updated. -/
  | fetchArrival (id : Nat)
  /-- R264: A TCOMMIT or TREDF completes when every write is performed. -/
  | commitComplete (id : Nat)
  /-- R265: A TCOPY or TFILL completes at its modules. -/
  | moduleCommandComplete (id : Nat)
  /-- R271: System software resets the fetch engine or kills a context, abandoning engine work. -/
  | fetchEngineReset
  /-- R286: A re-shard or plan accepted by a free engine reads shard tables and builds the plan. -/
  | strudelPlanning
  /-- R282: A box's copies complete and the cursor is written. -/
  | boxComplete
  /-- R321: The fault unit posts a held record once the ring has room. -/
  | faultRecordPost
  /-- R322: A CSRRD of FRWAIT returns tail once head differs from tail. -/
  | frwait
  /-- R7: A write to a register that has no row of its own stores the accepted fields. -/
  | csrWrite (who : Writer) (num : BitVec 16) (value : BitVec 64)
  /-- R342: PMCTL op 0 stops and saves a job's clusters on the named partitions. -/
  | ctxSave
  /-- R355: PMCTL op 1 restores a saved context onto its partitions. -/
  | ctxRestore
  /-- R348: PMCTL op 2 writes an image of a saved context. -/
  | ctxExport
  /-- R356: PMCTL op 3 checks an image and creates a saved context from it. -/
  | ctxImport
  /-- R358: PMCTL op 4 drops a saved context and kills its groups. -/
  | ctxDiscard
  /-- R343: An engine class acknowledges its stop; when all are clear, saving begins. -/
  | classAcknowledge (c : BitVec 3)
  /-- R343: A class not acknowledging within 100 µs causes a slow-acknowledgement record. -/
  | slowAcknowledgement
  /-- R368: A receiver accepts or discards a flit and sends NAKs and acks. -/
  | flitReceive (l : LinkId) (flit : BitVec 1024)
  /-- R369: No ack advance for 2 µs starts a replay from the oldest unacknowledged flit. -/
  | replayTimeout (l : LinkId)
  /-- R371: A lost lane makes its link substitute the spare, narrow, retrain or go down. -/
  | laneLost (n : Nat) (pos : BitVec 5) (line : Bool)
  /-- R370: A whole laser fails, losing one lane of each of its 16 links. -/
  | laserLost (n : Nat)
  /-- R371: Retraining ends and replay restarts from the oldest unacknowledged flit. -/
  | retrainingEnd (n : Nat)
  /-- R373: Training of a down link starts by reset or the management port. -/
  | linkTraining (n : Nat)
  /-- R373: Training ends up, spared, narrow or down. -/
  | trainingEnd (n : Nat) (dark : BitVec 17)
  /-- R373: Training that does not succeed within 100 µs leaves the link down. -/
  | trainingTimeout (n : Nat)
  /-- R380: A laser's bias ratio reaching 0x0180 sets aged and posts a record. -/
  | laserAgeing (n : Nat) (ratio : BitVec 16)
  /-- R375: A transaction's 24 µs timer expires: the request is resent or a peer timeout raised. -/
  | e2eTimerExpiry (tag : BitVec 22)
  /-- R377: A requester accepts the response flits of the locked attempt and completes the transaction. -/
  | responseReceive (pk : Packet)
  /-- R376: A target performs a request once per tag, discarding or answering copies. -/
  | requestArrival (pk : Packet)
  /-- R376: A target drops its record of a tag 128 µs after the response. -/
  | requestRecordExpiry (src : BitVec 12) (tag : BitVec 22)
  /-- R310: A refused access is retried every 1 µs and faults after 128 µs. -/
  | notResidentRetry (tag : BitVec 22)
  /-- R242: A module hold notice restarts the requester's end-to-end timer. -/
  | holdNotice (tag : BitVec 22)
  /-- R413: A partial-line merge hold lapses after 64 µs and the late write is refused. -/
  | mergeHoldLapse (id : Nat)
  /-- R383: A relay forwards a packet onward, or answers with relay onward loss. -/
  | relayForward (pk : Packet)
  /-- R387: A relay's 64 ns combining hold ends and it sends one combined add. -/
  | combineHoldExpiry (id : Nat)
  /-- R388: A lost-route mark lapses after 100 µs. -/
  | routeMarkLapse (dst : BitVec 12) (col : Bool)
  /-- R388: A target answers a cancel with the stored response or records the tag as cancelled. -/
  | cancel (pk : Packet)
  /-- R388: A cancel unanswered for 24 µs raises the fault with an unknown outcome. -/
  | cancelTimeout (tag : BitVec 22)
  /-- R386: A held weak-write packet is sent after 32 clocks. -/
  | coalesceHoldExpiry (id : Nat)
  /-- R394: A target's fabric interface reserves a ring slot and writes the SIGNAL bytes, or answers busy or not resident. -/
  | signalData (pk : Packet)
  /-- R394: After a busy answer the requester resends the SIGNAL after 1 µs. -/
  | signalBusyRetry (tag : BitVec 22)
  /-- R396: The FFLAG store is sent once every earlier access to its node is performed. -/
  | fflagStore (id : Nat)
  /-- R397: A member or relay writes or forwards multicast bytes and answers. -/
  | mcstData (pk : Packet)
  /-- R382: A 250 ns phase boundary swaps the planes' row and column phases. -/
  | phaseBoundary
  /-- R399: A received op-20 packet updates pod-barrier arrivals and may complete a phase. -/
  | podBarrierState (pk : Packet)
  /-- R401: A received time packet keeps or rejoins pod time. -/
  | timePacket (master : BitVec 12) (time : BitVec 64)
  /-- R403: No time packet for 4 µs freezes the schedule and starts an election. -/
  | timeSilence
  /-- R403: A successor's claim timer expires and it sends its claim. -/
  | electionClaim
  /-- R403: A package receives an election claim and accepts the lowest rank. -/
  | claimReceive (rank : BitVec 4) (node : BitVec 12)
  /-- R403: A claimant with no lower claim within 2 µs becomes time master. -/
  | masterInstall
  /-- R410: Security command 0 takes a key slot for a job. -/
  | secBind
  /-- R410: Security command 1 agrees a pair key with a peer and passes far keys. -/
  | secPair
  /-- R408: Security command 2 writes the device key and a signed quote. -/
  | secQuote
  /-- R415: Security command 3 seals a far region against rollback. -/
  | secSeal
  /-- R410: Security command 4 re-tags a sealed region at version 0. -/
  | secUnseal
  /-- R417: Security command 5 checkpoints a job's far lines to the safe tier. -/
  | cksave (failed : Bool)
  /-- R417: Security command 6 restores checkpointed far lines. -/
  | ckrest (failed : Bool)
  /-- R410: Security command 7 erases a job's keys. -/
  | secUnbind
  /-- R405: Writing BOOTCTL.go checks and runs the firmware image. -/
  | bootGo
  /-- R391: Writing MGUPD installs a multicast group entry from memory. -/
  | installEntry
  /-- R424: Writing 1 to PWRSTAT.min_rst resets min_n to n. -/
  | minRst (die : BitVec 2)
  /-- R424: A supply-sag crossing lowers the die clock step by one. -/
  | supplySag (die : BitVec 2)
  /-- R424: After a sag clears the clock step rises by one per µs. -/
  | clockStepUp (die : BitVec 2)
  /-- R424: Die temperature crossing 100 or 110 °C holds or stops the core clocks. -/
  | thermalLimit (die : BitVec 2) (temp : BitVec 8)
  /-- R426: A host BAR2 access to package memory, limited to host windows while a slot is occupied. -/
  | hostMemoryAccess (write : Bool) (addr : Nat) (bytes : List Byte)
  /-- R427: A management frame reads a CSR. -/
  | mgmtCsrRead (seq : BitVec 16) (num : BitVec 16)
  /-- R427: A management frame writes a CSR under the host restrictions. -/
  | mgmtCsrWrite (seq : BitVec 16) (num : BitVec 16) (value : BitVec 64)
  /-- R427: A management frame carries a security command block. -/
  | mgmtSecurityCommand (seq : BitVec 16) (block : List Byte)
  /-- R427: A management reply or PAIR message arrives. -/
  | mgmtReply (msg : MgmtMessage)
  /-- R405: Power-on or reset starts the boot ROM and bring-up. -/
  | packageReset
  /-- R168: The commit engine has read every byte of a draining tile, and the tile returns to ready before the command completes. -/
  | commitTileReadDone (id : Nat)
  /-- R410: A PAIR that finds no matching peer within 1 s ends with result 5. -/
  | pairTimeout
  /-- R427: A management frame sent by the package that is lost is sent again. -/
  | mgmtFrameRetry (seq : BitVec 16)
  /-- R364: The 20-ns guard of a phase ends and the 230-ns lit interval begins, carrying the lane-map preamble and the op-20 to op-22 packets first. -/
  | litIntervalStart
  deriving DecidableEq, Repr

end Sys2Proof
end

