-- ==== Sys2Proof/WellFormed.lean ====
section
/-! DEFINITION. Which instructions an encoding admits: the reserved fields and reserved values that depend on more than
the function code (R35 to R47, R107, R142, R155, R181, R192, R218, R323, R392), and the ranges of an event's numbers. -/

namespace Sys2Proof

/-- The selectors of R24. -/
def selectorListed (e : BitVec 8) : Bool :=
  e.toNat ≤ 6 || (16 ≤ e.toNat && e.toNat ≤ 24)

/-- Does a type code of R41 name a 64-bit element? -/
def isWideType (t : BitVec 4) : Bool := t == 11#4 || t == 15#4

/-- Does a block of `k` registers from field value `d` pass 127 (R107)? -/
def blockPasses (d : BitVec 7) (k : Nat) : Bool := decide (127 < d.toNat + k - 1)

/-- Registers of a lane access by its width code (R36, R106). -/
def widthRegs (w : BitVec 3) : Nat := if w = 4#3 then 4 else if w = 3#3 then 2 else 1

/-- A nonzero field that the rest of the word makes a reserved field (R35, R4). -/
def Instr.reservedFieldSet : Instr → Bool
  | .ld _ _ v _ x => x.getLsbD 3 == false && v != 0#7
  | .st _ _ v _ x => x.getLsbD 3 == false && v != 0#7
  | .cflush l s => l == 1#1 && s != 0#6
  | .cinv l s => l == 1#1 && s != 0#6
  | .cinvI l s => l == 1#1 && s != 0#6
  | .tbar n _ s _ => n == 0#1 && s != 0#6
  | .tbara n _ s _ => n == 0#1 && s != 0#6
  | .cbar n _ s _ => n == 0#1 && s != 0#6
  | .trap _ b g => g == 0#1 && b != 0#6
  | .hmod g n p r m _ _ _ _ => (g == 0#1 && (n != 0#1 || p != 0#3)) || (r == 0#1 && m != 0#3)
  | _ => false

/-- A reserved value of a field (R4): among them a register block that passes field value 127 (R107). -/
def Instr.reservedValueSet : Instr → Bool
  | .srd _ e => !selectorListed e
  | .swr _ e => !selectorListed e
  | .lds _ _ _ s => decide (3 ≤ s.toNat)
  | .sts _ _ _ s => decide (3 ≤ s.toNat)
  | .vcvt d a y x => (isWideType y && blockPasses d 2) || (isWideType x && blockPasses a 2)
  | .vrotw _ _ g _ => decide (6 ≤ g.toNat)
  | .vrstep d a o s => decide (5 ≤ s.toNat) || (o == 11#4 && (blockPasses d 2 || blockPasses a 2))
  | .vred _ a o => o == 11#4 && blockPasses a 2
  | .vscan d a o _ => o == 11#4 && (blockPasses d 2 || blockPasses a 2)
  | .vmatch _ a k => k == 3#2 || (k == 2#2 && blockPasses a 2)
  | .ld d _ _ w x => decide (5 ≤ w.toNat) || decide (3 ≤ (x.extractLsb' 0 3).toNat) || blockPasses d (widthRegs w)
  | .st d _ _ w x => decide (5 ≤ w.toNat) || decide (3 ≤ (x.extractLsb' 0 3).toNat) || blockPasses d (widthRegs w)
  | .scopedLd _ _ _ c => c == 0#3
  | .scopedSt _ _ _ c => c == 0#3
  | .cas _ _ _ c => c == 0#3
  | .atomAdd _ _ _ c => c == 0#3
  | .atomAnd _ _ _ c => c == 0#3
  | .atomOr _ _ _ c => c == 0#3
  | .atomXor _ _ _ c => c == 0#3
  | .atomMin _ _ _ c => c == 0#3
  | .atomMax _ _ _ c => c == 0#3
  | .atomMinn _ _ _ c => c == 0#3
  | .atomMaxn _ _ _ c => c == 0#3
  | .atomExch _ _ _ c => c == 0#3
  | .atomFadd _ _ _ c => c == 0#3
  | .fence o c => o == 0#3 || decide (5 ≤ o.toNat) || c == 0#3
  | .tbar _ _ _ c => decide (c.toNat < 2)
  | .tbara _ _ _ c => decide (c.toNat < 2)
  | .tbarw _ c => decide (c.toNat < 2)
  | .cbar _ _ _ c => decide (c.toNat < 3)
  | .mrd _ _ _ l => l == 3#2
  | .mwr _ _ l => l == 3#2
  | .mepi _ _ _ l => l == 3#2
  | .signal _ _ _ f => decide (12 ≤ f.toNat) && f != 15#4
  | .mcst _ _ f => decide (12 ≤ f.toNat) && f != 15#4
  | .tlbinv _ r => r == 3#2
  | .hmod _ _ _ _ m _ o w s => decide (5 ≤ m.toNat) || decide (5 ≤ o.toNat) || decide (5 ≤ w.toNat) || decide (3 ≤ s.toNat)
  | _ => false

/-- A field of an instruction that its function code cannot carry: a compare condition above 5 (R39), a VCVT of one type
(R41), a reduction op code above 11 (R145), a TREDF op above 5 (R266), an FP8 selector of VDOT4 is one bit and always
encodable (R40). -/
def Instr.codeUnassigned : Instr → Bool
  | .scmp _ _ _ c => decide (6 ≤ c.toNat)
  | .scmpi _ c _ => decide (6 ≤ c.toNat)
  | .vicmp _ _ _ c => decide (6 ≤ c.toNat)
  | .vcvt _ _ y x => y == x
  | .vrstep _ _ o _ => decide (12 ≤ o.toNat)
  | .vred _ _ o => decide (12 ≤ o.toNat)
  | .vscan _ _ o _ => decide (12 ≤ o.toNat)
  | .tredf _ _ _ o => decide (6 ≤ o.toNat)
  | _ => false

/-- An event's numbers name units that exist: links 0 to 287, lasers 0 to 305, positions 0 to 16 (R362 to R364). -/
def Instr.eventRange : Instr → Bool
  | .laneLost n p _ => decide (n < 288) && decide (p.toNat ≤ 16)
  | .laserLost n => decide (n < 306)
  | .retrainingEnd n => decide (n < 288)
  | .linkTraining n => decide (n < 288)
  | .trainingEnd n _ => decide (n < 288)
  | .trainingTimeout n => decide (n < 288)
  | .laserAgeing n _ => decide (n < 306)
  | .flitReceive (.memory n) _ => decide (n < 192)
  | .replayTimeout (.memory n) => decide (n < 192)
  | _ => true

/-- An instruction that some word encodes (for an event, one that some unit of the package can meet). -/
def Instr.wellFormed (i : Instr) : Bool :=
  !i.reservedFieldSet && !i.reservedValueSet && !i.codeUnassigned && i.eventRange

end Sys2Proof
end

