-- ==== Sys2Proof/Decode.lean ====
section
/-! DEFINITION. The decoder of instruction words (R33 to R47) and, after it, the encoder. The decoder refuses a word by
the name of the case of R4 and R315 that applies; among several cases of one word, an unassigned function code is named
first, then a nonzero reserved field, then a reserved value (log 6). -/

namespace Sys2Proof

/-- The cases of R4, in the order of the details 0 to 4 of class 0 (R315). -/
inductive Illegal where
  | reservedMajor
  | unassigned
  | reservedField
  | reservedValue
  | misplacedHint
  deriving DecidableEq, Repr

/-- Bits `lo + n - 1` down to `lo` of a word (R6). -/
abbrev bits (w : Word) (lo n : Nat) : BitVec n := w.extractLsb' lo n

/-- The instruction `i`, when the bits of `w` under `mask`, which `i` reserves, are zero (R35). -/
def zero (w mask : Word) (i : Instr) : Except Illegal Instr :=
  if w &&& mask = 0#32 then .ok i else .error .reservedField

/-- Major 0: control (R38). -/
def decodeMajor0 (w : Word) : Except Illegal Instr :=
  match (bits w 22 5).toNat with
  | 0 => 
    (match (bits w 18 4).toNat with
     | 0 => zero w 0x0003FFFF#32 (.nop)
     | 1 => zero w 0x0003FFFF#32 (.yield)
     | 2 => zero w 0x0003F000#32 (.waitf (bits w 0 12))
     | _ => .error .unassigned)
  | 1 => .ok (.bra (bits w 0 22))
  | 2 => .ok (.call (bits w 0 22))
  | 3 => .ok (.bk 0#2 (bits w 0 22))
  | 4 => .ok (.bk 1#2 (bits w 0 22))
  | 5 => .ok (.bk 2#2 (bits w 0 22))
  | 6 => .ok (.bk 3#2 (bits w 0 22))
  | 7 => .ok (.bkNot 0#2 (bits w 0 22))
  | 8 => .ok (.bkNot 1#2 (bits w 0 22))
  | 9 => .ok (.bkNot 2#2 (bits w 0 22))
  | 10 => .ok (.bkNot 3#2 (bits w 0 22))
  | 11 => .ok (.bpAny 0#3 (bits w 0 22))
  | 12 => .ok (.bpAny 1#3 (bits w 0 22))
  | 13 => .ok (.bpAny 2#3 (bits w 0 22))
  | 14 => .ok (.bpAny 3#3 (bits w 0 22))
  | 15 => .ok (.bpAny 4#3 (bits w 0 22))
  | 16 => .ok (.bpAny 5#3 (bits w 0 22))
  | 17 => .ok (.bpAny 6#3 (bits w 0 22))
  | 18 => .ok (.bpAny 7#3 (bits w 0 22))
  | 19 => .ok (.bpAll 0#3 (bits w 0 22))
  | 20 => .ok (.bpAll 1#3 (bits w 0 22))
  | 21 => .ok (.bpAll 2#3 (bits w 0 22))
  | 22 => .ok (.bpAll 3#3 (bits w 0 22))
  | 23 => .ok (.bpAll 4#3 (bits w 0 22))
  | 24 => .ok (.bpAll 5#3 (bits w 0 22))
  | 25 => .ok (.bpAll 6#3 (bits w 0 22))
  | 26 => .ok (.bpAll 7#3 (bits w 0 22))
  | 27 => zero w 0x0000FFFF#32 (.ret (bits w 16 6))
  | 28 => zero w 0x0000FFFF#32 (.jmpr (bits w 16 6))
  | 29 => zero w 0x003FFFFF#32 (.join)
  | 30 => zero w 0x003FFFFF#32 (.exit)
  | _ => .error .unassigned

/-- Major 1: BDV (R38). -/
def decodeMajor1 (w : Word) : Except Illegal Instr :=
  .ok (.bdv (bits w 24 3) (bits w 12 12) (bits w 0 12))

/-- Major 2: scalar register operations and LAUNCH (R39). -/
def decodeMajor2 (w : Word) : Except Illegal Instr :=
  match (bits w 0 9).toNat with
  | 0 => .ok (.sadd (bits w 21 6) (bits w 15 6) (bits w 9 6))
  | 1 => .ok (.ssub (bits w 21 6) (bits w 15 6) (bits w 9 6))
  | 2 => .ok (.smul (bits w 21 6) (bits w 15 6) (bits w 9 6))
  | 3 => .ok (.smulh (bits w 21 6) (bits w 15 6) (bits w 9 6))
  | 4 => .ok (.sdiv (bits w 21 6) (bits w 15 6) (bits w 9 6))
  | 5 => .ok (.srem (bits w 21 6) (bits w 15 6) (bits w 9 6))
  | 6 => .ok (.sand (bits w 21 6) (bits w 15 6) (bits w 9 6))
  | 7 => .ok (.sor (bits w 21 6) (bits w 15 6) (bits w 9 6))
  | 8 => .ok (.sxor (bits w 21 6) (bits w 15 6) (bits w 9 6))
  | 9 => .ok (.sandn (bits w 21 6) (bits w 15 6) (bits w 9 6))
  | 10 => .ok (.sshl (bits w 21 6) (bits w 15 6) (bits w 9 6))
  | 11 => .ok (.sshr (bits w 21 6) (bits w 15 6) (bits w 9 6))
  | 12 => .ok (.ssra (bits w 21 6) (bits w 15 6) (bits w 9 6))
  | 13 => .ok (.srot (bits w 21 6) (bits w 15 6) (bits w 9 6))
  | 14 => .ok (.smin (bits w 21 6) (bits w 15 6) (bits w 9 6))
  | 15 => .ok (.smax (bits w 21 6) (bits w 15 6) (bits w 9 6))
  | 16 => .ok (.sminn (bits w 21 6) (bits w 15 6) (bits w 9 6))
  | 17 => .ok (.smaxn (bits w 21 6) (bits w 15 6) (bits w 9 6))
  | 18 => zero w 0x00007E00#32 (.sclz (bits w 21 6) (bits w 15 6))
  | 19 => zero w 0x00007E00#32 (.spop (bits w 21 6) (bits w 15 6))
  | 20 => zero w 0x00007E00#32 (.sbrev (bits w 21 6) (bits w 15 6))
  | 21 => zero w 0x00007E00#32 (.ssextB8 (bits w 21 6) (bits w 15 6))
  | 22 => zero w 0x00007E00#32 (.ssextB16 (bits w 21 6) (bits w 15 6))
  | 23 => zero w 0x00007E00#32 (.ssextB32 (bits w 21 6) (bits w 15 6))
  | 24 => zero w 0x00007E00#32 (.szextB8 (bits w 21 6) (bits w 15 6))
  | 25 => zero w 0x00007E00#32 (.szextB16 (bits w 21 6) (bits w 15 6))
  | 26 => zero w 0x00007E00#32 (.szextB32 (bits w 21 6) (bits w 15 6))
  | 27 => .ok (.ssel (bits w 21 6) (bits w 15 6) (bits w 9 6) 0#2)
  | 28 => .ok (.ssel (bits w 21 6) (bits w 15 6) (bits w 9 6) 1#2)
  | 29 => .ok (.ssel (bits w 21 6) (bits w 15 6) (bits w 9 6) 2#2)
  | 30 => .ok (.ssel (bits w 21 6) (bits w 15 6) (bits w 9 6) 3#2)
  | 31 => zero w 0x00007E00#32 (.smov (bits w 21 6) (bits w 15 6))
  | 32 => zero w 0x07800000#32 (.scmp (bits w 21 2) (bits w 15 6) (bits w 9 6) 0#3)
  | 33 => zero w 0x07800000#32 (.scmp (bits w 21 2) (bits w 15 6) (bits w 9 6) 1#3)
  | 34 => zero w 0x07800000#32 (.scmp (bits w 21 2) (bits w 15 6) (bits w 9 6) 2#3)
  | 35 => zero w 0x07800000#32 (.scmp (bits w 21 2) (bits w 15 6) (bits w 9 6) 3#3)
  | 36 => zero w 0x07800000#32 (.scmp (bits w 21 2) (bits w 15 6) (bits w 9 6) 4#3)
  | 37 => zero w 0x07800000#32 (.scmp (bits w 21 2) (bits w 15 6) (bits w 9 6) 5#3)
  | 40 => .ok (.slea (bits w 21 6) (bits w 15 6) (bits w 9 6) 0#3)
  | 41 => .ok (.slea (bits w 21 6) (bits w 15 6) (bits w 9 6) 1#3)
  | 42 => .ok (.slea (bits w 21 6) (bits w 15 6) (bits w 9 6) 2#3)
  | 43 => .ok (.slea (bits w 21 6) (bits w 15 6) (bits w 9 6) 3#3)
  | 44 => .ok (.slea (bits w 21 6) (bits w 15 6) (bits w 9 6) 4#3)
  | 45 => .ok (.slea (bits w 21 6) (bits w 15 6) (bits w 9 6) 5#3)
  | 46 => .ok (.slea (bits w 21 6) (bits w 15 6) (bits w 9 6) 6#3)
  | 47 => .ok (.slea (bits w 21 6) (bits w 15 6) (bits w 9 6) 7#3)
  | 48 => zero w 0x00007E00#32 (.launch (bits w 21 6) (bits w 15 6))
  | _ => .error .unassigned

/-- Major 3: scalar immediates, SRD, SWR (R39). -/
def decodeMajor3 (w : Word) : Except Illegal Instr :=
  match (bits w 16 5).toNat with
  | 0 => .ok (.saddi (bits w 21 6) (bits w 0 16))
  | 1 => .ok (.sandi (bits w 21 6) (bits w 0 16))
  | 2 => .ok (.sori (bits w 21 6) (bits w 0 16))
  | 3 => .ok (.sxori (bits w 21 6) (bits w 0 16))
  | 4 => .ok (.sshli (bits w 21 6) (bits w 0 16))
  | 5 => .ok (.sshri (bits w 21 6) (bits w 0 16))
  | 6 => .ok (.ssrai (bits w 21 6) (bits w 0 16))
  | 7 => zero w 0x07800000#32 (.scmpi (bits w 21 2) 0#3 (bits w 0 16))
  | 8 => zero w 0x07800000#32 (.scmpi (bits w 21 2) 1#3 (bits w 0 16))
  | 9 => zero w 0x07800000#32 (.scmpi (bits w 21 2) 2#3 (bits w 0 16))
  | 10 => zero w 0x07800000#32 (.scmpi (bits w 21 2) 3#3 (bits w 0 16))
  | 11 => zero w 0x07800000#32 (.scmpi (bits w 21 2) 4#3 (bits w 0 16))
  | 12 => zero w 0x07800000#32 (.scmpi (bits w 21 2) 5#3 (bits w 0 16))
  | 13 => .ok (.sli (bits w 21 6) (bits w 0 16))
  | 14 => .ok (.slih (bits w 21 6) (bits w 0 16))
  | 15 => zero w 0x0000FF00#32 (.srd (bits w 21 6) (bits w 0 8))
  | 16 => zero w 0x0000FF00#32 (.swr (bits w 21 6) (bits w 0 8))
  | _ => .error .unassigned

/-- Major 4: LDS, STS (R39). -/
def decodeMajor4 (w : Word) : Except Illegal Instr :=
  match (bits w 7 2).toNat with
  | 0 => (zero w 0x00007E08#32 (.lds (bits w 21 6) (bits w 15 6) (bits w 4 2) (bits w 0 3))).bind fun i => if bits w 6 1 = 0#1 then .ok i else .error .reservedValue
  | 1 => (zero w 0x00007E08#32 (.sts (bits w 21 6) (bits w 15 6) (bits w 4 2) (bits w 0 3))).bind fun i => if bits w 6 1 = 0#1 then .ok i else .error .reservedValue
  | _ => .error .unassigned

/-- Major 5: vector FP32 (R40). -/
def decodeMajor5 (w : Word) : Except Illegal Instr :=
  match (bits w 0 6).toNat with
  | 0 => .ok (.vadd (bits w 20 7) (bits w 13 7) (bits w 6 7))
  | 1 => .ok (.vsub (bits w 20 7) (bits w 13 7) (bits w 6 7))
  | 2 => .ok (.vmul (bits w 20 7) (bits w 13 7) (bits w 6 7))
  | 3 => .ok (.vfma (bits w 20 7) (bits w 13 7) (bits w 6 7))
  | 4 => .ok (.vfms (bits w 20 7) (bits w 13 7) (bits w 6 7))
  | 5 => .ok (.vfnma (bits w 20 7) (bits w 13 7) (bits w 6 7))
  | 6 => .ok (.vfnms (bits w 20 7) (bits w 13 7) (bits w 6 7))
  | 7 => .ok (.vdiv (bits w 20 7) (bits w 13 7) (bits w 6 7))
  | 8 => .ok (.vmin (bits w 20 7) (bits w 13 7) (bits w 6 7))
  | 9 => .ok (.vmax (bits w 20 7) (bits w 13 7) (bits w 6 7))
  | 10 => .ok (.vclamp (bits w 20 7) (bits w 13 7) (bits w 6 7))
  | 11 => .ok (.vscale (bits w 20 7) (bits w 13 7) (bits w 6 7))
  | 16 => zero w 0x07800000#32 (.vcmp (bits w 20 3) (bits w 13 7) (bits w 6 7) 0#3)
  | 17 => zero w 0x07800000#32 (.vcmp (bits w 20 3) (bits w 13 7) (bits w 6 7) 1#3)
  | 18 => zero w 0x07800000#32 (.vcmp (bits w 20 3) (bits w 13 7) (bits w 6 7) 2#3)
  | 19 => zero w 0x07800000#32 (.vcmp (bits w 20 3) (bits w 13 7) (bits w 6 7) 3#3)
  | 20 => zero w 0x07800000#32 (.vcmp (bits w 20 3) (bits w 13 7) (bits w 6 7) 4#3)
  | 21 => zero w 0x07800000#32 (.vcmp (bits w 20 3) (bits w 13 7) (bits w 6 7) 5#3)
  | 22 => zero w 0x07800000#32 (.vcmp (bits w 20 3) (bits w 13 7) (bits w 6 7) 6#3)
  | 23 => zero w 0x07800000#32 (.vcmp (bits w 20 3) (bits w 13 7) (bits w 6 7) 7#3)
  | 24 => zero w 0x07800000#32 (.vcmpc (bits w 20 3) (bits w 13 7) (bits w 6 7) 0#3)
  | 25 => zero w 0x07800000#32 (.vcmpc (bits w 20 3) (bits w 13 7) (bits w 6 7) 1#3)
  | 26 => zero w 0x07800000#32 (.vcmpc (bits w 20 3) (bits w 13 7) (bits w 6 7) 2#3)
  | 27 => zero w 0x07800000#32 (.vcmpc (bits w 20 3) (bits w 13 7) (bits w 6 7) 3#3)
  | 28 => zero w 0x07800000#32 (.vcmpc (bits w 20 3) (bits w 13 7) (bits w 6 7) 4#3)
  | 29 => zero w 0x07800000#32 (.vcmpc (bits w 20 3) (bits w 13 7) (bits w 6 7) 5#3)
  | 30 => zero w 0x07800000#32 (.vcmpc (bits w 20 3) (bits w 13 7) (bits w 6 7) 6#3)
  | 31 => zero w 0x07800000#32 (.vcmpc (bits w 20 3) (bits w 13 7) (bits w 6 7) 7#3)
  | 32 => .ok (.vsel (bits w 20 7) (bits w 13 7) (bits w 6 7) 0#3)
  | 33 => .ok (.vsel (bits w 20 7) (bits w 13 7) (bits w 6 7) 1#3)
  | 34 => .ok (.vsel (bits w 20 7) (bits w 13 7) (bits w 6 7) 2#3)
  | 35 => .ok (.vsel (bits w 20 7) (bits w 13 7) (bits w 6 7) 3#3)
  | 36 => .ok (.vsel (bits w 20 7) (bits w 13 7) (bits w 6 7) 4#3)
  | 37 => .ok (.vsel (bits w 20 7) (bits w 13 7) (bits w 6 7) 5#3)
  | 38 => .ok (.vsel (bits w 20 7) (bits w 13 7) (bits w 6 7) 6#3)
  | 39 => .ok (.vsel (bits w 20 7) (bits w 13 7) (bits w 6 7) 7#3)
  | _ => .error .unassigned

/-- Major 6: packed pairs (R40). -/
def decodeMajor6 (w : Word) : Except Illegal Instr :=
  match (bits w 0 4).toNat with
  | 0 => .ok (.vaddPair (bits w 20 7) (bits w 13 7) (bits w 6 7) (bits w 4 2))
  | 1 => .ok (.vsubPair (bits w 20 7) (bits w 13 7) (bits w 6 7) (bits w 4 2))
  | 2 => .ok (.vmulPair (bits w 20 7) (bits w 13 7) (bits w 6 7) (bits w 4 2))
  | 3 => .ok (.vfmaPair (bits w 20 7) (bits w 13 7) (bits w 6 7) (bits w 4 2))
  | 4 => .ok (.vfmsPair (bits w 20 7) (bits w 13 7) (bits w 6 7) (bits w 4 2))
  | 5 => .ok (.vfnmaPair (bits w 20 7) (bits w 13 7) (bits w 6 7) (bits w 4 2))
  | 6 => .ok (.vfnmsPair (bits w 20 7) (bits w 13 7) (bits w 6 7) (bits w 4 2))
  | 7 => .ok (.vminPair (bits w 20 7) (bits w 13 7) (bits w 6 7) (bits w 4 2))
  | 8 => .ok (.vmaxPair (bits w 20 7) (bits w 13 7) (bits w 6 7) (bits w 4 2))
  | 9 => .ok (.vclampPair (bits w 20 7) (bits w 13 7) (bits w 6 7) (bits w 4 2))
  | 10 => .ok (.vdot2 (bits w 20 7) (bits w 13 7) (bits w 6 7) (bits w 4 2))
  | 11 => if bits w 5 1 = 1#1 then .ok (.vdot4 (bits w 20 7) (bits w 13 7) (bits w 6 7) (bits w 4 1)) else .error .unassigned
  | _ => .error .unassigned

/-- Major 7: vector integer (R40). -/
def decodeMajor7 (w : Word) : Except Illegal Instr :=
  match (bits w 0 6).toNat with
  | 0 => .ok (.viadd (bits w 20 7) (bits w 13 7) (bits w 6 7))
  | 1 => .ok (.visub (bits w 20 7) (bits w 13 7) (bits w 6 7))
  | 2 => .ok (.vimul (bits w 20 7) (bits w 13 7) (bits w 6 7))
  | 3 => .ok (.vimulhI32 (bits w 20 7) (bits w 13 7) (bits w 6 7))
  | 4 => .ok (.vimulhN32 (bits w 20 7) (bits w 13 7) (bits w 6 7))
  | 5 => .ok (.vimad (bits w 20 7) (bits w 13 7) (bits w 6 7))
  | 6 => .ok (.vimin (bits w 20 7) (bits w 13 7) (bits w 6 7))
  | 7 => .ok (.vimax (bits w 20 7) (bits w 13 7) (bits w 6 7))
  | 8 => .ok (.viminn (bits w 20 7) (bits w 13 7) (bits w 6 7))
  | 9 => .ok (.vimaxn (bits w 20 7) (bits w 13 7) (bits w 6 7))
  | 10 => zero w 0x00001FC0#32 (.viabs (bits w 20 7) (bits w 13 7))
  | 11 => .ok (.viand (bits w 20 7) (bits w 13 7) (bits w 6 7))
  | 12 => .ok (.vior (bits w 20 7) (bits w 13 7) (bits w 6 7))
  | 13 => .ok (.vixor (bits w 20 7) (bits w 13 7) (bits w 6 7))
  | 14 => .ok (.viandn (bits w 20 7) (bits w 13 7) (bits w 6 7))
  | 15 => .ok (.vishl (bits w 20 7) (bits w 13 7) (bits w 6 7))
  | 16 => .ok (.vishr (bits w 20 7) (bits w 13 7) (bits w 6 7))
  | 17 => .ok (.visra (bits w 20 7) (bits w 13 7) (bits w 6 7))
  | 18 => zero w 0x00001FC0#32 (.vpop (bits w 20 7) (bits w 13 7))
  | 19 => zero w 0x00001FC0#32 (.vclz (bits w 20 7) (bits w 13 7))
  | 20 => .ok (.vbfe (bits w 20 7) (bits w 13 7) (bits w 6 7))
  | 21 => .ok (.vbfi (bits w 20 7) (bits w 13 7) (bits w 6 7))
  | 22 => .ok (.vprm (bits w 20 7) (bits w 13 7) (bits w 6 7))
  | 24 => zero w 0x07800000#32 (.vicmp (bits w 20 3) (bits w 13 7) (bits w 6 7) 0#3)
  | 25 => zero w 0x07800000#32 (.vicmp (bits w 20 3) (bits w 13 7) (bits w 6 7) 1#3)
  | 26 => zero w 0x07800000#32 (.vicmp (bits w 20 3) (bits w 13 7) (bits w 6 7) 2#3)
  | 27 => zero w 0x07800000#32 (.vicmp (bits w 20 3) (bits w 13 7) (bits w 6 7) 3#3)
  | 28 => zero w 0x07800000#32 (.vicmp (bits w 20 3) (bits w 13 7) (bits w 6 7) 4#3)
  | 29 => zero w 0x07800000#32 (.vicmp (bits w 20 3) (bits w 13 7) (bits w 6 7) 5#3)
  | _ => .error .unassigned

/-- Major 8: vector immediate (R40). -/
def decodeMajor8 (w : Word) : Except Illegal Instr :=
  match (bits w 16 4).toNat with
  | 0 => .ok (.vaddImm (bits w 20 7) (bits w 0 16))
  | 1 => .ok (.vmulImm (bits w 20 7) (bits w 0 16))
  | 2 => .ok (.vminImm (bits w 20 7) (bits w 0 16))
  | 3 => .ok (.vmaxImm (bits w 20 7) (bits w 0 16))
  | 4 => .ok (.viaddImm (bits w 20 7) (bits w 0 16))
  | 5 => .ok (.viandImm (bits w 20 7) (bits w 0 16))
  | 6 => .ok (.viorImm (bits w 20 7) (bits w 0 16))
  | 7 => .ok (.vixorImm (bits w 20 7) (bits w 0 16))
  | 8 => .ok (.vishlImm (bits w 20 7) (bits w 0 16))
  | 9 => .ok (.vishrImm (bits w 20 7) (bits w 0 16))
  | 10 => .ok (.visraImm (bits w 20 7) (bits w 0 16))
  | 11 => .ok (.vmoviF32 (bits w 20 7) (bits w 0 16))
  | 12 => .ok (.vmoviB32 (bits w 20 7) (bits w 0 16))
  | 13 => .ok (.vmoviF16x2 (bits w 20 7) (bits w 0 16))
  | 14 => .ok (.vmoviF8e4x2 (bits w 20 7) (bits w 0 16))
  | _ => .ok (.vmoviF8e5x2 (bits w 20 7) (bits w 0 16))

/-- Major 9: vector unary, conversion, moves (R41). -/
def decodeMajor9 (w : Word) : Except Illegal Instr :=
  match (bits w 8 5).toNat with
  | 0 => zero w 0x000000FF#32 (.vsqrt (bits w 20 7) (bits w 13 7))
  | 1 => zero w 0x000000FF#32 (.vrsq (bits w 20 7) (bits w 13 7))
  | 2 => zero w 0x000000FF#32 (.vrcp (bits w 20 7) (bits w 13 7))
  | 3 => zero w 0x000000FF#32 (.vabs (bits w 20 7) (bits w 13 7))
  | 4 => zero w 0x000000FF#32 (.vneg (bits w 20 7) (bits w 13 7))
  | 5 => zero w 0x000000FF#32 (.vexp2 (bits w 20 7) (bits w 13 7))
  | 6 => zero w 0x000000FF#32 (.vlog2 (bits w 20 7) (bits w 13 7))
  | 7 => zero w 0x000000FF#32 (.vsinp (bits w 20 7) (bits w 13 7))
  | 8 => zero w 0x000000FF#32 (.vcosp (bits w 20 7) (bits w 13 7))
  | 9 => zero w 0x000000FF#32 (.vtanh (bits w 20 7) (bits w 13 7))
  | 10 => zero w 0x000000FF#32 (.vrnd (bits w 20 7) (bits w 13 7))
  | 11 => zero w 0x000000FF#32 (.vgetexp (bits w 20 7) (bits w 13 7))
  | 12 => zero w 0x000000FF#32 (.vgetman (bits w 20 7) (bits w 13 7))
  | 13 => if bits w 4 4 = bits w 0 4 then .error .unassigned else .ok (.vcvt (bits w 20 7) (bits w 13 7) (bits w 4 4) (bits w 0 4))
  | 14 => if bits w 0 1 = 0#1 then zero w 0x000000FE#32 (.vmov (bits w 20 7) (bits w 13 7)) else zero w 0x000FE0FE#32 (.vmovLane (bits w 20 7))
  | 15 => zero w 0x000800FF#32 (.vmovs (bits w 20 7) (bits w 13 6))
  | _ => .error .unassigned

/-- Major 10: cross-lane (R41, R142). -/
def decodeMajor10 (w : Word) : Except Illegal Instr :=
  match (bits w 8 5).toNat with
  | 0 => zero w 0x00000080#32 (.vshfl (bits w 20 7) (bits w 13 7) (bits w 0 7))
  | 1 => .ok (.vrotw (bits w 20 7) (bits w 13 7) (bits w 5 3) (bits w 0 5))
  | 2 => zero w 0x000000E0#32 (.vxorw (bits w 20 7) (bits w 13 7) (bits w 0 5))
  | 3 => if bits w 7 1 = 0#1 then zero w 0x00000060#32 (.vbcst (bits w 20 7) (bits w 13 7) (bits w 0 5)) else zero w 0x0000007F#32 (.vbcstFirst (bits w 20 7) (bits w 13 7))
  | 4 => if 12#4 ≤ bits w 4 4 then .error .unassigned else zero w 0x00000008#32 (.vrstep (bits w 20 7) (bits w 13 7) (bits w 4 4) (bits w 0 3))
  | 5 => if 12#4 ≤ bits w 4 4 then .error .unassigned else zero w 0x0400000F#32 (.vred (bits w 20 6) (bits w 13 7) (bits w 4 4))
  | 6 => if 12#4 ≤ bits w 4 4 then .error .unassigned else zero w 0x00000007#32 (.vscan (bits w 20 7) (bits w 13 7) (bits w 4 4) (bits w 3 1))
  | 7 => zero w 0x0000003F#32 (.vmatch (bits w 20 7) (bits w 13 7) (bits w 6 2))
  | 8 => zero w 0x040F00FF#32 (.vball (bits w 20 6) (bits w 13 3))
  | 9 => zero w 0x000000F8#32 (.vcomp (bits w 20 7) (bits w 13 7) (bits w 0 3))
  | _ => .error .unassigned

/-- Major 11: predicate and mask (R40, R153). -/
def decodeMajor11 (w : Word) : Except Illegal Instr :=
  match (bits w 0 6).toNat with
  | 0 => zero w 0x078F1E00#32 (.pand (bits w 20 3) (bits w 13 3) (bits w 6 3))
  | 1 => zero w 0x078F1E00#32 (.por (bits w 20 3) (bits w 13 3) (bits w 6 3))
  | 2 => zero w 0x078F1E00#32 (.pxor (bits w 20 3) (bits w 13 3) (bits w 6 3))
  | 3 => zero w 0x078F1FC0#32 (.pnot (bits w 20 3) (bits w 13 3))
  | 4 => zero w 0x078F1FC0#32 (.pmov (bits w 20 3) (bits w 13 3))
  | 5 => zero w 0x07881FC0#32 (.pset (bits w 20 3) (bits w 13 6))
  | 6 => zero w 0x040F1FC0#32 (.ppop (bits w 20 6) (bits w 13 3))
  | 7 => zero w 0x040FFFC0#32 (.exrd (bits w 20 6))
  | 8 => zero w 0x07FF1FC0#32 (.exwr (bits w 13 3))
  | _ => .error .unassigned

/-- Major 12: LD (R42). -/
def decodeMajor12 (w : Word) : Except Illegal Instr :=
  .ok (.ld (bits w 20 7) (bits w 14 6) (bits w 7 7) (bits w 4 3) (bits w 0 4))

/-- Major 13: ST (R42). -/
def decodeMajor13 (w : Word) : Except Illegal Instr :=
  .ok (.st (bits w 20 7) (bits w 14 6) (bits w 7 7) (bits w 4 3) (bits w 0 4))

/-- Major 14: scoped accesses and atomics (R42, R180). -/
def decodeMajor14 (w : Word) : Except Illegal Instr :=
  match (bits w 0 4).toNat with
  | 0 => .ok (.scopedLd (bits w 20 7) (bits w 14 6) (bits w 7 7) (bits w 4 3))
  | 1 => .ok (.scopedSt (bits w 20 7) (bits w 14 6) (bits w 7 7) (bits w 4 3))
  | 2 => .ok (.cas (bits w 20 7) (bits w 14 6) (bits w 7 7) (bits w 4 3))
  | 3 => .ok (.atomAdd (bits w 20 7) (bits w 14 6) (bits w 7 7) (bits w 4 3))
  | 4 => .ok (.atomAnd (bits w 20 7) (bits w 14 6) (bits w 7 7) (bits w 4 3))
  | 5 => .ok (.atomOr (bits w 20 7) (bits w 14 6) (bits w 7 7) (bits w 4 3))
  | 6 => .ok (.atomXor (bits w 20 7) (bits w 14 6) (bits w 7 7) (bits w 4 3))
  | 7 => .ok (.atomMin (bits w 20 7) (bits w 14 6) (bits w 7 7) (bits w 4 3))
  | 8 => .ok (.atomMax (bits w 20 7) (bits w 14 6) (bits w 7 7) (bits w 4 3))
  | 9 => .ok (.atomMinn (bits w 20 7) (bits w 14 6) (bits w 7 7) (bits w 4 3))
  | 10 => .ok (.atomMaxn (bits w 20 7) (bits w 14 6) (bits w 7 7) (bits w 4 3))
  | 11 => .ok (.atomExch (bits w 20 7) (bits w 14 6) (bits w 7 7) (bits w 4 3))
  | 12 => .ok (.atomFadd (bits w 20 7) (bits w 14 6) (bits w 7 7) (bits w 4 3))
  | _ => .error .unassigned

/-- Major 15: fences and barriers (R42, R155, R192). -/
def decodeMajor15 (w : Word) : Except Illegal Instr :=
  match (bits w 0 4).toNat with
  | 0 => zero w 0x078FFF80#32 (.fence (bits w 20 3) (bits w 4 3))
  | 1 => zero w 0x07E03FF0#32 (.cflush (bits w 20 1) (bits w 14 6))
  | 2 => if bits w 21 1 = 0#1 then zero w 0x07C03FF0#32 (.cinv (bits w 20 1) (bits w 14 6)) else zero w 0x07C03FF0#32 (.cinvI (bits w 20 1) (bits w 14 6))
  | 3 => zero w 0x06003F80#32 (.tbar (bits w 24 1) (bits w 20 4) (bits w 14 6) (bits w 4 3))
  | 4 => zero w 0x06003F80#32 (.tbara (bits w 24 1) (bits w 20 4) (bits w 14 6) (bits w 4 3))
  | 5 => zero w 0x070FFF80#32 (.tbarw (bits w 20 4) (bits w 4 3))
  | 6 => zero w 0x06003F80#32 (.cbar (bits w 24 1) (bits w 20 4) (bits w 14 6) (bits w 4 3))
  | _ => .error .unassigned

/-- Major 16: matrix (R42, R218). -/
def decodeMajor16 (w : Word) : Except Illegal Instr :=
  match (bits w 22 5).toNat with
  | 0 => zero w 0x000003FE#32 (.mma (bits w 16 6) (bits w 10 6) (bits w 0 1))
  | 1 => zero w 0x000003FE#32 (.mmas (bits w 16 6) (bits w 10 6) (bits w 0 1))
  | 2 => zero w 0x000003FE#32 (.mmao (bits w 16 6) (bits w 10 6) (bits w 0 1))
  | 3 => zero w 0x003FFFF0#32 (.mzero (bits w 0 4))
  | 4 => zero w 0x0000000C#32 (.mrd (bits w 16 6) (bits w 10 6) (bits w 4 6) (bits w 0 2))
  | 5 => zero w 0x0000FFF8#32 (.mwr (bits w 16 6) (bits w 2 1) (bits w 0 2))
  | 6 => zero w 0x0000000C#32 (.mepi (bits w 16 6) (bits w 10 6) (bits w 4 6) (bits w 0 2))
  | _ => .error .unassigned

/-- Major 17: matrix control (R42, R218). -/
def decodeMajor17 (w : Word) : Except Illegal Instr :=
  match (bits w 22 5).toNat with
  | 0 => zero w 0x003FFFFF#32 (.mrdy)
  | 1 => zero w 0x0000FFF0#32 (.mfen (bits w 16 6) (bits w 0 4))
  | 2 => zero w 0x003FFFF0#32 (.mwait (bits w 0 4))
  | 3 => 
    (match (bits w 0 2).toNat with
     | 0 => zero w 0x0000FFFC#32 (.mstatReset (bits w 16 6))
     | 1 => zero w 0x0000FFFC#32 (.mstatMax (bits w 16 6))
     | 2 => zero w 0x0000FFFC#32 (.mstatRead (bits w 16 6))
     | _ => .error .reservedValue)
  | _ => .error .unassigned

/-- Major 18: tiles and fetch (R42, R249). -/
def decodeMajor18 (w : Word) : Except Illegal Instr :=
  match (bits w 22 5).toNat with
  | 0 => zero w 0x000003FE#32 (.tdef (bits w 16 6) (bits w 10 6) (bits w 0 1))
  | 1 => zero w 0x0000FFFF#32 (.trel (bits w 16 6))
  | 2 => zero w 0x000003FF#32 (.tstate (bits w 16 6) (bits w 10 6))
  | 3 => zero w 0x0000000E#32 (.tfetch (bits w 16 6) (bits w 10 6) (bits w 4 6) (bits w 0 1))
  | 4 => zero w 0x0000000E#32 (.tgath (bits w 16 6) (bits w 10 6) (bits w 4 6) (bits w 0 1))
  | 5 => zero w 0x0000000F#32 (.tcommit (bits w 16 6) (bits w 10 6) (bits w 4 6))
  | 6 => if bits w 0 1 = 0#1 then zero w 0x0000FFFE#32 (.twin (bits w 16 6)) else zero w 0x0000FFFE#32 (.twinRd (bits w 16 6))
  | _ => .error .unassigned

/-- Major 19: arrival barriers, rings, decode (R42, R249). -/
def decodeMajor19 (w : Word) : Except Illegal Instr :=
  match (bits w 22 5).toNat with
  | 0 => zero w 0x0000FFFF#32 (.abar (bits w 16 6))
  | 1 => zero w 0x0000FFFF#32 (.abwait (bits w 16 6))
  | 2 => zero w 0x0000FFFF#32 (.rginit (bits w 16 6))
  | 3 => zero w 0x000003FF#32 (.rgawait (bits w 16 6) (bits w 10 6))
  | 4 => zero w 0x0000FFFF#32 (.rgrel (bits w 16 6))
  | 5 => zero w 0x0000FFFF#32 (.vdecode (bits w 16 6))
  | _ => .error .unassigned

/-- Major 20: Strudel and module engines (R42, R249, R284). -/
def decodeMajor20 (w : Word) : Except Illegal Instr :=
  match (bits w 22 5).toNat with
  | 0 => zero w 0x0000000F#32 (.rshard (bits w 16 6) (bits w 10 6) (bits w 4 6))
  | 1 => zero w 0x0000FFFF#32 (.rsstop (bits w 16 6))
  | 2 => zero w 0x000003FF#32 (.rsstat (bits w 16 6) (bits w 10 6))
  | 3 => zero w 0x0000000F#32 (.rsplan (bits w 16 6) (bits w 10 6) (bits w 4 6))
  | 4 => zero w 0x0000000F#32 (.tcopy (bits w 16 6) (bits w 10 6) (bits w 4 6))
  | 5 => zero w 0x0000000F#32 (.tfill (bits w 16 6) (bits w 10 6) (bits w 4 6))
  | 6 => if 6#4 ≤ bits w 0 4 then .error .unassigned else .ok (.tredf (bits w 16 6) (bits w 10 6) (bits w 4 6) (bits w 0 4))
  | _ => .error .unassigned

/-- Major 21: fabric (R42, R392). -/
def decodeMajor21 (w : Word) : Except Illegal Instr :=
  match (bits w 22 5).toNat with
  | 0 => .ok (.signal (bits w 16 6) (bits w 10 6) (bits w 4 6) (bits w 0 4))
  | 1 => zero w 0x000003FE#32 (.fflag (bits w 16 6) (bits w 10 6) (bits w 0 1))
  | 2 => zero w 0x0000FFFF#32 (.pbar (bits w 16 6))
  | 3 => zero w 0x000003F0#32 (.mcst (bits w 16 6) (bits w 10 6) (bits w 0 4))
  | _ => .error .unassigned

/-- Major 22: traps and privileged (R42, R323). -/
def decodeMajor22 (w : Word) : Except Illegal Instr :=
  match (bits w 22 5).toNat with
  | 0 => zero w 0x000003FE#32 (.trap (bits w 16 6) (bits w 10 6) (bits w 0 1))
  | 1 => zero w 0x0020FFFF#32 (.bkpt (bits w 16 5))
  | 2 => zero w 0x000003FF#32 (.watch (bits w 16 6) (bits w 10 6))
  | 3 => zero w 0x000003FF#32 (.gstop (bits w 16 6) (bits w 10 6))
  | 4 => 
    (match (bits w 0 2).toNat with
     | 0 => zero w 0x000003F8#32 (.gresumeRetry (bits w 16 6) (bits w 10 6) (bits w 2 1))
     | 1 => zero w 0x000003F8#32 (.gresumeFmask (bits w 16 6) (bits w 10 6) (bits w 2 1))
     | 2 => zero w 0x000003F8#32 (.gresumeSkip (bits w 16 6) (bits w 10 6) (bits w 2 1))
     | _ => .error .reservedValue)
  | 5 => zero w 0x000003FF#32 (.gkill (bits w 16 6) (bits w 10 6))
  | 6 => zero w 0x000003FF#32 (.csrrd (bits w 16 6) (bits w 10 6))
  | 7 => zero w 0x000003FF#32 (.csrwr (bits w 16 6) (bits w 10 6))
  | 8 => zero w 0x0000FFFC#32 (.tlbinv (bits w 16 6) (bits w 0 2))
  | _ => .error .unassigned

/-- Major 31: hints (R43 to R46). -/
def decodeMajor31 (w : Word) : Except Illegal Instr :=
  match (bits w 25 2).toNat with
  | 0 => .ok (.hrun (bits w 20 5) (bits w 8 12) (bits w 4 4) (bits w 0 4))
  | 1 => .ok (.hend (bits w 21 4) (bits w 14 7) (bits w 7 7) (bits w 0 7))
  | 2 => .ok (.himm (bits w 0 25))
  | _ => zero w 0x0000003F#32 (.hmod (bits w 24 1) (bits w 23 1) (bits w 20 3) (bits w 19 1) (bits w 16 3) (bits w 15 1) (bits w 12 3) (bits w 9 3) (bits w 6 3))

/-- A word by its major opcode (R33, R37), before the checks that depend on more than one field. -/
def decodeRaw (w : Word) : Except Illegal Instr :=
  match (bits w 27 5).toNat with
  | 0 => decodeMajor0 w
  | 1 => decodeMajor1 w
  | 2 => decodeMajor2 w
  | 3 => decodeMajor3 w
  | 4 => decodeMajor4 w
  | 5 => decodeMajor5 w
  | 6 => decodeMajor6 w
  | 7 => decodeMajor7 w
  | 8 => decodeMajor8 w
  | 9 => decodeMajor9 w
  | 10 => decodeMajor10 w
  | 11 => decodeMajor11 w
  | 12 => decodeMajor12 w
  | 13 => decodeMajor13 w
  | 14 => decodeMajor14 w
  | 15 => decodeMajor15 w
  | 16 => decodeMajor16 w
  | 17 => decodeMajor17 w
  | 18 => decodeMajor18 w
  | 19 => decodeMajor19 w
  | 20 => decodeMajor20 w
  | 21 => decodeMajor21 w
  | 22 => decodeMajor22 w
  | 31 => decodeMajor31 w
  | _ => .error .reservedMajor

/-- The instruction a word holds, or the case of R4 that refuses it. -/
def decode (w : Word) : Except Illegal Instr :=
  match decodeRaw w with
  | .error e => .error e
  | .ok i =>
    if i.reservedFieldSet then .error .reservedField
    else if i.reservedValueSet then .error .reservedValue
    else .ok i

/-- A word from its four bytes, the least significant at the lowest address (R6, R33). -/
def wordOfBytes (b0 b1 b2 b3 : Byte) : Word := b3 ++ b2 ++ b1 ++ b0

/-- Decoding the head of a list of bytes: the instruction and the bytes after it; none when fewer than four bytes stand
there. -/
def decodeBytes : List Byte → Option (Except Illegal Instr × List Byte)
  | b0 :: b1 :: b2 :: b3 :: rest => some (decode (wordOfBytes b0 b1 b2 b3), rest)
  | _ => none

/-- What the decoder reads from the word `w`, numbered as spec/opcode_table.json numbers it: every instruction is one
32-bit word (R33), so the word is laid out as four bytes and given to `decodeBytes`. -/
def decodeTableWord (_nbits w : Nat) : Option Instr :=
  let v : Word := BitVec.ofNat 32 w
  match decodeBytes [bits v 0 8, bits v 8 8, bits v 16 8, bits v 24 8] with
  | some (.ok i, _) => some i
  | _ => none

/-- The word of an instruction, from the same tables (R34 to R47); events have none. -/
def encode (i : Instr) : Option Word :=
  match i with
  | .nop => some (0#32)
  | .yield => some (262144#32)
  | .waitf m => some (128#20 ++ m)
  | .bra o => some (1#10 ++ o)
  | .call o => some (2#10 ++ o)
  | .bk k o => some (0#5 ++ (k.zeroExtend 5 + 3#5) ++ o)
  | .bkNot k o => some (0#5 ++ (k.zeroExtend 5 + 7#5) ++ o)
  | .bpAny p o => some (0#5 ++ (p.zeroExtend 5 + 11#5) ++ o)
  | .bpAll p o => some (0#5 ++ (p.zeroExtend 5 + 19#5) ++ o)
  | .ret s => some (27#10 ++ s ++ 0#16)
  | .jmpr s => some (28#10 ++ s ++ 0#16)
  | .join => some (121634816#32)
  | .exit => some (125829120#32)
  | .bdv p t j => some (1#5 ++ p ++ t ++ j)
  | .sadd d a b => some (2#5 ++ d ++ a ++ b ++ 0#9)
  | .ssub d a b => some (2#5 ++ d ++ a ++ b ++ 1#9)
  | .smul d a b => some (2#5 ++ d ++ a ++ b ++ 2#9)
  | .smulh d a b => some (2#5 ++ d ++ a ++ b ++ 3#9)
  | .sdiv d a b => some (2#5 ++ d ++ a ++ b ++ 4#9)
  | .srem d a b => some (2#5 ++ d ++ a ++ b ++ 5#9)
  | .sand d a b => some (2#5 ++ d ++ a ++ b ++ 6#9)
  | .sor d a b => some (2#5 ++ d ++ a ++ b ++ 7#9)
  | .sxor d a b => some (2#5 ++ d ++ a ++ b ++ 8#9)
  | .sandn d a b => some (2#5 ++ d ++ a ++ b ++ 9#9)
  | .sshl d a b => some (2#5 ++ d ++ a ++ b ++ 10#9)
  | .sshr d a b => some (2#5 ++ d ++ a ++ b ++ 11#9)
  | .ssra d a b => some (2#5 ++ d ++ a ++ b ++ 12#9)
  | .srot d a b => some (2#5 ++ d ++ a ++ b ++ 13#9)
  | .smin d a b => some (2#5 ++ d ++ a ++ b ++ 14#9)
  | .smax d a b => some (2#5 ++ d ++ a ++ b ++ 15#9)
  | .sminn d a b => some (2#5 ++ d ++ a ++ b ++ 16#9)
  | .smaxn d a b => some (2#5 ++ d ++ a ++ b ++ 17#9)
  | .sclz d a => some (2#5 ++ d ++ a ++ 18#15)
  | .spop d a => some (2#5 ++ d ++ a ++ 19#15)
  | .sbrev d a => some (2#5 ++ d ++ a ++ 20#15)
  | .ssextB8 d a => some (2#5 ++ d ++ a ++ 21#15)
  | .ssextB16 d a => some (2#5 ++ d ++ a ++ 22#15)
  | .ssextB32 d a => some (2#5 ++ d ++ a ++ 23#15)
  | .szextB8 d a => some (2#5 ++ d ++ a ++ 24#15)
  | .szextB16 d a => some (2#5 ++ d ++ a ++ 25#15)
  | .szextB32 d a => some (2#5 ++ d ++ a ++ 26#15)
  | .ssel d a b k => some (2#5 ++ d ++ a ++ b ++ 3#6 ++ (k.zeroExtend 3 + 3#3))
  | .smov d a => some (2#5 ++ d ++ a ++ 31#15)
  | .scmp k a b c => some (32#9 ++ k ++ a ++ b ++ 4#6 ++ c)
  | .slea d a b h => some (2#5 ++ d ++ a ++ b ++ 5#6 ++ h)
  | .launch d a => some (2#5 ++ d ++ a ++ 48#15)
  | .saddi d i => some (3#5 ++ d ++ 0#5 ++ i)
  | .sandi d i => some (3#5 ++ d ++ 1#5 ++ i)
  | .sori d i => some (3#5 ++ d ++ 2#5 ++ i)
  | .sxori d i => some (3#5 ++ d ++ 3#5 ++ i)
  | .sshli d i => some (3#5 ++ d ++ 4#5 ++ i)
  | .sshri d i => some (3#5 ++ d ++ 5#5 ++ i)
  | .ssrai d i => some (3#5 ++ d ++ 6#5 ++ i)
  | .scmpi n c i => some (48#9 ++ n ++ (c.zeroExtend 5 + 7#5) ++ i)
  | .sli d i => some (3#5 ++ d ++ 13#5 ++ i)
  | .slih d i => some (3#5 ++ d ++ 14#5 ++ i)
  | .srd d e => some (3#5 ++ d ++ 3840#13 ++ e)
  | .swr d e => some (3#5 ++ d ++ 4096#13 ++ e)
  | .lds d a w s => some (4#5 ++ d ++ a ++ 0#9 ++ w ++ 0#1 ++ s)
  | .sts d a w s => some (4#5 ++ d ++ a ++ 2#9 ++ w ++ 0#1 ++ s)
  | .vadd d a b => some (5#5 ++ d ++ a ++ b ++ 0#6)
  | .vsub d a b => some (5#5 ++ d ++ a ++ b ++ 1#6)
  | .vmul d a b => some (5#5 ++ d ++ a ++ b ++ 2#6)
  | .vfma d a b => some (5#5 ++ d ++ a ++ b ++ 3#6)
  | .vfms d a b => some (5#5 ++ d ++ a ++ b ++ 4#6)
  | .vfnma d a b => some (5#5 ++ d ++ a ++ b ++ 5#6)
  | .vfnms d a b => some (5#5 ++ d ++ a ++ b ++ 6#6)
  | .vdiv d a b => some (5#5 ++ d ++ a ++ b ++ 7#6)
  | .vmin d a b => some (5#5 ++ d ++ a ++ b ++ 8#6)
  | .vmax d a b => some (5#5 ++ d ++ a ++ b ++ 9#6)
  | .vclamp d a b => some (5#5 ++ d ++ a ++ b ++ 10#6)
  | .vscale d a b => some (5#5 ++ d ++ a ++ b ++ 11#6)
  | .vcmp p a b c => some (80#9 ++ p ++ a ++ b ++ 2#3 ++ c)
  | .vcmpc p a b c => some (80#9 ++ p ++ a ++ b ++ 3#3 ++ c)
  | .vsel d a b n => some (5#5 ++ d ++ a ++ b ++ 4#3 ++ n)
  | .vaddPair d a b t => some (6#5 ++ d ++ a ++ b ++ t ++ 0#4)
  | .vsubPair d a b t => some (6#5 ++ d ++ a ++ b ++ t ++ 1#4)
  | .vmulPair d a b t => some (6#5 ++ d ++ a ++ b ++ t ++ 2#4)
  | .vfmaPair d a b t => some (6#5 ++ d ++ a ++ b ++ t ++ 3#4)
  | .vfmsPair d a b t => some (6#5 ++ d ++ a ++ b ++ t ++ 4#4)
  | .vfnmaPair d a b t => some (6#5 ++ d ++ a ++ b ++ t ++ 5#4)
  | .vfnmsPair d a b t => some (6#5 ++ d ++ a ++ b ++ t ++ 6#4)
  | .vminPair d a b t => some (6#5 ++ d ++ a ++ b ++ t ++ 7#4)
  | .vmaxPair d a b t => some (6#5 ++ d ++ a ++ b ++ t ++ 8#4)
  | .vclampPair d a b t => some (6#5 ++ d ++ a ++ b ++ t ++ 9#4)
  | .vdot2 d a b t => some (6#5 ++ d ++ a ++ b ++ t ++ 10#4)
  | .vdot4 d a b t => some (6#5 ++ d ++ a ++ b ++ 1#1 ++ t ++ 11#4)
  | .viadd d a b => some (7#5 ++ d ++ a ++ b ++ 0#6)
  | .visub d a b => some (7#5 ++ d ++ a ++ b ++ 1#6)
  | .vimul d a b => some (7#5 ++ d ++ a ++ b ++ 2#6)
  | .vimulhI32 d a b => some (7#5 ++ d ++ a ++ b ++ 3#6)
  | .vimulhN32 d a b => some (7#5 ++ d ++ a ++ b ++ 4#6)
  | .vimad d a b => some (7#5 ++ d ++ a ++ b ++ 5#6)
  | .vimin d a b => some (7#5 ++ d ++ a ++ b ++ 6#6)
  | .vimax d a b => some (7#5 ++ d ++ a ++ b ++ 7#6)
  | .viminn d a b => some (7#5 ++ d ++ a ++ b ++ 8#6)
  | .vimaxn d a b => some (7#5 ++ d ++ a ++ b ++ 9#6)
  | .viabs d a => some (7#5 ++ d ++ a ++ 10#13)
  | .viand d a b => some (7#5 ++ d ++ a ++ b ++ 11#6)
  | .vior d a b => some (7#5 ++ d ++ a ++ b ++ 12#6)
  | .vixor d a b => some (7#5 ++ d ++ a ++ b ++ 13#6)
  | .viandn d a b => some (7#5 ++ d ++ a ++ b ++ 14#6)
  | .vishl d a b => some (7#5 ++ d ++ a ++ b ++ 15#6)
  | .vishr d a b => some (7#5 ++ d ++ a ++ b ++ 16#6)
  | .visra d a b => some (7#5 ++ d ++ a ++ b ++ 17#6)
  | .vpop d a => some (7#5 ++ d ++ a ++ 18#13)
  | .vclz d a => some (7#5 ++ d ++ a ++ 19#13)
  | .vbfe d a b => some (7#5 ++ d ++ a ++ b ++ 20#6)
  | .vbfi d a b => some (7#5 ++ d ++ a ++ b ++ 21#6)
  | .vprm d a b => some (7#5 ++ d ++ a ++ b ++ 22#6)
  | .vicmp p a b c => some (112#9 ++ p ++ a ++ b ++ 3#3 ++ c)
  | .vaddImm d i => some (8#5 ++ d ++ 0#4 ++ i)
  | .vmulImm d i => some (8#5 ++ d ++ 1#4 ++ i)
  | .vminImm d i => some (8#5 ++ d ++ 2#4 ++ i)
  | .vmaxImm d i => some (8#5 ++ d ++ 3#4 ++ i)
  | .viaddImm d i => some (8#5 ++ d ++ 4#4 ++ i)
  | .viandImm d i => some (8#5 ++ d ++ 5#4 ++ i)
  | .viorImm d i => some (8#5 ++ d ++ 6#4 ++ i)
  | .vixorImm d i => some (8#5 ++ d ++ 7#4 ++ i)
  | .vishlImm d i => some (8#5 ++ d ++ 8#4 ++ i)
  | .vishrImm d i => some (8#5 ++ d ++ 9#4 ++ i)
  | .visraImm d i => some (8#5 ++ d ++ 10#4 ++ i)
  | .vmoviF32 d i => some (8#5 ++ d ++ 11#4 ++ i)
  | .vmoviB32 d i => some (8#5 ++ d ++ 12#4 ++ i)
  | .vmoviF16x2 d i => some (8#5 ++ d ++ 13#4 ++ i)
  | .vmoviF8e4x2 d i => some (8#5 ++ d ++ 14#4 ++ i)
  | .vmoviF8e5x2 d i => some (8#5 ++ d ++ 15#4 ++ i)
  | .vsqrt d a => some (9#5 ++ d ++ a ++ 0#13)
  | .vrsq d a => some (9#5 ++ d ++ a ++ 256#13)
  | .vrcp d a => some (9#5 ++ d ++ a ++ 512#13)
  | .vabs d a => some (9#5 ++ d ++ a ++ 768#13)
  | .vneg d a => some (9#5 ++ d ++ a ++ 1024#13)
  | .vexp2 d a => some (9#5 ++ d ++ a ++ 1280#13)
  | .vlog2 d a => some (9#5 ++ d ++ a ++ 1536#13)
  | .vsinp d a => some (9#5 ++ d ++ a ++ 1792#13)
  | .vcosp d a => some (9#5 ++ d ++ a ++ 2048#13)
  | .vtanh d a => some (9#5 ++ d ++ a ++ 2304#13)
  | .vrnd d a => some (9#5 ++ d ++ a ++ 2560#13)
  | .vgetexp d a => some (9#5 ++ d ++ a ++ 2816#13)
  | .vgetman d a => some (9#5 ++ d ++ a ++ 3072#13)
  | .vcvt d a y x => some (9#5 ++ d ++ a ++ 13#5 ++ y ++ x)
  | .vmov d a => some (9#5 ++ d ++ a ++ 3584#13)
  | .vmovLane d => some (9#5 ++ d ++ 3585#20)
  | .vmovs d s => some (9#5 ++ d ++ 0#1 ++ s ++ 3840#13)
  | .vshfl d a b => some (10#5 ++ d ++ a ++ 0#6 ++ b)
  | .vrotw d a g n => some (10#5 ++ d ++ a ++ 1#5 ++ g ++ n)
  | .vxorw d a m => some (10#5 ++ d ++ a ++ 16#8 ++ m)
  | .vbcst d a j => some (10#5 ++ d ++ a ++ 24#8 ++ j)
  | .vbcstFirst d a => some (10#5 ++ d ++ a ++ 896#13)
  | .vrstep d a o s => some (10#5 ++ d ++ a ++ 4#5 ++ o ++ 0#1 ++ s)
  | .vred e a o => some (20#6 ++ e ++ a ++ 5#5 ++ o ++ 0#4)
  | .vscan d a o x => some (10#5 ++ d ++ a ++ 6#5 ++ o ++ x ++ 0#3)
  | .vmatch d a k => some (10#5 ++ d ++ a ++ 7#5 ++ k ++ 0#6)
  | .vball e p => some (20#6 ++ e ++ 0#4 ++ p ++ 2048#13)
  | .vcomp d a p => some (10#5 ++ d ++ a ++ 288#10 ++ p)
  | .pand d a b => some (176#9 ++ d ++ 0#4 ++ a ++ 0#4 ++ b ++ 0#6)
  | .por d a b => some (176#9 ++ d ++ 0#4 ++ a ++ 0#4 ++ b ++ 1#6)
  | .pxor d a b => some (176#9 ++ d ++ 0#4 ++ a ++ 0#4 ++ b ++ 2#6)
  | .pnot d a => some (176#9 ++ d ++ 0#4 ++ a ++ 3#13)
  | .pmov d a => some (176#9 ++ d ++ 0#4 ++ a ++ 4#13)
  | .pset d s => some (176#9 ++ d ++ 0#1 ++ s ++ 5#13)
  | .ppop s p => some (22#6 ++ s ++ 0#4 ++ p ++ 6#13)
  | .exrd s => some (22#6 ++ s ++ 7#20)
  | .exwr p => some (22528#16 ++ p ++ 8#13)
  | .ld d s v w x => some (12#5 ++ d ++ s ++ v ++ w ++ x)
  | .st d s v w x => some (13#5 ++ d ++ s ++ v ++ w ++ x)
  | .scopedLd d s v c => some (14#5 ++ d ++ s ++ v ++ c ++ 0#4)
  | .scopedSt d s v c => some (14#5 ++ d ++ s ++ v ++ c ++ 1#4)
  | .cas d s v c => some (14#5 ++ d ++ s ++ v ++ c ++ 2#4)
  | .atomAdd d s v c => some (14#5 ++ d ++ s ++ v ++ c ++ 3#4)
  | .atomAnd d s v c => some (14#5 ++ d ++ s ++ v ++ c ++ 4#4)
  | .atomOr d s v c => some (14#5 ++ d ++ s ++ v ++ c ++ 5#4)
  | .atomXor d s v c => some (14#5 ++ d ++ s ++ v ++ c ++ 6#4)
  | .atomMin d s v c => some (14#5 ++ d ++ s ++ v ++ c ++ 7#4)
  | .atomMax d s v c => some (14#5 ++ d ++ s ++ v ++ c ++ 8#4)
  | .atomMinn d s v c => some (14#5 ++ d ++ s ++ v ++ c ++ 9#4)
  | .atomMaxn d s v c => some (14#5 ++ d ++ s ++ v ++ c ++ 10#4)
  | .atomExch d s v c => some (14#5 ++ d ++ s ++ v ++ c ++ 11#4)
  | .atomFadd d s v c => some (14#5 ++ d ++ s ++ v ++ c ++ 12#4)
  | .fence o c => some (240#9 ++ o ++ 0#13 ++ c ++ 0#4)
  | .cflush l s => some (960#11 ++ l ++ s ++ 1#14)
  | .cinv l s => some (960#11 ++ l ++ s ++ 2#14)
  | .cinvI l s => some (961#11 ++ l ++ s ++ 2#14)
  | .tbar n b s c => some (60#7 ++ n ++ b ++ s ++ 0#7 ++ c ++ 3#4)
  | .tbara n b s c => some (60#7 ++ n ++ b ++ s ++ 0#7 ++ c ++ 4#4)
  | .tbarw b c => some (120#8 ++ b ++ 0#13 ++ c ++ 5#4)
  | .cbar n b s c => some (60#7 ++ n ++ b ++ s ++ 0#7 ++ c ++ 6#4)
  | .mma a b r => some (512#10 ++ a ++ b ++ 0#9 ++ r)
  | .mmas a b r => some (513#10 ++ a ++ b ++ 0#9 ++ r)
  | .mmao a b r => some (514#10 ++ a ++ b ++ 0#9 ++ r)
  | .mzero n => some (135004160#28 ++ n)
  | .mrd a b c l => some (516#10 ++ a ++ b ++ c ++ 0#2 ++ l)
  | .mwr a r l => some (517#10 ++ a ++ 0#13 ++ r ++ l)
  | .mepi a b c l => some (518#10 ++ a ++ b ++ c ++ 0#2 ++ l)
  | .mrdy => some (2281701376#32)
  | .mfen a b => some (545#10 ++ a ++ 0#12 ++ b)
  | .mwait b => some (143130624#28 ++ b)
  | .mstatReset a => some (547#10 ++ a ++ 0#16)
  | .mstatMax a => some (547#10 ++ a ++ 1#16)
  | .mstatRead a => some (547#10 ++ a ++ 2#16)
  | .tdef a b r => some (576#10 ++ a ++ b ++ 0#9 ++ r)
  | .trel a => some (577#10 ++ a ++ 0#16)
  | .tstate a d => some (578#10 ++ a ++ d ++ 0#10)
  | .tfetch a b c r => some (579#10 ++ a ++ b ++ c ++ 0#3 ++ r)
  | .tgath a b c r => some (580#10 ++ a ++ b ++ c ++ 0#3 ++ r)
  | .tcommit a b c => some (581#10 ++ a ++ b ++ c ++ 0#4)
  | .twin a => some (582#10 ++ a ++ 0#16)
  | .twinRd a => some (582#10 ++ a ++ 1#16)
  | .abar a => some (608#10 ++ a ++ 0#16)
  | .abwait a => some (609#10 ++ a ++ 0#16)
  | .rginit a => some (610#10 ++ a ++ 0#16)
  | .rgawait a d => some (611#10 ++ a ++ d ++ 0#10)
  | .rgrel a => some (612#10 ++ a ++ 0#16)
  | .vdecode a => some (613#10 ++ a ++ 0#16)
  | .rshard a b c => some (640#10 ++ a ++ b ++ c ++ 0#4)
  | .rsstop a => some (641#10 ++ a ++ 0#16)
  | .rsstat a d => some (642#10 ++ a ++ d ++ 0#10)
  | .rsplan a b c => some (643#10 ++ a ++ b ++ c ++ 0#4)
  | .tcopy a b c => some (644#10 ++ a ++ b ++ c ++ 0#4)
  | .tfill a b c => some (645#10 ++ a ++ b ++ c ++ 0#4)
  | .tredf a b c o => some (646#10 ++ a ++ b ++ c ++ o)
  | .signal a b c f => some (672#10 ++ a ++ b ++ c ++ f)
  | .fflag a b w => some (673#10 ++ a ++ b ++ 0#9 ++ w)
  | .pbar a => some (674#10 ++ a ++ 0#16)
  | .mcst a b f => some (675#10 ++ a ++ b ++ 0#6 ++ f)
  | .trap n b g => some (704#10 ++ n ++ b ++ 0#9 ++ g)
  | .bkpt n => some (1410#11 ++ n ++ 0#16)
  | .watch a b => some (706#10 ++ a ++ b ++ 0#10)
  | .gstop a b => some (707#10 ++ a ++ b ++ 0#10)
  | .gresumeRetry a b w => some (708#10 ++ a ++ b ++ 0#7 ++ w ++ 0#2)
  | .gresumeFmask a b w => some (708#10 ++ a ++ b ++ 0#7 ++ w ++ 1#2)
  | .gresumeSkip a b w => some (708#10 ++ a ++ b ++ 0#7 ++ w ++ 2#2)
  | .gkill a b => some (709#10 ++ a ++ b ++ 0#10)
  | .csrrd a d => some (710#10 ++ a ++ d ++ 0#10)
  | .csrwr a b => some (711#10 ++ a ++ b ++ 0#10)
  | .tlbinv a r => some (712#10 ++ a ++ 0#14 ++ r)
  | .hrun l w a b => some (124#7 ++ l ++ w ++ a ++ b)
  | .hend f x y z => some (125#7 ++ f ++ x ++ y ++ z)
  | .himm p => some (126#7 ++ p)
  | .hmod g n p r m c o w s => some (127#7 ++ g ++ n ++ p ++ r ++ m ++ c ++ o ++ w ++ s ++ 0#6)
  | _ => none

end Sys2Proof
end

