-- ==== Sys2Proof/Config.lean ====
section
/-! DEFINITION. The free values of the model: constants without a body, so that no proof can see what they are. -/

namespace Sys2Proof

/-- The n-th free value: everything the manual leaves undefined or unspecified is drawn from here, numbered by the
counter State.fresh (log 5). -/
opaque Config.free : Nat → BitVec 64

/-- SM3 of a byte string: a function of an outside standard (R404). -/
opaque Config.sm3 : List (BitVec 8) → BitVec 256

/-- The authenticated encryption of R404 under a 128-bit key and a nonce: the cipher text of a byte string. -/
opaque Config.sm4Encrypt : BitVec 128 → Nat → List (BitVec 8) → List (BitVec 8)

/-- Its tag over cipher text and associated data. -/
opaque Config.sm4Tag : BitVec 128 → Nat → List (BitVec 8) → BitVec 128

/-- Byte n of the key stream of an SM4-GCM encryption under a key and an IV (R422). -/
opaque Config.sm4Stream : BitVec 128 → Nat → Nat → BitVec 8

/-- Does an SM2 signature of a byte string verify under a public key (R404)? -/
opaque Config.sm2Verify : BitVec 512 → List (BitVec 8) → BitVec 512 → Bool

/-- The SM2 signature a part makes with its own key (R408). -/
opaque Config.sm2Sign : List (BitVec 8) → BitVec 512

/-- What the payload bytes of a packet's flits carry: the manual does not lay them out (log 21). -/
opaque Config.packetBody : List (BitVec 8) → Packet

/-- Bytes that the unpublished payload of a saved group takes, and that of a saved team beside its tile bytes (R431): fewer
than 2^16 (log 108). -/
opaque Config.groupBytes : BitVec 16
opaque Config.teamBytes : BitVec 16

end Sys2Proof
end

