-- ==== Sys2Proof/Machine/SMap.lean ====
section
/-! DEFINITION. Sparse maps in one canonical form: keys strictly rising, no entry equal to the value of an unlisted key.
Registers, tables and memories are held in this form, so that equal contents are equal data. -/

namespace Sys2Proof.Machine

/-- A sparse map; what an unlisted key reads as is given where the map is read. -/
abbrev SMap (α : Type) := List (Nat × α)

/-- A byte-addressed memory (R6). -/
abbrev Memory := List Host.Cell

/-- The value at key `k`; `d` is what an unlisted key reads as. -/
def sget {α : Type} (d : α) : SMap α → Nat → α
  | [], _ => d
  | (j, x) :: m, k => if j = k then x else sget d m k

/-- The map with key `k` unlisted. -/
def sdel {α : Type} : SMap α → Nat → SMap α
  | [], _ => []
  | (j, x) :: m, k => if j = k then sdel m k else (j, x) :: sdel m k

/-- Insert an entry below the first greater key. -/
def sins {α : Type} (k : Nat) (x : α) : SMap α → SMap α
  | [] => [(k, x)]
  | (j, y) :: m => if k < j then (k, x) :: (j, y) :: m else (j, y) :: sins k x m

/-- Write `x` at key `k`. -/
def sput {α : Type} [DecidableEq α] (d : α) (m : SMap α) (k : Nat) (x : α) : SMap α :=
  if x = d then sdel m k else sins k x (sdel m k)

/-- The canonical form: keys above `lo` strictly rising, no entry equal to `d`. -/
def swfFrom {α : Type} [DecidableEq α] (d : α) : Nat → SMap α → Bool
  | _, [] => true
  | lo, (j, x) :: m => decide (lo ≤ j) && decide (x ≠ d) && swfFrom d (j + 1) m

/-- The canonical form of a whole map. -/
def swf {α : Type} [DecidableEq α] (d : α) (m : SMap α) : Bool := swfFrom d 0 m

/-- The canonical form of a memory whose unlisted bytes read as zero. -/
def Memory.wf (m : Memory) : Bool := swf 0#8 m

/-- Keep the entries whose key satisfies `p`. -/
def sfilter {α : Type} (p : Nat → Bool) (m : SMap α) : SMap α := m.filter (fun e => p e.1)

end Sys2Proof.Machine
end

