-- ==== Sys2Proof/Machine/State.lean ====
section
/-! DEFINITION. The state of the KQ9 package as plain data, with every piece of state the manual names (INVENTORY.md,
'## State'), and the machine right after reset. -/

namespace Sys2Proof.Machine

/-! ## A group and its fragments -/

/-- The 32 lanes of a vector register or temporary, lane 0 first (R12). -/
abbrev Lanes := List Word

/-- A register whose every lane is zero (R31). -/
def zeroLanes : Lanes := List.replicate 32 0#32

/-- An element of an accumulator (R65). -/
abbrev A56 := BitVec 56

/-- The sixteen columns of one row of an accumulator (R12, R212). -/
abbrev AccRow := List A56

def zeroRow : AccRow := List.replicate 16 0#56

/-- The registers a group shares among its fragments (R12, R134). -/
structure Regs where
  /-- v0 to v255 by effective number (R13) -/
  v : SMap Lanes
  /-- s0 to s63 (R15) -/
  s : SMap DWord
  /-- k0 to k3 (R15) -/
  k : BitVec 4
  /-- p0 to p7 (R15) -/
  p : SMap Mask
  /-- accumulator rows: accumulator × 32 + row (R212) -/
  ac : SMap AccRow
  /-- rmax side registers by accumulator × 32 + row, FP32 (R234) -/
  rmax : SMap Word
  /-- rsum side registers by accumulator × 32 + row (R234) -/
  rsum : SMap A56
  /-- bindings pending on f0 to f11; a flag is done when none is (R18) -/
  fpend : SMap Nat
  /-- XW = 8 × window (R14) -/
  window : BitVec 5
  ftz : Bool
  roundMode : BitVec 3
  fstat : BitVec 8
  fmask : Mask
  deriving DecidableEq, Repr, Inhabited

/-- The payload of an HMOD (R46). -/
structure ModHint where
  gEn : Bool
  gNeg : Bool
  gPred : BitVec 3
  rmEn : Bool
  rm : BitVec 3
  cut : Bool
  xorder : BitVec 3
  xwidth : BitVec 3
  xspace : BitVec 3
  deriving DecidableEq, Repr

/-- The hints that modify the next word, with the PC of the first of them (R48). -/
structure Hint where
  first : Addr
  imm : Option (BitVec 25)
  mod : Option ModHint
  deriving DecidableEq, Repr

/-- A launch record's fields (R129, R297). -/
structure LaunchRec where
  entry : Addr
  args : Addr
  spillBase : Addr
  clusters : Nat
  rows : Nat
  cols : Nat
  groups : Nat
  vregs : Nat
  accs : Nat
  priority : Nat
  rowstat : Bool
  tilePages : Nat
  tiles : Nat
  spillEntries : Nat
  waitThresh : Nat
  /-- (use, value, counter) -/
  deps : List (Nat × Nat × Nat)
  deriving DecidableEq, Repr

/-- What a fragment waits for until accesses under way have been performed. -/
inductive Drain where
  /-- the release component at a scope (R184), at a barrier word or not -/
  | release (scope : Nat) (bar : Bool)
  /-- FENCE.acq: loads, and reads of atomics, of the group (R193) -/
  | reads
  /-- an access to a peer's line: earlier accesses of the group, and weak stores of the core, to the line (R135, R205) -/
  | line (node line : Nat)
  /-- CFLUSH of a peer's line, or of every line (R194) -/
  | flush (line : Option (Nat × Nat))
  deriving DecidableEq, Repr

/-- Where a fragment waits (R133, R304). -/
inductive Wait where
  | ready
  /-- WAITF and the wait mask of HRUN: every named flag done -/
  | flags (m : BitVec 12)
  /-- JOIN of its entry (R136) -/
  | join
  /-- gathering at a barrier word (R156): 0 team, 1 cluster, 2 pod barrier, number, scope, explicit count, split-phase? -/
  | gather (kind : Nat) (b : Nat) (scope : Nat) (cnt : Option Nat) (split : Bool)
  /-- the arrival is made; until the phase has reached `ph` (R156) -/
  | phase (kind : Nat) (b : Nat) (ph : Nat)
  /-- an outstanding arrival of the group at the barrier (R156 step 8) -/
  | arrivalOut (kind : Nat) (b : Nat)
  /-- TBARW (R158) -/
  | barw (b : Nat)
  /-- until the tile of the team is in one of the states (R169) -/
  | tile (n : Nat) (states : List Nat)
  /-- ABWAIT until the barrier fires or is idle (R259) -/
  | abar (b : Nat)
  /-- ring r: until a slot is published, or until one is free (R261, R262) -/
  | ringData (r : Nat)
  | ringSpace (r : Nat)
  /-- until the fetch window admits a request of that many bytes (R254) -/
  | window (bytes : Nat)
  /-- until a queue of the engines has room (R251) -/
  | queue (kind : Nat)
  /-- MWAIT for a batch (R224) -/
  | batch (b : Nat)
  /-- until the matrix engine's queue has room (R226) -/
  | matrix
  /-- until tile n is not in use by a matrix word (R226) -/
  | tileIdle (n : Nat)
  /-- until no word that names accumulator a is incomplete (R226) -/
  | accIdle (a : Nat)
  /-- LAUNCH of a record already read: until the device list of queue q has room (R299) -/
  | deviceList (q : Nat) (r : LaunchRec)
  /-- until the Strudel engine is free (R286) -/
  | strudel
  /-- until the responses of an access to peer packages have arrived (R187): the number of its word -/
  | peer (id : Nat)
  /-- CSRRD of FRWAIT while head = tail (R322) -/
  | frwait
  /-- until the split entry of the fragment is refilled (R137) -/
  | refill
  /-- until accesses under way have been performed -/
  | drain (d : Drain)
  /-- TLBINV: until every access under way has been performed (R336) -/
  | performed
  deriving DecidableEq, Repr, Inhabited

/-- The start of a fused sequence that the fragment has issued (R87): a VMUL of a type (0 FP32, 1 to 4 the types of
major 6) into field value d, a multiply-add into d, a compare into predicate p, an SLEA into scalar register n. -/
inductive Fuse where
  | none
  | mul (ty : Nat) (d : BitVec 7)
  | mulAdd (d : BitVec 7)
  | cmp (p : BitVec 3)
  | lea (n : BitVec 6)
  deriving DecidableEq, Repr, Inhabited

/-- Where a fragment stood that a late fault has put back to a storing word (R312, R313): once it has come to `next`, the
address after that word, it goes on there (log 99). -/
structure Back where
  next : Addr
  pc : Addr
  wait : Wait
  deriving DecidableEq, Repr

/-- A fragment (R133). `limit` and `nowatch` act on its next unit only (R331). -/
structure Frag where
  pc : Addr
  member : Mask
  exec : Mask
  wait : Wait
  entry : Nat
  starve : Nat
  /-- times that it was its slot's choice and another slot's issued (R140) -/
  passed : Nat
  hint : Option Hint
  limit : Option Mask
  nowatch : Bool
  fuse : Fuse
  /-- where the fragment goes on after storing words at which late faults have put it back (R313, R331) -/
  back : List Back
  deriving DecidableEq, Repr, Inhabited

/-- A split entry (R136); the root is entry 0 and not listed. -/
structure SplitEntry where
  id : Nat
  join : Addr
  held : Mask
  parent : Nat
  /-- slot of the spill area that holds the entry, and the number of the free values written there (R137) -/
  spilled : Option (Nat × Nat)
  deriving DecidableEq, Repr

/-- A register that a field names (R13). -/
inductive RegRef where
  | temp (i : Nat)
  | reg (r : Nat)
  deriving DecidableEq, Repr

/-- What a word of a run reads (R76). -/
inductive Loc where
  | vec (r : RegRef)
  | scalar (i : Nat)
  | pred (i : Nat)
  | cond
  deriving DecidableEq, Repr

/-- A destination of a word of a run, with its value before the word (R90). -/
inductive Dest where
  | vec (r : RegRef) (old : Lanes)
  | scalar (i : Nat) (old : DWord)
  | pred (i : Nat) (old : Mask)
  | cond (old : BitVec 4)
  deriving DecidableEq, Repr

/-- A word of a run that has issued and not completed (R76, R90). -/
structure InFlight where
  /-- index in the run -/
  idx : Nat
  /-- first-digit time and completion time in digit times from HRUN (R76) -/
  first : Nat
  complete : Nat
  /-- the first-digit time that its issue clock alone gives -/
  least : Nat
  /-- digits of the stream, 0 for a word that does not stream (R74, R77) -/
  len : Nat
  srcs : List Loc
  dests : List Dest
  /-- flags each lane raises (R58) -/
  flags : List (BitVec 8)
  /-- the word decides early (R83) -/
  decides : Bool
  /-- lanes in which an early decision may settle (R84) -/
  open_ : Mask
  /-- for a word that returns one of its operands: the place among `srcs` of what each lane returns (R84, R85) -/
  returned : List (Option Nat)
  /-- lanes in which the decision has settled before the streams were complete (R84) -/
  early : Mask
  /-- lanes for which the word acts -/
  active : Mask
  cancelled : Mask
  done : Bool
  deriving DecidableEq, Repr

/-- An open run (R79, R80, R90). -/
structure Run where
  base : Addr
  len : Nat
  /-- clock of the latest unit counted from HRUN (R76) -/
  clock : Nat
  flagLd : Nat
  flagMrd : Nat
  /-- the words at indices 1 to length + 1, as HRUN found them (R44) -/
  words : List Instr
  temps : SMap Lanes
  /-- number of the free values that a lane of a temporary reads before a word of the run writes it (R81), and a lane of
  `lost` -/
  seed : Nat
  /-- lanes of each vector register that a failed MRD was to write: words of the run read free values there (R233) -/
  lost : SMap Mask
  /-- lanes of each temporary written in this run (R81) -/
  twritten : SMap Mask
  flight : List InFlight
  /-- a deferred fault of an MRD: cause and the MRD's address (R233) -/
  deferred : Option (Nat × Addr)
  /-- loads and MRDs of the run still to issue (R43) -/
  loadsLeft : Nat
  mrdsLeft : Nat
  /-- the bindings of flag_ld and flag_mrd have completed -/
  ldDone : Bool
  mrdDone : Bool
  deriving DecidableEq, Repr, Inhabited

/-- The HEND of a closed run whose registers are not all committed (R43). -/
structure HendFlag where
  flag : Nat
  /-- registers named; none named means every result of the run -/
  regs : List Nat
  /-- what has not completed, its times counted from the HRUN of the latest run to start -/
  flight : List InFlight
  /-- clock of the HEND, counted from that HRUN -/
  clock : Nat
  deriving DecidableEq, Repr

/-- A watchpoint slot (R326). -/
structure WatchSlot where
  addr : Nat
  lg : Nat
  space : Nat
  exec : Bool
  read : Bool
  write : Bool
  atomic : Bool
  async : Bool
  deriving DecidableEq, Repr

/-- Why and how a group is stopped (R312, R331). -/
structure Stop where
  cause : Nat
  /-- lanes of the fragment that caused the stop, 0 when none did -/
  frag : Mask
  /-- the modes of GRESUME apply (R331) -/
  modal : Bool
  /-- where .skip continues -/
  skipTo : Addr
  deriving DecidableEq, Repr

/-- The word behind a request to a peer: its number, its fragment, the addresses of its unit and of the word after it. -/
structure WordAt where
  id : Nat
  frag : Mask
  unit : Addr
  next : Addr
  deriving DecidableEq, Repr

/-- A lane that has faulted (R313): lane, cause, effective address, outcome unknown? -/
abbrev LaneFault := Nat × Nat × Nat × Bool

/-- A fault found after issue that waits for the next unit boundary of its group: an engine command's (R269), or that of the
lanes of a word that reached peers (R313). -/
inductive CmdFault where
  | command (cause unit index addr : Nat) (pc : Addr)
  | lanes (word : WordAt) (faults : List LaneFault)
  deriving DecidableEq, Repr

/-- An atomic word that has served some of its lanes, others still to serve (R189): the fragment, the lanes served, what they
returned, their faults, what they wrote, and the operations for peers. -/
structure LanePart where
  frag : Mask
  served : Mask
  values : List (Nat × BitVec 128)
  faults : List LaneFault
  peers : List (Nat × Nat × LaneOp)
  tile : List (Nat × Nat)
  job : List (Nat × Nat)
  deriving DecidableEq, Repr

/-! ## Matrix work and engine commands of a group -/

/-- What a matrix word does (R218). -/
inductive MOp where
  | mma | mmas | mmao | zero | rd | wr | epi | statReset | statMax | statRead
  deriving DecidableEq, Repr

/-- The A latch (R221): eight A registers, the scale register, the metadata registers. -/
structure Latch where
  a : List Lanes
  scale : Option Lanes
  metas : Option (List Lanes)
  deriving DecidableEq, Repr

/-- A matrix word that has issued and not completed (R226, R227). -/
structure MWord where
  op : MOp
  pc : Addr
  ow : DWord
  fb : DWord
  cmd : DWord
  offw : DWord
  cols : Nat
  raw : Bool
  exec : Mask
  /-- A registers, scale and metadata as they stood at issue, from the latch or the registers -/
  a : List Lanes
  scale : Option Lanes
  metas : List Lanes
  /-- the operand registers that a write would spoil (R209), by the numbers of their results; none for latched items -/
  live : List Nat
  /-- sources of MWR, read at issue -/
  src : List Lanes
  /-- destination registers with the numbers of their results (R227) -/
  dst : List (Nat × Nat)
  /-- tiles the word reads or writes, by the key of the tile table (R226) -/
  tiles : List Nat
  /-- overwritten tile bytes recorded at the group's latest MRDY, and at issue (R209) -/
  since : Nat
  issued : Nat
  /-- the batch it was closed into; none while the batch is open -/
  batch : Option Nat
  deriving DecidableEq, Repr

/-- What a batch delivers to a register at its MWAIT (R209, R227): the results of a destination, or the contents of an
operand register; until then the register holds free values. -/
structure MResult where
  batch : Option Nat
  id : Nat
  reg : Nat
  mask : Mask
  value : Lanes
  /-- lanes that the group has written since -/
  touched : Mask
  /-- an operand register of MMA, MMAS or MMAO, with the accumulator and rows whose results a write would undo -/
  operand : Bool
  acc : Nat
  rows : Mask
  deriving DecidableEq, Repr

/-- Matrix state of a group (R221, R223, R238). Batch 16 stands for the open batch. -/
structure MatrixState where
  latch : Option Latch
  words : List MWord
  results : List MResult
  /-- flags to be ORed into FSTAT at completion, by batch (R21) -/
  flags : SMap (BitVec 8)
  /-- the batch read a poisoned word and no MWAIT has reported it (R238) -/
  poison : SMap Bool
  /-- completion flags bound to batches: (batch, flag) (R223) -/
  binds : List (Nat × Nat)
  deriving DecidableEq, Repr, Inhabited

def MatrixState.reset : MatrixState :=
  { latch := none, words := [], results := [], flags := [], poison := [], binds := [] }

/-- Identity and placement of a group (R23, R126, R303, R318). -/
structure GroupId where
  grid : Nat
  clu : Nat
  team : Nat
  grp : Nat
  job : BitVec 16
  /-- CORE of R23 -/
  core : Nat
  slot : Nat
  pos : Nat
  /-- residency order (R303) -/
  order : Nat
  priority : Nat
  privileged : Bool
  /-- vector registers and accumulators allotted (R128) -/
  vregs : Nat
  accs : Nat
  deriving DecidableEq, Repr, Inhabited

/-- A word of R329 that a saved group (R344) or a group with an open run (R329) has not met yet: 0 GSTOP, 1 GRESUME, 2 GKILL; selector, member, mode, nowatch, issuer. -/
structure HeldWord where
  kind : Nat
  sel : DWord
  member : DWord
  mode : Nat
  nowatch : Bool
  issuer : BitVec 32
  deriving DecidableEq, Repr

/-- A group: registers, fragments with the current one first, split table, run, watchpoints, stop (R12, R133, R136). -/
structure Group where
  /-- false for the record that stands before any group has been launched, and for a group that has ended -/
  alive : Bool
  /-- the cluster is swapped out (R306) -/
  swapped : Bool
  id : GroupId
  regs : Regs
  frag : Frag
  sibs : List Frag
  entries : List SplitEntry
  run : Option Run
  hend : List HendFlag
  watch : SMap (Option WatchSlot)
  stop : Option Stop
  cmdFaults : List CmdFault
  /-- the word under way that has served some of its lanes -/
  part : Option LanePart
  /-- words of R329 that wait for the end of the open run -/
  due : List HeldWord
  /-- flags whose completion is an acquire (R208), each with the scope of its latest command -/
  facq : SMap Nat
  /-- team barriers at which the group has made an arrival by TBARA (R158) -/
  split : BitVec 16
  /-- YIELD: the other groups of the slot that must issue first, by order (R103) -/
  yield : List Nat
  /-- clocks since a fragment of the group issued (R305) -/
  idle : Nat
  /-- overwritten tile bytes recorded at the group's latest MRDY (R209, R225) -/
  mrdy : Nat
  matrix : MatrixState
  deriving DecidableEq, Repr, Inhabited

/-! ## Teams, clusters, launches -/

/-- A team or cluster barrier (R155 to R157). -/
structure Barrier where
  phase : Nat
  /-- count fixed by the first arrival of the phase: none before it, some (explicit?, count) after -/
  count : Option (Bool × Nat)
  arrived : Nat
  /-- groups (team, grp) whose arrival in the current phase is outstanding -/
  who : List (Nat × Nat)
  deriving DecidableEq, Repr

def Barrier.reset : Barrier := { phase := 0, count := none, arrived := 0, who := [] }

/-- An arrival barrier (R257, R258): 0 idle, 1 armed, 2 fired; count, bound, done. -/
structure ABar where
  st : Nat
  c : Nat
  k : Nat
  n : Nat
  deriving DecidableEq, Repr

def ABar.reset : ABar := { st := 0, c := 0, k := 0, n := 0 }

/-- A ring (R260, R261). The four counters run modulo 2^32. -/
structure Ring where
  live : Bool
  mode : Nat
  first : Nat
  n : Nat
  res : Nat
  wr : Nat
  cl : Nat
  rd : Nat
  /-- complete and not yet published -/
  complete : List Nat
  /-- claimed, released, and not yet passed by rd -/
  released : List Nat
  deriving DecidableEq, Repr

def Ring.reset : Ring :=
  { live := false, mode := 0, first := 0, n := 0, res := 0, wr := 0, cl := 0, rd := 0, complete := [], released := [] }

/-- A team (R126, R161, R167, R255 to R260). -/
structure Team where
  grid : Nat
  clu : Nat
  team : Nat
  core : Nat
  job : BitVec 16
  groups : Nat
  /-- first 4 KiB page of the allotment in the core's array, and its length -/
  tileBase : Nat
  tilePages : Nat
  /-- first entry of the tile-table range, and its length -/
  tabBase : Nat
  tabCount : Nat
  kibMax : Nat
  reqMax : Nat
  abars : SMap ABar
  rings : SMap Ring
  bars : SMap Barrier
  deriving DecidableEq, Repr, Inhabited

/-- A cluster (R131, R305 to R307). -/
structure Cluster where
  grid : Nat
  clu : Nat
  rows : Nat
  cols : Nat
  die : Nat
  row : Nat
  col : Nat
  swapped : Bool
  /-- a wait of the swapped-out cluster has ended (R307) -/
  woken : Bool
  bars : SMap Barrier
  deriving DecidableEq, Repr

/-- State of a tile (R167). -/
inductive TileState where
  | empty | filling | ready | draining
  deriving DecidableEq, Repr, Inhabited

/-- A tile-table entry (R167, R247). -/
structure TileEntry where
  defined : Bool
  off : Nat
  size : Nat
  pitch : Nat
  st : TileState
  deriving DecidableEq, Repr, Inhabited

def TileEntry.reset : TileEntry := { defined := false, off := 0, size := 0, pitch := 0, st := .empty }

/-- Errors of a core's tile memory (R162, R165, R166). -/
structure TileErrors where
  corrected : Nat
  uncorrectable : Bool
  failedParity : BitVec 4
  failedData : BitVec 32
  deriving DecidableEq, Repr

def TileErrors.reset : TileErrors := { corrected := 0, uncorrectable := false, failedParity := 0#4, failedData := 0#32 }

/-- A dimension of a tensor descriptor (R243). -/
structure Dim where
  stride : Int
  size : Nat
  ext : Nat
  samp : Nat
  deriving DecidableEq, Repr

/-- A tensor descriptor (R243). -/
structure Desc where
  base : Nat
  oob : Bool
  esize : Nat
  dims : List Dim
  deriving DecidableEq, Repr

def Desc.none : Desc := { base := 0, oob := false, esize := 1, dims := [] }

/-- The engine commands that outlive their word (R251, R311). -/
inductive CmdKind where
  | tfetch | tgath | tcommit | tredf | tcopy | tfill | rshard | rsplan | signal | mcst | fflag | pbar
  deriving DecidableEq, Repr

/-- An engine command accepted and not complete (R251). -/
structure Cmd where
  id : Nat
  kind : CmdKind
  grid : Nat
  clu : Nat
  team : Nat
  grp : Nat
  core : Nat
  job : BitVec 16
  pc : Addr
  /-- flag bound, 15 none -/
  flag : Nat
  ab : Option Nat
  /-- ring and sequence of a .ring fetch -/
  ring : Option (Nat × Nat)
  tile : Option Nat
  src : Desc
  dst : Desc
  origin : List Nat
  idx : Lanes
  exec : Mask
  /-- TREDF op, or function of a combined store -/
  op : Nat
  pattern : DWord
  /-- bytes counted in the fetch window (R254) -/
  bytes : Nat
  /-- overwritten tile bytes recorded at issue (R170, R394) -/
  at_ : Nat
  /-- the source tile has been read (R264) -/
  read : Bool
  /-- bytes taken from the source tile -/
  image : List Byte
  /-- 512-byte chunks of the image that are not marked or moved (R256) -/
  chunks : List Nat
  /-- bytes received from peers, by tile offset -/
  got : SMap (Option Byte)
  /-- first failure after issue (R269): detail of class 16, unit, index, address -/
  fail : Option (Nat × Nat × Nat × Nat)
  /-- requests to peer packages or modules still unanswered -/
  waiting : Nat
  /-- key of the tile's first byte in tile memory, and the pitch of the placement (R246) -/
  key : Nat
  pitch : Nat
  /-- the chunk whose requests are out -/
  cur : Option Nat
  /-- image offsets of the elements of a fetched chunk that have not landed yet, when others of it have (R170) -/
  left : List Nat
  /-- scope of the acquire that passing the flag is (R208) -/
  scope : Nat
  /-- 16-byte words of the image that were poisoned when they were read (R264) -/
  bad : List Nat
  /-- FFLAG: transactions and commands that come before it (R396) -/
  awaits : List Nat
  after : List Nat
  /-- watch slots, by group and number, for which the command has posted its event (R328) -/
  watched : List (Nat × Nat × Nat × Nat × Nat)
  deriving DecidableEq, Repr

/-! ## Launches and queues -/

/-- A launch (R295, R311). -/
structure Launch where
  grid : Nat
  job : BitVec 16
  record : LaunchRec
  privileged : Bool
  /-- queue and list of the record; index in the host ring -/
  queue : Nat
  device : Bool
  entryAddr : Nat
  /-- clusters started -/
  started : Nat
  killed : Bool
  /-- no further cluster starts (R332) -/
  stopped : Bool
  deriving DecidableEq, Repr

/-- A record that a queue has taken from its ring and not yet checked (R294): a list's head is checked. -/
structure TakenRecord where
  grid : Nat
  entry : Nat
  job : BitVec 16
  bytes : List Byte
  /-- its signature has verified, or none is asked (R421) -/
  signed : Bool
  privileged : Bool
  deriving DecidableEq, Repr

/-- A launch queue (R293 to R295). -/
structure Queue where
  base : BitVec 57
  job : BitVec 16
  logEntries : BitVec 4
  signed : Bool
  enable : Bool
  tail : BitVec 32
  head : BitVec 32
  stalled : Bool
  /-- a stalled queue reads its entry again: a register was written (R294) -/
  retry : Bool
  /-- the record at the head of the host ring's list, those behind it, and the device list -/
  host : List Launch
  taken : List TakenRecord
  dev : List Launch
  /-- records each list has taken since reset (R295) -/
  takenHost : Nat
  takenDev : Nat
  deriving DecidableEq, Repr

def Queue.reset : Queue :=
  { base := 0#57, job := 0#16, logEntries := 4#4, signed := true, enable := false, tail := 0#32, head := 0#32,
    stalled := false, retry := false, host := [], taken := [], dev := [], takenHost := 0, takenDev := 0 }

/-- The scheduler (R296, R300, R301, R308). -/
structure Sched where
  queues : SMap Queue
  counters : SMap (BitVec 32)
  launches : List Launch
  /-- last list served at each priority, plus 1 -/
  lastList : SMap Nat
  /-- die tried first -/
  nextDie : Nat
  order : Nat
  gstart : BitVec 64
  gjob : BitVec 16
  late : Bool
  running : Bool
  arm : Bool
  /-- pod time at which the latest freeze of the schedule began (R309) -/
  freezeFrom : Nat
  /-- the start of the armed slice passed during a freeze, so it is not late; its gang-late record is posted (R309) -/
  excused : Bool
  told : Bool
  deriving DecidableEq, Repr

def Sched.reset : Sched :=
  { queues := [], counters := [], launches := [], lastList := [], nextDie := 0, order := 0, gstart := 0#64,
    gjob := 0#16, late := false, running := false, arm := false, freezeFrom := 0, excused := false, told := false }

/-! ## The fault unit -/

/-- A fault record (R317). -/
structure Record where
  time : BitVec 64
  source : BitVec 32
  cause : Nat
  job : BitVec 16
  grid : Nat
  clu : Nat
  core : Nat
  inRun : Bool
  team : Nat
  grp : Nat
  pc : Nat
  nfrag : Nat
  fmask : Mask
  addr : Nat
  aux : BitVec 64
  deriving DecidableEq, Repr

/-- The fault unit (R319 to R321). -/
structure FaultUnit where
  supEnable : Bool
  supQueue : BitVec 6
  base : BitVec 57
  job : BitVec 16
  lost : Nat
  supFault : Bool
  heldBit : Bool
  logEntries : BitVec 4
  enable : Bool
  tail : BitVec 32
  head : BitVec 32
  /-- records accepted and not yet posted, oldest first -/
  records : List Record
  deriving DecidableEq, Repr

def FaultUnit.reset : FaultUnit :=
  { supEnable := false, supQueue := 0#6, base := 0#57, job := 0#16, lost := 0, supFault := false, heldBit := false,
    logEntries := 6#4, enable := false, tail := 0#32, head := 0#32, records := [] }

/-! ## Memory -/

/-- A leaf of a translation (R175): kind, permissions, unit, physical address of the first byte, lg of the page. -/
structure Leaf where
  kind : Nat
  read : Bool
  write : Bool
  exec : Bool
  unit : Nat
  addr : Nat
  lg : Nat
  deriving DecidableEq, Repr

/-- A group as stores and requests carry it: grid, cluster, team, group. -/
abbrev GroupKey := Nat × Nat × Nat × Nat

/-- A store that has entered a core's L1 and is not yet performed at the home of its line (R173, R183, R205). -/
structure LateStore where
  core : Nat
  /-- the storing group -/
  owner : GroupKey
  addr : Nat
  bytes : List Byte
  /-- another group has read it through the L1, or a release covers it: no access of the core reaches the home before it -/
  seen : Bool
  deriving DecidableEq, Repr

/-- A tile byte that a store has overwritten, and its value before (R209): the storing group, none for an engine. -/
structure OldByte where
  key : Nat
  old : Byte
  writer : Option GroupKey
  deriving DecidableEq, Repr

/-- A byte that MEPI has written and no MWAIT has passed (R227): its group, its batch, its value before. -/
structure EpiByte where
  owner : GroupKey
  batch : Nat
  key : Nat
  old : Byte
  deriving DecidableEq, Repr

/-- A load on its way to a peer's line whose answer enters the L1 of its core: it allocates the bytes, or replaces those held
(R173, R184). -/
structure PeerFill where
  word : Nat
  core : Nat
  node : Nat
  line : Nat
  allocates : Bool
  deriving DecidableEq, Repr

/-- The memories of the package and what caches them. -/
structure Mem where
  /-- package memory (R172) and its poisoned 8-byte words -/
  pkg : Memory
  pkgPoison : SMap Bool
  /-- tile memory, CORE × 2^21 + physical tile address (R161), its poisoned 16-byte words, the job + 1 that owned each
  page last (R32) -/
  tile : Memory
  tilePoison : SMap Bool
  tileOwner : SMap Nat
  /-- tile bytes overwritten, oldest first (R209) -/
  tileOld : List OldByte
  /-- destination bytes of MEPI words before their MWAIT (R227) -/
  epi : List EpiByte
  tileErrors : SMap TileErrors
  /-- words of the tile banks whose locating code reports an error that no read has met yet (R162): a word of a data bank as
  in `tilePoison`, the word of parity bank g in a row at 2^40 + (CORE × 4 + g) × 4096 + row -/
  tileFlaw : SMap Bool
  /-- rows of each bank at which an error was corrected (R165): (CORE × 64 + bank) × 4096 + row, parity bank g as bank 32 + g -/
  corrected : SMap Bool
  /-- tile table, CORE × 256 + entry (R167) -/
  table : SMap TileEntry
  /-- L1 lines, CORE × 2^24 + line number (R173), as they were read -/
  l1 : SMap (Option (List Byte))
  /-- bytes of peer packages' lines that the L1 holds (R173): (CORE × 4,096 + node) × 2^31 + physical address -/
  peerL1 : SMap (Option Byte)
  /-- answers of peers that may enter the L1 -/
  fills : List PeerFill
  /-- stores of each core that are not yet performed at their homes, oldest first -/
  late : List LateStore
  /-- the stores of the word that issues next stay in the L1 for a while: drawn anew for each unit (R183) -/
  delay : Bool
  /-- lanes of an atomic word served before other groups may come between, 0 for all: drawn anew for each unit (R189) -/
  cut : Nat
  /-- instruction-cache lines, CORE × 2^24 + line number (R194) -/
  icache : SMap (Option (List Byte))
  /-- lines of package memory as they stood before a group stored into them: what may have been prefetched (R28) -/
  older : SMap (Option (List Byte))
  /-- cached translations (R178): leaves by 4 KiB page of job space, and table entries above them by `walkKey`, as a leaf of
  kind 0 that names the next table -/
  tlb : SMap (Option Leaf)
  jptb : BitVec 64
  /-- far memory, module × 2^41 + module address (R240) -/
  far : Memory
  farPoison : SMap Bool
  /-- a re-shard has been issued: writes of far memory and stores into package memory are on record, newest first, by the first
  byte and the length (R285, R286) -/
  tracked : Bool
  farLog : List (Nat × Nat)
  homeLog : List (Nat × Nat)
  /-- corrected SECDED errors (R423) -/
  corrections : Nat
  deriving DecidableEq, Repr

def Mem.reset : Mem :=
  { pkg := [], pkgPoison := [], tile := [], tilePoison := [], tileOwner := [], tileOld := [], epi := [], tileErrors := [], tileFlaw := [], corrected := [],
    table := [], l1 := [], peerL1 := [], fills := [], late := [], delay := false, cut := 0, icache := [], older := [], tlb := [], jptb := 0#64, far := [], farPoison := [],
    tracked := false, farLog := [], homeLog := [], corrections := 0 }

/-! ## The pod fabric (R365 to R403) -/

/-- Who waits for a transaction (R374). -/
inductive TxnOwner where
  /-- a lane access whose fragment waits for its answers -/
  | lanes (id : Nat)
  /-- a weak store packet of a group: its core, and its words with the effective address of each lane -/
  | weak (owner : GroupKey) (core : Nat) (words : List (WordAt × List (Nat × Nat)))
  /-- an engine command -/
  | cmd (id : Nat)
  /-- box `k` of the re-shard of command `id` (R280) -/
  | box (id k : Nat)
  /-- a combined request of the relay -/
  | relay (id : Nat)
  deriving DecidableEq, Repr

/-- A transaction of this package (R374 to R377, R388). -/
structure Txn where
  pk : Packet
  owner : TxnOwner
  /-- job-space address of the first element of an engine's request -/
  ea : Nat
  /-- pod time at which the end-to-end timer started, later by the intervals that refusals cover (R375) -/
  started : Nat
  /-- pod time of the first refusal as not resident, and of the one that waits for its retry (R310) -/
  refused : Option Nat
  held : Option Nat
  /-- a cancel is out: reason 0 timeout, 1 relay onward loss, with the relay, and the pod time of its sending (R388) -/
  cancel : Option (Nat × Nat × Nat)
  /-- a SIGNAL answered busy waits for its retry -/
  busy : Bool
  /-- the attempt whose answer is being taken (R377) -/
  locked : Option (BitVec 2)
  deriving DecidableEq, Repr

/-- Where a lane access puts the values it reads: a block of registers, or a scalar register. -/
inductive Target where
  | block (rs : List RegRef)
  | scalar (n : BitVec 6)
  deriving DecidableEq, Repr

/-- How a lane-access word ends: the scope of its acquire component, and what a weak load reads and writes, with the operand
that a fused sequence hands it (R87). -/
structure WordEnd where
  acq : Option Nat
  load : Option (List Loc × List Dest × Option Loc)
  deriving DecidableEq, Repr

/-- A lane access whose fragment waits for peers (R187, R313). -/
structure PeerAccess where
  word : WordAt
  owner : GroupKey
  core : Nat
  /-- code of R316, bytes of each lane -/
  acc : Nat
  size : Nat
  target : Target
  ends : WordEnd
  /-- the word's own address, its hints, and the fused sequence that it goes on with -/
  pc : Addr
  hint : Option Hint
  fuse : Fuse
  /-- a word that acts once, not lane by lane -/
  single : Bool
  /-- lanes not yet answered -/
  open_ : Mask
  /-- effective address of each lane -/
  eas : List (Nat × Nat)
  faults : List LaneFault
  deriving DecidableEq, Repr

/-- A weak-write packet held by the coalescer (R386). -/
structure Held where
  id : Nat
  owner : GroupKey
  core : Nat
  job : BitVec 16
  node : Nat
  line : Nat
  ops : List LaneOp
  words : List (WordAt × List (Nat × Nat))
  deriving DecidableEq, Repr

/-- A target's record of a request (R376, R388). -/
structure TargetRecord where
  src : Nat
  tag : Nat
  answer : Option Packet
  cancelled : Bool
  /-- pod time of the answer, or of the record -/
  at_ : Nat
  deriving DecidableEq, Repr

/-- Requests that a relay combines (R387), or a multicast packet that it forwards (R397). -/
structure Combine where
  id : Nat
  /-- requests in the order in which they joined; one, for a multicast packet that the relay forwards (R397) -/
  members : List Packet
  sent : Bool
  /-- copies of a multicast packet still unanswered, and the worst status answered -/
  left : Nat
  status : Nat
  deriving DecidableEq, Repr

/-- A pod barrier of a job (R398, R399). -/
structure PodBar where
  phase : Nat
  /-- count and multicast group fixed by the first arrival of the phase -/
  cfg : Option (Nat × Nat)
  arrived : Nat
  /-- groups (grid, clu, team, grp) waiting -/
  who : List (Nat × Nat × Nat × Nat)
  /-- member nodes by the snapshot of this package, once the package has arrived -/
  members : List Nat
  /-- nodes known to have arrived in this phase, and in the next -/
  known : List Nat
  later : List Nat
  deriving DecidableEq, Repr

def PodBar.reset : PodBar :=
  { phase := 0, cfg := none, arrived := 0, who := [], members := [], known := [], later := [] }

/-- Time service (R401 to R403). -/
structure Halley where
  master : BitVec 12
  enable : Bool
  succ0 : BitVec 60
  succ1 : BitVec 36
  /-- node and rank of the current master (R402) -/
  curMaster : BitVec 12
  curRank : BitVec 4
  frozen : Bool
  synced : Bool
  /-- lowest claim accepted in the running election -/
  claim : Option Nat
  /-- the package has sent its own claim -/
  claimed : Bool
  /-- TIME runs at half rate until it agrees with the master -/
  slow : Bool
  /-- pod time of the latest time packet, of the detection of silence, and of the claim accepted (R403) -/
  heard : Nat
  detected : Nat
  claimAt : Nat
  deriving DecidableEq, Repr

def Halley.reset : Halley :=
  { master := 0#12, enable := false, succ0 := 0#60, succ1 := 0#36, curMaster := 0#12, curRank := 0#4, frozen := false,
    synced := false, claim := none, claimed := false, slow := false, heard := 0, detected := 0, claimAt := 0 }

/-- The fabric interface. -/
structure Fabric where
  txns : List Txn
  peers : List PeerAccess
  held : List Held
  targets : List TargetRecord
  combines : List Combine
  /-- lost routes by destination: bit 0 row-first, bit 1 column-first (R388) -/
  lost : SMap Nat
  /-- pod time at which a mark of `lost` was set, by 2 × destination + bit -/
  lostAt : SMap Nat
  /-- MGBASE and MGUPD, and the installed multicast entries: members of a valid entry (R390) -/
  mgBase : BitVec 14
  mgBusy : Bool
  mgGroup : BitVec 8
  mcast : SMap (Option (List Nat))
  /-- pod barriers by job × 8 + number -/
  bars : SMap PodBar
  halley : Halley
  nextTag : Nat
  /-- packets handed to the links, oldest first -/
  outbox : List Packet
  /-- packets of ops 20 to 22 for the next lit interval, and other peer packets that wait for it, with their link (R385) -/
  urgent : List Packet
  waiting : List (Nat × Packet)
  deriving DecidableEq, Repr

def Fabric.reset : Fabric :=
  { txns := [], peers := [], held := [], targets := [], combines := [], lost := [], lostAt := [], mgBase := 0#14, mgBusy := false,
    mgGroup := 0#8, mcast := [], bars := [], halley := Halley.reset, nextTag := 0, outbox := [],
    urgent := [], waiting := [] }

/-! ## Optical links (R362 to R380) -/

/-- A physical link (R373, R379). -/
structure Link where
  replays : BitVec 12
  crcErr : BitVec 12
  lost : BitVec 17
  subst : BitVec 5
  changed : Bool
  state : BitVec 4
  /-- width after the retraining in progress: substitution when true (R371) -/
  toSpare : Bool
  /-- the losses being retrained are all part of a laser loss, which posts no record of the link (R378) -/
  quiet : Bool
  /-- pod time at which training began (R373) -/
  began : Nat
  deriving DecidableEq, Repr

def Link.reset : Link :=
  { replays := 0#12, crcErr := 0#12, lost := 0#17, subst := 31#5, changed := false, state := 0#4, toSpare := false,
    quiet := false, began := 0 }

/-- A comb laser (R380). -/
structure Laser where
  bias : BitVec 16
  hours : BitVec 24
  linesLost : BitVec 16
  aged : Bool
  lost : Bool
  lit : Bool
  /-- the ratio has been below the threshold since aged was cleared -/
  below : Bool
  /-- when it was lit, on the clock `ran` of the links: `hours` are those before (R380) -/
  since : Nat
  deriving DecidableEq, Repr

def Laser.reset : Laser :=
  { bias := 0#16, hours := 0#24, linesLost := 0#16, aged := false, lost := false, lit := false, below := true, since := 0 }

/-- A logical link (R365, R368, R369): numbers of the two directions and the flits not yet acknowledged. -/
structure Logical where
  nextSeq : BitVec 12
  expect : BitVec 12
  /-- unacknowledged flits: (seq, tag, part) -/
  unacked : List (BitVec 12 × BitVec 22 × BitVec 4)
  /-- a NAK of the expected number has been sent -/
  nakSent : Bool
  /-- replays with no advance of the ack -/
  stalled : Nat
  /-- flits accepted of packets whose last flit has not arrived -/
  parts : List (BitVec 1024)
  /-- when the ack last advanced, a replay began, or the first unacknowledged flit was sent, on the clock of the link: pod time, or
  lit time for a link to a peer (R369) -/
  since : Nat
  deriving DecidableEq, Repr

def Logical.reset : Logical := { nextSeq := 0#12, expect := 0#12, unacked := [], nakSent := false, stalled := 0, parts := [], since := 0 }

/-- What the link layer sends beside packets (R368, R369): a NAK of the number that a logical link expects, a replay from a
number on. -/
inductive LinkOut where
  | nak (link : Nat) (seq : BitVec 12)
  | replay (link : Nat) (seq : BitVec 12)
  deriving DecidableEq, Repr

/-- The link layer. -/
structure Links where
  links : SMap Link
  lasers : SMap Laser
  /-- memory link n at n, the link to peer p at 4096 + p -/
  logical : SMap Logical
  /-- the lit interval of the phase is open (R364) -/
  lit : Bool
  /-- number of the phase that has begun (R382) -/
  phase : Nat
  /-- NAKs and replays sent, oldest first -/
  control : List LinkOut
  /-- ns that have passed on the package's own clock since reset, for the hours of the lasers (R380) -/
  ran : Nat
  deriving DecidableEq, Repr

def Links.reset : Links := { links := [], lasers := [], logical := [], lit := false, phase := 0, control := [], ran := 0 }

/-! ## Strudel (R273 to R292) -/

/-- A layout record (R273). -/
structure Layout where
  fmt : Nat
  naxes : Nat
  rank : Nat
  table : Nat
  sizes : List Nat
  mesh : List Nat
  /-- (axis, kind, bsize) of each dimension -/
  parts : List (Nat × Nat × Nat)
  deriving DecidableEq, Repr

/-- A shard (R276). -/
structure Shard where
  base : Nat
  node : Nat
  strides : List Int
  deriving DecidableEq, Repr

/-- The cursor's fields as RSHARD reads them (R281): status, destination shard, source shard, box, done. -/
structure CursorAt where
  status : Nat
  dst : Nat
  src : Nat
  box : Nat
  done : Nat
  deriving DecidableEq, Repr

/-- A box in pull order (R279, R280): destination shard, source shard, index in the shard, interval of each dimension. -/
structure Box where
  dst : Nat
  src : Nat
  idx : Nat
  ivs : List Nat
  deriving DecidableEq, Repr

/-- A re-shard or plan that the engine runs (R286, R287); `id` names its command. -/
structure Reshard where
  id : Nat
  plan : Bool
  job : BitVec 16
  /-- bytes of the plan area -/
  room : Nat
  srcRec : Nat
  dstRec : Nat
  cursor : Nat
  area : Nat
  src : Layout
  dst : Layout
  /-- the cursor at issue -/
  from_ : CursorAt
  srcShards : List Shard
  dstShards : List Shard
  /-- intervals of each dimension: (lo, hi, source owner, destination owner) -/
  intervals : List (List (Nat × Nat × Nat × Nat))
  /-- boxes of the own shards in pull order -/
  boxes : List Box
  /-- first box pulled, first box not complete, completed boxes after it, by place in pull order -/
  start : Nat
  next : Nat
  ahead : List Nat
  /-- first box not started: those before it are complete or in transfer (R280) -/
  top : Nat
  /-- boxes in transfer with a request that has failed: the box, the detail of class 16, the address (R292) -/
  lost : List (Nat × Nat × Nat)
  /-- no box from this place on starts (R288, R292) -/
  limit : Option Nat
  planned : Bool
  stopping : Bool
  /-- the stop is for a save (R291) -/
  hold : Bool
  /-- the re-shard continues after a restore: the checks of issue are made as planning checks (R354) -/
  resumed : Bool
  /-- writes on record at issue, in far memory and of stores in package memory: a later one of a source or destination byte,
  or in the plan area, makes the destination values undefined (R285, R286) -/
  farSince : Nat
  homeSince : Nat
  deriving DecidableEq, Repr

/-- The Strudel engine: the active work and what RSSTAT reports (R289). -/
structure Strudel where
  work : Option Reshard
  /-- continuations that wait for the engine (R354) -/
  queue : List Reshard
  lastCursor : Nat
  state : Nat
  boxes : Nat
  dst : Nat
  deriving DecidableEq, Repr

def Strudel.reset : Strudel := { work := none, queue := [], lastCursor := 0, state := 0, boxes := 0, dst := 0 }

/-! ## Contexts (R338 to R360) -/

/-- A saved context (R342 to R355). -/
structure Context where
  job : BitVec 16
  spanned : BitVec 16
  mode : Nat
  compress : Bool
  time : BitVec 64
  groups : List Group
  teams : List Team
  clusters : List Cluster
  /-- tile memory and tile-table entries of the teams, by the keys of Mem -/
  tile : Memory
  tilePoison : SMap Bool
  table : SMap TileEntry
  epi : List EpiByte
  cmds : List Cmd
  /-- packets not yet sent (R342): of weak stores, and requests that were answered busy -/
  packets : List Held
  requests : List Txn
  strudel : List Reshard
  held : List HeldWord
  /-- implementation ID of the package that saved it (R348, R356) -/
  impl : Nat
  /-- blocks of 1 MiB taken from each die's shadow storage, and the blocks of the context area, counted from its base -/
  shadow : List Nat
  overflow : List Nat
  deriving DecidableEq, Repr, Inhabited

/-- An image that an export wrote, with the context it describes. -/
structure Image where
  bytes : List Byte
  context : Context
  deriving DecidableEq, Repr

/-- The context controller (R340). -/
structure CtxCtl where
  job : BitVec 16
  parts : BitVec 16
  op : BitVec 3
  compress : Bool
  mode : BitVec 2
  start : Bool
  pending : BitVec 8
  spanned : BitVec 16
  kib : BitVec 24
  result : BitVec 4
  base : BitVec 11
  mib : BitVec 12
  off : BitVec 19
  saved : List Context
  images : List Image
  /-- jobs that the save in progress stops (a gang slice stops several), none when no save is in progress -/
  stopping : List (BitVec 16)
  /-- the partitions whose clusters are being stopped -/
  stopParts : BitVec 16
  /-- the save in progress was started by a gang slice (R360) -/
  gang : Bool
  /-- pod time at which the stop was sent, and whether its slow acknowledgement is posted (R343) -/
  sentAt : Nat
  slow : Bool
  /-- a gang slice is restoring the contexts of its job (R341, R360) -/
  restoring : Option (BitVec 16)
  /-- groups whose saved state has a word with two errors (R345, R359) -/
  flawed : List GroupKey
  /-- shadow blocks taken by swapped-out clusters: (grid, clu, die, blocks) -/
  swaps : List (Nat × Nat × Nat × Nat)
  deriving DecidableEq, Repr

def CtxCtl.reset : CtxCtl :=
  { job := 0#16, parts := 0#16, op := 0#3, compress := false, mode := 0#2, start := false, pending := 0#8,
    spanned := 0#16, kib := 0#24, result := 0#4, base := 0#11, mib := 0#12, off := 0#19, saved := [], images := [],
    stopping := [], stopParts := 0#16, gang := false, sentAt := 0, slow := false, restoring := none, flawed := [],
    swaps := [] }

/-! ## Security, power, the host (R404 to R428) -/

/-- A sealed region (R415). -/
structure Sealed where
  base : Nat
  size : Nat
  area : Nat
  deriving DecidableEq, Repr

/-- A job key slot (R410). -/
structure KeySlot where
  job : BitVec 16
  join : Bool
  owner : BitVec 512
  /-- K1, K2 and Kt -/
  keys : Option (BitVec 384)
  windows : List (Nat × Nat)
  /-- nodes with which a pair key is held -/
  pairs : List (BitVec 12)
  sealed_ : List Sealed
  /-- version of each sealed line, by line number of far memory -/
  versions : SMap Nat
  deriving DecidableEq, Repr

/-- A PAIR that waits for its peer (R410). -/
structure PairWait where
  node : Nat
  job : BitVec 16
  measurement : BitVec 256
  svn : BitVec 8
  /-- pod time at which it began, and the sequence number of the management frame that asked for it (R410, R427) -/
  at_ : Nat
  frame : Option (BitVec 16)
  deriving DecidableEq, Repr

/-- A checkpoint in the safe tier (R417): slot, job, module, its lines and their tags, and the sealed regions' roots. -/
structure Checkpoint where
  slot : Nat
  job : BitVec 16
  module : Nat
  lines : Memory
  tags : SMap (Option (BitVec 384 × Nat))
  key : Option (BitVec 384)
  versions : SMap Nat
  deriving DecidableEq, Repr

/-- The security block (R405 to R410). -/
structure Security where
  /-- fuses: digest of the firmware key, minimum security version, device public point -/
  keyDigest : BitVec 256
  svnMin : BitVec 4
  device : BitVec 512
  image : BitVec 19
  stage : BitVec 3
  meas : BitVec 256
  block : BitVec 23
  start : Bool
  result : BitVec 4
  integrity : BitVec 16
  slots : List (Option KeySlot)
  /-- the pod key is agreed with these nodes (R418) -/
  podPairs : List (BitVec 12)
  pair : Option PairWait
  /-- tag of each far line: the keys and the version under which it was written; none: not tagged -/
  tags : SMap (Option (BitVec 384 × Nat))
  safe : List Checkpoint
  errRegs : BitVec 32
  errCorrected : BitVec 32
  deriving DecidableEq, Repr

/-- The security block after reset; the fuses start at 0 (log 4). -/
def Security.reset : Security :=
  { keyDigest := 0#256, svnMin := 0#4, device := 0#512, image := 0#19, stage := 0#3, meas := 0#256, block := 0#23,
    start := false, result := 0#4, integrity := 0#16, slots := List.replicate 16 none, podPairs := [], pair := none,
    tags := [], safe := [], errRegs := 0#32, errCorrected := 0#32 }

/-- Power of a die (R424). -/
structure Power where
  temp : BitVec 8
  minN : BitVec 4
  n : BitVec 4
  sags : BitVec 32
  /-- the core clocks have stopped at 110 °C -/
  stopped : Bool
  deriving DecidableEq, Repr

def Power.reset : Power := { temp := 0#8, minN := 8#4, n := 8#4, sags := 0#32, stopped := false }

/-- A management frame that the package has sent (R427): op, sequence number, value. -/
structure Frame where
  op : Nat
  seq : BitVec 16
  num : BitVec 16
  value : BitVec 64
  block : List Byte
  deriving DecidableEq, Repr

/-- The management port. -/
structure Mgmt where
  nextSeq : BitVec 16
  /-- frames sent and not yet answered -/
  unanswered : List Frame
  /-- frames sent, oldest first -/
  out : List Frame
  /-- requests taken, with the reply given -/
  seen : List (BitVec 16 × Frame)
  deriving DecidableEq, Repr

def Mgmt.reset : Mgmt := { nextSeq := 0#16, unanswered := [], out := [], seen := [] }

/-! ## Events -/

/-- A cell of the register files (R423). -/
inductive RegCell where
  | vector (reg lane : Nat)
  | scalar (n : Nat)
  | acc (row col : Nat)
  deriving DecidableEq, Repr

/-- A bit error in a store of the package (R162, R172, R345, R423). -/
inductive BitError where
  /-- the word of a bank, parity bank g as bank 32 + g, at a row of a core's tile memory; its code shows it -/
  | tile (core bank row : Nat) (shown : Bool)
  /-- an 8-byte word of package memory: a single or a double error -/
  | package (word : Nat) (double : Bool)
  | register (group : GroupKey) (cell : RegCell) (double : Bool)
  | l1 (core line : Nat)
  /-- a far line that module ECC cannot correct -/
  | far (line : Nat)
  /-- a module returns other bytes and another tag for a line from now on (R404, R416) -/
  | returns (line : Nat) (bytes : List Byte) (tag : Option (BitVec 384 × Nat))
  /-- a word of the state of a group in shadow storage -/
  | shadow (group : GroupKey) (double : Bool)
  deriving DecidableEq, Repr

/-- An event that waits in the agenda or that a unit offers to the step: the event constructors of Instr, with the same
arguments (an Instr of so many constructors cannot be built at run time, so the step carries events in this type), and the bit
errors that the checks of the stores meet. -/
inductive Event where
  | splitRefill
  | matrixWordComplete
  | runStart
  | resultCommit (i : Nat)
  | earlyDecision (i : Nat)
  | queueTakeRecord (q : BitVec 6)
  | placeCluster
  | swapOut (c : Nat)
  | launchComplete (grid : BitVec 48)
  | gangSliceStart
  | fetchArrival (id : Nat)
  | commitComplete (id : Nat)
  | moduleCommandComplete (id : Nat)
  | fetchEngineReset
  | strudelPlanning
  | boxComplete
  | faultRecordPost
  | frwait
  | csrWrite (who : Writer) (num : BitVec 16) (value : BitVec 64)
  | ctxSave
  | ctxRestore
  | ctxExport
  | ctxImport
  | ctxDiscard
  | classAcknowledge (c : BitVec 3)
  | slowAcknowledgement
  | flitReceive (l : LinkId) (flit : BitVec 1024)
  | replayTimeout (l : LinkId)
  | laneLost (n : Nat) (pos : BitVec 5) (line : Bool)
  | laserLost (n : Nat)
  | retrainingEnd (n : Nat)
  | linkTraining (n : Nat)
  | trainingEnd (n : Nat) (dark : BitVec 17)
  | trainingTimeout (n : Nat)
  | laserAgeing (n : Nat) (ratio : BitVec 16)
  | e2eTimerExpiry (tag : BitVec 22)
  | responseReceive (pk : Packet)
  | requestArrival (pk : Packet)
  | requestRecordExpiry (src : BitVec 12) (tag : BitVec 22)
  | notResidentRetry (tag : BitVec 22)
  | holdNotice (tag : BitVec 22)
  | mergeHoldLapse (id : Nat)
  | relayForward (pk : Packet)
  | combineHoldExpiry (id : Nat)
  | routeMarkLapse (dst : BitVec 12) (col : Bool)
  | cancel (pk : Packet)
  | cancelTimeout (tag : BitVec 22)
  | coalesceHoldExpiry (id : Nat)
  | signalData (pk : Packet)
  | signalBusyRetry (tag : BitVec 22)
  | fflagStore (id : Nat)
  | mcstData (pk : Packet)
  | phaseBoundary
  | podBarrierState (pk : Packet)
  | timePacket (master : BitVec 12) (time : BitVec 64)
  | timeSilence
  | electionClaim
  | claimReceive (rank : BitVec 4) (node : BitVec 12)
  | masterInstall
  | secBind
  | secPair
  | secQuote
  | secSeal
  | secUnseal
  | cksave (failed : Bool)
  | ckrest (failed : Bool)
  | secUnbind
  | bootGo
  | installEntry
  | minRst (die : BitVec 2)
  | supplySag (die : BitVec 2)
  | clockStepUp (die : BitVec 2)
  | thermalLimit (die : BitVec 2) (temp : BitVec 8)
  | hostMemoryAccess (write : Bool) (addr : Nat) (bytes : List Byte)
  | mgmtCsrRead (seq : BitVec 16) (num : BitVec 16)
  | mgmtCsrWrite (seq : BitVec 16) (num : BitVec 16) (value : BitVec 64)
  | mgmtSecurityCommand (seq : BitVec 16) (block : List Byte)
  | mgmtReply (msg : MgmtMessage)
  | packageReset
  | commitTileReadDone (id : Nat)
  | pairTimeout
  | mgmtFrameRetry (seq : BitVec 16)
  | litIntervalStart
  | bitError (e : BitError)
  deriving DecidableEq, Repr

/-! ## The package -/

/-- The KQ9 package. `cur` is the group that the issue logic has selected, `others` every other group. -/
structure State where
  cur : Group
  others : List Group
  teams : List Team
  clusters : List Cluster
  cmds : List Cmd
  sched : Sched
  fault : FaultUnit
  mem : Mem
  fabric : Fabric
  link : Links
  strudel : Strudel
  ctx : CtxCtl
  sec : Security
  power : SMap Power
  mgmt : Mgmt
  /-- NODE (R23): 48y + x, set per part -/
  node : BitVec 12
  /-- MSI-X vectors signalled to the host, oldest first (R425), and the bytes of its latest BAR2 read (R426) -/
  msi : List Nat
  hostRead : List Byte
  /-- pod time in ns (R401) -/
  time : BitVec 64
  /-- inputs waiting: events of the environment and of the units, oldest first -/
  agenda : List Event
  /-- numbers the free values read (log 5) -/
  fresh : Nat
  /-- numbers engine commands -/
  nextId : Nat
  deriving DecidableEq, Repr

/-- Why the machine stops. -/
inductive Fault where
  /-- raised by no meaning: the manual gives every instruction and every event an effect; safe -/
  | none
  deriving DecidableEq, Repr

/-- Why a meaning has no next state. -/
inductive Refusal where
  /-- for a dispatch arm of an instruction without a meaning, of which there is none; safe -/
  | notModelled (mnemonic : String)
  deriving DecidableEq, Repr

def Regs.reset : Regs :=
  { v := [], s := [], k := 0#4, p := [], ac := [], rmax := [], rsum := [], fpend := [], window := 0#5, ftz := false,
    roundMode := 0#3, fstat := 0#8, fmask := 0#32 }

def Frag.reset : Frag :=
  { pc := 0#57, member := 0xFFFFFFFF#32, exec := 0xFFFFFFFF#32, wait := .ready, entry := 0, starve := 0, passed := 0, hint := none,
    limit := none, nowatch := false, fuse := .none, back := [] }

def GroupId.reset : GroupId :=
  { grid := 0, clu := 0, team := 0, grp := 0, job := 0#16, core := 0, slot := 0, pos := 0, order := 0, priority := 0,
    privileged := false, vregs := 8, accs := 0 }

/-- The record that stands where no group has been launched: the values of R31 (log 3). -/
def Group.reset : Group :=
  { alive := false, swapped := false, id := GroupId.reset, regs := Regs.reset, frag := Frag.reset, sibs := [],
    entries := [], run := none, hend := [], watch := [], stop := none, cmdFaults := [], part := none, due := [], facq := [], split := 0#16, yield := [], idle := 0, mrdy := 0,
    matrix := MatrixState.reset }

/-- The package right after reset. -/
def State.reset : State :=
  { cur := Group.reset, others := [], teams := [], clusters := [], cmds := [], sched := Sched.reset,
    fault := FaultUnit.reset, mem := Mem.reset,
    fabric := Fabric.reset, link := Links.reset, strudel := Strudel.reset, ctx := CtxCtl.reset, sec := Security.reset,
    power := [], mgmt := Mgmt.reset,
    node := 0#12, msi := [], hostRead := [],
    time := 0#64, agenda := [], fresh := 0, nextId := 0 }

end Sys2Proof.Machine
end

