-- ==== Sys2Proof/Machine/Float.lean ====
section
/-! DEFINITION. Number formats and rounding (R53 to R69): exact values, decoding of every format, RoundTo of R9. -/

namespace Sys2Proof.Machine

/-- The flags of FSTAT an operation raises, in the bits of R20. -/
abbrev Flags := BitVec 8

def flagInvalid : Flags := 0x01#8
def flagDivZero : Flags := 0x02#8
def flagOverflow : Flags := 0x04#8
def flagUnderflow : Flags := 0x08#8
def flagInexact : Flags := 0x10#8
def flagEmpty : Flags := 0x20#8
def flagCut : Flags := 0x40#8
def flagSpmeta : Flags := 0x80#8

/-- The flag `f` when `b` holds. -/
def flagIf (b : Bool) (f : Flags) : Flags := if b then f else 0#8

/-- The formats that a conversion or a matrix operation names (R54, R59 to R62). -/
inductive Fmt where
  | fp32 | fp16 | bf16 | e5m2 | e4m3 | fp4 | a56 | t8 | t6
  deriving DecidableEq, Repr

def fmtTotalBits : Fmt → Nat
  | .fp32 => 32 | .fp16 => 16 | .bf16 => 16 | .e5m2 => 8 | .e4m3 => 8 | .fp4 => 4 | .a56 => 56 | .t8 => 8 | .t6 => 6

/-- Fraction bits of R54; for a tapered format, the bits of its magnitude field (R61, R62). -/
def fmtFrac : Fmt → Nat
  | .fp32 => 23 | .fp16 => 10 | .bf16 => 7 | .e5m2 => 2 | .e4m3 => 3 | .fp4 => 1 | .a56 => 44 | .t8 => 7 | .t6 => 5

def fmtBias : Fmt → Nat
  | .fp32 => 127 | .fp16 => 15 | .bf16 => 127 | .e5m2 => 15 | .e4m3 => 7 | .fp4 => 1 | .a56 => 1023 | .t8 => 0 | .t6 => 0

def fmtTapered (f : Fmt) : Bool := f == .t8 || f == .t6

/-- Does FRM.ftz act on the format (R55)? -/
def fmtFlushes (f : Fmt) : Bool := f == .fp32 || f == .fp16 || f == .bf16

/-- Has the format infinities (R54, R59 to R61)? -/
def fmtHasInf (f : Fmt) : Bool := f == .fp32 || f == .fp16 || f == .bf16 || f == .e5m2 || f == .a56

/-- The largest finite encoding without its sign. -/
def fmtMaxCode : Fmt → Nat
  | .fp32 => 0x7F7FFFFF | .fp16 => 0x7BFF | .bf16 => 0x7F7F | .e5m2 => 0x7B | .e4m3 => 0x7E | .fp4 => 0x7
  | .a56 => 0x7FEFFFFFFFFFFF | .t8 => 0x7F | .t6 => 0x1F

/-- The default NaN of R54; NaR for a tapered format (R61); FP4 has none and reads +0 (R67). -/
def fmtDefaultNan : Fmt → Nat
  | .fp32 => 0x7FC00000 | .fp16 => 0x7E00 | .bf16 => 0x7FC0 | .e5m2 => 0x7E | .e4m3 => 0x7F | .fp4 => 0
  | .a56 => 0x7FF80000000000 | .t8 => 0x80 | .t6 => 0x20

/-- The code of infinity without its sign. -/
def fmtInfCode (f : Fmt) : Nat := fmtMaxCode f + 1

/-- The sign bit's weight. -/
def fmtSignBit (f : Fmt) : Nat := 2 ^ (fmtTotalBits f - 1)

def withSign (f : Fmt) (neg : Bool) (code : Nat) : Nat := if neg then fmtSignBit f + code else code

/-- An exact value: a NaN with its sign, whether it signals, and its fraction left-aligned to 23 bits; an infinity; or
(−1)^neg × mant × 2^exp. -/
inductive Num where
  | nan (neg sig : Bool) (frac : Nat)
  | inf (neg : Bool)
  | fin (neg : Bool) (mant : Nat) (exp : Int)
  deriving DecidableEq, Repr

def numIsNan : Num → Bool
  | .nan .. => true
  | _ => false

def numIsInf : Num → Bool
  | .inf _ => true
  | _ => false

def numIsZero : Num → Bool
  | .fin _ 0 _ => true
  | _ => false

def numSignals : Num → Bool
  | .nan _ sig _ => sig
  | _ => false

def numNeg : Num → Bool
  | .nan n _ _ => n
  | .inf n => n
  | .fin n _ _ => n

def numNegate : Num → Num
  | .nan n s f => .nan n s f
  | .inf n => .inf (!n)
  | .fin n m e => .fin (!n) m e

/-- 2^e as an exact value. -/
def numPow2 (e : Int) : Num := .fin false 1 e

/-- Length of the run of bits equal to `b` downward from bit `i` of `x`. -/
def runLength (x : Nat) (b : Bool) : Nat → Nat
  | 0 => if x.testBit 0 == b then 1 else 0
  | i + 1 => if x.testBit (i + 1) == b then runLength x b i + 1 else 0

/-- The value of a tapered magnitude field of `n` bits, nonzero (R61): mantissa and exponent. -/
def taperedValue (n x : Nat) : Nat × Int :=
  let top := x.testBit (n - 1)
  let m := runLength x top (n - 1)
  let k : Int := if top then (m : Int) - 1 else -(m : Int)
  let left := n - m - 1          -- bits after the terminator (0 when the run reaches bit 0)
  if left = 0 then (1, 2 * k)
  else
    let e := if x.testBit (left - 1) then (1 : Int) else 0
    let fb := left - 1
    (2 ^ fb + x % 2 ^ fb, 2 * k + e - fb)

/-- The exact value of an encoding (R54, R59 to R61). -/
def unpack (f : Fmt) (x : Nat) : Num :=
  let neg := x.testBit (fmtTotalBits f - 1)
  let mag := x % fmtSignBit f
  if fmtTapered f then
    if mag = 0 then (if neg then .nan false false 0x400000 else .fin false 0 0)
    else
      let v := taperedValue (fmtFrac f) mag
      .fin neg v.1 v.2
  else
    let fb := fmtFrac f
    let frac := mag % 2 ^ fb
    let e := mag / 2 ^ fb
    if fmtMaxCode f < mag then
      if f = .e4m3 then .nan neg false 0x700000
      else if frac = 0 then .inf neg
      else .nan neg (!frac.testBit (fb - 1)) (if fb ≤ 23 then frac * 2 ^ (23 - fb) else frac / 2 ^ (fb - 23))
    else if e = 0 then .fin neg frac (1 - (fmtBias f : Int) - fb)
    else .fin neg (2 ^ fb + frac) ((e : Int) - fmtBias f - fb)

/-- A source operand under R55: with `ftz`, a subnormal FP32, FP16 or BF16 value reads as zero of its sign. -/
def unpackIn (ftz : Bool) (f : Fmt) (x : Nat) : Num :=
  match unpack f x with
  | .fin neg m e => if ftz && fmtFlushes f && decide (m < 2 ^ fmtFrac f) then .fin neg 0 0 else .fin neg m e
  | v => v

/-- An exact magnitude, or one known to lie strictly between mant × 2^exp and (mant + 1) × 2^exp (`sticky`). -/
structure Mag where
  mant : Nat
  exp : Int
  sticky : Bool
  deriving DecidableEq, Repr

/-- The exponent of the leading one of a magnitude. -/
def magTop (m : Mag) : Int := m.exp + (m.mant.log2 : Int)

/-- Does rounding take the greater neighbour, for the rest `rest` of `2^sh` (R57)? -/
def roundsUp (mode : Nat) (neg : Bool) (odd : Bool) (rest sh : Nat) (sticky : Bool) : Bool :=
  let half := 2 ^ (sh - 1)
  match mode with
  | 0 => decide (half < rest) || (rest == half && (sticky || odd))
  | 1 => false
  | 2 => !neg && (rest != 0 || sticky)
  | 3 => neg && (rest != 0 || sticky)
  | _ => decide (half ≤ rest)

/-- A magnitude rounded to a multiple of 2^q: the multiple, and whether it is inexact. -/
def roundAt (mode : Nat) (neg : Bool) (m : Mag) (q : Int) : Nat × Bool :=
  let m' : Mag := if m.exp + 2 ≤ q then m else
    let k := (q - m.exp)
    let up := (2 - k).toNat
    { mant := m.mant * 2 ^ up, exp := m.exp - up, sticky := m.sticky }
  -- a sticky magnitude scaled up keeps its lower bound; the rest below is nonzero either way
  let sh := (q - m'.exp).toNat
  let lo := m'.mant / 2 ^ sh
  let rest := m'.mant % 2 ^ sh
  let st := m'.sticky
  (if roundsUp mode neg (lo % 2 == 1) rest sh st then lo + 1 else lo, rest != 0 || st)

/-- An outcome: the encoding and the flags. -/
abbrev FOut := Nat × Flags

/-- What a conversion or operation does at overflow and how it rounds: the mode of R57, FRM.ftz and the SAT bit (R67). -/
structure FEnv where
  mode : Nat
  ftz : Bool
  sat : Bool
  deriving DecidableEq, Repr

/-- The value delivered at overflow (R57, R67). -/
def overflowCode (f : Fmt) (env : FEnv) (neg : Bool) : Nat :=
  let toMax := env.mode == 1 || (env.mode == 2 && neg) || (env.mode == 3 && !neg)
  if toMax then withSign f neg (fmtMaxCode f)
  else if f = .fp4 || fmtTapered f then withSign f neg (fmtMaxCode f)
  else if env.sat && (f = .e4m3 || f = .e5m2) then withSign f neg (fmtMaxCode f)
  else if f = .e4m3 then withSign f neg 0x7F
  else withSign f neg (fmtInfCode f)

/-- Rounding of a nonzero magnitude into an IEEE-style format (R57, R58, R55). -/
def roundIeee (f : Fmt) (env : FEnv) (neg : Bool) (m : Mag) : FOut :=
  let fb := fmtFrac f
  let emin : Int := 1 - (fmtBias f : Int) - fb
  let qu := magTop m - fb
  let free := roundAt env.mode neg m qu
  let maxMag := unpack f (fmtMaxCode f)
  let tooBig := match maxMag with
    | .fin _ mm me => decide ((mm : Int) * 2 ^ (me - min me qu).toNat < (free.1 : Int) * 2 ^ (qu - min me qu).toNat)
    | _ => false
  if tooBig then (overflowCode f env neg, flagOverflow ||| flagInexact)
  else
    let tiny := decide (qu < emin) && decide ((free.1 : Int) < 2 ^ (emin + fb - qu).toNat)
    if tiny && env.ftz && fmtFlushes f then (withSign f neg 0, flagUnderflow ||| flagInexact)
    else
      let q := if qu < emin then emin else qu
      let r := roundAt env.mode neg m q
      let code := ((q - emin).toNat) * 2 ^ fb + r.1
      (withSign f neg code, flagIf r.2 flagInexact ||| flagIf (r.2 && tiny) flagUnderflow)

/-- Compare a magnitude with a dyadic number: −1 below, 0 equal, 1 above. -/
def magCmp (m : Mag) (a : Nat) (e : Int) : Int :=
  let lo := min m.exp e
  let x := m.mant * 2 ^ (m.exp - lo).toNat
  let y := a * 2 ^ (e - lo).toNat
  if m.sticky then
    -- the magnitude lies strictly above x and below x + one unit of its own exponent
    (if x < y then -1 else 1)
  else if x < y then -1 else if x = y then 0 else 1

/-- The greatest code of a tapered format, at most `c`, whose value does not exceed the magnitude. -/
def taperedFloor (n : Nat) (m : Mag) : Nat → Nat
  | 0 => 0
  | c + 1 => if magCmp m (taperedValue n (c + 1)).1 (taperedValue n (c + 1)).2 < 0 then taperedFloor n m c else c + 1

/-- Rounding of a nonzero magnitude into T8 or T6 (R67, R68). Any magnitude above the largest is an overflow (the
rows of R68 for 5,000), whatever the mode: DEDUCED, log 7. -/
def roundTapered (f : Fmt) (env : FEnv) (neg : Bool) (m : Mag) : FOut :=
  let n := fmtFrac f
  let maxc := fmtMaxCode f
  let c := taperedFloor n m maxc
  let av := if c = 0 then (0, (0 : Int)) else taperedValue n c
  let exact := !m.sticky && magCmp m av.1 av.2 == 0
  let smallest := taperedValue n 1
  if exact then (withSign f neg c, 0#8)
  else if c = maxc then (withSign f neg maxc, flagOverflow ||| flagInexact)
  else
    let bv := taperedValue n (c + 1)
    let lo := min av.2 bv.2
    let mid := av.1 * 2 ^ (av.2 - lo).toNat + bv.1 * 2 ^ (bv.2 - lo).toNat
    let side := magCmp m mid (lo - 1)
    let up := match env.mode with
      | 0 => decide (0 < side) || (side == 0 && c % 2 == 1)
      | 1 => false
      | 2 => !neg
      | 3 => neg
      | _ => decide (0 ≤ side)
    let code := if up then c + 1 else c
    (if code = 0 then 0 else withSign f neg code,
      flagInexact ||| flagIf (decide (magCmp m smallest.1 smallest.2 < 0)) flagUnderflow)

/-- RoundTo of R9 for a finite magnitude with its sign; a zero keeps its sign (T8 and T6 have one zero). -/
def roundMag (f : Fmt) (env : FEnv) (neg : Bool) (m : Mag) : FOut :=
  if m.mant = 0 && !m.sticky then ((if fmtTapered f then 0 else withSign f neg 0), 0#8)
  else
    let m' : Mag := if m.mant = 0 then { mant := 1, exp := m.exp - 1, sticky := false } else m
    if fmtTapered f then roundTapered f env neg m' else roundIeee f env neg m'

/-- A NaN delivered in a format (R56, R67), quieted; no flag of its own but FP4's invalid. -/
def nanInto (f : Fmt) (neg : Bool) (frac : Nat) : FOut :=
  match f with
  | .e4m3 => (withSign f neg 0x7F, 0#8)
  | .fp4 => (0, flagInvalid)
  | .t8 => (0x80, 0#8)
  | .t6 => (0x20, 0#8)
  | .a56 => (fmtDefaultNan .a56, 0#8)
  | _ =>
    let fb := fmtFrac f
    let q := frac / 2 ^ (23 - fb)
    (withSign f neg (fmtInfCode f + (if q.testBit (fb - 1) then q else q + 2 ^ (fb - 1))), 0#8)

/-- An infinite source or result in a format (R67). -/
def infInto (f : Fmt) (env : FEnv) (neg : Bool) : FOut :=
  match f with
  | .e4m3 => (withSign f neg (if env.sat then 0x7E else 0x7F), flagInvalid)
  | .fp4 => (withSign f neg 7, flagInvalid)
  | .t8 => (if env.sat then withSign f neg 0x7F else 0x80, flagInvalid)
  | .t6 => (if env.sat then withSign f neg 0x1F else 0x20, flagInvalid)
  | _ => (withSign f neg (fmtInfCode f), 0#8)

/-- RoundTo(format, x, mode) of R9 with the special values of R56 and R67. -/
def roundNum (f : Fmt) (env : FEnv) : Num → FOut
  | .nan neg sig frac =>
    let r := nanInto f neg frac
    (r.1, r.2 ||| flagIf sig flagInvalid)
  | .inf neg => infInto f env neg
  | .fin neg m e => roundMag f env neg { mant := m, exp := e, sticky := false }

/-- The default NaN with invalid raised (R56 step 2). -/
def invalidResult (f : Fmt) : FOut := (fmtDefaultNan f, flagInvalid)

/-- The first NaN of the sources in order (R56 step 1). -/
def firstNan : List Num → Option Num
  | [] => none
  | x :: xs => if numIsNan x then some x else firstNan xs

/-- Does any source signal (R56 step 3)? -/
def anySignals (xs : List Num) : Bool := xs.any numSignals

/-- The outcome for sources in the order of R56 when `bad` says that R58 lists the case as invalid, and `k` gives
the result when neither a NaN nor an invalid case arises. -/
def withNans (f : Fmt) (srcs : List Num) (bad : Bool) (k : FOut) : FOut :=
  match firstNan srcs with
  | some (.nan neg _ frac) =>
    let r := nanInto f neg frac
    (r.1, r.2 ||| flagIf (bad || anySignals srcs) flagInvalid)
  | _ => if bad then invalidResult f else k

end Sys2Proof.Machine
end

