-- ==== Sys2Proof/Machine/FloatOps.lean ====
section
/-! DEFINITION. Floating-point operations on encodings (R55 to R58, R113 to R118, R123, R145 to R148): exact results
formed over the integers and rounded once. -/

namespace Sys2Proof.Machine

/-- An exact finite term of a sum: its sign, mantissa and exponent. -/
structure Term where
  neg : Bool
  mant : Nat
  exp : Int
  deriving DecidableEq, Repr

/-- Least exponent of the terms. -/
def termsLow : List Term → Int
  | [] => 0
  | [t] => t.exp
  | t :: ts => min t.exp (termsLow ts)

/-- Exact sum of terms in units of 2^lo. -/
def termsSum (lo : Int) : List Term → Int
  | [] => 0
  | t :: ts =>
    let x : Int := (t.mant : Int) * 2 ^ (t.exp - lo).toNat
    (if t.neg then -x else x) + termsSum lo ts

/-- Exact sum of finite terms, rounded once; the sign of a zero sum follows R57. -/
def roundSum (f : Fmt) (env : FEnv) (ts : List Term) : FOut :=
  let lo := termsLow ts
  let s := termsSum lo ts
  if s = 0 then
    let allNeg := ts.all (fun t => t.neg && t.mant == 0)
    let allPos := ts.all (fun t => !t.neg && t.mant == 0)
    let neg := if allNeg then true else if allPos then false else env.mode == 3
    ((if fmtTapered f then 0 else withSign f neg 0), 0#8)
  else roundMag f env (decide (s < 0)) { mant := s.natAbs, exp := lo, sticky := false }

/-- An exact product (R113): none for 0 × ∞; a NaN factor on either side makes the product a NaN (R56). -/
def numMul : Num → Num → Option Num
  | .fin a m e, .fin b n g => some (.fin (a != b) (m * n) (e + g))
  | .inf a, .inf b => some (.inf (a != b))
  | .inf a, .fin b n _ => if n = 0 then none else some (.inf (a != b))
  | .fin a m _, .inf b => if m = 0 then none else some (.inf (a != b))
  | .nan a s f, _ => some (.nan a s f)
  | _, .nan b s f => some (.nan b s f)

/-- A sum's terms: infinities of both signs, of one sign, or finite terms. -/
inductive SumOf where
  | bad
  | inf (neg : Bool)
  | fin (ts : List Term)
  deriving DecidableEq, Repr

/-- Gather the terms of a sum; NaNs are left out, since they decide the result before (R56). -/
def gatherSum : List Num → SumOf
  | [] => .fin []
  | x :: xs =>
    match x, gatherSum xs with
    | .nan .., r => r
    | .inf _, .bad => .bad
    | .inf n, .inf k => if n = k then .inf n else .bad
    | .inf n, .fin _ => .inf n
    | .fin .., .bad => .bad
    | .fin .., .inf n => .inf n
    | .fin n m e, .fin ts => .fin ({ neg := n, mant := m, exp := e } :: ts)

/-- Rounded sum of products and numbers. `srcs` are the sources in the order of R56; `prods` holds none for a product
0 × ∞ (R58). -/
def roundDot (f : Fmt) (env : FEnv) (srcs : List Num) (prods : List (Option Num)) : FOut :=
  let bad0 := prods.any (fun p => p.isNone)
  let sum := gatherSum (prods.filterMap id)
  let bad := bad0 || sum == .bad
  withNans f srcs bad (match sum with
    | .inf n => infInto f env n
    | .fin ts => roundSum f env ts
    | .bad => invalidResult f)

/-- a + b (R113). -/
def fAdd (f : Fmt) (env : FEnv) (a b : Nat) : FOut :=
  let x := unpackIn env.ftz f a
  let y := unpackIn env.ftz f b
  roundDot f env [x, y] [some x, some y]

/-- a − b (R113). -/
def fSub (f : Fmt) (env : FEnv) (a b : Nat) : FOut :=
  let x := unpackIn env.ftz f a
  let y := unpackIn env.ftz f b
  roundDot f env [x, y] [some x, some (numNegate y)]

/-- a × b (R113). -/
def fMul (f : Fmt) (env : FEnv) (a b : Nat) : FOut :=
  let x := unpackIn env.ftz f a
  let y := unpackIn env.ftz f b
  withNans f [x, y] (numMul x y).isNone (match numMul x y with
    | some r => roundNum f env r
    | none => invalidResult f)

/-- ±(a × b) ± d, rounded once (R113): the fused forms. -/
def fFma (f : Fmt) (env : FEnv) (negProd negAdd : Bool) (a b d : Nat) : FOut :=
  let x := unpackIn env.ftz f a
  let y := unpackIn env.ftz f b
  let z := unpackIn env.ftz f d
  let p := (numMul x y).map (fun p => if negProd then numNegate p else p)
  roundDot f env [x, y, z] [p, some (if negAdd then numNegate z else z)]

/-- Quotient bits beyond the destination's precision. -/
def divMag (m : Nat) (e : Int) (n : Nat) (g : Int) : Mag :=
  let k := 64 + n.log2
  { mant := m * 2 ^ k / n, exp := e - g - k, sticky := m * 2 ^ k % n != 0 }

/-- a / b (R113, R58). -/
def fDiv (f : Fmt) (env : FEnv) (a b : Nat) : FOut :=
  let x := unpackIn env.ftz f a
  let y := unpackIn env.ftz f b
  let bad := (numIsZero x && numIsZero y) || (numIsInf x && numIsInf y)
  withNans f [x, y] bad (match x, y with
    | .inf n, w => infInto f env (n != numNeg w)
    | .fin n _ _, .inf k => roundMag f env (n != k) { mant := 0, exp := 0, sticky := false }
    | .fin n m e, .fin k p g =>
      if p = 0 then ((infInto f env (n != k)).1, flagDivZero)
      else roundMag f env (n != k) (if m = 0 then { mant := 0, exp := 0, sticky := false } else divMag m e p g)
    | _, _ => invalidResult f)

/-- Integer square root by Newton's steps from above. -/
def isqrtFrom (n : Nat) : Nat → Nat → Nat
  | 0, x => x
  | k + 1, x =>
    let y := (x + n / x) / 2
    if y < x then isqrtFrom n k y else x

/-- Floor of the square root. -/
def isqrt (n : Nat) : Nat := if n = 0 then 0 else isqrtFrom n 400 (2 ^ (n.log2 / 2 + 1))

/-- √x (R123). -/
def fSqrt (env : FEnv) (a : Nat) : FOut :=
  let x := unpackIn env.ftz .fp32 a
  let bad := match x with
    | .inf n => n
    | .fin n m _ => n && m != 0
    | _ => false
  withNans .fp32 [x] bad (match x with
    | .fin n m e =>
      if m = 0 then roundMag .fp32 env n { mant := 0, exp := 0, sticky := false }
      else
        let odd := e % 2 != 0
        let m1 := if odd then m * 2 else m
        let e1 := if odd then e - 1 else e
        let r := isqrt (m1 * 2 ^ 128)
        roundMag .fp32 env false { mant := r, exp := e1 / 2 - 64, sticky := r * r != m1 * 2 ^ 128 }
    | .inf _ => infInto .fp32 env false
    | _ => invalidResult .fp32)

/-- 1 / √x (R123). -/
def fRsq (env : FEnv) (a : Nat) : FOut :=
  let x := unpackIn env.ftz .fp32 a
  let bad := match x with
    | .inf n => n
    | .fin n m _ => n && m != 0
    | _ => false
  withNans .fp32 [x] bad (match x with
    | .fin n m e =>
      if m = 0 then ((infInto .fp32 env n).1, flagDivZero)
      else
        let odd := e % 2 != 0
        let m1 := if odd then m * 2 else m
        let e1 := if odd then e - 1 else e
        let r := isqrt (2 ^ 256 / m1)
        roundMag .fp32 env false { mant := r, exp := -(e1 / 2) - 128, sticky := r * r * m1 != 2 ^ 256 }
    | .inf _ => (0, 0#8)
    | _ => invalidResult .fp32)

/-- 1 / x (R123). -/
def fRcp (env : FEnv) (a : Nat) : FOut :=
  let x := unpackIn env.ftz .fp32 a
  withNans .fp32 [x] false (match x with
    | .inf n => (withSign .fp32 n 0, 0#8)
    | .fin n m e =>
      if m = 0 then ((infInto .fp32 env n).1, flagDivZero)
      else roundMag .fp32 env n (divMag 1 0 m e)
    | _ => invalidResult .fp32)

/-- Is x below y in the order of R114 (−0 below +0)? Numbers only. -/
def numLtTotal (x y : Num) : Bool :=
  match x, y with
  | .inf n, .inf k => n && !k
  | .inf n, _ => n
  | _, .inf k => !k
  | .fin n m e, .fin k p g =>
    let lo := min e g
    let a : Int := (m : Int) * 2 ^ (e - lo).toNat
    let b : Int := (p : Int) * 2 ^ (g - lo).toNat
    if a = 0 && b = 0 then n && !k
    else (if n then -a else a) < (if k then -b else b)
  | _, _ => false

/-- Are two numbers equal in value, −0 = +0 (R115)? -/
def numEq (x y : Num) : Bool :=
  match x, y with
  | .inf n, .inf k => n == k
  | .fin n m e, .fin k p g =>
    let lo := min e g
    let a : Int := (m : Int) * 2 ^ (e - lo).toNat
    let b : Int := (p : Int) * 2 ^ (g - lo).toNat
    (if n then -a else a) == (if k then -b else b)
  | _, _ => false

/-- Is x below y in value, −0 = +0 (R115)? -/
def numLt (x y : Num) : Bool := !numEq x y && numLtTotal x y

/-- The encoding an operand is returned as by Min and Max (R114): under ftz a subnormal is zero of its sign. -/
def flushCode (ftz : Bool) (f : Fmt) (x : Nat) : Nat :=
  if ftz && fmtFlushes f && decide (x % fmtSignBit f < 2 ^ fmtFrac f) then
    (if x.testBit (fmtTotalBits f - 1) then fmtSignBit f else 0)
  else x

/-- Min of two numbers' encodings (R114): the lesser, `a` when equal. -/
def minCode (ftz : Bool) (f : Fmt) (a b : Nat) : Nat :=
  if numLtTotal (unpackIn ftz f b) (unpackIn ftz f a) then flushCode ftz f b else flushCode ftz f a

/-- Max of two numbers' encodings (R114). -/
def maxCode (ftz : Bool) (f : Fmt) (a b : Nat) : Nat :=
  if numLtTotal (unpackIn ftz f a) (unpackIn ftz f b) then flushCode ftz f b else flushCode ftz f a

/-- Min(a, b) of R114. -/
def fMin (f : Fmt) (env : FEnv) (a b : Nat) : FOut :=
  withNans f [unpack f a, unpack f b] false (minCode env.ftz f a b, 0#8)

/-- Max(a, b) of R114. -/
def fMax (f : Fmt) (env : FEnv) (a b : Nat) : FOut :=
  withNans f [unpack f a, unpack f b] false (maxCode env.ftz f a b, 0#8)

/-- Min(Max(d, a), b) of R114. -/
def fClamp (f : Fmt) (env : FEnv) (a b d : Nat) : FOut :=
  withNans f [unpack f a, unpack f b, unpack f d] false
    (minCode env.ftz f (maxCode env.ftz f d a) b, 0#8)

/-- a × 2^n (R113); n is confined to a range outside of which the result no longer changes. -/
def fScale (env : FEnv) (a : Nat) (n : Int) : FOut :=
  let x := unpackIn env.ftz .fp32 a
  let k := max (-700) (min 700 n)
  withNans .fp32 [x] false (match x with
    | .fin s m e => roundNum .fp32 env (.fin s m (e + k))
    | w => roundNum .fp32 env w)

/-- Outcome of a floating-point compare with condition `c` of R40 and its flags (R115). -/
def fCompare (ftz : Bool) (c : Nat) (a b : Nat) : Bool × Flags :=
  let x := unpackIn ftz .fp32 a
  let y := unpackIn ftz .fp32 b
  let nan := numIsNan x || numIsNan y
  let sig := numSignals x || numSignals y
  let out := match c with
    | 0 => !nan && numEq x y
    | 1 => nan || !numEq x y
    | 2 => !nan && numLt x y
    | 3 => !nan && (numLt x y || numEq x y)
    | 4 => !nan && numLt y x
    | 5 => !nan && (numLt y x || numEq x y)
    | 6 => nan
    | _ => !nan
  (out, flagIf (if 2 ≤ c && c ≤ 5 then nan else sig) flagInvalid)

/-- d + Σ a_i × b_i rounded once to FP32 (R118). -/
def fDot (f : Fmt) (env : FEnv) (as bs : List Nat) (d : Nat) : FOut :=
  let xs := as.map (unpackIn env.ftz f)
  let ys := bs.map (unpackIn env.ftz f)
  let z := unpackIn env.ftz .fp32 d
  roundDot .fp32 env (xs ++ ys ++ [z]) (some z :: List.zipWith numMul xs ys)

/-- Exact sum of FP32 values, rounded once (R147). -/
def fSum (env : FEnv) (xs : List Nat) : FOut :=
  let ns := xs.map (unpackIn env.ftz .fp32)
  roundDot .fp32 env ns (ns.map some)

/-- A magnitude rounded to an integer under a mode: the integer and whether it is inexact. -/
def roundInt (mode : Nat) (neg : Bool) (m : Mag) : Nat × Bool := roundAt mode neg m 0

/-- VRND (R123). -/
def fRnd (env : FEnv) (a : Nat) : FOut :=
  let x := unpackIn env.ftz .fp32 a
  withNans .fp32 [x] false (match x with
    | .inf n => infInto .fp32 env n
    | .fin n m e =>
      if m = 0 then (withSign .fp32 n 0, 0#8)
      else
        let r := (roundInt env.mode n { mant := m, exp := e, sticky := false }).1
        if r = 0 then (withSign .fp32 n 0, 0#8) else ((roundNum .fp32 env (.fin n r 0)).1, 0#8)
    | _ => invalidResult .fp32)

/-- VGETEXP (R123). -/
def fGetExp (env : FEnv) (a : Nat) : FOut :=
  let x := unpackIn env.ftz .fp32 a
  withNans .fp32 [x] false (match x with
    | .inf _ => infInto .fp32 env false
    | .fin _ m e =>
      if m = 0 then ((infInto .fp32 env true).1, flagDivZero)
      else
        let t := magTop { mant := m, exp := e, sticky := false }
        roundNum .fp32 { env with ftz := false } (.fin (decide (t < 0)) t.natAbs 0)
    | _ => invalidResult .fp32)

/-- VGETMAN (R123). -/
def fGetMan (env : FEnv) (a : Nat) : FOut :=
  let x := unpackIn env.ftz .fp32 a
  withNans .fp32 [x] (numIsInf x) (match x with
    | .fin n m _ =>
      if m = 0 then (withSign .fp32 n 0, 0#8) else roundNum .fp32 env (.fin n m (-(m.log2 : Int)))
    | _ => invalidResult .fp32)

/-- A conversion between floating formats (R66, R67). -/
def fConvert (src dst : Fmt) (env : FEnv) (x : Nat) : FOut :=
  roundNum dst env (unpackIn env.ftz src x)

/-- An integer converted into a floating format (R66, R125). -/
def intToFloat (dst : Fmt) (env : FEnv) (v : Int) : FOut :=
  roundNum dst env (.fin (decide (v < 0)) v.natAbs 0)

/-- A floating value converted into an integer of `n` bits at binary point `bp` (R69). -/
def floatToInt (src : Fmt) (env : FEnv) (n : Nat) (signed : Bool) (bp : Nat) (x : Nat) : Int × Flags :=
  let mode := if bp = 0 then env.mode else 0
  let hi : Int := if signed then 2 ^ (n - 1) - 1 else 2 ^ n - 1
  let lo : Int := if signed then -(2 ^ (n - 1)) else 0
  match unpackIn env.ftz src x with
  | .nan .. => (0, flagInvalid)
  | .inf neg => (if neg then lo else hi, flagInvalid)
  | .fin neg m e =>
    let r := roundInt mode neg { mant := m, exp := e + bp, sticky := false }
    let y : Int := if neg then -(r.1 : Int) else r.1
    if hi < y then (hi, flagInvalid)
    else if y < lo then (lo, flagInvalid)
    else (y, flagIf r.2 flagInexact)

/-- An integer converted into an integer of `n` bits (R66), as its low bits. -/
def intToInt (n : Nat) (signed sat : Bool) (v : Int) : Int :=
  let hi : Int := if signed then 2 ^ (n - 1) - 1 else 2 ^ n - 1
  let lo : Int := if signed then -(2 ^ (n - 1)) else 0
  if lo ≤ v && v ≤ hi then v
  else if sat then (if hi < v then hi else lo)
  else
    let w := v % 2 ^ n
    if signed && decide (2 ^ (n - 1) ≤ w) then w - 2 ^ n else w

end Sys2Proof.Machine
end

