-- ==== Sys2Proof/Machine/Transcend.lean ====
section
/-! DEFINITION. The transcendental functions of R123, correctly rounded. Each is evaluated in fixed point with `fxP`
fraction bits, far beyond the 24 bits of FP32, and handed to RoundTo as a magnitude known to lie strictly above a
lower bound; exact cases and arguments near a limit are taken first. -/

namespace Sys2Proof.Machine

/-- Fraction bits of the fixed-point evaluation. -/
def fxP : Nat := 200

/-- Guard bits dropped before rounding. -/
def fxGuard : Nat := 20

/-- π in fixed point with `fxP` bits. -/
def fxPi : Nat := 0x3243f6a8885a308d313198a2e03707344a4093822299f31d008

/-- ln 2 in fixed point with `fxP` bits. -/
def fxLn2 : Nat := 0xb17217f7d1cf79abc9e3b39803f2f6af40f343267298b62d8a

def fxMul (a b : Nat) : Nat := a * b / 2 ^ fxP

/-- e^y − 1 for 0 ≤ y < 1, term by term. -/
def fxExpTerms (y : Nat) : Nat → Nat → Nat → Nat → Nat
  | 0, _, _, acc => acc
  | k + 1, n, t, acc =>
    let t' := fxMul t y / n
    fxExpTerms y k (n + 1) t' (acc + t')

/-- e^y for 0 ≤ y < 1. -/
def fxExp (y : Nat) : Nat := fxExpTerms y 60 1 (2 ^ fxP) (2 ^ fxP)

/-- Σ z^(2k+1)/(2k+1): the inverse hyperbolic tangent of z ≤ 1/3. -/
def fxAtanhTerms (z2 : Nat) : Nat → Nat → Nat → Nat → Nat
  | 0, _, _, acc => acc
  | k + 1, n, t, acc => fxAtanhTerms z2 k (n + 2) (fxMul t z2) (acc + t / n)

def fxAtanh (z : Nat) : Nat := fxAtanhTerms (fxMul z z) 70 1 z 0

/-- Alternating series t/1 − t·w/(n(n+1)) + … used by sine and cosine. -/
def fxAlt (w : Nat) : Nat → Nat → Int → Bool → Int → Int
  | 0, _, _, _, acc => acc
  | k + 1, n, t, neg, acc =>
    let t' := t * w / 2 ^ fxP / (n * (n + 1) : Nat)
    fxAlt w k (n + 2) t' (!neg) (if neg then acc + t' else acc - t')

/-- cos(π r) for 0 ≤ r ≤ 1/4. -/
def fxCosPi (r : Nat) : Nat :=
  let x := fxMul fxPi r
  (fxAlt (fxMul x x) 40 1 (2 ^ fxP) false (2 ^ fxP)).toNat

/-- sin(π r) / r for 0 ≤ r ≤ 1/4. -/
def fxSincPi (r : Nat) : Nat :=
  let x := fxMul fxPi r
  fxMul fxPi (fxAlt (fxMul x x) 40 2 (2 ^ fxP) false (2 ^ fxP)).toNat

/-- A lower bound of a fixed-point value, scaled by 2^e, with the rest known to be nonzero. -/
def fxMag (v : Nat) (e : Int) : Mag :=
  { mant := (v - 2 ^ (fxGuard - 1)) / 2 ^ fxGuard, exp := e - fxP + fxGuard, sticky := true }

/-- A magnitude just below 2^e. -/
def justBelow (e : Int) : Mag := { mant := 2 ^ 100 - 1, exp := e - 100, sticky := true }

/-- A magnitude just above 2^e. -/
def justAbove (e : Int) : Mag := { mant := 2 ^ 100, exp := e - 100, sticky := true }

/-- The value m × 2^e, below 2^64 say, in fixed point (rounded down). -/
def toFx (m : Nat) (e : Int) : Nat :=
  if 0 ≤ e + fxP then m * 2 ^ (e + fxP).toNat else m / 2 ^ (-(e + fxP)).toNat

/-- 2^x (R123). -/
def fExp2 (env : FEnv) (a : Nat) : FOut :=
  let x := unpackIn env.ftz .fp32 a
  withNans .fp32 [x] false (match x with
    | .inf n => if n then (0, 0#8) else infInto .fp32 env false
    | .fin n m e =>
      if m = 0 then roundNum .fp32 env (numPow2 0)
      else
        let top := e + (m.log2 : Int)
        if 12 ≤ top then (if n then roundMag .fp32 env false (justAbove (-2000)) else roundMag .fp32 env false (justAbove 2000))
        else if top < -100 then roundMag .fp32 env false (if n then justBelow 0 else justAbove 0)
        else
          let fx : Int := (toFx m e : Int)
          let s := if n then -fx else fx
          let whole := s / 2 ^ fxP
          let part := (s % 2 ^ fxP).toNat
          if part = 0 then roundNum .fp32 env (numPow2 whole)
          else roundMag .fp32 env false (fxMag (fxExp (fxMul part fxLn2)) whole)
    | _ => invalidResult .fp32)

/-- log2 x (R123). -/
def fLog2 (env : FEnv) (a : Nat) : FOut :=
  let x := unpackIn env.ftz .fp32 a
  let bad := match x with
    | .inf n => n
    | .fin n m _ => n && m != 0
    | _ => false
  withNans .fp32 [x] bad (match x with
    | .inf _ => infInto .fp32 env false
    | .fin _ m e =>
      if m = 0 then ((infInto .fp32 env true).1, flagDivZero)
      else
        let top : Int := e + m.log2
        if m = 2 ^ m.log2 then roundNum .fp32 env (.fin (decide (top < 0)) top.natAbs 0)
        else
          -- 1 < man < 2 in fixed point, log2 man = 2 atanh((man − 1)/(man + 1)) / ln 2
          let man := m * 2 ^ (fxP - m.log2)
          let z := (man - 2 ^ fxP) * 2 ^ fxP / (man + 2 ^ fxP)
          let l := 2 * fxAtanh z * 2 ^ fxP / fxLn2
          let v : Int := top * 2 ^ fxP + l
          roundMag .fp32 env (decide (v < 0)) (fxMag v.natAbs 0)
    | _ => invalidResult .fp32)

/-- sin(π r) for an exact r = m × 2^e, 0 < r < 1/2, as a magnitude. -/
def sinPiHalf (m : Nat) (e : Int) : Mag :=
  if decide (4 * m * 2 ^ (e + 200).toNat ≤ 2 ^ 200) || e < -200 then
    let s := fxSincPi (toFx m e)
    let g := fxMag s 0
    { mant := m * g.mant, exp := e + g.exp, sticky := true }
  else
    -- r > 1/4: cos(π (1/2 − r)); 1/2 − r is exact
    let k := (-e).toNat
    let d := 2 ^ (k - 1) - m
    let r := toFx d e
    if r < 2 ^ 100 then justBelow 0 else fxMag (fxCosPi r) 0

/-- sin(π q) for q = m × 2^e reduced to 0 ≤ q < 2 (units of 2^e, e < 0): the sign and magnitude, none when exact. -/
def sinPiRed (m : Nat) (k : Nat) : Bool × Option Mag × Nat :=
  -- q = m / 2^k; the third part is the exact magnitude (0 or 1) where the second is none
  let one := 2 ^ k
  let neg := decide (one ≤ m)
  let h := m % one
  if h = 0 then (neg, none, 0)
  else if 2 * h = one then (neg, none, 1)
  else
    let r := if 2 * h < one then h else one - h
    (neg, some (sinPiHalf r (-(k : Int))), 0)

/-- sin(πx) (R123). -/
def fSinPi (env : FEnv) (a : Nat) : FOut :=
  let x := unpackIn env.ftz .fp32 a
  withNans .fp32 [x] (numIsInf x) (match x with
    | .fin n m e =>
      if m = 0 || 0 ≤ e then (withSign .fp32 n 0, 0#8)
      else
        let k := (-e).toNat
        let q := m % 2 ^ (k + 1)
        match sinPiRed q k with
        | (_, none, 0) => (withSign .fp32 n 0, 0#8)
        | (s, none, _) => roundNum .fp32 env (.fin (s != n) 1 0)
        | (s, some g, _) => roundMag .fp32 env (s != n) g
    | _ => invalidResult .fp32)

/-- cos(πx) (R123): sin(π(|x| + 1/2)). -/
def fCosPi (env : FEnv) (a : Nat) : FOut :=
  let x := unpackIn env.ftz .fp32 a
  withNans .fp32 [x] (numIsInf x) (match x with
    | .fin _ m e =>
      if m = 0 then roundNum .fp32 env (numPow2 0)
      else if 1 ≤ e then roundNum .fp32 env (numPow2 0)
      else if e + (m.log2 : Int) < -60 then roundMag .fp32 env false (justBelow 0)
      else
        let k := (-e).toNat + 1
        let q := (2 * m + 2 ^ (k - 1)) % 2 ^ (k + 1)
        match sinPiRed q k with
        | (_, none, 0) => (0, 0#8)
        | (s, none, _) => roundNum .fp32 env (.fin s 1 0)
        | (s, some g, _) => roundMag .fp32 env s g
    | _ => invalidResult .fp32)

/-- tanh x (R123). -/
def fTanh (env : FEnv) (a : Nat) : FOut :=
  let x := unpackIn env.ftz .fp32 a
  withNans .fp32 [x] false (match x with
    | .inf n => roundNum .fp32 env (.fin n 1 0)
    | .fin n m e =>
      if m = 0 then (withSign .fp32 n 0, 0#8)
      else
        let top : Int := e + m.log2
        if top < -40 then roundMag .fp32 env n { mant := m * 2 ^ 80 - 1, exp := e - 80, sticky := true }
        else if 6 ≤ top then roundMag .fp32 env n (justBelow 0)
        else
          -- E = e^(2|x|) = 2^w × e^f with 2|x| = w ln 2 + f
          let y := 2 * toFx m e
          let w := y / fxLn2
          let big := fxExp (y % fxLn2) * 2 ^ w
          let t := (big - 2 ^ fxP) * 2 ^ fxP / (big + 2 ^ fxP)
          roundMag .fp32 env n (fxMag t 0)
    | _ => invalidResult .fp32)

end Sys2Proof.Machine
end

