-- ==== Sys2Proof/Machine/Ops.lean ====
section
/-! DEFINITION. The named operations over the state that the meanings share: bytes, registers, free values, groups and
teams, stopping a group by a trap (R312 to R321) and starting it again (R331). -/

namespace Sys2Proof.Machine

/-- The outcome of an instruction or a step. -/
abbrev Out := Host.Outcome State Fault Refusal

/-! ## Bytes -/

/-- The natural number of bytes in little-endian order (R6). -/
def leNat : List Byte → Nat
  | [] => 0
  | b :: bs => b.toNat + 256 * leNat bs

/-- The `n` low bytes of a number, little-endian (R6). -/
def leBytes : Nat → Nat → List Byte
  | 0, _ => []
  | n + 1, x => BitVec.ofNat 8 x :: leBytes n (x / 256)

/-- `n` bytes of a memory whose unlisted bytes are zero, from address `a`. -/
def readBytes (m : Memory) (a : Nat) : Nat → List Byte
  | 0 => []
  | n + 1 => sget 0#8 m a :: readBytes m (a + 1) n

/-- Write bytes from address `a` on. -/
def writeBytes (m : Memory) (a : Nat) : List Byte → Memory
  | [] => m
  | b :: bs => writeBytes (sput 0#8 m a b) (a + 1) bs

/-- Is any of the `n` words from word `w` marked? -/
def anyMarked (m : SMap Bool) (w : Nat) : Nat → Bool
  | 0 => false
  | n + 1 => sget false m w || anyMarked m (w + 1) n

/-- Mark or clear the `n` words from word `w`. -/
def markWords (m : SMap Bool) (w : Nat) (b : Bool) : Nat → SMap Bool
  | 0 => m
  | n + 1 => markWords (sput false m w b) (w + 1) b n

/-! ## Free values -/

/-- The next free value. -/
def State.freeNow (s : State) : BitVec 64 := Config.free s.fresh

/-- The state with the next free value drawn. -/
def State.drawn (s : State) : State := { s with fresh := s.fresh + 1 }

/-- `8 n` bytes of free values from number `k`. -/
def freeBytes (k : Nat) : Nat → List Byte
  | 0 => []
  | n + 1 => leBytes 8 (Config.free k).toNat ++ freeBytes (k + 1) n

/-- Draw `n` free values. -/
def State.drew (s : State) (n : Nat) : State := { s with fresh := s.fresh + n }

/-- A register of free values, each lane a free value of its own (R3, R81). -/
def freeLanes (n : Nat) : Lanes := (List.range 32).map (fun l => (Config.free (n + l)).extractLsb' 0 32)

/-! ## Registers of the current group -/

/-- Update the registers of the current group. -/
def State.setRegs (s : State) (r : Regs) : State := { s with cur := { s.cur with regs := r } }

/-- Update the current fragment. -/
def State.setFrag (s : State) (f : Frag) : State := { s with cur := { s.cur with frag := f } }

/-- Scalar register `i` of the current group (R15). -/
def State.getS (s : State) (i : BitVec 6) : DWord := sget 0#64 s.cur.regs.s i.toNat

def Regs.putS (r : Regs) (i : BitVec 6) (x : DWord) : Regs := { r with s := sput 0#64 r.s i.toNat x }

/-- Write scalar register `i` (R15). -/
def State.putS (s : State) (i : BitVec 6) (x : DWord) : State := s.setRegs (s.cur.regs.putS i x)

/-- Condition flag `k` (R15). -/
def State.getK (s : State) (k : BitVec 2) : Bool := s.cur.regs.k.getLsbD k.toNat

/-- The condition flags with flag `k` set to `b`. -/
def putBit {w : Nat} (x : BitVec w) (i : Nat) (b : Bool) : BitVec w :=
  if b then x ||| (1#w <<< i) else x &&& ~~~(1#w <<< i)

def State.putK (s : State) (k : BitVec 2) (b : Bool) : State :=
  s.setRegs { s.cur.regs with k := putBit s.cur.regs.k k.toNat b }

/-- Predicate `p` (R15). -/
def State.getP (s : State) (p : BitVec 3) : Mask := sget 0#32 s.cur.regs.p p.toNat

def State.putP (s : State) (p : BitVec 3) (m : Mask) : State :=
  s.setRegs { s.cur.regs with p := sput 0#32 s.cur.regs.p p.toNat m }

/-- Lane `l` of a register. -/
def laneOf (x : Lanes) (l : Nat) : Word := x.getD l 0#32

/-- The register whose lane `l` is `f l`. -/
def mkLanes (f : Nat → Word) : Lanes := (List.range 32).map f

/-- The mask whose bit `l` is `f l`. -/
def mkMask (f : Nat → Bool) : Mask :=
  (List.range 32).foldl (fun m l => if f l then m ||| (1#32 <<< l) else m) 0#32

/-- XW (R14). -/
def State.xw (s : State) : Nat := 8 * s.cur.regs.window.toNat

/-- The active lanes `m` of `new`; inactive lanes keep their values (R112). -/
def mergeLanes (m : Mask) (old new : Lanes) : Lanes :=
  mkLanes (fun l => if m.getLsbD l then laneOf new l else laneOf old l)

/-- The value of a temporary of a run (R81): a lane that no word of the run has written holds a free value. -/
def Run.temp (r : Run) (i : Nat) : Lanes :=
  mergeLanes (sget 0#32 r.twritten i) (freeLanes (r.seed + 32 * i)) (sget zeroLanes r.temps i)

/-- What words of a run read of register `n`, which holds `x` (R233). -/
def Run.sees (r : Run) (n : Nat) (x : Lanes) : Lanes :=
  mergeLanes (sget 0#32 r.lost n) x (freeLanes (r.seed + 256 + 32 * n))

/-- A word of the run has written the lanes `m` of register `n`. -/
def Run.found (r : Run) (n : Nat) (m : Mask) : Run := { r with lost := sput 0#32 r.lost n (sget 0#32 r.lost n &&& ~~~m) }

/-- The value of a register (R13) in every lane. -/
def State.getRef (s : State) : RegRef → Lanes
  | .reg n =>
    match s.cur.run with
    | some r => r.sees n (sget zeroLanes s.cur.regs.v n)
    | none => sget zeroLanes s.cur.regs.v n
  | .temp i =>
    match s.cur.run with
    | some r => r.temp i
    | none => zeroLanes

/-- The group has written lanes of vector register `n` (R209, R227). -/
def MatrixState.wrote (x : MatrixState) (n : Nat) (m : Mask) : MatrixState :=
  if x.results.isEmpty then x
  else { x with results := x.results.map (fun e => if e.reg = n then { e with touched := e.touched ||| m } else e) }

/-- Write the active lanes of a register (R112). -/
def State.putRef (s : State) (m : Mask) (r : RegRef) (x : Lanes) : State :=
  match r with
  | .reg n =>
    let v := sput zeroLanes s.cur.regs.v n (mergeLanes m (sget zeroLanes s.cur.regs.v n) x)
    { s with cur := { s.cur with regs := { s.cur.regs with v := v }, run := s.cur.run.map (fun r => r.found n m),
                                 matrix := s.cur.matrix.wrote n m } }
  | .temp i =>
    match s.cur.run with
    | none => s
    | some run =>
      { s with cur := { s.cur with run := some { run with
          temps := sput zeroLanes run.temps i (mergeLanes m (sget zeroLanes run.temps i) x),
          twritten := sput 0#32 run.twritten i (sget 0#32 run.twritten i ||| m) } } }

/-- OR flags into FSTAT (R20). -/
def State.orFstat (s : State) (f : Flags) : State := s.setRegs { s.cur.regs with fstat := s.cur.regs.fstat ||| f }

/-- Is completion flag `i` done (R18)? -/
def Regs.flagDone (r : Regs) (i : Nat) : Bool := sget 0 r.fpend i == 0

/-- FFLG (R18). -/
def Regs.fflg (r : Regs) : BitVec 12 :=
  (List.range 12).foldl (fun m i => if r.flagDone i then m ||| (1#12 <<< i) else m) 0#12

/-- Bind a completion flag; 15 binds none (R18). -/
def Regs.bindFlag (r : Regs) (i : Nat) : Regs :=
  if 12 ≤ i then r else { r with fpend := sput 0 r.fpend i (sget 0 r.fpend i + 1) }

/-- Complete one binding of a flag (R18). -/
def Regs.unbindFlag (r : Regs) (i : Nat) : Regs :=
  if 12 ≤ i then r else { r with fpend := sput 0 r.fpend i (sget 0 r.fpend i - 1) }

/-- Are the flags of a mask all done? -/
def Regs.flagsDone (r : Regs) (m : BitVec 12) : Bool := m &&& ~~~r.fflg == 0#12

/-! ## Hints acting on the current word (R45 to R47) -/

/-- The immediate of HIMM, if one stands before the word. -/
def State.himm (s : State) : Option (BitVec 25) := s.cur.frag.hint.bind (·.imm)

/-- The HMOD before the word, if any. -/
def State.hmod (s : State) : Option ModHint := s.cur.frag.hint.bind (·.mod)

/-- Lanes for which the guard of the word holds (R15). -/
def State.guardMask (s : State) : Mask :=
  match s.hmod with
  | some h => if h.gEn then (if h.gNeg then ~~~s.getP h.gPred else s.getP h.gPred) else 0xFFFFFFFF#32
  | none => 0xFFFFFFFF#32

/-- The active lanes of the word (R9, R15), limited by FMASK after GRESUME.fmask (R331). -/
def State.active (s : State) : Mask :=
  s.cur.frag.exec &&& s.guardMask &&& s.cur.frag.limit.getD 0xFFFFFFFF#32

/-- The effective rounding mode (R57). -/
def State.mode (s : State) : Nat :=
  match s.hmod with
  | some h => if h.rmEn then h.rm.toNat else s.cur.regs.roundMode.toNat
  | none => s.cur.regs.roundMode.toNat

/-- Address of the first hint of the unit, or of the word (R48). -/
def State.unitPc (s : State) : Addr :=
  match s.cur.frag.hint with
  | some h => h.first
  | none => s.cur.frag.pc

/-! ## Groups, teams, clusters -/

/-- Do two groups have one identity? -/
def sameGroup (a b : GroupId) : Bool := a.grid == b.grid && a.clu == b.clu && a.team == b.team && a.grp == b.grp

/-- Apply `f` to the group named, wherever it is. -/
def State.onGroup (s : State) (grid clu team grp : Nat) (f : Group → Group) : State :=
  let hit (g : Group) : Bool :=
    g.alive && g.id.grid == grid && g.id.clu == clu && g.id.team == team && g.id.grp == grp
  if hit s.cur then { s with cur := f s.cur }
  else { s with others := s.others.map (fun g => if hit g then f g else g) }

/-- Every group of the package, the selected one first. -/
def State.groups (s : State) : List Group := s.cur :: s.others

/-- Groups that have not ended. -/
def State.liveGroups (s : State) : List Group := s.groups.filter (·.alive)

/-- Apply `f` to every group. -/
def State.mapGroups (s : State) (f : Group → Group) : State := { s with cur := f s.cur, others := s.others.map f }

/-- Group `i` becomes the selected one; a group that has ended and waits for nothing leaves. -/
def State.selectGroup (s : State) (i : Nat) : State :=
  if i = 0 then s
  else
    match s.others[i - 1]? with
    | none => s
    | some g =>
      let rest := s.others.eraseIdx (i - 1)
      { s with cur := g, others := if s.cur.alive || !s.cur.matrix.words.isEmpty then s.cur :: rest else rest }

/-- Fragment `j` of the selected group becomes the current one. -/
def State.selectFrag (s : State) (j : Nat) : State :=
  if j = 0 then s
  else
    match s.cur.sibs[j - 1]? with
    | none => s
    | some f => { s with cur := { s.cur with frag := f, sibs := s.cur.frag :: s.cur.sibs.eraseIdx (j - 1) } }

/-- The identity of a group as stores and packets carry it. -/
def GroupId.key (g : GroupId) : GroupKey := (g.grid, g.clu, g.team, g.grp)

/-- Is the group alive, of that identity? -/
def Group.isLive (g : Group) (o : GroupKey) : Bool := g.alive && g.id.key == o

/-- `f` acts on the group named as if it were selected; nothing else of the package changes. -/
def State.onKey (s : State) (o : GroupKey) (f : State → State) : State :=
  if s.cur.isLive o then { s with cur := (f s).cur }
  else { s with others := s.others.map (fun g => if g.isLive o then (f { s with cur := g }).cur else g) }

/-- The team that stands where none is found: no tile memory, no tiles. -/
def Team.absent (g : GroupId) : Team :=
  { grid := g.grid, clu := g.clu, team := g.team, core := g.core, job := g.job, groups := 1, tileBase := 0, tilePages := 0,
    tabBase := 0, tabCount := 0, kibMax := 2048, reqMax := 64, abars := [], rings := [], bars := [] }

def isTeam (grid clu team : Nat) (t : Team) : Bool := t.grid == grid && t.clu == clu && t.team == team

/-- Team `team` of the cluster of the current group. -/
def State.teamOf (s : State) (team : Nat) : Option Team :=
  s.teams.find? (isTeam s.cur.id.grid s.cur.id.clu team)

/-- The team of a group. -/
def State.teamFor (s : State) (g : GroupId) : Team := (s.teams.find? (isTeam g.grid g.clu g.team)).getD (Team.absent g)

/-- The team of the current group. -/
def State.team (s : State) : Team := s.teamFor s.cur.id

/-- Replace the team of the same identity. -/
def State.putTeam (s : State) (t : Team) : State :=
  { s with teams := s.teams.map (fun u => if isTeam t.grid t.clu t.team u then t else u) }

def isCluster (grid clu : Nat) (c : Cluster) : Bool := c.grid == grid && c.clu == clu

def Cluster.absent (g : GroupId) : Cluster :=
  { grid := g.grid, clu := g.clu, rows := 1, cols := 1, die := g.core / 256, row := g.core / 16 % 16, col := g.core % 16,
    swapped := false, woken := false, bars := [] }

/-- The cluster of a group. -/
def State.clusterFor (s : State) (g : GroupId) : Cluster :=
  (s.clusters.find? (isCluster g.grid g.clu)).getD (Cluster.absent g)

/-- The cluster of the current group. -/
def State.cluster (s : State) : Cluster := s.clusterFor s.cur.id

def State.putCluster (s : State) (c : Cluster) : State :=
  { s with clusters := s.clusters.map (fun d => if isCluster c.grid c.clu d then c else d) }

/-- The launch of a grid (R295). -/
def State.launchOf (s : State) (grid : Nat) : Option Launch := s.sched.launches.find? (fun l => l.grid == grid)

/-- A record of no clusters, for a group without a launch. -/
def LaunchRec.absent : LaunchRec :=
  { entry := 0#57, args := 0#57, spillBase := 0#57, clusters := 0, rows := 1, cols := 1, groups := 1, vregs := 8,
    accs := 0, priority := 0, rowstat := false, tilePages := 0, tiles := 0, spillEntries := 0, waitThresh := 0,
    deps := [] }

/-- The launch record of the current group's grid. -/
def State.launchRec (s : State) : LaunchRec := ((s.launchOf s.cur.id.grid).map (·.record)).getD LaunchRec.absent

/-- Is a CORE value one of the 640 cores (R23)? -/
def coreExists (c : Nat) : Bool := decide (c < 1024) && decide (c / 16 % 16 < 10)

/-- Is the core a row-stat core (R23)? -/
def rowstatCore (c : Nat) : Bool := c / 16 % 2 == 0 && c % 2 == 0

/-! ## Fault records and traps (R312 to R321) -/

/-- (time, source) of one record before those of another (R319). -/
def recordBefore (a b : Record) : Bool :=
  a.time.toNat < b.time.toNat || (a.time == b.time && a.source.toNat < b.source.toNat)

/-- Insert a record in ascending order of (time, source); records of one source keep their order (R319). -/
def insertRecord (r : Record) : List Record → List Record
  | [] => [r]
  | x :: xs => if recordBefore r x then r :: x :: xs else x :: insertRecord r xs

/-- Causes of records that may be dropped: watch, scheduling and link events (R321, R378). -/
def droppable (cause : Nat) : Bool :=
  (cause / 32 == 24 && decide (16 ≤ cause % 32)) || cause / 32 == 25 || cause / 32 == 26

/-- The fault unit accepts a record, or drops it (R321). -/
def State.accept (s : State) (r : Record) : State :=
  if droppable r.cause && decide (64 ≤ (s.fault.records.filter (fun x => droppable x.cause)).length) then
    { s with fault := { s.fault with lost := min 255 (s.fault.lost + 1) } }
  else { s with fault := { s.fault with records := insertRecord r s.fault.records } }

/-- The source number of a group (R318). -/
def State.groupSource (s : State) (g : GroupId) : BitVec 32 :=
  s.node ++ 0#4 ++ BitVec.ofNat 16 (g.core * 64 + 16 * g.slot + g.pos)

/-- The source number of another unit (R318). -/
def State.unitSource (s : State) (unit index : Nat) : BitVec 32 :=
  s.node ++ BitVec.ofNat 4 unit ++ BitVec.ofNat 16 index

/-- The record of a stop of a group (R317). -/
def State.recordOf (s : State) (g : Group) (cause pc : Nat) (fmask : Mask) (addr : Nat) (aux : BitVec 64) : Record :=
  { time := s.time, source := s.groupSource g.id, cause := cause, job := g.id.job, grid := g.id.grid, clu := g.id.clu,
    core := g.id.core, inRun := g.run.isSome, team := g.id.team, grp := g.id.grp, pc := pc,
    nfrag := g.sibs.length + 1, fmask := fmask, addr := addr, aux := aux }

/-- A record of a unit that names no group (R317). -/
def State.unitRecord (s : State) (cause unit index addr : Nat) (aux : BitVec 64) (job : BitVec 16) : Record :=
  { time := s.time, source := s.unitSource unit index, cause := cause, job := job, grid := 0, clu := 0, core := 0,
    inRun := false, team := 0, grp := 0, pc := 0, nfrag := 0, fmask := 0#32, addr := addr, aux := aux }

/-- Every issued word of the open run completes: its flags reach FSTAT (R89, R90). -/
def Group.settleRun (g : Group) : Group :=
  match g.run with
  | none => g
  | some r =>
    let flags := (r.flight.filter (fun w => !w.done)).foldl (fun f w => w.flags.foldl (· ||| ·) f) 0#8
    { g with regs := { g.regs with fstat := g.regs.fstat ||| flags },
             run := some { r with flight := r.flight.map (fun w => { w with done := true }) } }

/-- What a trap reports beside its cause. -/
structure TrapArgs where
  fmask : Mask
  addr : Nat
  aux : BitVec 64
  deriving DecidableEq, Repr

def TrapArgs.plain : TrapArgs := { fmask := 0#32, addr := 0, aux := 0#64 }

/-- The current fragment stands again at the first hint of its unit, with the unit's hints and limits dropped. -/
def State.atUnit (s : State) : State :=
  s.setFrag { s.cur.frag with pc := s.unitPc, hint := none, limit := none, nowatch := false, wait := .ready, fuse := .none }

/-- A group stops (R312): FMASK is written; `skipTo` is where GRESUME.skip continues, `modal` whether its modes apply. -/
def Group.stopped (g : Group) (cause : Nat) (fmask : Mask) (modal : Bool) (skipTo : Addr) (frag : Mask) : Group :=
  { g with regs := { g.regs with fmask := fmask },
           stop := some { cause := cause, frag := frag, modal := modal, skipTo := skipTo } }

/-- The record of a stop goes to the fault unit; a privileged group also sets FRCFG.sup_fault and signals the host
(R334). -/
def State.report (s : State) (r : Record) (privileged : Bool) : State :=
  let s1 := s.accept r
  if privileged then { s1 with fault := { s1.fault with supFault := true }, msi := s1.msi ++ [1] } else s1

/-- Taking a trap (R312): the fragment stands at the reported unit, the group stops, FMASK is written, and the record goes
to the fault unit. -/
def State.stopWith (s : State) (cause : Nat) (a : TrapArgs) (pc : Nat) (modal : Bool) (skipTo : Addr)
    (frag : Mask) : State :=
  { s with cur := s.cur.stopped cause a.fmask modal skipTo frag }.report
    (s.recordOf s.cur cause pc a.fmask a.addr a.aux) s.cur.id.privileged

/-- A fault of the current unit, reported at its first word (R48, R312); `.skip` continues at `skipTo` (R331). -/
def State.trapSkip (s : State) (cause : Nat) (a : TrapArgs) (skipTo : Addr) : State :=
  let s0 := { s.atUnit with cur := s.atUnit.cur.settleRun }
  s0.stopWith cause a s.unitPc.toNat s.cur.run.isNone skipTo s.cur.frag.member

/-- A fault of the current word. -/
def State.trap (s : State) (cause : Nat) (a : TrapArgs) : State := s.trapSkip cause a (s.cur.frag.pc + 4#57)

/-- A fault without lanes or address. -/
def State.trap0 (s : State) (cls detail : Nat) : State := s.trap (32 * cls + detail) TrapArgs.plain

/-! ## The end of a word -/

/-- The fragment after the word: the hints and the limits of one unit are dropped, and it stands at `pc`. -/
def Frag.movedTo (f : Frag) (pc : Addr) : Frag :=
  { f with pc := pc, hint := none, limit := none, nowatch := false, wait := .ready, fuse := .none }

/-- The word completes and the program counter becomes `pc` (R25). -/
def State.goto (s : State) (pc : Addr) : State := s.setFrag (s.cur.frag.movedTo pc)

/-- The word completes and the program counter advances by 4 (R25). -/
def State.advance (s : State) : State := s.goto (s.cur.frag.pc + 4#57)

/-- The fragment waits at its unit, which issues again when the wait may be over (R304, R307). -/
def State.waitAt (s : State) (w : Wait) : State :=
  s.setFrag { s.cur.frag with pc := s.unitPc, hint := none, wait := w, fuse := .none }

end Sys2Proof.Machine
end

