-- ==== Sys2Proof/Machine/Operands.lean ====
section
/-! DEFINITION. Operand forms (R13, R35, R45, R105, R107), the end of a word inside and outside a run (R76, R90), and the
shapes that the vector words share (R111, R112). -/

namespace Sys2Proof.Machine

/-! ## Register fields -/

/-- The register that field value `n` names (R13); none when it is out of bounds. -/
def State.ref (s : State) (n : Nat) : Option RegRef :=
  if s.cur.run.isSome && decide (120 ≤ n) && decide (n < 128) then some (.temp (n - 120))
  else if n + s.xw < s.cur.id.vregs then some (.reg (n + s.xw)) else none

/-- The registers of a block of `k` from field value `n` (R13, R107). -/
def State.refs (s : State) (n : Nat) : Nat → Option (List RegRef)
  | 0 => some []
  | k + 1 =>
    match s.ref n, s.refs (n + 1) k with
    | some r, some rs => some (r :: rs)
    | _, _ => none

/-- Does a block inside a run lie on both sides of field value 120 (R107)? -/
def State.straddles (s : State) (n k : Nat) : Bool :=
  s.cur.run.isSome && decide (n < 120) && decide (120 < n + k)

/-! ## Immediates (R45) -/

/-- The 64-bit immediate of a scalar form (R45). -/
def State.imm64 (s : State) (i : BitVec 16) : DWord :=
  match s.himm with
  | some p => (p ++ i).signExtend 64
  | none => i.signExtend 64

/-- The 32-bit immediate of a major-8 integer form (R45). -/
def State.imm32 (s : State) (i : BitVec 16) : Word := (s.imm64 i).extractLsb' 0 32

/-- The FP32 immediate of a major-8 form (R45). -/
def State.immF32 (s : State) (i : BitVec 16) : Word :=
  match s.himm with
  | some p => i ++ p.extractLsb' 0 16
  | none => i ++ 0#16

/-- The address constant (R45). -/
def State.immAddr (s : State) : Nat :=
  match s.himm with
  | some p => p.toNat
  | none => 0

/-! ## The end of a word (R76) -/

/-- When a word's result appears (R74 to R77). -/
inductive Timing where
  | stream (delta len : Nat)
  | fixed (clocks : Nat)
  deriving DecidableEq, Repr

/-- Digits of an FP32 stream (R74). -/
def digitsF32 : Nat := 14

/-- What a deciding word leaves open (R83 to R85): lanes not decided by equality, and the place among the sources of the
operand that each lane returns; none of a compare. -/
structure Decision where
  lanes : Mask
  returned : List (Option Nat)
  deriving DecidableEq, Repr

def destLoc : Dest → Loc
  | .vec r _ => .vec r
  | .scalar i _ => .scalar i
  | .pred i _ => .pred i
  | .cond _ => .cond

/-- The latest word of the flight that writes a location. -/
def writerOf (flight : List InFlight) (l : Loc) : Option InFlight :=
  flight.foldl (fun acc w => if w.dests.any (fun d => destLoc d == l) then some w else acc) none

/-- Is the operand streamed (R76)? -/
def streamedFrom (l : Loc) (w : InFlight) : Bool :=
  match l with
  | .vec _ => w.len != 0
  | _ => false

/-- Latest first-digit time of the streamed operands. -/
def latestFirst (flight : List InFlight) (srcs : List Loc) : Nat :=
  srcs.foldl (fun t l => match writerOf flight l with
    | some w => if streamedFrom l w then max t w.first else t
    | none => t) 0

/-- Latest completion time of the non-streamed operands, or of all of them. -/
def latestDone (all : Bool) (flight : List InFlight) (srcs : List Loc) : Nat :=
  srcs.foldl (fun t l => match writerOf flight l with
    | some w => if all || !streamedFrom l w then max t w.complete else t
    | none => t) 0

/-- The clock at which a word issues (R76, R77, R80). `fused`: does it go on with a fused sequence, at whose clock it issues
(R88)? `held`: the latest completion of a write pending from before the run that the word reads. `srcs`: what it reads, the
fused operand left out. -/
def issueClock (r : Run) (tm : Timing) (fused : Bool) (held : Nat) (srcs : List Loc) : Nat :=
  let i := max (if fused then r.clock else r.clock + 1) ((held + 1) / 2)
  match tm with
  | .stream .. => i
  | .fixed _ => max i ((latestDone true r.flight srcs + 1) / 2)

/-- The words of a fused sequence issue at one clock (R88): the `n` words before index `idx` issue `clocks` later. -/
def shiftMates (idx n clocks : Nat) (flight : List InFlight) : List InFlight :=
  flight.map (fun w =>
    if idx ≤ w.idx + n && decide (w.idx < idx) then
      let f := max w.first (w.least + 2 * clocks)
      { w with first := f, complete := f + (w.complete - w.first), least := w.least + 2 * clocks }
    else w)

/-- The times of a word issued at clock `i` (R76, R77). -/
structure Times where
  first : Nat
  complete : Nat
  least : Nat
  len : Nat
  deriving DecidableEq, Repr

/-- First-digit time of the operand that a fused sequence hands on: streamed, whatever it is (R88). -/
def fusedFirst (flight : List InFlight) (l : Option Loc) : Nat := ((l.bind (writerOf flight)).map (·.first)).getD 0

/-- The times of a word issued at clock `i` (R76, R77), with its fused operand and the others that it reads. -/
def wordTimes (flight : List InFlight) (tm : Timing) (i : Nat) (fused : Option Loc) (srcs : List Loc) : Times :=
  match tm with
  | .stream d l =>
    let fs := max (latestFirst flight srcs) (fusedFirst flight fused)
    let f := max (2 * (i + 1)) (max fs (latestDone false flight srcs)) + d
    { first := f, complete := f + l, least := 2 * (i + 1) + d, len := l }
  | .fixed c => { first := 2 * i, complete := 2 * (i + c), least := 2 * i, len := 0 }

/-- Words that a fused sequence has issued before the current one. -/
def Fuse.mates : Fuse → Nat
  | .none => 0
  | .mulAdd _ => 2
  | _ => 1

/-- OR the flags of every lane. -/
def orFlags (fs : List (BitVec 8)) : BitVec 8 := fs.foldl (· ||| ·) 0#8

/-- Complete the words of a flight whose time has come: their flags, and the flight with them marked (R76, R90). -/
def settleBy (t : Nat) (flight : List InFlight) : BitVec 8 × List InFlight :=
  (orFlags ((flight.filter (fun w => !w.done && decide (w.complete ≤ t))).map (fun w => orFlags w.flags)),
    flight.map (fun w => if w.complete ≤ t then { w with done := true } else w))

/-- Complete the bindings of flag_ld and flag_mrd that the run no longer needs (R43). -/
def Run.flagsAfter (r : Run) (regs : Regs) (last : Bool) (hadLd hadMrd : Bool) : Run × Regs :=
  let ld := !r.ldDone && r.loadsLeft == 0 && (hadLd || last)
  let mr := !r.mrdDone && r.mrdsLeft == 0 && (hadMrd || last)
  let regs1 := if ld then regs.unbindFlag r.flagLd else regs
  let regs2 := if mr then regs1.unbindFlag r.flagMrd else regs1
  ({ r with ldDone := r.ldDone || ld, mrdDone := r.mrdDone || mr }, regs2)

/-- Index in the open run of the word at `pc` (R90). -/
def Run.index (r : Run) (pc : Addr) : Nat := ((pc - r.base).toNat) / 4

/-- What a word reads that a closed run has not committed and no word of this run has written since: the latest time
at which it completes (R80). -/
def Group.heldUntil (g : Group) (r : Run) (srcs : List Loc) : Nat :=
  latestDone true ((g.hend.flatMap (·.flight)).filter (fun w => !w.done)) (srcs.filter (fun l => (writerOf r.flight l).isNone))

/-- The word completes: outside a run its flags reach FSTAT; inside a run it joins the flight with its times (R76) and its
flags follow when it completes (R90). Then the program counter advances. -/
def State.finish (s : State) (tm : Timing) (fused : Option Loc) (srcs : List Loc) (dests : List Dest)
    (flags : List (BitVec 8)) (dec : Option Decision) : State :=
  match s.cur.run with
  | none => (s.orFstat (orFlags flags)).advance
  | some r =>
    let plain := srcs.filter (fun l => some l != fused)
    let idx := r.index s.cur.frag.pc
    let i := issueClock r tm fused.isSome (s.cur.heldUntil r plain) plain
    let before := if fused.isSome then shiftMates idx s.cur.frag.fuse.mates (i - r.clock) r.flight else r.flight
    let t := wordTimes before tm i fused plain
    let w : InFlight :=
      { idx := idx, first := t.first, complete := t.complete, least := t.least, len := t.len, srcs := srcs, dests := dests,
        flags := flags, decides := dec.isSome, open_ := (dec.map (·.lanes)).getD 0#32,
        returned := (dec.map (·.returned)).getD [], early := 0#32, active := s.active, cancelled := 0#32, done := false }
    let settled := settleBy (2 * i) before
    let hadLd := r.words.any (fun i => match i with | .ld .. => true | .lds .. => true | _ => false)
    let hadMrd := r.words.any (fun i => match i with | .mrd .. => true | _ => false)
    let r1 := { r with clock := i, flight := settled.2 ++ [w] }
    let fr := r1.flagsAfter { s.cur.regs with fstat := s.cur.regs.fstat ||| settled.1 } (idx == r.len) hadLd hadMrd
    State.advance { s with cur := { s.cur with run := some fr.1, regs := fr.2 } }

/-- The word completes without flags. -/
def State.done (s : State) (clocks : Nat) (srcs : List Loc) (dests : List Dest) : State :=
  s.finish (.fixed clocks) none srcs dests [] none

/-- Begin a fused sequence (R87). -/
def State.fusing (s : State) (f : Fuse) : State := s.setFrag { s.cur.frag with fuse := f }

/-! ## Shapes of vector words (R111, R112) -/

/-- The environment of RoundTo for a word of a format without SAT (R57, R55). -/
def State.fenv (s : State) : FEnv := { mode := s.mode, ftz := s.cur.regs.ftz, sat := false }

/-- One lane's outcome: the destination registers' words and the flags. -/
abbrev LaneOut := List Word × Flags

/-- A vector word: every source register is read in every lane (R111), `f` computes an active lane's outcome from the
lane number and its source words, the destinations are written in active lanes only (R112). A guard predicate is no operand
of the clocks of R76 (log 103). -/
def State.vector (s : State) (tm : Timing) (fused : Option Loc) (srcs dsts : List RegRef) (extra : List Loc)
    (f : Nat → List Word → LaneOut) (dec : Option Decision) : State :=
  let m := s.active
  let vals := srcs.map s.getRef
  let outs := (List.range 32).map (fun l =>
    if m.getLsbD l then f l (vals.map (fun x => laneOf x l)) else ([], 0#8))
  let olds := dsts.map (fun r => Dest.vec r (s.getRef r))
  let put := dsts.zipIdx.foldl (fun (t : State) (rk : RegRef × Nat) =>
    t.putRef m rk.1 (outs.map (fun o => o.1.getD rk.2 0#32))) s
  put.finish tm fused (srcs.map Loc.vec ++ extra) olds (outs.map (·.2)) dec

/-- A vector word that writes a predicate in active lanes (R15, R115, R121). -/
def State.vectorPred (s : State) (tm : Timing) (srcs : List RegRef) (p : BitVec 3)
    (f : List Word → Bool × Flags) (dec : Option Decision) : State :=
  let m := s.active
  let vals := srcs.map s.getRef
  let outs := (List.range 32).map (fun l =>
    if m.getLsbD l then f (vals.map (fun x => laneOf x l)) else (false, 0#8))
  let old := s.getP p
  let new := (old &&& ~~~m) ||| (mkMask (fun l => (outs.getD l (false, 0#8)).1) &&& m)
  (s.putP p new).finish tm none (srcs.map Loc.vec) [Dest.pred p.toNat old] (outs.map (·.2)) dec

/-- Resolve single register fields, else the register-bound fault (R13, R315 class 2 detail 0). -/
def State.withRefs (s : State) (fields : List (BitVec 7)) (k : List RegRef → State) : State :=
  match fields.mapM (fun n => s.ref n.toNat) with
  | some rs => k rs
  | none => s.trap0 2 0

/-- d from a (format C, R111). -/
def State.vec1 (s : State) (tm : Timing) (d a : BitVec 7) (f : Word → Word × Flags) : State :=
  s.withRefs [d, a] (fun rs =>
    s.vector tm none (rs.drop 1) (rs.take 1) [] (fun _ xs => let o := f (xs.getD 0 0#32); ([o.1], o.2)) none)

/-- d from a and b (format A, R111). -/
def State.vec2 (s : State) (tm : Timing) (fused : Option Loc) (d a b : BitVec 7) (f : Word → Word → Word × Flags) : State :=
  s.withRefs [d, a, b] (fun rs =>
    s.vector tm fused (rs.drop 1) (rs.take 1) []
      (fun _ xs => let o := f (xs.getD 0 0#32) (xs.getD 1 0#32); ([o.1], o.2)) none)

/-- d from a, b and d (format A with three sources, R111). -/
def State.vec3 (s : State) (tm : Timing) (d a b : BitVec 7) (f : Word → Word → Word → Word × Flags) : State :=
  s.withRefs [d, a, b] (fun rs =>
    s.vector tm none (rs.drop 1 ++ rs.take 1) (rs.take 1) []
      (fun _ xs => let o := f (xs.getD 0 0#32) (xs.getD 1 0#32) (xs.getD 2 0#32); ([o.1], o.2)) none)

/-- d from d and an immediate (format B, R122). -/
def State.vecI (s : State) (tm : Timing) (fused : Option Loc) (d : BitVec 7) (f : Word → Word × Flags)
    (dec : List RegRef → Option Decision) : State :=
  s.withRefs [d] (fun rs =>
    s.vector tm fused rs rs [] (fun _ xs => let o := f (xs.getD 0 0#32); ([o.1], o.2)) (dec rs))

end Sys2Proof.Machine
end

