-- ==== Sys2Proof/Machine/Memory.lean ====
section
/-! DEFINITION. Memory as lanes, fetch and engines reach it (R29, R30, R161 to R179): translation, L1, tile and package
memory, instruction fetch. -/

namespace Sys2Proof.Machine

/-! ## Job space (R174 to R178) -/

/-- Why a walk fails: class 9, 7 or 8 of R315. -/
inductive WalkFault where
  | poison
  | translation
  | format
  deriving DecidableEq, Repr

/-- The class of a walk's failure in a lane access (R315). -/
def walkClass : WalkFault → Nat
  | .translation => 7
  | .format => 8
  | .poison => 9

/-- The 8 bytes of package memory at `a` as a number. -/
def pkgWord (m : Mem) (a : Nat) : Nat := leNat (readBytes m.pkg a 8)

/-- Is any of the `n` bytes of package memory from `a` in a poisoned word (R172)? -/
def pkgPoisoned (m : Mem) (a n : Nat) : Bool := anyMarked m.pkgPoison (a / 8) ((a % 8 + n + 7) / 8)

/-- Fields of a table entry (R175). -/
def entryKind (e : Nat) : Nat := e / 2 ^ 61 % 4
def entryUnit (e : Nat) : Nat := e / 2 ^ 43 % 4096
def entryAddr (e : Nat) : Nat := e / 2 ^ 12 % 2 ^ 29 * 4096

/-- Lg of the page that a leaf at a level maps (R174). -/
def leafLg (level : Nat) (size64 : Bool) : Nat :=
  match level with
  | 2 => 30
  | 1 => 21
  | _ => if size64 then 16 else 12

/-- Does a range of `n` bytes from `a` meet the context area `c`, its base and its end (R345)? -/
def inArea (c : Nat × Nat) (a n : Nat) : Bool := decide (c.1 < c.2) && decide (a < c.2) && decide (c.1 < a + n)

/-- The context area (R340, R345). -/
def State.ctxArea (s : State) : Nat × Nat :=
  (s.ctx.base.toNat * 2 ^ 20, s.ctx.base.toNat * 2 ^ 20 + s.ctx.mib.toNat * 2 ^ 20)

/-- Is a valid entry at a level malformed (R175, R345)? -/
def entryMalformed (c : Nat × Nat) (level e : Nat) : Bool :=
  let kind := entryKind e
  let size64 := e.testBit 57
  let leaf := kind != 0
  let lg := if leaf then leafLg level size64 else 12
  e / 2 ^ 55 % 4 != 0 || e / 2 ^ 41 % 4 != 0 || e % 2 ^ 12 != 0
    || (decide (kind < 2) && entryUnit e != 0)
    || (kind == 0 && level == 0)
    || (leaf && decide (3 ≤ level))
    || (kind == 0 && (e.testBit 60 || e.testBit 59 || e.testBit 58 || size64))
    || (size64 && level != 0)
    || (decide (kind < 3) && decide (2 ^ 31 ≤ entryAddr e))
    || decide (2304 ≤ entryUnit e)
    || entryAddr e % 2 ^ lg != 0
    || (decide (kind < 2) && inArea c (entryAddr e) (2 ^ lg))

/-- Test an entry (R179 check 3). -/
def checkEntry (m : Mem) (c : Nat × Nat) (a level : Nat) : Except WalkFault Nat :=
  if pkgPoisoned m a 8 then .error .poison
  else
    let e := pkgWord m a
    if !e.testBit 63 then .error .translation
    else if entryMalformed c level e then .error .format
    else .ok e

/-- The leaf that an entry holds. -/
def leafOf (level e : Nat) : Leaf :=
  { kind := entryKind e, read := e.testBit 60, write := e.testBit 59, exec := e.testBit 58, unit := entryUnit e,
    addr := entryAddr e, lg := leafLg level (e.testBit 57) }

/-- The walk from a table at a level (R174, R179). `pick` chooses among the 16 entries of a 64 KiB page (R176): the entry at
the address's own place is tested first, and another counts only when that one is a part of such a page (log 100). `use`
gives, for a level, the next table that a cached entry names (R178). -/
def walkFrom (use : Nat → Option Nat) (m : Mem) (c : Nat × Nat) (va pick : Nat) : Nat → Nat → Except WalkFault Leaf
  | 0, table =>
    let idx := va / 2 ^ 12 % 512
    match checkEntry m c (table + 8 * idx) 0 with
    | .error f => .error f
    | .ok e =>
      if e.testBit 57 then
        match checkEntry m c (table + 8 * (idx / 16 * 16 + pick % 16)) 0 with
        | .error f => .error f
        | .ok e' => .ok (leafOf 0 e')
      else .ok (leafOf 0 e)
  | level + 1, table =>
    match use (level + 1) with
    | some t => walkFrom use m c va pick level t
    | none =>
      match checkEntry m c (table + 8 * (va / 2 ^ (12 + 9 * (level + 1)) % 512)) (level + 1) with
      | .error f => .error f
      | .ok e => if entryKind e = 0 then walkFrom use m c va pick level (entryAddr e) else .ok (leafOf (level + 1) e)

/-- The table that JPTB names (R174). -/
def Mem.root (m : Mem) : Nat := m.jptb.toNat / 4096 % 2 ^ 19 * 4096

/-- The walk from JPTB that reads every entry (R174). -/
def walk (m : Mem) (c : Nat × Nat) (va pick : Nat) : Except WalkFault Leaf := walkFrom (fun _ => none) m c va pick 4 m.root

/-- The levels of a walk that lead to a further table, each with that table. -/
def walkTables (m : Mem) (c : Nat × Nat) (va : Nat) : Nat → Nat → List (Nat × Nat)
  | 0, _ => []
  | level + 1, table =>
    match checkEntry m c (table + 8 * (va / 2 ^ (12 + 9 * (level + 1)) % 512)) (level + 1) with
    | .error _ => []
    | .ok e => if entryKind e = 0 then (level + 1, entryAddr e) :: walkTables m c va level (entryAddr e) else []

/-- Physical address of `va` under a leaf. -/
def leafPhys (l : Leaf) (va : Nat) : Nat := l.addr + va % 2 ^ l.lg

/-- Key of the entry of a level above 0 on the walk of `va` among the cached translations (R178). -/
def walkKey (level va : Nat) : Nat := level * 2 ^ 45 + va / 2 ^ (12 + 9 * level) * 2 ^ (9 * level)

/-- Does a cached translation, a leaf or an entry above it, lie on the walk of `va` (R178, R336)? -/
def cachedFor (va : Nat) (e : Nat × Option Leaf) : Bool :=
  match e.2 with
  | some l => e.1 % 2 ^ 45 * 4096 / 2 ^ l.lg == va / 2 ^ l.lg
  | none => false

/-- The cached leaves that cover `va`. -/
def Mem.leavesFor (m : Mem) (va : Nat) : List Leaf :=
  (m.tlb.filter (cachedFor va)).filterMap (fun e => e.2.bind (fun l => if l.kind = 0 then none else some l))

/-- The next table that a cached entry of a level gives the walk of `va`. -/
def Mem.tableFor (m : Mem) (va level : Nat) : Option Nat := (sget none m.tlb (walkKey level va)).map (·.addr)

/-- Levels at which a cached entry sends the walk of `va` to another table than the one in memory does. -/
def State.staleTables (s : State) (va : Nat) : List Nat :=
  [1, 2, 3, 4].filter (fun k => match s.mem.tableFor va k with
    | some t => !(walkTables s.mem s.ctxArea va 4 s.mem.root).contains (k, t)
    | none => false)

/-- The caches keep a leaf and the entries that led to it (R178). -/
def State.cacheWalk (s : State) (va : Nat) (l : Leaf) : State :=
  let path := walkTables s.mem s.ctxArea va 4 s.mem.root
  let entry (x : Nat × Nat) : Leaf :=
    { kind := 0, read := false, write := false, exec := false, unit := 0, addr := x.2, lg := 12 + 9 * x.1 }
  let leaves := sput none s.mem.tlb (va / 4096) (some l)
  { s with mem := { s.mem with tlb := path.foldl (fun t x => sput none t (walkKey x.1 va) (some (entry x))) leaves } }

/-- A translation (R178): cached leaves and cached entries of its walk may serve it. Where they differ from memory it is
unspecified which of them do; a leaf that memory gives is cached with the entries that led to it. -/
def State.translate (s : State) (va : Nat) : State × Except WalkFault Leaf :=
  let pick := (Config.free s.fresh).toNat
  let now := walk s.mem s.ctxArea va pick
  let leaves := (s.mem.leavesFor va).filter (fun l => match now with | .ok x => l != x | .error _ => true)
  let tables := s.staleTables va
  if leaves.isEmpty && tables.isEmpty then
    match now with
    | .error e => (s, .error e)
    | .ok l =>
      if sget none s.mem.tlb (va / 4096) = some l then (s, .ok l)
      else ((if l.lg = 16 then s.drawn else s).cacheWalk va l, .ok l)
  else if pick.testBit 16 then (s.drawn, ((leaves[pick / 2 ^ 20 % max 1 leaves.length]?).map .ok).getD now)
  else
    (s.drawn, walkFrom (fun k => if pick.testBit (8 + k) then s.mem.tableFor va k else none) s.mem s.ctxArea va pick 4 s.mem.root)

/-! ## Lines of the L1 (R173) -/

/-- Key of a line in a core's L1: local lines have source 0, those of node n source n + 1. -/
def l1Key (core src line : Nat) : Nat := (core * 4096 + src) * 2 ^ 24 + line

/-- The 128 bytes at the home of a local line. -/
def homeLine (m : Mem) (line : Nat) : List Byte := readBytes m.pkg (128 * line) 128

/-- Replace bytes of a line from offset `o`. -/
def patchLine (line : List Byte) (o : Nat) (bs : List Byte) : List Byte :=
  line.take o ++ bs ++ line.drop (o + bs.length)

/-- Line number of a late store. -/
def LateStore.line (x : LateStore) : Nat := x.addr / 128

/-- The stores of a core to a line that are on their way to its home, oldest first. -/
def Mem.lateOf (m : Mem) (core line : Nat) : List LateStore := m.late.filter (fun x => x.core == core && x.line == line)

/-- A line as the groups of a core see it: its stores on their way lie over it (R173). -/
def overlay (xs : List LateStore) (line : List Byte) : List Byte :=
  xs.foldl (fun l x => patchLine l (x.addr % 128) x.bytes) line

/-- A load of another group through the L1 sees late stores: no later access of the core reads what was before them
(R205). -/
def Mem.lateSeen (m : Mem) (g : GroupId) (pa n : Nat) : Mem :=
  { m with late := m.late.map (fun x =>
      if x.core == g.core && x.owner != g.key && decide (x.addr < pa + n) && decide (pa < x.addr + x.bytes.length) then
        { x with seen := true } else x) }

/-- A weak load of `n` bytes of a local line through the L1 (R173): an older line may be returned until it is replaced,
in an unspecified order; otherwise the line is read at the home and allocated. Stores of the core that are on their way
lie over either. -/
def State.l1Load (s : State) (g : GroupId) (pa n : Nat) : State × List Byte :=
  let line := pa / 128
  let key := l1Key g.core 0 line
  let home := homeLine s.mem line
  let late := s.mem.lateOf g.core line
  let part (l : List Byte) : List Byte := ((overlay late l).drop (pa % 128)).take n
  let seen := if late.isEmpty then s else { s with mem := s.mem.lateSeen g pa n }
  match sget none s.mem.l1 key with
  | some old =>
    if old = home then (seen, part home)
    else if (Config.free s.fresh).getLsbD 0 then (seen.drawn, part old)
    else ({ seen.drawn with mem := { seen.mem with l1 := sput none s.mem.l1 key (some home) } }, part home)
  | none => ({ seen with mem := { seen.mem with l1 := sput none s.mem.l1 key (some home) } }, part home)

/-- Bytes written to or read at the home replace the L1's copy of them when the line is present (R173, R184). -/
def Mem.l1Patch (m : Mem) (core src pa : Nat) (bs : List Byte) : Mem :=
  let key := l1Key core src (pa / 128)
  match sget none m.l1 key with
  | some old => { m with l1 := sput none m.l1 key (some (patchLine old (pa % 128) bs)) }
  | none => m

/-- Invalidate a line of a core's L1 (R184). -/
def Mem.l1Drop (m : Mem) (core src line : Nat) : Mem := { m with l1 := sdel m.l1 (l1Key core src line) }

/-- Invalidate every line of a core's L1 (R184). -/
def Mem.l1DropAll (m : Mem) (core : Nat) : Mem :=
  { m with l1 := sfilter (fun k => k / (4096 * 2 ^ 24) != core) m.l1,
           peerL1 := sfilter (fun k => k / (4096 * 2 ^ 31) != core) m.peerL1,
           fills := m.fills.filter (fun f => f.core != core) }

/-! ## Lines of peer packages in the L1 (R173, R184) -/

/-- Key of a byte of a peer's package memory in a core's L1. -/
def peerKey (core node pa : Nat) : Nat := (core * 4096 + node) * 2 ^ 31 + pa

/-- The bytes that a core's L1 holds of a peer's memory; none when one of them is absent. -/
def Mem.peerHeld (m : Mem) (core node pa n : Nat) : Option (List Byte) :=
  (List.range n).mapM (fun i => sget none m.peerL1 (peerKey core node (pa + i)))

/-- Bytes of a peer's line enter a core's L1: all of them, or in place of those that it holds already. -/
def Mem.peerPut (m : Mem) (all : Bool) (core node pa : Nat) (bs : List Byte) : Mem :=
  { m with peerL1 := bs.zipIdx.foldl (fun l b =>
      let k := peerKey core node (pa + b.2)
      if all || (sget none l k).isSome then sput none l k (some b.1) else l) m.peerL1 }

/-- Answers on their way bring nothing of the line into the core's L1 any more: they may be older than what has happened. -/
def Mem.noFill (m : Mem) (core node line : Nat) : Mem :=
  { m with fills := m.fills.filter (fun f => !(f.core == core && f.node == node && f.line == line)) }

/-- A peer's line leaves a core's L1. -/
def Mem.peerDrop (m : Mem) (core node line : Nat) : Mem :=
  { m.noFill core node line with
    peerL1 := sfilter (fun k => k / 128 != peerKey core node (128 * line) / 128) m.peerL1 }

/-! ## Homes -/

/-- Write package memory; every whole 8-byte word written is no longer poisoned (R172). -/
def Mem.pkgWrite (m : Mem) (a : Nat) (bs : List Byte) : Mem :=
  { m with pkg := writeBytes m.pkg a bs,
           pkgPoison := markWords m.pkgPoison ((a + 7) / 8) false ((a + bs.length) / 8 - (a + 7) / 8) }

/-- A store of a group is performed at the home of its line: what the line held before may have been prefetched as
instructions (R28). -/
def Mem.storeHome (m : Mem) (pa : Nat) (bs : List Byte) : Mem :=
  let line := pa / 128
  let older := if (sget none m.older line).isSome then m.older else sput none m.older line (some (homeLine m line))
  { m.pkgWrite pa bs with older := older, homeLog := if m.tracked then (pa, bs.length) :: m.homeLog else m.homeLog }

/-- A late store is performed at its home; the L1's copy of the line follows (R173). -/
def Mem.lands (m : Mem) (x : LateStore) : Mem := (m.storeHome x.addr x.bytes).l1Patch x.core 0 x.addr x.bytes

/-- The late stores that satisfy `p` are performed, oldest first. -/
def Mem.performLate (m : Mem) (p : LateStore → Bool) : Mem :=
  (m.late.filter p).foldl Mem.lands { m with late := m.late.filter (fun x => !p x) }

/-- The late stores of a core to a line that an access of group `g` at the home comes after (R202): its own, and those that
are not to be passed any more, with what entered the L1 before them. -/
def Mem.beforeHome (m : Mem) (g : GroupId) (line : Nat) : Mem :=
  let xs := m.lateOf g.core line
  if xs.any (fun x => x.owner == g.key || x.seen) then
    m.performLate (fun x => x.core == g.core && x.line == line)
  else m

/-- Key of byte `p` of a core's tile memory (R161). -/
def tileKey (core p : Nat) : Nat := core * 2 ^ 21 + p

/-- The core, the data bank and the row of word `w` of tile memory: word p / 16 of physical tile address p lies in bank
(p >> 4) mod 32, row p >> 9 (R161). -/
def wordCore (w : Nat) : Nat := w / 2 ^ 17
def wordBank (w : Nat) : Nat := w % 32
def wordRow (w : Nat) : Nat := w % 2 ^ 17 / 32

/-- The parity group of a word, and its words of the same row: those of data banks 8g to 8g + 7 (R161). -/
def wordGroup (w : Nat) : Nat := wordBank w / 8
def rowWords (w : Nat) : List Nat := (List.range 8).map (fun i => w / 8 * 8 + i)

/-- Key of the parity word of a word's group and row. -/
def parityKey (w : Nat) : Nat := 2 ^ 40 + (wordCore w * 4 + wordGroup w) * 4096 + wordRow w

/-- Errors of a core's banks. -/
def Mem.errorsOf (m : Mem) (core : Nat) : TileErrors := sget TileErrors.reset m.tileErrors core

/-- Has the data bank of a word, or the parity bank of its group, failed (R165)? -/
def Mem.bankFailed (m : Mem) (w : Nat) : Bool := (m.errorsOf (wordCore w)).failedData.getLsbD (wordBank w)
def Mem.parityFailed (m : Mem) (w : Nat) : Bool := (m.errorsOf (wordCore w)).failedParity.getLsbD (wordGroup w)

/-- Words of a group row that must be rebuilt to be read: their code reports an error, or their bank has failed (R162, R165). -/
def Mem.badInRow (m : Mem) (w : Nat) : List Nat := (rowWords w).filter (fun x => sget false m.tileFlaw x || m.bankFailed x)

/-- Cannot a word be read? It is poisoned, or it must be rebuilt and another word of its group row, the parity word among
them, reports an error or stands in a failed bank (R162, R165). -/
def Mem.unreadable (m : Mem) (w : Nat) : Bool :=
  sget false m.tilePoison w
    || ((m.badInRow w).contains w
        && (decide (2 ≤ (m.badInRow w).length) || m.parityFailed w || sget false m.tileFlaw (parityKey w)))

/-- Is any of the `n` bytes from key `a` in a poisoned tile word, or in one whose read finds it uncorrectable (R162, R164,
R165)? -/
def tilePoisoned (m : Mem) (a n : Nat) : Bool :=
  anyMarked m.tilePoison (a / 16) ((a % 16 + n + 15) / 16)
    || (!(m.tileFlaw.isEmpty && m.tileErrors.isEmpty)
        && (List.range ((a % 16 + n + 15) / 16)).any (fun i => m.unreadable (a / 16 + i)))

/-- An error of bank `b` has been corrected at row `r` of a core (R162): TMES counts it, and the bank has failed when errors
have been corrected at 16 rows of it (R165). -/
def Mem.countFlaw (m : Mem) (core b r : Nat) : Mem :=
  let rows := sput false m.corrected ((core * 64 + b) * 4096 + r) true
  let failed := decide (16 ≤ (rows.filter (fun x => x.1 / 4096 == core * 64 + b)).length)
  let e := m.errorsOf core
  let e1 := { e with
    corrected := min 0xFFFF (e.corrected + 1),
    failedData := if failed && decide (b < 32) then e.failedData ||| BitVec.ofNat 32 (2 ^ b) else e.failedData,
    failedParity := if failed && decide (32 ≤ b) then e.failedParity ||| BitVec.ofNat 4 (2 ^ (b - 32)) else e.failedParity }
  { m with corrected := rows, tileErrors := sput TileErrors.reset m.tileErrors core e1 }

/-- A word is read (R162): an error is corrected and the word written back, or the words of the group row that report errors
are uncorrectable and become poisoned. -/
def Mem.readWord (m : Mem) (w : Nat) : Mem :=
  if !(m.badInRow w).contains w || sget false m.tilePoison w then m
  else if m.unreadable w then
    { m with tilePoison := (m.badInRow w).foldl (fun p x => sput false p x true) m.tilePoison,
             tileFlaw := (m.badInRow w).foldl (fun p x => sput false p x false) m.tileFlaw }
  else if sget false m.tileFlaw w then
    { m with tileFlaw := sput false m.tileFlaw w false }.countFlaw (wordCore w) (wordBank w) (wordRow w)
  else m

/-- The parity word of a word's row is read to be updated (R163): an error of it is corrected while its bank and the data
words are sound. -/
def Mem.readParity (m : Mem) (w : Nat) : Mem :=
  if sget false m.tileFlaw (parityKey w) && (m.badInRow w).isEmpty && !m.parityFailed w then
    { m with tileFlaw := sput false m.tileFlaw (parityKey w) false }.countFlaw (wordCore w) (32 + wordGroup w) (wordRow w)
  else m

/-- `n` bytes of tile memory from key `a` are accessed: `reads` their words, `parity` the parity words of their rows. -/
def Mem.tileRead (m : Mem) (reads parity : Bool) (a n : Nat) : Mem :=
  if m.tileFlaw.isEmpty then m
  else (List.range ((a % 16 + n + 15) / 16)).foldl (fun t i =>
    let t1 := if reads then t.readWord (a / 16 + i) else t
    if parity then t1.readParity (a / 16 + i) else t1) m

/-- Write tile memory; every whole 16-byte word written is no longer poisoned and has a new code (R162, R164). -/
def Mem.tileWrite (m : Mem) (a : Nat) (bs : List Byte) : Mem :=
  { m with tile := writeBytes m.tile a bs,
           tilePoison := markWords m.tilePoison ((a + 15) / 16) false ((a + bs.length) / 16 - (a + 15) / 16),
           tileFlaw := if m.tileFlaw.isEmpty then m.tileFlaw
             else markWords m.tileFlaw ((a + 15) / 16) false ((a + bs.length) / 16 - (a + 15) / 16) }

/-- The tile bytes that a write changes, with their values before. -/
def Mem.overwritten (m : Mem) (a : Nat) (bs : List Byte) : List (Nat × Byte) :=
  (bs.zipIdx.map (fun b => (a + b.2, sget 0#8 m.tile (a + b.2), b.1))).filterMap (fun x =>
    if x.2.1 = x.2.2 then none else some (x.1, x.2.1))

/-- A group, or none for an engine, writes tile memory: what it overwrites is kept for matrix words and engines that read
the bytes over a time (R170, R209, R394). -/
def Mem.tilePut (m : Mem) (writer : Option GroupKey) (a : Nat) (bs : List Byte) : Mem :=
  { m.tileWrite a bs with
    tileOld := m.tileOld ++ (m.overwritten a bs).map (fun x => { key := x.1, old := x.2, writer := writer }),
    epi := m.epi.filter (fun e => decide (e.key < a) || decide (a + bs.length ≤ e.key)) }

/-- Values that an engine which reads a tile byte at any time since `issued` may meet beside the present one (R170, R209). -/
def Mem.lateValues (m : Mem) (issued key : Nat) : List Byte :=
  ((m.tileOld.drop issued).filter (fun e => e.key == key)).map (·.old)

/-- Values before the issue of a matrix word of group `g` that a byte may still show (R209): those that other groups have
overwritten since the group's MRDY, and no store of its own or of an engine since. -/
def Mem.earlyValues (m : Mem) (g : GroupKey) (since issued key : Nat) : List Byte :=
  let mine := ((m.tileOld.take issued).drop since).filter (fun e => e.key == key)
  ((mine.reverse.takeWhile (fun e => e.writer.isSome && e.writer != some g)).map (·.old))

/-- Values that a byte still shows before the MWAIT of the MEPI that has written it (R227). -/
def Mem.epiValues (m : Mem) (key : Nat) : List Byte := (m.epi.filter (fun e => e.key == key)).map (·.old)

/-- Each byte of a range reads as it stands or as one of its other values; which is free. -/
def mixValues (seed : Nat) (a : Nat) (others : Nat → List Byte) (bs : List Byte) : List Byte :=
  bs.zipIdx.map (fun b =>
    match others (a + b.2) with
    | [] => b.1
    | x :: xs => (b.1 :: x :: xs).getD ((Config.free (seed + b.2)).toNat % (xs.length + 2)) b.1)

/-- Tile bytes as a load reads them (R227). -/
def State.tileLoad (s : State) (a n : Nat) : State × List Byte :=
  let bs := readBytes s.mem.tile a n
  if s.mem.epi.isEmpty then (s, bs) else (s.drew n, mixValues s.fresh a s.mem.epiValues bs)

/-- Tile bytes as a matrix word of group `g` reads them (R209). -/
def State.operandBytes (s : State) (g : GroupKey) (since issued seed a n : Nat) : List Byte :=
  let bs := readBytes s.mem.tile a n
  if s.mem.tileOld.isEmpty && s.mem.epi.isEmpty then bs
  else mixValues seed a (fun k => s.mem.earlyValues g since issued k ++ s.mem.lateValues issued k ++ s.mem.epiValues k) bs

/-- TMES.uncorrectable set. -/
def TileErrors.seen (e : TileErrors) : TileErrors := { e with uncorrectable := true }

/-- A poisoned word of the core's tile memory has been read (R166). -/
def Mem.tileSeen (m : Mem) (core : Nat) : Mem :=
  { m with tileErrors := sput TileErrors.reset m.tileErrors core (sget TileErrors.reset m.tileErrors core).seen }

/-- Bytes of a team's allotment (R29). -/
def Team.bytes (t : Team) : Nat := t.tilePages * 4096

/-- Key of offset `o` of a team's allotment. -/
def Team.key (t : Team) (o : Nat) : Nat := tileKey t.core (t.tileBase * 4096 + o)

/-! ## Where a lane access goes (R109, R171, R179) -/

/-- The place of an access: a tile byte by key, with its core; local package memory; a peer's package memory. -/
inductive Place where
  | tile (core key : Nat)
  | pkg (pa : Nat)
  | peer (node pa : Nat)
  deriving DecidableEq, Repr

/-- Access codes of R316. -/
def accLoad : Nat := 0
def accStore : Nat := 1
def accAtom : Nat := 2
def accCas : Nat := 3

/-- Does the access read what it touches, or merge with it (R164, R172)? -/
def readsWord (acc size whole : Nat) : Bool := acc != accStore || decide (size < whole)

/-- A lane reaches tile bytes (R162, R164, R179 check 6): the words that it reads or merges with must be sound. -/
def State.tilePlace (s : State) (cause acc size core key : Nat) : State × Except Nat Place :=
  let m := s.mem.tileRead (readsWord acc size 16) (acc != accLoad) key size
  if readsWord acc size 16 && tilePoisoned m key size then ({ s with mem := m.tileSeen core }, .error cause)
  else ({ s with mem := m }, .ok (.tile core key))

/-- Check a lane's address (R109, R171, R179): the place, or the cause of the fault. -/
def State.place (s : State) (space acc size ea : Nat) : State × Except Nat Place :=
  let cause (cls : Nat) : Nat := 32 * cls + 4 * space + acc
  if ea % size != 0 then (s, .error (cause 5))
  else if space = 0 then
    if s.team.bytes ≤ ea + size - 1 then (s, .error (cause 6))
    else
      s.tilePlace (cause 12) acc size s.team.core (s.team.key ea)
  else if space = 1 then
    let c := s.cluster
    match s.teamOf (ea / 2 ^ 24 % 16) with
    | none => (s, .error (cause 6))
    | some t =>
      if 2 ^ 28 ≤ ea || c.rows * c.cols ≤ ea / 2 ^ 24 || t.bytes ≤ ea % 2 ^ 24 + size - 1 then (s, .error (cause 6))
      else
        s.tilePlace (cause 12) acc size t.core (t.key (ea % 2 ^ 24))
  else if 2 ^ 57 ≤ ea + size - 1 then (s, .error (cause 7))
  else
    match s.translate ea with
    | (s1, .error w) => (s1, .error (cause (walkClass w)))
    | (s1, .ok l) =>
      if (acc != accStore && !l.read) || (acc != accLoad && !l.write) then (s1, .error (cause 10))
      else if l.kind = 3 then (s1, .error (cause 11))
      else if l.kind = 1 then
        if readsWord acc size 8 && pkgPoisoned s1.mem (leafPhys l ea) size then (s1, .error (cause 12))
        else (s1, .ok (.pkg (leafPhys l ea)))
      else (s1, .ok (.peer l.unit (leafPhys l ea)))

/-! ## Instruction fetch (R25, R28, R177, R194) -/

/-- Key of a line of a core's instruction cache. -/
def icKey (core line : Nat) : Nat := core * 2 ^ 24 + line

/-- The word at job-space address `a`, or the detail of class 3 (R315). A line of the instruction cache, or one that may have
been prefetched before a group stored into it, may be older than memory until CINV.i; which of the two is executed is
unspecified at each fetch (R28, R195). -/
def State.fetchWord (s : State) (a : Addr) : State × Except Nat Word :=
  match s.translate a.toNat with
  | (s1, .error .translation) => (s1, .error 0)
  | (s1, .error .format) => (s1, .error 1)
  | (s1, .error .poison) => (s1, .error 2)
  | (s1, .ok l) =>
    if !l.exec then (s1, .error 3)
    else if l.kind ≠ 1 then (s1, .error 4)
    else
      let pa := leafPhys l a.toNat
      if pkgPoisoned s1.mem pa 4 then (s1, .error 5)
      else
        let key := icKey s.cur.id.core (pa / 128)
        let home := homeLine s1.mem (pa / 128)
        let word (line : List Byte) : Word := BitVec.ofNat 32 (leNat ((line.drop (pa % 128)).take 4))
        let fill (t : State) : State := { t with mem := { t.mem with icache := sput none t.mem.icache key (some home) } }
        match sget none s1.mem.icache key with
        | some old =>
          if old = home then (s1, .ok (word home))
          else if s1.freeNow.getLsbD 0 then (s1.drawn, .ok (word old))
          else ((if s1.freeNow.getLsbD 1 then fill s1.drawn else s1.drawn), .ok (word home))
        | none =>
          match sget none s1.mem.older (pa / 128) with
          | none => (fill s1, .ok (word home))
          | some old =>
            if old = home then (fill s1, .ok (word home))
            else (s1.drawn, .ok (if s1.freeNow.getLsbD 0 then word old else word home))

/-- The word after the unit at `a`: past its hints and their word (R331). -/
def State.pastUnit (s : State) (a : Addr) : Nat → Addr
  | 0 => a + 4#57
  | n + 1 =>
    match (s.fetchWord a).2 with
    | .ok w =>
      match decode w with
      | .ok (.himm _) => s.pastUnit (a + 4#57) n
      | .ok (.hmod ..) => s.pastUnit (a + 4#57) n
      | _ => a + 4#57
    | .error _ => a + 4#57

end Sys2Proof.Machine
end

