-- ==== Sys2Proof/Machine/Packets.lean ====
section
/-! DEFINITION. Packets of this package (R363 to R388): routes, sending, transactions and their failure, the coalescer, and
the release and acquire components that wait for the stores it holds (R184, R185). -/

namespace Sys2Proof.Machine

/-! ## Links and routes (R363 to R365, R383, R384) -/

/-- The state code of a physical link (R373). -/
def State.linkState (s : State) (n : Nat) : BitVec 4 := (sget Link.reset s.link.links n).state

/-- Offset of a row or column peer (R364): none when the node is neither. -/
def peerOffset (me d : Nat) : Option Nat :=
  if me / 48 = d / 48 then some ((d % 48 + 48 - me % 48) % 48)
  else if me % 48 = d % 48 then some ((d / 48 + 48 - me / 48) % 48)
  else none

/-- The physical link of an offset on plane A (0) or B (1) (R364). -/
def peerLink (plane o : Nat) : Nat := 192 + 16 * (o / 16 + 3 * plane) + o % 16

/-- The logical link to a row or column peer is up while one of its physical links is not down (log 20). -/
def State.peerUp (s : State) (d : Nat) : Bool :=
  match peerOffset s.node.toNat d with
  | some o => s.linkState (peerLink 0 o) != 0#4 || s.linkState (peerLink 1 o) != 0#4
  | none => false

/-- The row-first and the column-first relay to a node (R383). -/
def State.rowRelay (s : State) (d : Nat) : Nat := 48 * (s.node.toNat / 48) + d % 48
def State.colRelay (s : State) (d : Nat) : Nat := 48 * (d / 48) + s.node.toNat % 48

/-- The peer to which a packet for node `d` leaves (R383); none when no route can be used. -/
def State.firstHop (s : State) (d : Nat) : Option Nat :=
  if (peerOffset s.node.toNat d).isSome then (if s.peerUp d then some d else none)
  else
    let marks := sget 0 s.fabric.lost d
    if s.peerUp (s.rowRelay d) && !marks.testBit 0 then some (s.rowRelay d)
    else if s.peerUp (s.colRelay d) && !marks.testBit 1 then some (s.colRelay d)
    else none

/-- The memory link that serves a module address of a module of the own cell (R363). -/
def State.memoryLink (s : State) (m addr : Nat) : Option Nat :=
  let k := (m % 16 + 16 - s.node.toNat % 16) % 16
  ((List.range 12).map (fun i => 16 * ((addr / 512 + i) % 12) + k)).find? (fun n => s.linkState n != 0#4)

/-- The logical link by which a packet leaves: a memory link at its number, the link to peer p at 4096 + p (R384). -/
def State.outLink (s : State) (pk : Packet) : Option Nat :=
  let d := pk.dst.toNat
  if pk.dstMod then
    if d / 16 = s.node.toNat / 16 then s.memoryLink d pk.addr
    else (s.firstHop (16 * (d / 16) + s.node.toNat % 16)).map (4096 + ·)
  else (s.firstHop d).map (4096 + ·)

/-- Flits of a packet: 112 payload bytes each (R366; what the payload holds beside the data is open, log 21). -/
def flitsOf (pk : Packet) : Nat :=
  max 1 ((pk.bytes.length + (pk.ops.foldl (fun n o => n + o.size) 0) + 111) / 112)

/-- Number the flits of a packet on a logical link (R368). -/
def Logical.push (l : Logical) (tag : BitVec 22) : Nat → Nat → Logical
  | _, 0 => l
  | p, n + 1 =>
    Logical.push { l with nextSeq := l.nextSeq + 1#12, unacked := l.unacked ++ [(l.nextSeq, tag, BitVec.ofNat 4 p)] }
      tag (p + 1) n

/-- A packet to the package itself is handled inside it (R383). -/
def arrivalOf (pk : Packet) : Event :=
  match pk.op.toNat with
  | 5 => .responseReceive pk
  | 6 => .responseReceive pk
  | 7 => .responseReceive pk
  | 8 => .responseReceive pk
  | 9 => .cancel pk
  | 10 => .responseReceive pk
  | 12 => .responseReceive pk
  | 15 => .signalData pk
  | 16 => .responseReceive pk
  | 18 => .mcstData pk
  | 19 => .responseReceive pk
  | _ => .requestArrival pk

/-- Lit time at a pod time: each phase of 250 ns is lit but for its first 20 (R364, R382). -/
def litTime (t : Nat) : Nat := 230 * (t / 250) + (t % 250 - 20)

/-- The clock of a logical link (R369): for a link to a peer only lit time counts. -/
def State.linkClock (s : State) (n : Nat) : Nat := if n < 4096 then s.time.toNat else litTime s.time.toNat

/-- Hand a packet to a logical link: its flits are numbered (R368), and the wait for their ack begins (R369). -/
def State.handOver (s : State) (n : Nat) (pk : Packet) : State :=
  let old := sget Logical.reset s.link.logical n
  let l := Logical.push { old with since := if old.unacked.isEmpty then s.linkClock n else old.since } pk.tag 0 (flitsOf pk)
  { s with
    fabric := { s.fabric with outbox := s.fabric.outbox ++ [pk] },
    link := { s.link with logical := sput Logical.reset s.link.logical n l } }

/-- Send a packet by its route; none when no route can be used (R383). A peer link carries it in a lit interval (R364). -/
def State.transmit (s : State) (pk : Packet) : Option State :=
  if !pk.dstMod && pk.dst == s.node then some { s with agenda := s.agenda ++ [arrivalOf pk] }
  else
    match s.outLink pk with
    | none => none
    | some n =>
      if 4096 ≤ n && !s.link.lit then
        some { s with fabric := { s.fabric with waiting := s.fabric.waiting ++ [(n, pk)] } }
      else some (s.handOver n pk)

/-- Send a packet that no transaction of this package waits for; one that has no route is lost. -/
def State.send (s : State) (pk : Packet) : State := (s.transmit pk).getD s

/-- A packet of this package with nothing in it. -/
def State.packet (s : State) (op : Nat) (dst : Nat) (job : BitVec 16) : Packet :=
  { op := BitVec.ofNat 6 op, src := s.node, dst := BitVec.ofNat 12 dst, srcMod := false, dstMod := false, attempt := 0#2,
    tag := 0#22, job := job, ops := [], aop := 0#4, bytes := [], addr := 0, status := 0, args := [], authentic := true }

/-! ## Transactions and their failure (R310, R374, R375, R388) -/

/-- The lanes of a packet's operations. -/
def opsMask (ops : List LaneOp) : Mask := mkMask (fun l => ops.any (fun o => o.lane == l))

/-- Access code of a packet operation (R316). -/
def accessOf (op : BitVec 6) : Nat :=
  match op.toNat with
  | 0 => accLoad
  | 3 => accAtom
  | 4 => accCas
  | _ => accStore

/-- Detail of class 16 for a failed request (R388, R394, R419). -/
def cmdDetail (reason : Nat) : Nat :=
  match reason with
  | 0 => 11
  | 1 => 12
  | 2 => 13
  | _ => 3

/-- Unit number of an engine command (R430). -/
def cmdUnit : CmdKind → Nat
  | .tfetch => 1
  | .tgath => 1
  | .tcommit => 2
  | .tredf => 2
  | .tcopy => 3
  | .tfill => 3
  | .rshard => 4
  | .rsplan => 4
  | .signal => 5
  | .fflag => 5
  | .mcst => 5
  | .pbar => 5

/-- Index of the source number of an engine command: the die, and the module for unit 3 (R318, R430). -/
def cmdIndex (k : CmdKind) (core module : Nat) : Nat :=
  core / 256 * 2 ^ 14 + (if cmdUnit k = 3 then module else 0)

/-- A command's first failure is kept (R269, R270). -/
def Cmd.failed (c : Cmd) (detail index addr : Nat) : Cmd :=
  if c.fail.isSome then c else { c with fail := some (detail, cmdUnit c.kind, index, addr) }

/-- Apply `f` to a command. -/
def State.onCmd (s : State) (id : Nat) (f : Cmd → Cmd) : State :=
  { s with cmds := s.cmds.map (fun c => if c.id == id then f c else c) }

/-- Drop a transaction. -/
def State.dropTxn (s : State) (tag : BitVec 22) : State :=
  { s with fabric := { s.fabric with txns := s.fabric.txns.filter (fun t => t.pk.tag != tag) } }

/-! ## The end of a lane-access word (R105, R187, R313) -/

/-- An operation on nothing. -/
def LaneOp.none : LaneOp := { lane := 0, addr := 0, size := 0, data := 0#128, cmp := 0#128 }

/-- A scope is wide from .clu on (R184). -/
def wideScope (c : Nat) : Bool := decide (3 ≤ c)

/-- The acquire component at a scope (R184): at a wide scope every line of the core's L1 is invalidated. -/
def State.acquire (s : State) (scope : Nat) : State :=
  if wideScope scope then { s with mem := s.mem.l1DropAll s.cur.id.core } else s

/-- A load of the open run has read its bytes (R43). -/
def State.loadRead (s : State) : State :=
  { s with cur := { s.cur with run := s.cur.run.map (fun r => { r with loadsLeft := r.loadsLeft - 1 }) } }

/-- The word is done: its acquire component, and what it means to the open run. -/
def State.endWord (s : State) (e : WordEnd) : State :=
  let s1 := match e.acq with | some c => s.acquire c | none => s
  match e.load with
  | some (srcs, dests, fused) => s1.loadRead.finish (.fixed 8) fused srcs dests [] none
  | none => s1.advance

/-- Write the returned data of lanes into a block (R106). -/
def State.putLanes (s : State) (rs : List RegRef) (vals : List (Nat × BitVec 128)) : State :=
  let m := mkMask (fun l => vals.any (fun v => v.1 == l))
  rs.zipIdx.foldl (fun t rk =>
    t.putRef m rk.1 (mkLanes (fun l => match vals.find? (fun v => v.1 == l) with
      | some v => v.2.extractLsb' (32 * rk.2) 32
      | none => 0#32))) s

/-- The values that lanes have read reach their registers (R106, R108). -/
def State.putTarget (s : State) (t : Target) (vals : List (Nat × BitVec 128)) : State :=
  match t with
  | .block rs => s.putLanes rs vals
  | .scalar n => match vals with
    | v :: _ => s.putS n (v.2.extractLsb' 0 64)
    | [] => s

/-- The first fault in lane order: that of the lowest lane (R179, R313). -/
def lowestFault (faults : List LaneFault) : Option LaneFault :=
  (List.range 32).findSome? (fun l => faults.find? (fun f => f.1 == l))

/-- FMASK of a word's lane faults: none for a word that acts once (R313). -/
def faultMask (faults : List LaneFault) (single : Bool) : Mask :=
  if single then 0#32 else mkMask (fun l => faults.any (fun g => g.1 == l))

/-- AUX of a word's lane faults: bit 0 for an unknown outcome (R313, R317). -/
def faultAux (faults : List LaneFault) : BitVec 64 := if faults.any (fun g => g.2.2.2) then 1#64 else 0#64

/-- The trap of a word whose lanes have faulted (R179, R313): the cause and address of the lowest of them. -/
def State.laneTrap (s : State) (faults : List LaneFault) (single : Bool) : State :=
  match lowestFault faults with
  | none => s
  | some f => s.trap f.2.1 { fmask := faultMask faults single, addr := f.2.2.1, aux := faultAux faults }

/-- Lane faults of a word join those that its group has yet to report. -/
def lanesFault (w : WordAt) (faults : List LaneFault) : List CmdFault → List CmdFault
  | [] => [.lanes w faults]
  | .lanes v fs :: rest => if v.id = w.id then .lanes v (fs ++ faults) :: rest else .lanes v fs :: lanesFault w faults rest
  | f :: rest => f :: lanesFault w faults rest

/-- Fragment `m` of the live group `o` becomes the selected one; none when there is no such fragment. -/
def State.focus (s : State) (o : GroupKey) (m : Mask) : Option State :=
  match s.groups.findIdx? (fun g => g.isLive o) with
  | none => none
  | some i =>
    let t := s.selectGroup i
    ((t.cur.frag :: t.cur.sibs).findIdx? (fun f => f.member == m)).map t.selectFrag

/-- Every lane of a word that waited for peers has been answered: the fragment stands at its word again, which ends, or traps;
the faults of a word of a stopped group wait until it goes on (R312, R313). -/
def State.peerDone (s : State) (p : PeerAccess) : State :=
  let s1 := { s with fabric := { s.fabric with peers := s.fabric.peers.filter (fun q => q.word.id != p.word.id) },
                     mem := { s.mem with fills := s.mem.fills.filter (fun f => f.word != p.word.id) } }
  match s1.focus p.owner p.word.frag with
  | none => s1
  | some t =>
    if p.faults.isEmpty then
      (t.setFrag { t.cur.frag with pc := p.pc, hint := p.hint, fuse := p.fuse, wait := .ready }).endWord p.ends
    else if t.cur.stop.isSome then
      let u := t.setFrag { t.cur.frag with wait := .ready }
      { u with cur := { u.cur with cmdFaults := lanesFault p.word p.faults u.cur.cmdFaults } }
    else (t.setFrag { t.cur.frag with pc := p.pc, hint := p.hint, fuse := p.fuse, wait := .ready }).laneTrap p.faults p.single

/-- Lanes of a request have been answered, those of `bad` with a cause: the last of them ends the word. -/
def State.peersAnswered (s : State) (id : Nat) (req : Packet) (bad : List (Nat × Nat)) (unknown : Bool) : State :=
  match s.fabric.peers.find? (fun p => p.word.id == id) with
  | none => s
  | some p =>
    let hit := p.open_ &&& opsMask req.ops
    let ea (l : Nat) : Nat := ((p.eas.find? (fun e => e.1 == l)).map (·.2)).getD 0
    let new := (bad.filter (fun b => hit.getLsbD b.1)).map (fun b => (b.1, b.2, ea b.1, unknown))
    let q := { p with open_ := p.open_ &&& ~~~hit, faults := p.faults ++ new }
    if q.open_ = 0#32 then s.peerDone q
    else { s with fabric := { s.fabric with peers := s.fabric.peers.map (fun x => if x.word.id == id then q else x) } }

/-! ## Failure -/

/-- Apply `f` to the active re-shard when it is that of command `id`. -/
def State.onWork (s : State) (id : Nat) (f : Reshard → Reshard) : State :=
  { s with strudel := { s.strudel with work := s.strudel.work.map (fun r => if r.id = id then f r else r) } }

/-- Keep a target's record (R376). -/
def State.recordTarget (s : State) (r : TargetRecord) : State :=
  let old := s.fabric.targets.filter (fun t => !(t.src == r.src && t.tag == r.tag))
  { s with fabric := { s.fabric with targets := old ++ [r] } }

/-- An answer to a request, with the copy's attempt (R376). -/
def State.reply (s : State) (op : Nat) (pk : Packet) : Packet :=
  { s.packet op pk.src.toNat pk.job with tag := pk.tag, attempt := pk.attempt }

/-- Answer a request and keep the answer (R376). -/
def State.answer (s : State) (pk resp : Packet) : State :=
  (s.recordTarget { src := pk.src.toNat, tag := pk.tag.toNat, answer := some resp, cancelled := false, at_ := s.time.toNat }).send resp

/-- Detail of class 16 for the status of an answer: 1 a permission failure, 2 an uncorrectable word; for a copy of a multicast
packet also 3 not resident, 4 a timeout, 5 an onward loss (R388, R397). -/
def statusDetail (st : Nat) : Nat :=
  match st with
  | 1 => 3
  | 2 => 10
  | 3 => 13
  | 4 => 11
  | _ => 12

/-- What the relay holds for others leaves. -/
def State.dropCombine (s : State) (id : Nat) : State :=
  { s with fabric := { s.fabric with combines := s.fabric.combines.filter (fun c => c.id != id) } }

/-- A copy of a multicast packet is answered: the last answer goes to the sender with the worst status (R397). -/
def State.copyAnswered (s : State) (c : Combine) (status : Nat) : State :=
  let first := c.members.headD default
  let c1 := { c with left := c.left - 1, status := max c.status status }
  if c1.left = 0 then (s.dropCombine c.id).answer first { s.reply 19 first with status := c1.status }
  else { s with fabric := { s.fabric with combines := s.fabric.combines.map (fun x => if x.id == c.id then c1 else x) } }

/-- A request that the relay has sent for others fails with a detail of class 16: the failure of a copy of a multicast packet is
its answer (R397); the members of a combined request whose onward link is down learn of it (R388), else their own timers run
on. -/
def State.relayLost (s : State) (id detail dst : Nat) : State :=
  match s.fabric.combines.find? (fun c => c.id == id) with
  | none => s
  | some c =>
    if (c.members.headD default).op = 18#6 then
      s.copyAnswered c (if detail = 13 then 3 else if detail = 12 then 5 else if detail = 11 then 4 else 1)
    else
      let s1 := s.dropCombine id
      if s.peerUp dst then s1 else c.members.foldl (fun t x => t.send { t.reply 8 x with args := [t.node.toNat] }) s1

/-- A transaction fails: with causes for operations of the packet, by their places in it, and with a detail of class 16 for an
engine command. -/
def State.failOps (s : State) (t : Txn) (bad : List (Nat × Nat)) (detail : Nat) (unknown : Bool) : State :=
  let s1 := s.dropTxn t.pk.tag
  let lane (i : Nat) : Nat := (t.pk.ops[i]?.getD LaneOp.none).lane
  match t.owner with
  | .lanes id => s1.peersAnswered id t.pk (bad.map (fun b => (lane b.1, b.2))) unknown
  | .weak owner core words =>
    let line := (t.pk.ops.headD LaneOp.none).addr / 128
    let faults (w : WordAt × List (Nat × Nat)) : WordAt × List LaneFault :=
      (w.1, bad.filterMap (fun b => (w.2.find? (fun e => e.1 == b.1)).map (fun e => (lane b.1, b.2, e.2, unknown))))
    let s2 := { s1 with mem := s1.mem.peerDrop core t.pk.dst.toNat line }
    s2.onKey owner (fun u => { u with cur := { u.cur with
      cmdFaults := (words.map faults).foldl (fun fs w => if w.2.isEmpty then fs else lanesFault w.1 w.2 fs) u.cur.cmdFaults } })
  | .cmd id =>
    s1.onCmd id (fun c => { (c.failed detail (cmdIndex c.kind c.core t.pk.dst.toNat) t.ea) with waiting := c.waiting - 1 })
  | .box id k => s1.onWork id (fun r => { r with lost := r.lost ++ [(k, detail, t.ea)] })
  | .relay id => s1.relayLost id detail t.pk.dst.toNat

/-- A transaction fails whole. -/
def State.failTxnWith (s : State) (t : Txn) (cause detail : Nat) (unknown : Bool) : State :=
  s.failOps t ((List.range t.pk.ops.length).map (fun i => (i, cause))) detail unknown

/-- A transaction ends in a peer fault with a reason of R316. -/
def State.failTxn (s : State) (t : Txn) (reason : Nat) (unknown : Bool) : State :=
  s.failTxnWith t (32 * 13 + 4 * reason + accessOf t.pk.op) (cmdDetail reason) unknown

/-- Send a request of this package under a tag of its own (R374). When no route can be used it raises a peer timeout at
once (R383). -/
def State.request (s : State) (owner : TxnOwner) (ea : Nat) (pk : Packet) : State :=
  let pk1 := { pk with tag := BitVec.ofNat 22 s.fabric.nextTag }
  let t : Txn :=
    { pk := pk1, owner := owner, ea := ea, started := s.time.toNat, refused := none, held := none, cancel := none, busy := false,
      locked := none }
  let s1 := { s with fabric := { s.fabric with nextTag := s.fabric.nextTag + 1, txns := s.fabric.txns ++ [t] } }
  match s1.transmit pk1 with
  | some s2 => s2
  | none => s1.failTxn t 0 false

/-! ## The coalescer (R386) -/

/-- The packet of a held weak write. -/
def State.heldPacket (s : State) (h : Held) : Packet := { s.packet 1 h.node h.job with ops := h.ops }

/-- A held packet is sent. -/
def State.sendHeldOne (s : State) (h : Held) : State :=
  let s1 := { s with fabric := { s.fabric with held := s.fabric.held.filter (fun x => x.id != h.id) } }
  s1.request (.weak h.owner h.core h.words) (h.ops.headD LaneOp.none).addr (s.heldPacket h)

/-- A held packet is sent, after those of its group that it follows to the same node (R386). -/
def State.sendHeld (s : State) (h : Held) : State :=
  ((s.fabric.held.takeWhile (fun x => x.id != h.id)).filter (fun x => x.owner == h.owner && x.node == h.node)).foldl
    State.sendHeldOne s |>.sendHeldOne h

/-- The held packets that satisfy `p` are sent. -/
def State.sendAll (s : State) (p : Held → Bool) : State := (s.fabric.held.filter p).foldl State.sendHeldOne s

/-- The holding of a group's weak writes ends (R386). -/
def State.flushGroup (s : State) (g : GroupId) : State := s.sendAll (fun h => h.owner == g.key)

/-- The word of the current fragment as requests carry it; its number is drawn. -/
def State.wordAt (s : State) : WordAt :=
  { id := s.nextId, frag := s.cur.frag.member, unit := s.unitPc, next := s.cur.frag.pc + 4#57 }

/-- A weak store packet of the operations of one line, with their effective addresses: it merges into the held packet of the
group and line, or is held anew (R386). Later bytes win. -/
def State.holdWeak (s : State) (w : WordAt) (node line : Nat) (ops : List LaneOp) (eas : List Nat) : State :=
  let g := s.cur.id
  let same (h : Held) : Bool := h.owner == g.key && h.node == node && h.line == line
  let bytes (m : Mem) : Mem :=
    ops.foldl (fun m o => m.peerPut false g.core node o.addr (leBytes o.size o.data.toNat)) (m.noFill g.core node line)
  let s1 := { s with mem := bytes s.mem }
  if s.fabric.held.any same then
    { s1 with fabric := { s1.fabric with held := s1.fabric.held.map (fun h =>
        if same h then
          { h with ops := h.ops ++ ops, words := h.words ++ [(w, (eas.zipIdx).map (fun e => (h.ops.length + e.2, e.1)))] }
        else h) } }
  else
    { s1 with nextId := s1.nextId + 1,
              fabric := { s1.fabric with held := s1.fabric.held ++
                [{ id := s1.nextId, owner := g.key, core := g.core, job := g.job, node := node, line := line, ops := ops,
                   words := [(w, (eas.zipIdx).map (fun e => (e.2, e.1)))] }] } }

/-! ## What an access waits for (R135, R184, R193, R194, R205) -/

/-- Does a packet go to a line of a node? -/
def toLine (pk : Packet) (node line : Nat) : Bool :=
  !pk.dstMod && pk.dst.toNat == node && pk.ops.any (fun o => o.addr / 128 == line)

/-- Weak stores under way, of those that `p` names by owner, core and packet. -/
def State.weakOut (s : State) (p : GroupKey → Nat → Packet → Bool) : Bool :=
  s.fabric.held.any (fun h => p h.owner h.core (s.heldPacket h))
    || s.fabric.txns.any (fun t => match t.owner with | .weak o c _ => p o c t.pk | _ => false)

/-- Lane accesses under way that wait for answers, of those that `p` names by the access and the packet. -/
def State.lanesOut (s : State) (p : PeerAccess → Packet → Bool) : Bool :=
  s.fabric.txns.any (fun t => match t.owner with
    | .lanes id => s.fabric.peers.any (fun a => a.word.id == id && p a t.pk)
    | _ => false)

/-- Is what a fragment of group `g` waits for still under way? -/
def State.drains (s : State) (g : GroupId) : Drain → Bool
  | .release scope _ =>
    s.lanesOut (fun a _ => a.owner == g.key || (wideScope scope && a.core == g.core && a.acc != 0))
      || (wideScope scope && s.weakOut (fun _ c _ => c == g.core))
  | .reads => s.lanesOut (fun a _ => a.owner == g.key && a.acc != 1)
  | .line node line =>
    s.weakOut (fun _ c pk => c == g.core && toLine pk node line)
      || s.lanesOut (fun a pk => a.owner == g.key && toLine pk node line)
  | .flush none => s.weakOut (fun o _ _ => o == g.key) || s.lanesOut (fun a _ => a.owner == g.key && a.acc != 0)
  | .flush (some x) =>
    s.weakOut (fun o _ pk => o == g.key && toLine pk x.1 x.2)
      || s.lanesOut (fun a pk => a.owner == g.key && a.acc != 0 && toLine pk x.1 x.2)

/-- The stores of a core that are on their way to their homes and that a release of group `g` covers: at a wide scope they are
performed; at a narrow one no access of the core passes those of the group any more (R184, R201). -/
def Mem.released (m : Mem) (g : GroupId) (scope : Nat) : Mem :=
  if m.late.isEmpty then m
  else if wideScope scope then m.performLate (fun x => x.core == g.core)
  else { m with late := m.late.map (fun x => if x.owner == g.key then { x with seen := true } else x) }

/-- The release component at a scope (R184, R386): the holding of the group's weak writes ends; `k` goes on when no access
that the release covers is under way, else the fragment waits. `bar`: at a barrier word. -/
def State.release (s : State) (bar : Bool) (scope : Nat) (k : State → State) : State :=
  let s1 := s.flushGroup s.cur.id
  if s1.drains s.cur.id (.release scope bar) then s1.waitAt (.drain (.release scope bar))
  else k { s1 with mem := s1.mem.released s.cur.id scope }

/-- Stores of the core of the selected group that are on their way to their homes are performed: the group reads what it has
stored (R135). -/
def State.ownStores (s : State) : State :=
  if s.mem.late.isEmpty then s else { s with mem := s.mem.performLate (fun x => x.core == s.cur.id.core) }

end Sys2Proof.Machine
end

