-- ==== Sys2Proof/Machine/Barrier.lean ====
section
/-! DEFINITION. Team and cluster barriers, and the gathering that pod barriers share with them (R155 to R160, R398). -/

namespace Sys2Proof.Machine

/-- The kinds of barrier in Wait.gather. -/
def barTeam : Nat := 0
def barCluster : Nat := 1
def barPod : Nat := 2

/-- Number of groups of a team that have not ended (R157). -/
def State.teamCount (s : State) (grid clu team : Nat) : Nat :=
  (s.liveGroups.filter (fun g => g.id.grid == grid && g.id.clu == clu && g.id.team == team)).length

/-- Number of groups of a cluster that have not ended (R157). -/
def State.clusterCount (s : State) (grid clu : Nat) : Nat :=
  (s.liveGroups.filter (fun g => g.id.grid == grid && g.id.clu == clu)).length

/-- The phase completes (R157). -/
def Barrier.complete (b : Barrier) : Barrier := { phase := b.phase + 1, count := none, arrived := 0, who := [] }

/-- An arrival with an explicit count or with the default count; none when it raises a barrier-count fault (R157). -/
def Barrier.arrive (b : Barrier) (explicit : Option Nat) (default maxCount : Nat) (who : Nat × Nat) : Option Barrier :=
  let n := explicit.getD default
  let fixed := match b.count with
    | some (true, c) => c
    | some (false, _) => default
    | none => n
  if (explicit.isSome && (n == 0 || decide (maxCount < n))) || n != fixed then none
  else
    let b1 := { b with count := some ((b.count.getD (explicit.isSome, n)).1, fixed), arrived := b.arrived + 1,
                       who := who :: b.who }
    some (if fixed ≤ b1.arrived then b1.complete else b1)

/-- A default count has fallen to `n`: the phase completes when the arrivals reach it (R157). -/
def Barrier.fallen (b : Barrier) (n : Nat) : Barrier :=
  match b.count with
  | some (false, _) => if n ≤ b.arrived then b.complete else b
  | _ => b

/-- Apply `f` to every barrier of a map. -/
def barsMap (f : Barrier → Barrier) (m : SMap Barrier) : SMap Barrier :=
  m.foldl (fun acc e => sput Barrier.reset acc e.1 (f e.2)) []

/-- A group of the team has ended: default counts fall (R157). -/
def State.countsFall (s : State) (g : GroupId) : State :=
  let nt := s.teamCount g.grid g.clu g.team
  let nc := s.clusterCount g.grid g.clu
  { s with
    teams := s.teams.map (fun t =>
      if isTeam g.grid g.clu g.team t then { t with bars := barsMap (·.fallen nt) t.bars } else t),
    clusters := s.clusters.map (fun c =>
      if isCluster g.grid g.clu c then { c with bars := barsMap (·.fallen nc) c.bars } else c) }

/-- Key of a pod barrier (R398). -/
def podKey (job : BitVec 16) (b : Nat) : Nat := job.toNat * 8 + b

/-- The phase of the barrier that a group's wait names. -/
def State.barPhase (s : State) (g : GroupId) (kind b : Nat) : Nat :=
  if kind = barPod then (sget PodBar.reset s.fabric.bars (podKey g.job b)).phase
  else if kind = barCluster then (sget Barrier.reset (s.clusterFor g).bars b).phase
  else (sget Barrier.reset (s.teamFor g).bars b).phase

/-- Has the group an arrival outstanding at the barrier (R156 step 8)? -/
def State.arrivalOutstanding (s : State) (g : GroupId) (kind b : Nat) : Bool :=
  if kind = barPod then
    (sget PodBar.reset s.fabric.bars (podKey g.job b)).who.any (fun w => w == (g.grid, g.clu, g.team, g.grp))
  else if kind = barCluster then (sget Barrier.reset (s.clusterFor g).bars b).who.any (fun w => w == (g.team, g.grp))
  else (sget Barrier.reset (s.teamFor g).bars b).who.any (fun w => w == (g.team, g.grp))

/-- Is the fragment gathered at a TBARA? -/
def Frag.atTbara (f : Frag) : Bool :=
  match f.wait with
  | .gather k _ _ _ split => k == barTeam && split
  | _ => false

/-- What a gathered fragment's word says: kind, number, scope, count. -/
def gatherOf (f : Frag) : Option (Nat × Nat × Nat × Option Nat) :=
  match f.wait with
  | .gather k b sc cnt _ => some (k, b, sc, cnt)
  | _ => none

/-- The fragments of the current group. -/
def Group.frags (g : Group) : List Frag := g.frag :: g.sibs

/-- The lowest-numbered lane a fragment holds. -/
def Frag.lowLane (f : Frag) : Nat := ((List.range 32).filter (fun l => f.member.getLsbD l)).headD 32

/-- The fragment that holds the lowest lane, and the others. -/
def lowestFrag (f : Frag) : List Frag → Frag × List Frag
  | [] => (f, [])
  | x :: xs =>
    let r := lowestFrag f xs
    if x.lowLane < r.1.lowLane then (x, r.1 :: r.2) else (r.1, x :: r.2)

/-- Make the fragment that holds the lowest lane the current one. -/
def State.focusLowest (s : State) : State :=
  let r := lowestFrag s.cur.frag s.cur.sibs
  { s with cur := { s.cur with frag := r.1, sibs := r.2 } }

/-- After the group's arrival: fragments of split-phase words go on, the others wait for the phase (R156 step 3). -/
def Frag.arrived (phase : Nat) (f : Frag) : Frag :=
  match f.wait with
  | .gather k b _ _ split => { f with wait := .phase k b (if split then 0 else phase + 1) }
  | _ => f

/-- The current fragment stands at a word whose phase has passed: an acquire at the scope, and the word is done; else it
waits on (R156, R159). -/
def State.passPhase (s : State) (kind b ph scope : Nat) : State :=
  if ph ≤ s.barPhase s.cur.id kind b then (if ph = 0 then s.advance else (s.acquire scope).advance)
  else s.waitAt (.phase kind b ph)

/-- Replace a pod barrier. -/
def State.putPod (s : State) (key : Nat) (x : PodBar) : State :=
  { s with fabric := { s.fabric with bars := sput PodBar.reset s.fabric.bars key x } }

/-- The arrival of the group at the barrier of its gathered fragments (R156 steps 2 and 3); none for a count fault. -/
def State.arriveAt (s : State) (kind b : Nat) (cnt : Option Nat) : Option State :=
  let g := s.cur.id
  let who := (g.team, g.grp)
  if kind = barTeam then
    let t := s.team
    match (sget Barrier.reset t.bars b).arrive cnt (s.teamCount g.grid g.clu g.team) 16 who with
    | none => none
    | some x => some (s.putTeam { t with bars := sput Barrier.reset t.bars b x })
  else if kind = barCluster then
    let c := s.cluster
    match (sget Barrier.reset c.bars b).arrive cnt (s.clusterCount g.grid g.clu) 192 who with
    | none => none
    | some x => some (s.putCluster { c with bars := sput Barrier.reset c.bars b x })
  else
    -- the count of a PBAR holds its count field × 256 + its group field (R398)
    let key := podKey g.job b
    let x := sget PodBar.reset s.fabric.bars key
    let cfg := (cnt.getD 0 / 256, cnt.getD 0 % 256)
    let me := (g.grid, g.clu, g.team, g.grp)
    match x.cfg with
    | some old =>
      if old = cfg then some (s.putPod key { x with arrived := x.arrived + 1, who := me :: x.who }) else none
    | none => some (s.putPod key { x with cfg := some cfg, arrived := x.arrived + 1, who := [me] })

/-- A pod barrier whose group arrivals have reached the count: the package makes its own arrival, with the members of its
snapshot of the entry (R398 step 3, R391); the phase completes when every member has arrived (R399). -/
def PodBar.settle (x : PodBar) (node : Nat) (entry : List Nat) : PodBar :=
  match x.cfg with
  | none => x
  | some (count, _) =>
    let x1 := if x.members.isEmpty && decide (count ≤ x.arrived) then
        { x with members := entry, known := if x.known.contains node then x.known else node :: x.known }
      else x
    if !x1.members.isEmpty && x1.members.all (fun n => x1.known.contains n) then
      { phase := x1.phase + 1, cfg := none, arrived := 0, who := [], members := [], known := x1.later, later := [] }
    else x1

/-- Members of an installed multicast entry; none when it is invalid (R390). -/
def State.mcastEntry (s : State) (g : Nat) : List Nat := (sget none s.fabric.mcast g).getD []

/-- Settle one pod barrier. -/
def State.settlePod (s : State) (key : Nat) : State :=
  let x := sget PodBar.reset s.fabric.bars key
  let grp := (x.cfg.map (·.2)).getD 0
  s.putPod key (x.settle s.node.toNat (s.mcastEntry grp))

/-- A barrier fault of the waiting fragment, reported at its word (R160). -/
def State.barrierFault (s : State) (detail : Nat) : State :=
  s.trapSkip (32 * 4 + detail) TrapArgs.plain (s.pastUnit s.unitPc 2)

/-- The scope at which the group would arrive: every fragment is gathered at one barrier and scope. -/
def arrivalScope (fs : List Frag) : Option Nat :=
  match fs.mapM gatherOf with
  | some (x :: xs) => if xs.all (fun y => y.1 == x.1 && y.2.1 == x.2.1 && y.2.2.1 == x.2.2.1) then some x.2.2.1 else none
  | _ => none

/-- When every live fragment of the group is gathered, the group arrives or takes the fault of R156 steps 5 to 7. A fragment
that has arrived and waits for the phase, or waits out an outstanding arrival, is not gathered (log 26).
`byArrival`: the current fragment's arrival at its word completed the state. -/
def State.gathered (s : State) (byArrival : Bool) : State :=
  match s.cur.frags.mapM gatherOf with
  | none => s
  | some gs =>
    let (k, b, sc, cnt) := gs.headD (0, 0, 0, none)
    let at_ := if byArrival then s else s.focusLowest
    if !gs.all (fun x => x.1 == k && x.2.1 == b && x.2.2.1 == sc) then at_.barrierFault 5
    else if !gs.all (fun x => x.2.2.2 == cnt) then at_.barrierFault 4
    else
      let ph := s.barPhase s.cur.id k b
      match s.arriveAt k b cnt with
      | none => at_.barrierFault 4
      | some s1 =>
        let s2 := if k = barPod then s1.settlePod (podKey s.cur.id.job b) else s1
        let split := if s.cur.frags.any Frag.atTbara then s.cur.split ||| BitVec.ofNat 16 (2 ^ b) else s.cur.split
        { s2 with cur := { s2.cur with frag := s2.cur.frag.arrived ph, sibs := s2.cur.sibs.map (Frag.arrived ph), split := split } }

/-- The phase that the fragment waits for at a barrier. -/
def Frag.phaseOf (f : Frag) (kind b : Nat) : Option Nat :=
  match f.wait with
  | .phase k b' ph => if k = kind && b' = b then some ph else none
  | _ => none

/-- A fragment executes TBAR, TBARA, CBAR or PBAR (R156): it passes a completed phase, or waits out an outstanding arrival,
or gathers. -/
def State.barrierWord (s : State) (kind b scope : Nat) (cnt : Option Nat) (split : Bool) : State :=
  match s.cur.frag.phaseOf kind b with
  | some ph => s.passPhase kind b ph scope
  | none =>
    if s.arrivalOutstanding s.cur.id kind b then s.waitAt (.arrivalOut kind b)
    else
      s.release true scope (fun s1 =>
        let s2 := (s1.waitAt (.gather kind b scope cnt split)).gathered true
        match s2.cur.stop, s2.cur.frag.phaseOf kind b with
        | none, some ph =>
          -- the word is done at once when its phase has passed
          if ph ≤ s2.barPhase s2.cur.id kind b then
            (if ph = 0 then s2 else s2.acquire scope).goto (s.cur.frag.pc + 4#57)
          else s2
        | _, _ => s2)

/-- The count operand of a barrier word (R155). -/
def State.barCount (s : State) (n : BitVec 1) (r : BitVec 6) : Option Nat := if n = 1#1 then some (s.getS r).toNat else none

/-- TBAR (R155 to R157). -/
def execTbar (n : BitVec 1) (b : BitVec 4) (r : BitVec 6) (c : BitVec 3) (s : State) : Out :=
  .next (s.barrierWord barTeam b.toNat c.toNat (s.barCount n r) false)

/-- TBARA (R155 to R158). -/
def execTbara (n : BitVec 1) (b : BitVec 4) (r : BitVec 6) (c : BitVec 3) (s : State) : Out :=
  .next (s.barrierWord barTeam b.toNat c.toNat (s.barCount n r) true)

/-- CBAR (R155 to R157). -/
def execCbar (n : BitVec 1) (b : BitVec 4) (r : BitVec 6) (c : BitVec 3) (s : State) : Out :=
  .next (s.barrierWord barCluster b.toNat c.toNat (s.barCount n r) false)

/-- Is a fragment of the group gathered at TBAR or TBARA for team barrier b (R158)? -/
def Group.gatheredAt (g : Group) (b : Nat) : Bool :=
  g.frags.any (fun f => match f.wait with | .gather k b' _ _ _ => k == barTeam && b' == b | _ => false)

/-- TBARW (R158): an acquire at the scope when the group has arrived at the barrier by TBARA (R159). -/
def execTbarw (b : BitVec 4) (c : BitVec 3) (s : State) : Out :=
  .next (if s.cur.gatheredAt b.toNat || s.arrivalOutstanding s.cur.id barTeam b.toNat then s.waitAt (.barw b.toNat)
    else (if s.cur.split.getLsbD b.toNat then s.acquire c.toNat else s).advance)

end Sys2Proof.Machine
end

