-- ==== Sys2Proof/Machine/Control.lean ====
section
/-! DEFINITION. Control words of majors 0 and 1 (R99 to R104), the split table and its spill area (R136 to R139). -/

namespace Sys2Proof.Machine

/-- PC + 4 × the sign-extended offset, modulo 2^57 (R99, R101). -/
def State.target {w : Nat} (s : State) (o : BitVec w) : Addr := s.cur.frag.pc + 4#57 * o.signExtend 57

/-- A uniform branch (R99). -/
def State.branch (s : State) (taken : Bool) (o : BitVec 22) : State := if taken then s.goto (s.target o) else s.advance

/-- NOP (R103). -/
def execNop (s : State) : Out := .next s.advance

/-- Groups of one slot of one core. -/
def sameSlot (a b : GroupId) : Bool := a.core == b.core && a.slot == b.slot

/-- YIELD (R103): the group waits for one issue of each other group of its slot while that group is ready. -/
def execYield (s : State) : Out :=
  let others := (s.others.filter (fun g => g.alive && sameSlot g.id s.cur.id)).map (fun g => g.id.order)
  let t := s.advance
  .next { t with cur := { t.cur with yield := others } }

/-- The flags awaited are done: an acquire at .pod when the completion of one of them is one (R208, R290, R397). -/
def State.flagsPassed (s : State) (m : BitVec 12) : State :=
  let passed (k : Nat) : Bool := decide (k < 12) && m.getLsbD k
  let scopes := (s.cur.facq.filter (fun e => passed e.1)).map (·.2)
  let s1 := scopes.foldl State.acquire s
  { s1 with cur := { s1.cur with facq := sfilter (fun k => !passed k) s1.cur.facq } }

/-- WAITF (R103). -/
def execWaitf (m : BitVec 12) (s : State) : Out :=
  .next (if s.cur.regs.flagsDone m then (s.flagsPassed m).advance else s.waitAt (.flags m))

/-- BRA (R99). -/
def execBra (o : BitVec 22) (s : State) : Out := .next (s.branch true o)

/-- CALL (R100). -/
def execCall (o : BitVec 22) (s : State) : Out :=
  .next ((s.putS 63#6 ((s.cur.frag.pc + 4#57).zeroExtend 64)).branch true o)

/-- BK kn (R99). -/
def execBk (k : BitVec 2) (o : BitVec 22) (s : State) : Out := .next (s.branch (s.getK k) o)

/-- BK !kn (R99). -/
def execBkNot (k : BitVec 2) (o : BitVec 22) (s : State) : Out := .next (s.branch (!s.getK k) o)

/-- BP.any (R99). -/
def execBpAny (p : BitVec 3) (o : BitVec 22) (s : State) : Out :=
  .next (s.branch (s.getP p &&& s.cur.frag.exec != 0#32) o)

/-- BP.all (R99). -/
def execBpAll (p : BitVec 3) (o : BitVec 22) (s : State) : Out :=
  .next (s.branch (s.cur.frag.exec != 0#32 && s.cur.frag.exec &&& ~~~s.getP p == 0#32) o)

/-- A jump to the value of a register, checked (R100). -/
def State.jumpTo (s : State) (x : DWord) : State :=
  if x.extractLsb' 0 2 != 0#2 || x.extractLsb' 57 7 != 0#7 then s.trap0 4 0 else s.goto (x.extractLsb' 0 57)

/-- RET (R100). -/
def execRet (r : BitVec 6) (s : State) : Out := .next (s.jumpTo (s.getS r))

/-- JMPR (R100). -/
def execJmpr (r : BitVec 6) (s : State) : Out := .next (s.jumpTo (s.getS r))

/-! ## The split table -/

/-- Has the entry a child entry (R136)? -/
def hasChild (es : List SplitEntry) (e : Nat) : Bool := es.any (fun x => x.parent == e)

/-- May the fragments of an entry fuse (R102, R136, R139)? Each of them waits at its JOIN, and no child entry remains. -/
def canFuse (fs : List Frag) (es : List SplitEntry) (e : Nat) : Bool :=
  !hasChild es e && fs.any (fun f => f.entry == e) && (fs.filter (fun f => f.entry == e)).all (fun f => f.wait == .join)

/-- The fused fragment of an entry (R102): membership of its fragments and the held lanes; it belongs to the parent. -/
def fused (fs : List Frag) (en : SplitEntry) : Frag :=
  let m := (fs.filter (fun f => f.entry == en.id)).foldl (fun m f => m ||| f.member) en.held
  { Frag.reset with pc := en.join + 4#57, member := m, exec := m, entry := en.parent }

/-- Fragments and entries after the fusion. -/
def fuseFrags (fs : List Frag) (es : List SplitEntry) (en : SplitEntry) : List Frag × List SplitEntry :=
  (fused fs en :: fs.filter (fun f => f.entry != en.id), es.filter (fun x => x.id != en.id))

/-- The group with these fragments, the first the current one. -/
def Group.withFrags (g : Group) (fs : List Frag) (es : List SplitEntry) : Group :=
  match fs with
  | [] => { g with entries := es }
  | f :: rest => { g with frag := f, sibs := rest, entries := es }

/-- JOIN (R102, R136). -/
def execJoin (s : State) : Out :=
  .next (match s.cur.entries.find? (fun x => x.id == s.cur.frag.entry && x.join == s.cur.frag.pc) with
  | some en =>
    let t := s.waitAt .join
    if canFuse t.cur.frags t.cur.entries en.id then
      let r := fuseFrags t.cur.frags t.cur.entries en
      { t with cur := t.cur.withFrags r.1 r.2 }
    else t
  | none => (s.setFrag { s.cur.frag with exec := s.cur.frag.member }).advance)

/-- A fragment of entry `e` has ended (R139): an entry without fragment and child is removed and its parent looked at; one
whose fragments all wait fuses, unless it is spilled, in which case it fuses at the JOIN after its refill. -/
def pruneEntries : Nat → List Frag → List SplitEntry → Nat → List Frag × List SplitEntry
  | 0, fs, es, _ => (fs, es)
  | n + 1, fs, es, e =>
    match es.find? (fun x => x.id == e) with
    | none => (fs, es)
    | some en =>
      if hasChild es e then (fs, es)
      else if fs.any (fun f => f.entry == e) then
        if canFuse fs es e && en.spilled.isNone then fuseFrags fs es en else (fs, es)
      else pruneEntries n fs (es.filter (fun x => x.id != e)) en.parent

/-- The group ends (R104): its latch is released, its registers are no longer reachable; matrix words go on. -/
def Group.ended (g : Group) : Group :=
  { g with alive := false, sibs := [], entries := [], run := none, hend := [], stop := none, cmdFaults := [],
           part := none, due := [], matrix := { g.matrix with latch := none } }

/-- A group ends: default barrier counts fall (R157). -/
def State.endCurrent (s : State) : State :=
  let g := s.cur.id
  State.countsFall { s with cur := s.cur.ended } g

/-- EXIT (R104, R139): the fragment ends; the fragments that remain may fuse or be gathered (R156 step 7). When they are, the
group's arrival is a release at their scope (R159), for which the ending fragment waits. -/
def execExit (s : State) : Out :=
  .next (match s.cur.sibs with
  | [] => s.endCurrent
  | fs =>
    let r := pruneEntries 33 fs s.cur.entries s.cur.frag.entry
    let go (t : State) : State := State.gathered { t with cur := t.cur.withFrags r.1 r.2 } false
    match arrivalScope r.1 with
    | some scope => s.release true scope go
    | none => go s)

/-- First byte of the group's spill area (R137). -/
def State.spillBase (s : State) : Nat :=
  let r := s.launchRec
  let g := s.cur.id
  r.spillBase.toNat + ((g.clu * (r.rows * r.cols) + g.team) * r.groups + g.grp) * (r.spillEntries * 32)

/-- The lowest free slot of the spill area. -/
def freeSlot (es : List SplitEntry) : Nat :=
  ((List.range (es.length + 1)).find? (fun i => !es.any (fun e => (e.spilled.map (·.1)) == some i))).getD 0

/-- Physical address of a slot of the spill area: none when it does not map this package's own memory (R137). -/
def State.spillPhys (s : State) (slot : Nat) : State × Option Nat :=
  let va := s.spillBase + 32 * slot
  if 2 ^ 57 ≤ va + 31 then (s, none)
  else
    match s.translate va with
    | (s1, .ok l) => (s1, if l.kind = 1 then some (leafPhys l va) else none)
    | (s1, .error _) => (s1, none)

/-- Spill one entry other than `keep` and the root, which always stays on chip (log 23); which one is unspecified, and so are
the 32 bytes written (R137). `k` goes on with the state after the spill; `bad` when the spill cannot be written. -/
def State.spillOne (s : State) (keep : Nat) (k bad : State → State) : State :=
  let onChip := s.cur.entries.filter (fun e => e.spilled.isNone && e.id != keep)
  let slot := freeSlot s.cur.entries
  match onChip[s.freeNow.toNat % max 1 onChip.length]? with
  | none => k s
  | some v =>
    match s.spillPhys slot with
    | (s1, none) => bad s1
    | (s1, some pa) =>
      let es := s1.cur.entries.map (fun e => if e.id == v.id then { e with spilled := some (slot, s1.fresh + 1) } else e)
      k { s1.drew 5 with cur := { s1.cur with entries := es }, mem := s1.mem.pkgWrite pa (freeBytes (s1.fresh + 1) 4) }

/-- Entries on chip, the root among them (R137). -/
def Group.onChip (g : Group) : Nat := 1 + (g.entries.filter (fun e => e.spilled.isNone)).length

/-- The two fragments of a split (R101). -/
def State.split (s : State) (take fall : Mask) (target join : Addr) : State :=
  let f := s.cur.frag
  let id := s.cur.entries.foldl (fun n e => max n e.id) 0 + 1
  let en : SplitEntry := { id := id, join := join, held := f.member &&& ~~~f.exec, parent := f.entry, spilled := none }
  let f1 := { (f.movedTo target) with member := take, exec := take, entry := id }
  let f2 := { (f.movedTo (f.pc + 4#57)) with member := fall, exec := fall, entry := id }
  { s with cur := { s.cur with frag := f1, sibs := f2 :: s.cur.sibs, entries := s.cur.entries ++ [en] } }

/-- BDV (R101, R137). -/
def execBdv (p : BitVec 3) (t j : BitVec 12) (s : State) : Out :=
  let f := s.cur.frag
  let take := f.exec &&& s.getP p
  let fall := f.exec &&& ~~~s.getP p
  .next (if take = 0#32 then s.advance
  else if fall = 0#32 then s.goto (s.target t)
  else if 8 + s.launchRec.spillEntries < s.cur.entries.length + 2 then s.trap0 4 1
  else if 8 ≤ s.cur.onChip then
    s.spillOne 0 (fun u => u.split take fall (s.target t) (s.target j)) (fun u => u.trap0 4 2)
  else s.split take fall (s.target t) (s.target j))

/-- The fault of a refill, reported at the unit that needed it (R137). -/
def State.refillFault (s : State) : State := s.trapSkip (32 * 4 + 3) TrapArgs.plain (s.pastUnit s.unitPc 2)

/-- An entry is read back from its slot of the spill area. Bytes that a program has stored over make the group's results
undefined (R3): the entry's address and held lanes are then free values. -/
def State.refill (s : State) (en : SplitEntry) (slot seed : Nat) : State :=
  match s.spillPhys slot with
  | (s1, none) => s1.refillFault
  | (s1, some pa) =>
    if pkgPoisoned s1.mem pa 32 then s1.refillFault
    else
      let kept := readBytes s1.mem.pkg pa 32 == freeBytes seed 4
      let en1 := if kept then { en with spilled := none }
        else { en with spilled := none, join := (s1.freeNow.extractLsb' 2 55) ++ 0#2,
                       held := (Config.free (s1.fresh + 1)).extractLsb' 0 32 }
      let es := s1.cur.entries.map (fun e => if e.id == en.id then en1 else e)
      { (if kept then s1 else s1.drew 2) with cur := { s1.cur with entries := es } }

/-- SPLIT_REFILL (R137): the entry of the current fragment is read back before the fragment issues; another entry leaves
the chip when eight stand there, and when it cannot, the entry stays spilled. -/
def execSplitRefill (s : State) : Out :=
  .next (match s.cur.entries.find? (fun e => e.id == s.cur.frag.entry) with
  | none => s
  | some en =>
    match en.spilled with
    | none => s
    | some (slot, seed) =>
      let t := s.refill en slot seed
      let stays (u : State) : State := State.refillFault { u with cur := { u.cur with entries := s.cur.entries } }
      if t.cur.onChip ≤ 8 then t else t.spillOne en.id id stays)

end Sys2Proof.Machine
end

