-- ==== Sys2Proof/Machine/Flags.lean ====
section
/-! DEFINITION. Compare conditions and bit counts (R39, R93, R95, R119). -/

namespace Sys2Proof.Machine

/-- An integer compare under condition `c` of R39: eq, ne, lt, le, ltn, len. -/
def intCond {w : Nat} (c : BitVec 3) (a b : BitVec w) : Bool :=
  match c.toNat with
  | 0 => a == b
  | 1 => a != b
  | 2 => a.slt b
  | 3 => a.sle b
  | 4 => a.ult b
  | _ => a.ule b

/-- Number of one bits. -/
def onesOf {w : Nat} (x : BitVec w) : Nat := (List.range w).foldl (fun n i => if x.getLsbD i then n + 1 else n) 0

/-- Number of leading zero bits. -/
def leadingZeros {w : Nat} (x : BitVec w) : Nat := if x = 0#w then w else w - 1 - x.toNat.log2

/-- Bit i of the result is bit w − 1 − i. -/
def reverseBits {w : Nat} (x : BitVec w) : BitVec w :=
  (List.range w).foldl (fun y i => if x.getLsbD (w - 1 - i) then y ||| (1#w <<< i) else y) 0#w

/-- Signed and natural minimum and maximum; the first operand when equal. -/
def sMin {w : Nat} (a b : BitVec w) : BitVec w := if b.slt a then b else a
def sMax {w : Nat} (a b : BitVec w) : BitVec w := if a.slt b then b else a
def nMin {w : Nat} (a b : BitVec w) : BitVec w := if b.ult a then b else a
def nMax {w : Nat} (a b : BitVec w) : BitVec w := if a.ult b then b else a

end Sys2Proof.Machine
end

