-- ==== Sys2Proof/Machine/Scalar.lean ====
section
/-! DEFINITION. Scalar instructions of majors 2 and 3 (R92 to R98): each executes once per fragment, whatever EXEC
holds. -/

namespace Sys2Proof.Machine

/-- A scalar result written to sd after `clocks` (R92, R77). -/
def State.scalar (s : State) (clocks : Nat) (d : BitVec 6) (srcs : List (BitVec 6)) (x : DWord) : State :=
  (s.putS d x).done clocks (srcs.map (fun i => Loc.scalar i.toNat)) [Dest.scalar d.toNat (s.getS d)]

/-- A form with two sources (R93). -/
def State.scalar2 (s : State) (d a b : BitVec 6) (f : DWord → DWord → DWord) : Out :=
  .next (s.scalar 1 d [a, b] (f (s.getS a) (s.getS b)))

/-- A form with one source (R93). -/
def State.scalar1 (s : State) (d a : BitVec 6) (f : DWord → DWord) : Out :=
  .next (s.scalar 1 d [a] (f (s.getS a)))

/-- sd := sd op I (R96). -/
def State.scalarI (s : State) (d : BitVec 6) (f : DWord → DWord) : Out :=
  .next (s.scalar 1 d [d] (f (s.getS d)))

/-- A compare that writes condition flag k (R95). -/
def State.scalarCmp (s : State) (k : BitVec 2) (srcs : List (BitVec 6)) (b : Bool) : Out :=
  .next ((s.putK k b).done 1 (srcs.map (fun i => Loc.scalar i.toNat)) [Dest.cond s.cur.regs.k])

/-- SADD (R93). -/
def execSadd (d a b : BitVec 6) (s : State) : Out := s.scalar2 d a b (· + ·)
/-- SSUB (R93). -/
def execSsub (d a b : BitVec 6) (s : State) : Out := s.scalar2 d a b (· - ·)
/-- SMUL (R93). -/
def execSmul (d a b : BitVec 6) (s : State) : Out := .next (s.scalar 3 d [a, b] (s.getS a * s.getS b))
/-- High half of a signed product (R93). -/
def mulHigh (x y : DWord) : DWord := (x.signExtend 128 * y.signExtend 128).extractLsb' 64 64
/-- SMULH (R93). -/
def execSmulh (d a b : BitVec 6) (s : State) : Out := .next (s.scalar 3 d [a, b] (mulHigh (s.getS a) (s.getS b)))
/-- Signed quotient of R94. -/
def divSigned (x y : DWord) : DWord := if y = 0#64 then -1#64 else BitVec.ofInt 64 (x.toInt.tdiv y.toInt)
/-- Signed remainder of R94. -/
def remSigned (x y : DWord) : DWord := if y = 0#64 then x else BitVec.ofInt 64 (x.toInt.tmod y.toInt)
/-- SDIV (R94). -/
def execSdiv (d a b : BitVec 6) (s : State) : Out := .next (s.scalar 20 d [a, b] (divSigned (s.getS a) (s.getS b)))
/-- SREM (R94). -/
def execSrem (d a b : BitVec 6) (s : State) : Out := .next (s.scalar 20 d [a, b] (remSigned (s.getS a) (s.getS b)))
/-- SAND (R93). -/
def execSand (d a b : BitVec 6) (s : State) : Out := s.scalar2 d a b (· &&& ·)
/-- SOR (R93). -/
def execSor (d a b : BitVec 6) (s : State) : Out := s.scalar2 d a b (· ||| ·)
/-- SXOR (R93). -/
def execSxor (d a b : BitVec 6) (s : State) : Out := s.scalar2 d a b (· ^^^ ·)
/-- SANDN (R93). -/
def execSandn (d a b : BitVec 6) (s : State) : Out := s.scalar2 d a b (fun x y => x &&& ~~~y)
/-- The shift amount B[5:0] (R93). -/
def shiftAmount (y : DWord) : Nat := y.toNat % 64
/-- SSHL (R93). -/
def execSshl (d a b : BitVec 6) (s : State) : Out := s.scalar2 d a b (fun x y => x <<< shiftAmount y)
/-- SSHR (R93). -/
def execSshr (d a b : BitVec 6) (s : State) : Out := s.scalar2 d a b (fun x y => x >>> shiftAmount y)
/-- SSRA (R93). -/
def execSsra (d a b : BitVec 6) (s : State) : Out := s.scalar2 d a b (fun x y => x.sshiftRight (shiftAmount y))
/-- SROT (R93). -/
def execSrot (d a b : BitVec 6) (s : State) : Out := s.scalar2 d a b (fun x y => x.rotateLeft (shiftAmount y))
/-- SMIN (R93). -/
def execSmin (d a b : BitVec 6) (s : State) : Out := s.scalar2 d a b sMin
/-- SMAX (R93). -/
def execSmax (d a b : BitVec 6) (s : State) : Out := s.scalar2 d a b sMax
/-- SMINN (R93). -/
def execSminn (d a b : BitVec 6) (s : State) : Out := s.scalar2 d a b nMin
/-- SMAXN (R93). -/
def execSmaxn (d a b : BitVec 6) (s : State) : Out := s.scalar2 d a b nMax
/-- SCLZ (R93). -/
def execSclz (d a : BitVec 6) (s : State) : Out := s.scalar1 d a (fun x => BitVec.ofNat 64 (leadingZeros x))
/-- SPOP (R93). -/
def execSpop (d a : BitVec 6) (s : State) : Out := s.scalar1 d a (fun x => BitVec.ofNat 64 (onesOf x))
/-- SBREV (R93). -/
def execSbrev (d a : BitVec 6) (s : State) : Out := s.scalar1 d a reverseBits
/-- SSEXT.b8 (R93). -/
def execSsextB8 (d a : BitVec 6) (s : State) : Out := s.scalar1 d a (fun x => (x.extractLsb' 0 8).signExtend 64)
/-- SSEXT.b16 (R93). -/
def execSsextB16 (d a : BitVec 6) (s : State) : Out := s.scalar1 d a (fun x => (x.extractLsb' 0 16).signExtend 64)
/-- SSEXT.b32 (R93). -/
def execSsextB32 (d a : BitVec 6) (s : State) : Out := s.scalar1 d a (fun x => (x.extractLsb' 0 32).signExtend 64)
/-- SZEXT.b8 (R93). -/
def execSzextB8 (d a : BitVec 6) (s : State) : Out := s.scalar1 d a (fun x => (x.extractLsb' 0 8).zeroExtend 64)
/-- SZEXT.b16 (R93). -/
def execSzextB16 (d a : BitVec 6) (s : State) : Out := s.scalar1 d a (fun x => (x.extractLsb' 0 16).zeroExtend 64)
/-- SZEXT.b32 (R93). -/
def execSzextB32 (d a : BitVec 6) (s : State) : Out := s.scalar1 d a (fun x => (x.extractLsb' 0 32).zeroExtend 64)
/-- SSEL (R93). -/
def execSsel (d a b : BitVec 6) (k : BitVec 2) (s : State) : Out :=
  .next ((s.putS d (if s.getK k then s.getS a else s.getS b)).done 1
    [Loc.cond, Loc.scalar a.toNat, Loc.scalar b.toNat] [Dest.scalar d.toNat (s.getS d)])
/-- SMOV (R93). -/
def execSmov (d a : BitVec 6) (s : State) : Out := s.scalar1 d a id
/-- SCMP (R95). -/
def execScmp (k : BitVec 2) (a b : BitVec 6) (c : BitVec 3) (s : State) : Out :=
  s.scalarCmp k [a, b] (intCond c (s.getS a) (s.getS b))
/-- SLEA (R93); it may begin an address-load (R87). -/
def execSlea (d a b : BitVec 6) (h : BitVec 3) (s : State) : Out :=
  .next ((s.scalar 1 d [a, b] (s.getS a + s.getS b <<< h.toNat)).fusing (.lea d))
/-- SADDI (R96). -/
def execSaddi (d : BitVec 6) (i : BitVec 16) (s : State) : Out := s.scalarI d (· + s.imm64 i)
/-- SANDI (R96). -/
def execSandi (d : BitVec 6) (i : BitVec 16) (s : State) : Out := s.scalarI d (· &&& s.imm64 i)
/-- SORI (R96). -/
def execSori (d : BitVec 6) (i : BitVec 16) (s : State) : Out := s.scalarI d (· ||| s.imm64 i)
/-- SXORI (R96). -/
def execSxori (d : BitVec 6) (i : BitVec 16) (s : State) : Out := s.scalarI d (· ^^^ s.imm64 i)
/-- SSHLI (R96): the amount is imm16 modulo 64. -/
def execSshli (d : BitVec 6) (i : BitVec 16) (s : State) : Out := s.scalarI d (· <<< (i.toNat % 64))
/-- SSHRI (R96). -/
def execSshri (d : BitVec 6) (i : BitVec 16) (s : State) : Out := s.scalarI d (· >>> (i.toNat % 64))
/-- SSRAI (R96). -/
def execSsrai (d : BitVec 6) (i : BitVec 16) (s : State) : Out := s.scalarI d (·.sshiftRight (i.toNat % 64))
/-- SCMPI (R96, R97): flag kn and scalar register sn have one number. -/
def execScmpi (n : BitVec 2) (c : BitVec 3) (i : BitVec 16) (s : State) : Out :=
  s.scalarCmp n [n.zeroExtend 6] (intCond c (s.getS (n.zeroExtend 6)) (s.imm64 i))
/-- SLI (R96). -/
def execSli (d : BitVec 6) (i : BitVec 16) (s : State) : Out := .next (s.scalar 1 d [] (s.imm64 i))
/-- SLIH (R96). -/
def execSlih (d : BitVec 6) (i : BitVec 16) (s : State) : Out :=
  s.scalarI d (fun x => (x <<< 16) ||| i.zeroExtend 64)

/-- Every chain-unit word issued earlier has finished (R21): flights of closed runs complete, their HEND flags too. -/
def State.settleHend (s : State) : State :=
  let g := s.cur
  let flags := orFlags (g.hend.map (fun h => orFlags ((h.flight.filter (fun w => !w.done)).map (fun w => orFlags w.flags))))
  let regs := g.hend.foldl (fun (r : Regs) h => r.unbindFlag h.flag) { g.regs with fstat := g.regs.fstat ||| flags }
  { s with cur := { g with regs := regs, hend := [] } }

/-- The value of the register that selector `e` names (R23, R24). -/
def State.special (s : State) (e : BitVec 8) : DWord :=
  let r := s.cur.regs
  let g := s.cur.id
  match e.toNat with
  | 0x00 => 0#60 ++ (if r.ftz then 1#1 else 0#1) ++ r.roundMode
  | 0x01 => r.fstat.zeroExtend 64
  | 0x02 => r.fmask.zeroExtend 64
  | 0x03 => s.cur.frag.exec.zeroExtend 64
  | 0x04 => 0#56 ++ r.window ++ 0#3
  | 0x05 => r.k.zeroExtend 64
  | 0x06 => r.fflg.zeroExtend 64
  | 0x10 => 32#64
  | 0x11 => BitVec.ofNat 64 g.grp
  | 0x12 => BitVec.ofNat 64 g.team
  | 0x13 => BitVec.ofNat 64 g.clu
  | 0x14 => BitVec.ofNat 64 (g.grid % 2 ^ 48)
  | 0x15 => BitVec.ofNat 64 g.core
  | 0x16 => BitVec.ofNat 64 (g.core / 256)
  | 0x17 => s.node.zeroExtend 64
  | _ => s.time

/-- The registers after an SWR of `x` (R98): each keeps what its map accepts. -/
def State.putSpecial (s : State) (e : BitVec 8) (x : DWord) : State :=
  let r := s.cur.regs
  match e.toNat with
  | 0x00 => s.setRegs { r with ftz := x.getLsbD 3,
                               roundMode := if x.extractLsb' 0 3 ≤ 4#3 then x.extractLsb' 0 3 else r.roundMode }
  | 0x01 => s.setRegs { r with fstat := x.extractLsb' 0 8 }
  | 0x03 => s.setFrag { s.cur.frag with exec := x.extractLsb' 0 32 &&& s.cur.frag.member }
  | 0x04 => s.setRegs { r with window := x.extractLsb' 3 5 }
  | 0x05 => s.setRegs { r with k := x.extractLsb' 0 4 }
  | _ => s

/-- SRD (R98); a read of FSTAT follows every earlier chain-unit word (R21). -/
def execSrd (d : BitVec 6) (e : BitVec 8) (s : State) : Out :=
  let t := if e = 0x01#8 then s.settleHend else s
  .next ((t.putS d (t.special e)).advance)

/-- SWR (R98). -/
def execSwr (d : BitVec 6) (e : BitVec 8) (s : State) : Out :=
  let t := if e = 0x01#8 then s.settleHend else s
  .next ((t.putSpecial e (s.getS d)).advance)

end Sys2Proof.Machine
end

