-- ==== Sys2Proof/Machine/Vector.lean ====
section
/-! DEFINITION. Vector instructions of majors 5 to 9 (R110 to R125). -/

namespace Sys2Proof.Machine

/-- An outcome as a lane's word. -/
def lane32 (o : FOut) : Word × Flags := (BitVec.ofNat 32 o.1, o.2)

/-- An integer result: no flag (R119). -/
def laneInt (x : Word) : Word × Flags := (x, 0#8)

/-- Timing of an FP32 stream with online delay `d` (R74, R75). -/
def f32Time (d : Nat) : Timing := .stream d digitsF32

/-- The product that the word takes as the second of a fused multiply-add of type `ty` (R87); none outside one. -/
def State.fusedProduct (s : State) (ty : Nat) (a b : BitVec 7) : Option Loc :=
  if s.cur.frag.hint.isNone && s.cur.frag.fuse == .mul ty a then (s.ref a.toNat).map Loc.vec
  else if s.cur.frag.hint.isNone && s.cur.frag.fuse == .mul ty b then (s.ref b.toNat).map Loc.vec
  else none

/-- Does the HMOD of the word carry cut (R83)? -/
def State.cutting (s : State) : Bool := (s.hmod.map (·.cut)).getD false

/-- Lanes not decided by equality, and the operand returned in each, for a word that returns one of its operands (R83 to
R85). `pick` gives, for the lane's source words, whether equality decides and the place of what is returned. -/
def State.decideOperands (s : State) (srcs : List RegRef) (pick : List Word → Bool × Nat) : Option Decision :=
  if !s.cutting then none
  else
    let vals := srcs.map s.getRef
    let outs := (List.range 32).map (fun l => pick (vals.map (fun x => laneOf x l)))
    some { lanes := s.active &&& mkMask (fun l => !(outs.getD l (true, 0)).1), returned := outs.map (fun o => some o.2) }

/-- Index of the operand that Min (`lt` = numLtTotal) or Max returns, and whether equality decides (R84, R114). -/
def pickOf (isMax : Bool) (ftz : Bool) (a b : Word) : Bool × Nat :=
  let x := unpackIn ftz .fp32 a.toNat
  let y := unpackIn ftz .fp32 b.toNat
  if numIsNan x then (false, 0)
  else if numIsNan y then (false, 1)
  else (numEq x y, if (if isMax then numLtTotal x y else numLtTotal y x) then 1 else 0)

/-- As `pickOf` for VCLAMP with sources a, b, d (R114). -/
def pickClamp (ftz : Bool) (a b d : Word) : Bool × Nat :=
  let x := unpackIn ftz .fp32 a.toNat
  let y := unpackIn ftz .fp32 b.toNat
  let z := unpackIn ftz .fp32 d.toNat
  if numIsNan x then (false, 0)
  else if numIsNan y then (false, 1)
  else if numIsNan z then (false, 2)
  else
    let inner := if numLtTotal z x then x else z
    if numLtTotal y inner then (numEq y inner, 1)
    else (numEq z x || numEq y inner, if numLtTotal z x then 0 else 2)


/-- VADD.f32 (R113). -/
def execVadd (d a b : BitVec 7) (s : State) : Out :=
  let j := s.fusedProduct 0 a b
  let t := s.vec2 (f32Time 2) j d a b (fun x y => lane32 (fAdd .fp32 s.fenv x.toNat y.toNat))
  .next (if j.isSome then t.fusing (.mulAdd d) else t)

/-- VSUB.f32 (R113). -/
def execVsub (d a b : BitVec 7) (s : State) : Out :=
  let j := s.fusedProduct 0 a b
  let t := s.vec2 (f32Time 2) j d a b (fun x y => lane32 (fSub .fp32 s.fenv x.toNat y.toNat))
  .next (if j.isSome then t.fusing (.mulAdd d) else t)

/-- VMUL.f32 (R113); it may begin a fused multiply-add (R87). -/
def execVmul (d a b : BitVec 7) (s : State) : Out :=
  .next ((s.vec2 (f32Time 3) none d a b (fun x y => lane32 (fMul .fp32 s.fenv x.toNat y.toNat))).fusing (.mul 0 d))

/-- VFMA.f32 (R113). -/
def execVfma (d a b : BitVec 7) (s : State) : Out :=
  .next (s.vec3 (f32Time 3) d a b (fun x y z => lane32 (fFma .fp32 s.fenv false false x.toNat y.toNat z.toNat)))

/-- VFMS.f32 (R113). -/
def execVfms (d a b : BitVec 7) (s : State) : Out :=
  .next (s.vec3 (f32Time 3) d a b (fun x y z => lane32 (fFma .fp32 s.fenv false true x.toNat y.toNat z.toNat)))

/-- VFNMA.f32 (R113). -/
def execVfnma (d a b : BitVec 7) (s : State) : Out :=
  .next (s.vec3 (f32Time 3) d a b (fun x y z => lane32 (fFma .fp32 s.fenv true false x.toNat y.toNat z.toNat)))

/-- VFNMS.f32 (R113). -/
def execVfnms (d a b : BitVec 7) (s : State) : Out :=
  .next (s.vec3 (f32Time 3) d a b (fun x y z => lane32 (fFma .fp32 s.fenv true true x.toNat y.toNat z.toNat)))

/-- VDIV.f32 (R113). -/
def execVdiv (d a b : BitVec 7) (s : State) : Out :=
  .next (s.vec2 (f32Time 4) none d a b (fun x y => lane32 (fDiv .fp32 s.fenv x.toNat y.toNat)))

/-- VMIN.f32 (R114); with cut it decides early (R83). -/
def execVmin (d a b : BitVec 7) (s : State) : Out :=
  .next (s.withRefs [d, a, b] (fun rs =>
    s.vector (f32Time 2) none (rs.drop 1) (rs.take 1) []
      (fun _ xs => let o := lane32 (fMin .fp32 s.fenv (xs.getD 0 0#32).toNat (xs.getD 1 0#32).toNat); ([o.1], o.2))
      (s.decideOperands (rs.drop 1) (fun xs => pickOf false s.cur.regs.ftz (xs.getD 0 0#32) (xs.getD 1 0#32)))))

/-- VMAX.f32 (R114); with cut it decides early (R83). -/
def execVmax (d a b : BitVec 7) (s : State) : Out :=
  .next (s.withRefs [d, a, b] (fun rs =>
    s.vector (f32Time 2) none (rs.drop 1) (rs.take 1) []
      (fun _ xs => let o := lane32 (fMax .fp32 s.fenv (xs.getD 0 0#32).toNat (xs.getD 1 0#32).toNat); ([o.1], o.2))
      (s.decideOperands (rs.drop 1) (fun xs => pickOf true s.cur.regs.ftz (xs.getD 0 0#32) (xs.getD 1 0#32)))))

/-- VCLAMP.f32 (R114); with cut it decides early (R83). -/
def execVclamp (d a b : BitVec 7) (s : State) : Out :=
  .next (s.withRefs [d, a, b] (fun rs =>
    s.vector (f32Time 2) none (rs.drop 1 ++ rs.take 1) (rs.take 1) []
      (fun _ xs => let o := lane32 (fClamp .fp32 s.fenv (xs.getD 0 0#32).toNat (xs.getD 1 0#32).toNat (xs.getD 2 0#32).toNat)
                   ([o.1], o.2))
      (s.decideOperands (rs.drop 1 ++ rs.take 1)
        (fun xs => pickClamp s.cur.regs.ftz (xs.getD 0 0#32) (xs.getD 1 0#32) (xs.getD 2 0#32)))))

/-- VSCALE.f32 (R113). -/
def execVscale (d a b : BitVec 7) (s : State) : Out :=
  .next (s.vec2 (f32Time 0) none d a b (fun x y => lane32 (fScale s.fenv x.toNat y.toInt)))

/-- A floating-point compare of the active lanes into predicate p (R115). Equality of the operands decides a lane of every
condition but un and ord, which rest on NaNs alone (R84); two infinities of one sign count as decided by equality (log 106). -/
def State.fcmp (s : State) (p : BitVec 3) (a b : BitVec 7) (c : BitVec 3) (early : Bool) : State :=
  s.withRefs [a, b] (fun rs =>
    let va := s.getRef (rs.getD 0 (.reg 0))
    let vb := s.getRef (rs.getD 1 (.reg 0))
    let eqLane (l : Nat) : Bool :=
      decide (c.toNat < 6) &&
        numEq (unpackIn s.cur.regs.ftz .fp32 (laneOf va l).toNat) (unpackIn s.cur.regs.ftz .fp32 (laneOf vb l).toNat)
    let dec : Option Decision := if early then
      some { lanes := s.active &&& mkMask (fun l => !eqLane l), returned := [] } else none
    (s.vectorPred (f32Time 2) rs p
      (fun xs => fCompare s.cur.regs.ftz c.toNat (xs.getD 0 0#32).toNat (xs.getD 1 0#32).toNat) dec).fusing (.cmp p))

/-- VCMP.f32 (R115); it may begin a compare-select (R87). -/
def execVcmp (p : BitVec 3) (a b : BitVec 7) (c : BitVec 3) (s : State) : Out :=
  .next (s.fcmp p a b c false)

/-- VCMPC.f32 (R115); it decides early (R83). -/
def execVcmpc (p : BitVec 3) (a b : BitVec 7) (c : BitVec 3) (s : State) : Out :=
  .next (s.fcmp p a b c true)

/-- VSEL.b32 (R116). -/
def execVsel (d a b : BitVec 7) (n : BitVec 3) (s : State) : Out :=
  .next (s.withRefs [d, a, b] (fun rs =>
    s.vector (f32Time 0) (if s.cur.frag.hint.isNone && s.cur.frag.fuse == .cmp n then some (.pred n.toNat) else none) (rs.drop 1) (rs.take 1) [Loc.pred n.toNat]
      (fun l xs => ([if (s.getP n).getLsbD l then xs.getD 0 0#32 else xs.getD 1 0#32], 0#8)) none))

/-- Element format of a pair (R117). -/
def pairFmt (t : BitVec 2) : Fmt :=
  match t.toNat with
  | 0 => .bf16
  | 1 => .fp16
  | 2 => .e4m3
  | _ => .e5m2

/-- Digits of an element's stream (R74). -/
def pairDigits (t : BitVec 2) : Nat :=
  match t.toNat with
  | 0 => 6
  | 1 => 8
  | _ => 4

/-- Element `i` of a lane (R110). -/
def elemOf (t : BitVec 2) (x : Word) (i : Nat) : Nat :=
  if t.toNat ≤ 1 then (x.extractLsb' (16 * i) 16).toNat else (x.extractLsb' (8 * i) 8).toNat

/-- A lane from its two elements: FP8 pairs leave bits 31:16 zero (R110). -/
def pairWord (t : BitVec 2) (e0 e1 : FOut) : Word × Flags :=
  (if t.toNat ≤ 1 then BitVec.ofNat 16 e1.1 ++ BitVec.ofNat 16 e0.1
   else 0#16 ++ BitVec.ofNat 8 e1.1 ++ BitVec.ofNat 8 e0.1, e0.2 ||| e1.2)

/-- Each of the two elements by `f` (R117). -/
def pair2 (t : BitVec 2) (f : Nat → Nat → FOut) (x y : Word) : Word × Flags :=
  pairWord t (f (elemOf t x 0) (elemOf t y 0)) (f (elemOf t x 1) (elemOf t y 1))

def pair3 (t : BitVec 2) (f : Nat → Nat → Nat → FOut) (x y z : Word) : Word × Flags :=
  pairWord t (f (elemOf t x 0) (elemOf t y 0) (elemOf t z 0)) (f (elemOf t x 1) (elemOf t y 1) (elemOf t z 1))

def pairTime (delta : Nat) (t : BitVec 2) : Timing := .stream delta (pairDigits t)


/-- VADD of a packed pair (R117). -/
def execVaddPair (d a b : BitVec 7) (t : BitVec 2) (s : State) : Out :=
  let j := s.fusedProduct (t.toNat + 1) a b
  let u := s.vec2 (pairTime 2 t) j d a b (pair2 t (fAdd (pairFmt t) s.fenv))
  .next (if j.isSome then u.fusing (.mulAdd d) else u)

/-- VSUB of a packed pair (R117). -/
def execVsubPair (d a b : BitVec 7) (t : BitVec 2) (s : State) : Out :=
  let j := s.fusedProduct (t.toNat + 1) a b
  let u := s.vec2 (pairTime 2 t) j d a b (pair2 t (fSub (pairFmt t) s.fenv))
  .next (if j.isSome then u.fusing (.mulAdd d) else u)

/-- VMUL of a packed pair (R117); it may begin a fused multiply-add (R87). -/
def execVmulPair (d a b : BitVec 7) (t : BitVec 2) (s : State) : Out :=
  .next ((s.vec2 (pairTime 3 t) none d a b (pair2 t (fMul (pairFmt t) s.fenv))).fusing (.mul (t.toNat + 1) d))

/-- VFMA of a packed pair (R117). -/
def execVfmaPair (d a b : BitVec 7) (t : BitVec 2) (s : State) : Out :=
  .next (s.vec3 (pairTime 3 t) d a b (pair3 t (fFma (pairFmt t) s.fenv false false)))

/-- VFMS of a packed pair (R117). -/
def execVfmsPair (d a b : BitVec 7) (t : BitVec 2) (s : State) : Out :=
  .next (s.vec3 (pairTime 3 t) d a b (pair3 t (fFma (pairFmt t) s.fenv false true)))

/-- VFNMA of a packed pair (R117). -/
def execVfnmaPair (d a b : BitVec 7) (t : BitVec 2) (s : State) : Out :=
  .next (s.vec3 (pairTime 3 t) d a b (pair3 t (fFma (pairFmt t) s.fenv true false)))

/-- VFNMS of a packed pair (R117). -/
def execVfnmsPair (d a b : BitVec 7) (t : BitVec 2) (s : State) : Out :=
  .next (s.vec3 (pairTime 3 t) d a b (pair3 t (fFma (pairFmt t) s.fenv true true)))

/-- VMIN of a packed pair (R117). -/
def execVminPair (d a b : BitVec 7) (t : BitVec 2) (s : State) : Out :=
  .next (s.vec2 (pairTime 2 t) none d a b (pair2 t (fMin (pairFmt t) s.fenv)))

/-- VMAX of a packed pair (R117). -/
def execVmaxPair (d a b : BitVec 7) (t : BitVec 2) (s : State) : Out :=
  .next (s.vec2 (pairTime 2 t) none d a b (pair2 t (fMax (pairFmt t) s.fenv)))

/-- VCLAMP of a packed pair (R117). -/
def execVclampPair (d a b : BitVec 7) (t : BitVec 2) (s : State) : Out :=
  .next (s.vec3 (pairTime 2 t) d a b (pair3 t (fClamp (pairFmt t) s.fenv)))

/-- VDOT2 (R118). -/
def execVdot2 (d a b : BitVec 7) (t : BitVec 2) (s : State) : Out :=
  .next (s.vec3 (f32Time 3) d a b (fun x y z =>
    lane32 (fDot (pairFmt t) s.fenv [elemOf t x 0, elemOf t x 1] [elemOf t y 0, elemOf t y 1] z.toNat)))

/-- VDOT4 (R118): types 2 and 3 of R117. -/
def execVdot4 (d a b : BitVec 7) (t : BitVec 1) (s : State) : Out :=
  let u := 1#1 ++ t
  .next (s.vec3 (f32Time 3) d a b (fun x y z =>
    lane32 (fDot (pairFmt u) s.fenv ((List.range 4).map (elemOf u x)) ((List.range 4).map (elemOf u y)) z.toNat)))

/-- VIADD (R119). -/
def execViadd (d a b : BitVec 7) (s : State) : Out :=
  .next (s.vec2 (.fixed 2) none d a b (fun x y => laneInt (x + y)))

/-- VISUB (R119). -/
def execVisub (d a b : BitVec 7) (s : State) : Out :=
  .next (s.vec2 (.fixed 2) none d a b (fun x y => laneInt (x - y)))

/-- VIMUL (R119). -/
def execVimul (d a b : BitVec 7) (s : State) : Out :=
  .next (s.vec2 (.fixed 3) none d a b (fun x y => laneInt (x * y)))

/-- VIMULH.i32 (R119). -/
def execVimulhI32 (d a b : BitVec 7) (s : State) : Out :=
  .next (s.vec2 (.fixed 3) none d a b (fun x y => laneInt ((x.signExtend 64 * y.signExtend 64).extractLsb' 32 32)))

/-- VIMULH.n32 (R119). -/
def execVimulhN32 (d a b : BitVec 7) (s : State) : Out :=
  .next (s.vec2 (.fixed 3) none d a b (fun x y => laneInt ((x.zeroExtend 64 * y.zeroExtend 64).extractLsb' 32 32)))

/-- VIMAD (R119). -/
def execVimad (d a b : BitVec 7) (s : State) : Out :=
  .next (s.vec3 (.fixed 3) d a b (fun x y z => laneInt (x * y + z)))

/-- VIMIN (R119). -/
def execVimin (d a b : BitVec 7) (s : State) : Out :=
  .next (s.vec2 (.fixed 2) none d a b (fun x y => laneInt (sMin x y)))

/-- VIMAX (R119). -/
def execVimax (d a b : BitVec 7) (s : State) : Out :=
  .next (s.vec2 (.fixed 2) none d a b (fun x y => laneInt (sMax x y)))

/-- VIMINN (R119). -/
def execViminn (d a b : BitVec 7) (s : State) : Out :=
  .next (s.vec2 (.fixed 2) none d a b (fun x y => laneInt (nMin x y)))

/-- VIMAXN (R119). -/
def execVimaxn (d a b : BitVec 7) (s : State) : Out :=
  .next (s.vec2 (.fixed 2) none d a b (fun x y => laneInt (nMax x y)))

/-- VIABS (R119). -/
def execViabs (d a : BitVec 7) (s : State) : Out :=
  .next (s.vec1 (.fixed 2) d a (fun x => laneInt (if x.slt 0#32 then -x else x)))

/-- VIAND (R119). -/
def execViand (d a b : BitVec 7) (s : State) : Out :=
  .next (s.vec2 (.fixed 2) none d a b (fun x y => laneInt (x &&& y)))

/-- VIOR (R119). -/
def execVior (d a b : BitVec 7) (s : State) : Out :=
  .next (s.vec2 (.fixed 2) none d a b (fun x y => laneInt (x ||| y)))

/-- VIXOR (R119). -/
def execVixor (d a b : BitVec 7) (s : State) : Out :=
  .next (s.vec2 (.fixed 2) none d a b (fun x y => laneInt (x ^^^ y)))

/-- VIANDN (R119). -/
def execViandn (d a b : BitVec 7) (s : State) : Out :=
  .next (s.vec2 (.fixed 2) none d a b (fun x y => laneInt (x &&& ~~~y)))

/-- VISHL (R119). -/
def execVishl (d a b : BitVec 7) (s : State) : Out :=
  .next (s.vec2 (.fixed 2) none d a b (fun x y => laneInt (x <<< (y.toNat % 32))))

/-- VISHR (R119). -/
def execVishr (d a b : BitVec 7) (s : State) : Out :=
  .next (s.vec2 (.fixed 2) none d a b (fun x y => laneInt (x >>> (y.toNat % 32))))

/-- VISRA (R119). -/
def execVisra (d a b : BitVec 7) (s : State) : Out :=
  .next (s.vec2 (.fixed 2) none d a b (fun x y => laneInt (x.sshiftRight (y.toNat % 32))))

/-- VPOP (R119). -/
def execVpop (d a : BitVec 7) (s : State) : Out :=
  .next (s.vec1 (.fixed 2) d a (fun x => laneInt (BitVec.ofNat 32 (onesOf x))))

/-- VCLZ (R119). -/
def execVclz (d a : BitVec 7) (s : State) : Out :=
  .next (s.vec1 (.fixed 2) d a (fun x => laneInt (BitVec.ofNat 32 (leadingZeros x))))

/-- Position and width of the field that B names (R120). -/
def fieldOf (y : Word) : Nat × Nat :=
  let pos := y.toNat % 32
  let len := (y.extractLsb' 8 6).toNat
  (pos, min len (32 - pos))

/-- VBFE's result (R120). -/
def bitExtract (x y : Word) : Word :=
  let f := fieldOf y
  (x >>> f.1) &&& BitVec.ofNat 32 (2 ^ f.2 - 1)

/-- VBFI's result (R120). -/
def bitInsert (x y z : Word) : Word :=
  let f := fieldOf y
  let m : Word := BitVec.ofNat 32 (2 ^ f.2 - 1) <<< f.1
  (z &&& ~~~m) ||| ((x <<< f.1) &&& m)

/-- Byte that a selector nibble of VPRM names (R120). -/
def permByte (x y : Word) (sel : Nat) : BitVec 8 :=
  if sel < 4 then x.extractLsb' (8 * sel) 8 else if sel < 8 then y.extractLsb' (8 * (sel - 4)) 8 else 0#8

/-- VPRM's result (R120). -/
def bytePermute (x y z : Word) : Word :=
  let b (i : Nat) : BitVec 8 := permByte x y (z.extractLsb' (4 * i) 4).toNat
  b 3 ++ b 2 ++ b 1 ++ b 0


/-- VBFE (R120). -/
def execVbfe (d a b : BitVec 7) (s : State) : Out :=
  .next (s.vec2 (.fixed 2) none d a b (fun x y => laneInt (bitExtract x y)))

/-- VBFI (R120). -/
def execVbfi (d a b : BitVec 7) (s : State) : Out :=
  .next (s.vec3 (.fixed 2) d a b (fun x y z => laneInt (bitInsert x y z)))

/-- VPRM (R120). -/
def execVprm (d a b : BitVec 7) (s : State) : Out :=
  .next (s.vec3 (.fixed 2) d a b (fun x y z => laneInt (bytePermute x y z)))

/-- VICMP (R121). -/
def execVicmp (p : BitVec 3) (a b : BitVec 7) (c : BitVec 3) (s : State) : Out :=
  .next (s.withRefs [a, b] (fun rs =>
    s.vectorPred (.fixed 2) rs p (fun xs => (intCond c (xs.getD 0 0#32) (xs.getD 1 0#32), 0#8)) none))

/-- VADD.f32 with an immediate (R122). -/
def execVaddImm (d : BitVec 7) (i : BitVec 16) (s : State) : Out :=
  .next (s.vecI (f32Time 2) none d (fun x => lane32 (fAdd .fp32 s.fenv x.toNat (s.immF32 i).toNat)) (fun _ => none))

/-- VMUL.f32 with an immediate (R122). -/
def execVmulImm (d : BitVec 7) (i : BitVec 16) (s : State) : Out :=
  .next (s.vecI (f32Time 3) none d (fun x => lane32 (fMul .fp32 s.fenv x.toNat (s.immF32 i).toNat)) (fun _ => none))

/-- VMIN.f32 with an immediate (R122). -/
def execVminImm (d : BitVec 7) (i : BitVec 16) (s : State) : Out :=
  .next (s.vecI (f32Time 2) none d (fun x => lane32 (fMin .fp32 s.fenv x.toNat (s.immF32 i).toNat))
    (fun rs => s.decideOperands rs (fun xs => pickOf false s.cur.regs.ftz (xs.getD 0 0#32) (s.immF32 i))))

/-- VMAX.f32 with an immediate (R122); it may end a fused multiply-add-clamp (R87). -/
def execVmaxImm (d : BitVec 7) (i : BitVec 16) (s : State) : Out :=
  .next (s.vecI (f32Time 2) (if s.cur.frag.hint.isNone && i == 0#16 && s.cur.frag.fuse == .mulAdd d then (s.ref d.toNat).map .vec else none) d
    (fun x => lane32 (fMax .fp32 s.fenv x.toNat (s.immF32 i).toNat))
    (fun rs => s.decideOperands rs (fun xs => pickOf true s.cur.regs.ftz (xs.getD 0 0#32) (s.immF32 i))))

/-- VIADD with an immediate (R122). -/
def execViaddImm (d : BitVec 7) (i : BitVec 16) (s : State) : Out :=
  .next (s.vecI (.fixed 2) none d (fun x => laneInt (x + s.imm32 i)) (fun _ => none))

/-- VIAND with an immediate (R122). -/
def execViandImm (d : BitVec 7) (i : BitVec 16) (s : State) : Out :=
  .next (s.vecI (.fixed 2) none d (fun x => laneInt (x &&& s.imm32 i)) (fun _ => none))

/-- VIOR with an immediate (R122). -/
def execViorImm (d : BitVec 7) (i : BitVec 16) (s : State) : Out :=
  .next (s.vecI (.fixed 2) none d (fun x => laneInt (x ||| s.imm32 i)) (fun _ => none))

/-- VIXOR with an immediate (R122). -/
def execVixorImm (d : BitVec 7) (i : BitVec 16) (s : State) : Out :=
  .next (s.vecI (.fixed 2) none d (fun x => laneInt (x ^^^ s.imm32 i)) (fun _ => none))

/-- VISHL with an immediate (R122). -/
def execVishlImm (d : BitVec 7) (i : BitVec 16) (s : State) : Out :=
  .next (s.vecI (.fixed 2) none d (fun x => laneInt (x <<< (i.toNat % 32))) (fun _ => none))

/-- VISHR with an immediate (R122). -/
def execVishrImm (d : BitVec 7) (i : BitVec 16) (s : State) : Out :=
  .next (s.vecI (.fixed 2) none d (fun x => laneInt (x >>> (i.toNat % 32))) (fun _ => none))

/-- VISRA with an immediate (R122). -/
def execVisraImm (d : BitVec 7) (i : BitVec 16) (s : State) : Out :=
  .next (s.vecI (.fixed 2) none d (fun x => laneInt (x.sshiftRight (i.toNat % 32))) (fun _ => none))

/-- A word that writes one bit pattern into every active lane (R122, R124). -/
def State.vecSet (s : State) (tm : Timing) (d : BitVec 7) (srcs : List Loc) (f : Nat → Word) : State :=
  s.withRefs [d] (fun rs => s.vector tm none [] rs srcs (fun l _ => ([f l], 0#8)) none)


/-- VMOVI.f32 (R122). -/
def execVmoviF32 (d : BitVec 7) (i : BitVec 16) (s : State) : Out :=
  .next (s.vecSet (.fixed 1) d [] (fun _ => s.immF32 i))

/-- VMOVI.b32 (R122). -/
def execVmoviB32 (d : BitVec 7) (i : BitVec 16) (s : State) : Out :=
  .next (s.vecSet (.fixed 1) d [] (fun _ => s.imm32 i))

/-- VMOVI.f16x2 (R122). -/
def execVmoviF16x2 (d : BitVec 7) (i : BitVec 16) (s : State) : Out :=
  .next (s.vecSet (.fixed 1) d [] (fun _ => i ++ i))

/-- VMOVI.f8e4x2 (R122). -/
def execVmoviF8e4x2 (d : BitVec 7) (i : BitVec 16) (s : State) : Out :=
  .next (s.vecSet (.fixed 1) d [] (fun _ => i ++ i))

/-- VMOVI.f8e5x2 (R122). -/
def execVmoviF8e5x2 (d : BitVec 7) (i : BitVec 16) (s : State) : Out :=
  .next (s.vecSet (.fixed 1) d [] (fun _ => i ++ i))

/-- VSQRT.f32 (R123). -/
def execVsqrt (d a : BitVec 7) (s : State) : Out :=
  .next (s.vec1 (f32Time 4) d a (fun x => lane32 (fSqrt s.fenv x.toNat)))

/-- VRSQ.f32 (R123). -/
def execVrsq (d a : BitVec 7) (s : State) : Out :=
  .next (s.vec1 (f32Time 5) d a (fun x => lane32 (fRsq s.fenv x.toNat)))

/-- VRCP.f32 (R123). -/
def execVrcp (d a : BitVec 7) (s : State) : Out :=
  .next (s.vec1 (f32Time 4) d a (fun x => lane32 (fRcp s.fenv x.toNat)))

/-- VABS.f32 (R123). -/
def execVabs (d a : BitVec 7) (s : State) : Out :=
  .next (s.vec1 (f32Time 2) d a (fun x => laneInt (x &&& 0x7FFFFFFF#32)))

/-- VNEG.f32 (R123). -/
def execVneg (d a : BitVec 7) (s : State) : Out :=
  .next (s.vec1 (f32Time 0) d a (fun x => laneInt (x ^^^ 0x80000000#32)))

/-- VEXP2.f32 (R123). -/
def execVexp2 (d a : BitVec 7) (s : State) : Out :=
  .next (s.vec1 (f32Time 5) d a (fun x => lane32 (fExp2 s.fenv x.toNat)))

/-- VLOG2.f32 (R123). -/
def execVlog2 (d a : BitVec 7) (s : State) : Out :=
  .next (s.vec1 (f32Time 5) d a (fun x => lane32 (fLog2 s.fenv x.toNat)))

/-- VSINP.f32 (R123). -/
def execVsinp (d a : BitVec 7) (s : State) : Out :=
  .next (s.vec1 (f32Time 5) d a (fun x => lane32 (fSinPi s.fenv x.toNat)))

/-- VCOSP.f32 (R123). -/
def execVcosp (d a : BitVec 7) (s : State) : Out :=
  .next (s.vec1 (f32Time 5) d a (fun x => lane32 (fCosPi s.fenv x.toNat)))

/-- VTANH.f32 (R123). -/
def execVtanh (d a : BitVec 7) (s : State) : Out :=
  .next (s.vec1 (f32Time 5) d a (fun x => lane32 (fTanh s.fenv x.toNat)))

/-- VRND.f32 (R123). -/
def execVrnd (d a : BitVec 7) (s : State) : Out :=
  .next (s.vec1 (.fixed 8) d a (fun x => lane32 (fRnd s.fenv x.toNat)))

/-- VGETEXP.f32 (R123). -/
def execVgetexp (d a : BitVec 7) (s : State) : Out :=
  .next (s.vec1 (.fixed 8) d a (fun x => lane32 (fGetExp s.fenv x.toNat)))

/-- VGETMAN.f32 (R123). -/
def execVgetman (d a : BitVec 7) (s : State) : Out :=
  .next (s.vec1 (.fixed 8) d a (fun x => lane32 (fGetMan s.fenv x.toNat)))

/-! ## Conversions (R125) -/

/-- A type of R41. -/
inductive CvtType where
  | float (f : Fmt)
  | int (n : Nat) (signed : Bool)
  deriving DecidableEq, Repr

/-- The VCVT type codes of R41. -/
def cvtType (t : BitVec 4) : CvtType :=
  match t.toNat with
  | 0 => .float .fp32
  | 1 => .float .bf16
  | 2 => .float .fp16
  | 3 => .float .e4m3
  | 4 => .float .e5m2
  | 5 => .float .t8
  | 6 => .float .t6
  | 7 => .float .fp4
  | 8 => .int 8 true
  | 9 => .int 16 true
  | 10 => .int 32 true
  | 11 => .int 64 true
  | 12 => .int 8 false
  | 13 => .int 16 false
  | 14 => .int 32 false
  | _ => .int 64 false

/-- Registers of an element (R110). -/
def cvtRegs : CvtType → Nat
  | .int 64 _ => 2
  | _ => 1

/-- The source element as an integer (R110, R66). -/
def intElem (n : Nat) (signed : Bool) (xs : List Word) : Int :=
  let raw : Nat := ((xs.getD 1 0#32).toNat * 2 ^ 32 + (xs.getD 0 0#32).toNat) % 2 ^ n
  if signed && decide (2 ^ (n - 1) ≤ raw) then (raw : Int) - 2 ^ n else raw

/-- The destination words of an integer element: sign- or zero-extended (R110). -/
def intWords (n : Nat) (v : Int) : List Word :=
  if n = 64 then [BitVec.ofInt 32 v, BitVec.ofInt 32 (v / 2 ^ 32)] else [BitVec.ofInt 32 v]

/-- One lane of VCVT (R66 to R69, R125). -/
def convert (src dst : CvtType) (env : FEnv) (bp : Nat) (xs : List Word) : LaneOut :=
  match src, dst with
  | .float f, .float g =>
    let o := fConvert f g env ((xs.getD 0 0#32).toNat % 2 ^ fmtTotalBits f)
    ([BitVec.ofNat 32 o.1], o.2)
  | .float f, .int n sg =>
    let o := floatToInt f env n sg bp ((xs.getD 0 0#32).toNat % 2 ^ fmtTotalBits f)
    (intWords n o.1, o.2)
  | .int n sg, .float g =>
    let o := intToFloat g env (intElem n sg xs)
    ([BitVec.ofNat 32 o.1], o.2)
  | .int n sg, .int m sh => (intWords m (intToInt m sh env.sat (intElem n sg xs)), 0#8)

/-- Timing of a conversion (R75, R77). -/
def cvtTime (src dst : CvtType) : Timing :=
  match src, dst with
  | .float _, .float .fp32 => .stream 2 14
  | .float _, .float .fp16 => .stream 2 8
  | .float _, .float .bf16 => .stream 2 6
  | .float _, .float .e4m3 => .stream 2 4
  | .float _, .float .e5m2 => .stream 2 4
  | _, _ => .fixed 8

/-- The cause detail of a register-bound fault for an operand of `k` registers (R315 class 2). -/
def boundDetail (k : Nat) : Nat := if k = 1 then 0 else 1

/-- VCVT (R125). -/
def execVcvt (d a : BitVec 7) (y x : BitVec 4) (s : State) : Out :=
  let src := cvtType x
  let dst := cvtType y
  let p := s.himm.getD 0#25
  let env : FEnv := { mode := s.mode, ftz := s.cur.regs.ftz, sat := p.getLsbD 0 }
  let bp := (p.extractLsb' 1 6).toNat
  .next (
    if s.straddles d.toNat (cvtRegs dst) || s.straddles a.toNat (cvtRegs src) then s.trap0 0 3
    else match s.refs d.toNat (cvtRegs dst), s.refs a.toNat (cvtRegs src) with
      | some ds, some as => s.vector (cvtTime src dst) none as ds [] (fun _ xs => convert src dst env bp xs) none
      | none, _ => s.trap0 2 (boundDetail (cvtRegs dst))
      | _, none => s.trap0 2 (boundDetail (cvtRegs src)))

/-- VMOV (R124). -/
def execVmov (d a : BitVec 7) (s : State) : Out := .next (s.vec1 (f32Time 0) d a laneInt)

/-- VMOV from LANE (R124). -/
def execVmovLane (d : BitVec 7) (s : State) : Out := .next (s.vecSet (f32Time 0) d [] (fun l => BitVec.ofNat 32 l))

/-- VMOVS (R124). -/
def execVmovs (d : BitVec 7) (n : BitVec 6) (s : State) : Out :=
  .next (s.vecSet (.fixed 1) d [Loc.scalar n.toNat] (fun _ => (s.getS n).extractLsb' 0 32))

end Sys2Proof.Machine
end

