-- ==== Sys2Proof/Machine/Access.lean ====
section
/-! DEFINITION. One lane-access word (R105 to R109, R179, R182, R313): addresses, watchpoints (R326 to R328), the pass over
the lanes, and the answers of peers. -/

namespace Sys2Proof.Machine

/-! ## Operands -/

/-- Does a block of `k` registers from field value `f` pass 127 (R107, R215)? -/
def blockLong (f k : Nat) : Bool := decide (127 < f + k - 1)

/-- A block of `k` data registers (R107, R13). -/
def State.withBlock (s : State) (d k : Nat) (go : List RegRef → State) : State :=
  if s.straddles d k then s.trap0 0 3
  else
    match s.refs d k with
    | some rs => go rs
    | none => s.trap0 2 (boundDetail k)

/-- Bytes of a width code of formats M and S (R36). -/
def widthBytes (w : Nat) : Nat := 2 ^ w

/-- Bytes of an xwidth code (R46). -/
def xwidthBytes (w : Nat) : Nat :=
  match w with
  | 0 => 4
  | 1 => 8
  | 2 => 16
  | 3 => 1
  | _ => 2

/-- Registers that hold `n` bytes (R106). -/
def regsFor (n : Nat) : Nat := max 1 (n / 4)

/-- The words of a datum, the least significant first (R6, R106). -/
def wordsOf (x : BitVec 128) (k : Nat) : List Word := (List.range k).map (fun i => x.extractLsb' (32 * i) 32)

/-- The datum of a block's words. -/
def ofWords (ws : List Word) : BitVec 128 :=
  ws.foldr (fun w x => (x <<< 32) ||| w.zeroExtend 128) 0#128

/-- Lane `l` of a block of registers as one datum. -/
def State.blockLane (s : State) (rs : List RegRef) (l : Nat) : BitVec 128 := ofWords (rs.map (fun r => laneOf (s.getRef r) l))

/-- Effective addresses of the active lanes (R105, R182): exact sums. -/
def State.laneAddrs (s : State) (base : BitVec 6) (idx : Option RegRef) : List (Nat × Nat) :=
  let b := (s.getS base).toNat + s.immAddr
  ((List.range 32).filter (fun l => s.active.getLsbD l)).map (fun l =>
    (l, b + (match idx with | some r => (laneOf (s.getRef r) l).toNat | none => 0)))

/-! ## Watchpoints -/

/-- Does a slot watch accesses of this code (R326, R327)? -/
def WatchSlot.sees (w : WatchSlot) (acc : Nat) : Bool :=
  if acc = accLoad then w.read else if acc = accStore then w.write else w.read || w.write || w.atomic

/-- Kind of a precise data hit (R327). -/
def watchKind (acc : Nat) : Nat := if acc = accLoad then 1 else if acc = accStore then 2 else 3

/-- Does an access of `n` bytes at `a` touch the range of the slot? -/
def WatchSlot.touches (w : WatchSlot) (a n : Nat) : Bool := decide (a < w.addr + 2 ^ w.lg) && decide (w.addr < a + n)

/-- A data watch hit of the word (R327): the cause, the lanes that hit, the first watched byte of the lowest of them. -/
def State.dataWatch (s : State) (space acc size : Nat) (lanes : List (Nat × Nat)) : Option (Nat × Mask × Nat) :=
  if s.cur.frag.nowatch then none
  else
    let slots := (List.range 4).filterMap (fun i => (sget none s.cur.watch i).bind (fun w =>
      if w.space = space && w.sees acc then some (i, w) else none))
    let hits (a : Nat × Nat) : Option (Nat × WatchSlot) := slots.find? (fun w => w.2.touches a.2 size)
    let hitting := lanes.filterMap (fun a => (hits a).map (fun w => (a, w)))
    match hitting with
    | [] => none
    | h :: _ =>
      let slot := hitting.foldl (fun n x => min n x.2.1) 3
      some (32 * 24 + 4 * watchKind acc + slot, mkMask (fun l => hitting.any (fun x => x.1.1 == l)), max h.1.2 h.2.2.addr)

/-- Bytes written: tile keys and job-space addresses, as (start, length). -/
structure Writes where
  tile : List (Nat × Nat)
  job : List (Nat × Nat)
  deriving DecidableEq, Repr

def Writes.none : Writes := { tile := [], job := [] }

/-- First address of a range list that falls into `[a, a + n)`. -/
def firstIn (rs : List (Nat × Nat)) (a n : Nat) : Option Nat :=
  (rs.filterMap (fun r => if r.1 < a + n && a < r.1 + r.2 then some (max r.1 a) else none)).min?

/-- The first byte of a slot's range that was written, in the slot's own space. -/
def State.watchedByte (s : State) (h : Group) (w : WatchSlot) (job : BitVec 16) (wr : Writes) : Option Nat :=
  let n := 2 ^ w.lg
  if w.space = 2 then (if h.id.job = job then firstIn wr.job w.addr n else none)
  else
    let t := if w.space = 0 then some (s.teamFor h.id, w.addr)
      else (s.teams.find? (isTeam h.id.grid h.id.clu (w.addr / 2 ^ 24 % 16))).map (fun t => (t, w.addr % 2 ^ 24))
    match t with
    | none => none
    | some (t, o) => (firstIn wr.tile (t.key o) (min n (t.bytes - o))).map (fun k => w.addr + (k - t.key o))

/-- Watch slots of a group, of those that `p` admits, that a write hits, with the first byte written (R328). -/
def State.slotHits (s : State) (p : WatchSlot → Bool) (job : BitVec 16) (wr : Writes) (h : Group) : List (Group × Nat × Nat) :=
  (List.range 4).filterMap (fun i =>
    match sget none h.watch i with
    | none => none
    | some w => if w.async && p w then (s.watchedByte h w job wr).map (fun a => (h, i, a)) else none)

/-- Watch slots that a write by `writer` (none: an engine or a peer) hits (R328): of the groups on the package, and of saved
groups those that watch job space (R344). -/
def State.watchHits (s : State) (writer : Option GroupId) (job : BitVec 16) (wr : Writes) : List (Group × Nat × Nat) :=
  (s.liveGroups.filter (fun h => match writer with | some g => !sameGroup g h.id | none => true)).flatMap
      (s.slotHits (fun _ => true) job wr)
    ++ (s.ctx.saved.flatMap (·.groups)).flatMap (s.slotHits (fun w => w.space == 2) job wr)

/-- Post the watch event of a hit (R317, R328). -/
def State.postHit (s : State) (source : BitVec 32) (pc : Nat) (atomic : Bool) (x : Group × Nat × Nat) : State :=
  let r := s.recordOf x.1 (32 * 24 + 16 + 4 * (if atomic then 3 else 2) + x.2.1) 0 0#32 x.2.2 (BitVec.ofNat 64 pc)
  s.accept { r with source := source, inRun := false }

/-- Watch events of a write by `writer` (R328). -/
def State.watchEvents (s : State) (writer : Option GroupId) (source : BitVec 32) (pc : Nat) (atomic : Bool)
    (job : BitVec 16) (wr : Writes) : State :=
  (s.watchHits writer job wr).foldl (fun t x => t.postHit source pc atomic x) s

/-- The key of a hit slot. -/
def hitKey (x : Group × Nat × Nat) : Nat × Nat × Nat × Nat × Nat :=
  (x.1.id.grid, x.1.id.clu, x.1.id.team, x.1.id.grp, x.2.1)

/-- Watch events of a part of an engine command: one for each slot and command (R328); `source` gives the writer of an
address. -/
def State.watchCmd (s : State) (id : Nat) (source : Nat → BitVec 32) (pc : Nat) (atomic : Bool) (job : BitVec 16)
    (wr : Writes) : State :=
  let seen := ((s.cmds.find? (fun c => c.id == id)).map (·.watched)).getD []
  let new := (s.watchHits none job wr).filter (fun x => !seen.contains (hitKey x))
  (new.foldl (fun t x => t.postHit (source x.2.2) pc atomic x) s).onCmd id (fun c => { c with watched := c.watched ++ new.map hitKey })

/-! ## The pass over the lanes -/

/-- The word's access: code of R316, space, bytes, scope (0 for a weak access). -/
structure Access where
  acc : Nat
  space : Nat
  size : Nat
  scope : Nat
  deriving DecidableEq, Repr

/-- What the pass has done so far. -/
structure Pass where
  st : State
  /-- lanes served -/
  served : Mask
  faults : List LaneFault
  values : List (Nat × BitVec 128)
  /-- lanes that reach peers: node, effective address, operation -/
  peers : List (Nat × Nat × LaneOp)
  writes : Writes

/-- The pass as it begins, or as the word left it when it last went on (R189). -/
def State.passFrom (s : State) : Option LanePart → Pass
  | none => { st := s, served := 0#32, faults := [], values := [], peers := [], writes := Writes.none }
  | some p =>
    { st := { s with cur := { s.cur with part := none } }, served := p.served, faults := p.faults, values := p.values,
      peers := p.peers, writes := { tile := p.tile, job := p.job } }

/-- The datum of bytes. -/
def datum (bs : List Byte) : BitVec 128 := BitVec.ofNat 128 (leNat bs)

/-- The bytes of a datum. -/
def datumBytes (x : BitVec 128) (n : Nat) : List Byte := leBytes n x.toNat

/-- Read the bytes of a place for a load (R173, R184): a strong load at a wide scope at the home, after the stores of the core
that it may not pass (R205). -/
def State.loadAt (s : State) (a : Access) : Place → State × BitVec 128
  | .tile _ key =>
    let r := s.tileLoad key a.size
    (r.1, datum r.2)
  | .pkg pa =>
    if wideScope a.scope then
      let m := s.mem.beforeHome s.cur.id (pa / 128)
      let bs := readBytes m.pkg pa a.size
      ({ s with mem := m.l1Patch s.cur.id.core 0 pa bs }, datum bs)
    else
      let r := s.l1Load s.cur.id pa a.size
      (r.1, datum r.2)
  | .peer .. => (s, 0#128)

/-- A store to package memory enters the L1 and is performed at its home at once, after those of the core to the line that are
still on their way, or later (R173, R183). -/
def Mem.store (m : Mem) (g : GroupId) (pa : Nat) (bs : List Byte) : Mem :=
  let m1 := m.l1Patch g.core 0 pa bs
  if m1.delay then { m1 with late := m1.late ++ [{ core := g.core, owner := g.key, addr := pa, bytes := bs, seen := false }] }
  else (m1.performLate (fun x => x.core == g.core && x.line == pa / 128)).storeHome pa bs

/-- Write a datum to a place (R173, R184). -/
def State.storeAt (s : State) (a : Access) (x : BitVec 128) : Place → State
  | .tile _ key => { s with mem := s.mem.tilePut (some s.cur.id.key) key (datumBytes x a.size) }
  | .pkg pa => { s with mem := s.mem.store s.cur.id pa (datumBytes x a.size) }
  | .peer .. => s

/-- A read-modify-write at the home (R184, R188, R189): the old value, and the new one when there is one to store. -/
def State.atomicAt (s : State) (a : Access) (new : BitVec 128 → Option (BitVec 128)) : Place → State × BitVec 128
  | .tile _ key =>
    let r := s.tileLoad key a.size
    let old := datum r.2
    match new old with
    | some x => ({ r.1 with mem := r.1.mem.tilePut (some s.cur.id.key) key (datumBytes x a.size) }, old)
    | none => (r.1, old)
  | .pkg pa =>
    let m1 := s.mem.beforeHome s.cur.id (pa / 128)
    let old := datum (readBytes m1.pkg pa a.size)
    let m := m1.l1Drop s.cur.id.core 0 (pa / 128)
    match new old with
    | some x => ({ s with mem := m.storeHome pa (datumBytes x a.size) }, old)
    | none => ({ s with mem := m }, old)
  | .peer .. => (s, 0#128)

/-- Bytes written at a place. -/
def Writes.add (w : Writes) (space ea size : Nat) : Place → Writes
  | .tile _ key => { w with tile := w.tile ++ [(key, size)] }
  | _ => if space = 2 then { w with job := w.job ++ [(ea, size)] } else w

/-- What a lane does at its place: the state, the value returned, whether it wrote. -/
abbrev Perform := State → Nat → Place → State × BitVec 128 × Bool

/-- A load below .clu of bytes of a peer that the core's L1 holds (R173, R184): the L1 serves it, or has replaced the line,
which it may not do while a store to the line is under way (R205). -/
def State.heldPeer (s : State) (a : Access) (node pa : Nat) : Option (State × BitVec 128) :=
  if a.acc != accLoad || wideScope a.scope then none
  else
    match s.mem.peerHeld s.cur.id.core node pa a.size with
    | none => none
    | some bs =>
      if s.weakOut (fun _ c pk => c == s.cur.id.core && toLine pk node (pa / 128)) then some (s, datum bs)
      else if s.freeNow.getLsbD 0 then some (s.drawn, datum bs) else none

/-- One lane (R179, R313): a fault, a request to a peer, or the access performed. -/
def Pass.lane (a : Access) (perform : Perform) (op : Nat → LaneOp) (p0 : Pass) (le : Nat × Nat) : Pass :=
  let p := { p0 with served := p0.served ||| BitVec.ofNat 32 (2 ^ le.1) }
  match p.st.place a.space a.acc a.size le.2 with
  | (s1, .error c) => { p with st := s1, faults := p.faults ++ [(le.1, c, le.2, false)] }
  | (s1, .ok (.peer node pa)) =>
    match s1.heldPeer a node pa with
    | some r => { p with st := r.1, values := p.values ++ [(le.1, r.2)] }
    | none =>
      let o := { op le.1 with lane := le.1, addr := pa, size := a.size }
      { p with st := s1, peers := p.peers ++ [(node, le.2, o)] }
  | (s1, .ok pl) =>
    let r := perform s1 le.1 pl
    { p with st := r.1, values := p.values ++ [(le.1, r.2.1)],
             writes := if r.2.2 then p.writes.add a.space le.2 a.size pl else p.writes }

/-- Requests to peers, one packet for each node and line (R386), as (node, line, effective addresses, operations). -/
def peerPackets (ps : List (Nat × Nat × LaneOp)) : List (Nat × Nat × List Nat × List LaneOp) :=
  ps.foldl (fun acc p =>
    let line := p.2.2.addr / 128
    if acc.any (fun q => q.1 == p.1 && q.2.1 == line) then
      acc.map (fun q => if q.1 == p.1 && q.2.1 == line then (q.1, q.2.1, q.2.2.1 ++ [p.2.1], q.2.2.2 ++ [p.2.2]) else q)
    else acc ++ [(p.1, line, [p.2.1], [p.2.2])]) []

/-- Packet operation of an access (R385). -/
def packetOp (acc : Nat) : Nat :=
  if acc = accLoad then 0 else if acc = accStore then 2 else if acc = accAtom then 3 else 4

/-- A peer's line that the word reaches and that it must wait for (R135, R205): an access of the group or a weak store of the
core to the line is under way. A weak store may join one that its group still holds (R386). -/
def State.lineBusy (s : State) (a : Access) (packets : List (Nat × Nat × List Nat × List LaneOp)) : Option (Nat × Nat) :=
  let joins (h : Held) (node line : Nat) : Bool :=
    a.acc = accStore && a.scope = 0 && h.owner == s.cur.id.key && h.node == node && h.line == line
  let s1 := { s with fabric := { s.fabric with
      held := s.fabric.held.filter (fun h => !packets.any (fun q => joins h q.1 q.2.1)) } }
  (packets.find? (fun q => s1.drains s.cur.id (.line q.1 q.2.1))).map (fun q => (q.1, q.2.1))

/-- The word waits until the line is free; packets held for it are sent. -/
def State.waitLine (s : State) (x : Nat × Nat) : State :=
  let s1 := s.sendAll (fun h => h.core == s.cur.id.core && h.node == x.1 && h.line == x.2)
  s1.waitAt (.drain (.line x.1 x.2))

/-- Send the requests of a word that waits for peers (R187, R386); atomics carry their order (R387). Packets that the group
holds for a node leave before them. -/
def State.sendLanes (s : State) (a : Access) (aop : Nat) (single : Bool) (target : Target) (ends : WordEnd) (p : Pass)
    (packets : List (Nat × Nat × List Nat × List LaneOp)) : State :=
  let s1 := s.sendAll (fun h => h.owner == s.cur.id.key && packets.any (fun q => q.1 == h.node))
  let w := s1.wordAt
  let order := (s.hmod.map (·.xorder.toNat)).getD 0
  let acc : PeerAccess :=
    { word := w, owner := s.cur.id.key, core := s.cur.id.core, acc := a.acc, size := a.size, target := target, ends := ends,
      pc := s.cur.frag.pc, hint := s.cur.frag.hint, fuse := s.cur.frag.fuse, single := single,
      open_ := opsMask (p.peers.map (·.2.2)), eas := p.peers.map (fun x => (x.2.2.lane, x.2.1)), faults := p.faults }
  let fills : List PeerFill := if a.acc != accLoad then [] else packets.map (fun q =>
    { word := w.id, core := s.cur.id.core, node := q.1, line := q.2.1, allocates := !wideScope a.scope })
  let s2 := { s1 with nextId := s1.nextId + 1, fabric := { s1.fabric with peers := s1.fabric.peers ++ [acc] },
                      mem := { s1.mem with fills := s1.mem.fills ++ fills } }
  packets.foldl (fun t q =>
    t.request (.lanes w.id) (q.2.2.1.headD 0)
      { t.packet (packetOp a.acc) q.1 s.cur.id.job with ops := q.2.2.2, aop := BitVec.ofNat 4 aop, args := [order] })
    (s2.waitAt (.peer w.id))

/-- The packets of a weak store are held (R386). -/
def State.holdAll (s : State) (packets : List (Nat × Nat × List Nat × List LaneOp)) : State :=
  let w := s.wordAt
  packets.foldl (fun t q => t.holdWeak w q.1 q.2.1 q.2.2.2 q.2.2.1) { s with nextId := s.nextId + 1 }

/-- The pass over the lanes has served them all (R313): watch events, registers, peers, and the trap or the end. -/
def State.served (s : State) (a : Access) (aop : Nat) (single : Bool) (target : Target) (ends : WordEnd) (p : Pass) : State :=
  let packets := peerPackets p.peers
  match p.st.lineBusy a packets with
  | some x => s.waitLine x
  | none =>
    let s1 := p.st.putTarget target p.values
    let s2 := if a.acc = accLoad then s1 else
      s1.watchEvents (some s.cur.id) (s.groupSource s.cur.id) s.unitPc.toNat (a.acc != accStore) s.cur.id.job p.writes
    if p.peers.isEmpty || (a.acc == accStore && a.scope == 0) then
      let s3 := if p.peers.isEmpty then s2 else s2.holdAll packets
      if p.faults.isEmpty then s3.endWord ends else s3.laneTrap p.faults single
    else s2.sendLanes a aop single target ends p packets

/-- Lanes of the word still to serve when others may come between: all of them, but for an atomic word that is cut (R189). -/
def State.lanesNow (s : State) (a : Access) (lanes : List (Nat × Nat)) : List (Nat × Nat) :=
  if decide (a.acc < 2) || s.mem.cut = 0 then lanes else lanes.take s.mem.cut

/-- A lane-access word (R105, R182, R313): the watch check, the pass over the lanes, registers, peers, the trap; `ends` says
what ends the word. `target` receives the values of loads and atomics; `aop` names the atomic in packets. Accesses of other
groups may fall between the lanes of an atomic word, which then goes on when it issues again (R189). -/
def State.laneAccess (s : State) (a : Access) (lanes : List (Nat × Nat)) (perform : Perform) (op : Nat → LaneOp) (aop : Nat)
    (single : Bool) (target : Target) (ends : WordEnd) : State :=
  match (if s.cur.part.isSome then none else s.dataWatch a.space a.acc a.size lanes) with
  | some (cause, m, addr) => s.trap cause { fmask := if single then 0#32 else m, addr := addr, aux := 0#64 }
  | none =>
    let p0 := s.passFrom s.cur.part
    let left := lanes.filter (fun l => !p0.served.getLsbD l.1)
    let now := s.lanesNow a left
    let p := now.foldl (Pass.lane a perform op) p0
    if now.length = left.length then s.served a aop single target ends p
    else
      let part : LanePart :=
        { frag := s.cur.frag.member, served := p.served, values := p.values, faults := p.faults, peers := p.peers,
          tile := p.writes.tile, job := p.writes.job }
      State.waitAt { p.st with cur := { p.st.cur with part := some part } } .ready

end Sys2Proof.Machine
end

