-- ==== Sys2Proof/Machine/LoadStore.lean ====
section
/-! DEFINITION. Weak loads and stores of majors 4, 12 and 13 (R105 to R109). -/

namespace Sys2Proof.Machine

/-- The address that the word takes from the SLEA of an address-load fusion (R87); none outside one. -/
def State.leaFused (s : State) (base : BitVec 6) : Option Loc :=
  if s.cur.frag.hint.isNone && s.cur.frag.fuse == .lea base then some (.scalar base.toNat) else none

/-- Resolve the index register of a format M or X word, when it has one (R13, R105, R182). -/
def State.withIndex (s : State) (used : Bool) (v : BitVec 7) (go : Option RegRef → State) : State :=
  if used then
    match s.ref v.toNat with
    | some r => go (some r)
    | none => s.trap0 2 3
  else go none

/-- The end of a load: what it reads and writes, with the address that a fused SLEA hands it. -/
def State.loadEnd (s : State) (base : BitVec 6) (srcs : List Loc) (dests : List Dest) : WordEnd :=
  { acq := none, load := some (srcs, dests, s.leaFused base) }

/-- The end of a weak store. -/
def WordEnd.plain : WordEnd := { acq := none, load := none }

/-- LD (R105 to R107). -/
def execLd (d : BitVec 7) (b : BitVec 6) (v : BitVec 7) (w : BitVec 3) (x : BitVec 4) (s : State) : Out :=
  let size := widthBytes w.toNat
  .next (s.withBlock d.toNat (regsFor size) (fun ds =>
    s.withIndex (x.getLsbD 3) v (fun idx =>
      let a : Access := { acc := accLoad, space := (x.extractLsb' 0 3).toNat, size := size, scope := 0 }
      let srcs := Loc.scalar b.toNat :: (idx.toList.map Loc.vec)
      let olds := ds.map (fun r => Dest.vec r (s.getRef r))
      s.laneAccess a (s.laneAddrs b idx) (fun t _ pl => let r := t.loadAt a pl; (r.1, r.2, false)) (fun _ => LaneOp.none) 0
        false (.block ds) (s.loadEnd b srcs olds))))

/-- ST (R105 to R107). -/
def execSt (d : BitVec 7) (b : BitVec 6) (v : BitVec 7) (w : BitVec 3) (x : BitVec 4) (s : State) : Out :=
  let size := widthBytes w.toNat
  .next (s.withBlock d.toNat (regsFor size) (fun ds =>
    s.withIndex (x.getLsbD 3) v (fun idx =>
      let a : Access := { acc := accStore, space := (x.extractLsb' 0 3).toNat, size := size, scope := 0 }
      s.laneAccess a (s.laneAddrs b idx) (fun t l pl => (t.storeAt a (s.blockLane ds l) pl, 0#128, true))
        (fun l => { LaneOp.none with data := s.blockLane ds l }) 0 false (.block []) WordEnd.plain)))

/-- LDS (R108): the value zero-extended into sd; it acts whatever EXEC holds, as one lane would. -/
def execLds (d a : BitVec 6) (w : BitVec 2) (x : BitVec 3) (s : State) : Out :=
  let acc : Access := { acc := accLoad, space := x.toNat, size := widthBytes w.toNat, scope := 0 }
  .next (s.laneAccess acc [(0, (s.getS a).toNat)]
    (fun t _ pl => let r := t.loadAt acc pl; (r.1, r.2, false)) (fun _ => LaneOp.none) 0 true (.scalar d)
    (s.loadEnd a [Loc.scalar a.toNat] [Dest.scalar d.toNat (s.getS d)]))

/-- STS (R108): the low bytes of sd. -/
def execSts (d a : BitVec 6) (w : BitVec 2) (x : BitVec 3) (s : State) : Out :=
  let acc : Access := { acc := accStore, space := x.toNat, size := widthBytes w.toNat, scope := 0 }
  let v := (s.getS d).zeroExtend 128
  .next (s.laneAccess acc [(0, (s.getS a).toNat)]
    (fun t _ pl => (t.storeAt acc v pl, 0#128, true)) (fun _ => { LaneOp.none with data := v }) 0 true (.block [])
    WordEnd.plain)

end Sys2Proof.Machine
end

