-- ==== Sys2Proof/Machine/Scoped.lean ====
section
/-! DEFINITION. Scoped accesses, atomics and CAS of major 14, fences and cache maintenance of major 15 (R180 to R196). -/

namespace Sys2Proof.Machine

/-- Order, width and space of a major-14 word, from its HMOD (R46, R180). -/
structure Attrs where
  order : Nat
  size : Nat
  space : Nat
  deriving DecidableEq, Repr

/-- The attributes that an HMOD gives; .rlx, .b32, tile space without one (R180). -/
def attrsOf : Option ModHint → Attrs
  | some h => { order := h.xorder.toNat, size := xwidthBytes h.xwidth.toNat, space := h.xspace.toNat }
  | none => { order := 0, size := 4, space := 0 }

/-- The attributes of the current word. -/
def State.attrs (s : State) : Attrs := attrsOf s.hmod

/-- Has the order an acquire component, a release component (R185)? -/
def Attrs.acquires (a : Attrs) : Bool := a.order == 1 || decide (3 ≤ a.order)
def Attrs.releases (a : Attrs) : Bool := decide (2 ≤ a.order)

/-- A scope that the space cannot take (R181): .grp and .team with cluster tile space. -/
def Attrs.badScope (a : Attrs) (scope : BitVec 3) : Bool := decide (scope.toNat < 3) && a.space == 1

/-- Is the combination of order and width permitted (R181)? `fn` is the word's function code. -/
def Attrs.permits (a : Attrs) (acc fn : Nat) : Bool :=
  if acc = accLoad then a.order == 0 || a.order == 1 || a.order == 4
  else if acc = accStore then a.order == 0 || a.order == 2 || a.order == 4
  else if acc = accCas then decide (4 ≤ a.size)
  else a.size == 4 || (a.size == 8 && fn != 12)

/-- Registers of the word's block (R181, R191): a CAS names compare and swap values one after the other. -/
def Attrs.block (a : Attrs) (acc : Nat) : Nat := if acc = accCas then 2 * regsFor a.size else regsFor a.size

/-- A major-14 word (R180 to R191): the permitted combinations, the block, the release component, the access, the acquire
component. With EXEC zero the word changes nothing (R181). A block past field value 127 is a reserved value (R107). Only the
registers of the datum are written. A word that goes on with its lanes has done its release (R189). -/
def State.scoped (s : State) (acc aop : Nat) (d : BitVec 7) (b : BitVec 6) (v : BitVec 7) (scope : BitVec 3)
    (perform : Access → List RegRef → Perform) (op : List RegRef → Nat → LaneOp) : State :=
  let at_ := s.attrs
  if !at_.permits acc aop || at_.badScope scope || blockLong d.toNat (at_.block acc) then s.trap0 0 3
  else
    s.withBlock d.toNat (at_.block acc) (fun ds =>
      s.withIndex (v != 127#7) v (fun idx =>
        let a : Access := { acc := acc, space := at_.space, size := at_.size, scope := scope.toNat }
        let outs := if acc = accStore then [] else ds.take (regsFor at_.size)
        let ends : WordEnd := { acq := if at_.acquires then some scope.toNat else none, load := none }
        let go (t : State) : State :=
          t.laneAccess a (s.laneAddrs b idx) (perform a ds) (op ds) aop false (.block outs) ends
        if s.cur.frag.exec = 0#32 then s.advance
        else if at_.releases && s.cur.part.isNone then s.release false scope.toNat go
        else go s))

/-- LD with order and scope (R181, R187). -/
def execScopedLd (d : BitVec 7) (b : BitVec 6) (v : BitVec 7) (c : BitVec 3) (s : State) : Out :=
  .next (s.scoped accLoad 0 d b v c
    (fun acc _ t _ pl => let r := t.loadAt acc pl; (r.1, r.2, false)) (fun _ _ => LaneOp.none))

/-- ST with order and scope (R181, R187). -/
def execScopedSt (d : BitVec 7) (b : BitVec 6) (v : BitVec 7) (c : BitVec 3) (s : State) : Out :=
  .next (s.scoped accStore 1 d b v c
    (fun acc ds t l pl => (t.storeAt acc (s.blockLane ds l) pl, 0#128, true))
    (fun ds l => { LaneOp.none with data := s.blockLane ds l }))

/-- CAS (R181, R191): compare and swap values lie one after the other in the block; a failed compare stores nothing. -/
def execCas (d : BitVec 7) (b : BitVec 6) (v : BitVec 7) (c : BitVec 3) (s : State) : Out :=
  let k := regsFor s.attrs.size
  .next (s.scoped accCas 2 d b v c
    (fun acc ds t l pl =>
      let cmp := s.blockLane (ds.take k) l
      let r := t.atomicAt acc (fun m => if m = cmp then some (s.blockLane (ds.drop k) l) else none) pl
      (r.1, r.2, r.2 == cmp))
    (fun ds l => { LaneOp.none with data := s.blockLane (ds.drop k) l, cmp := s.blockLane (ds.take k) l }))

/-- The new value of an atomic on `n` bits (R188, R190), by its function code. -/
def atomicNew (fn n : Nat) (m v : BitVec 128) : BitVec 128 :=
  let lo (x : Nat) : BitVec 128 := BitVec.ofNat 128 (x % 2 ^ n)
  let sg (x : BitVec 128) : Int := if x.getLsbD (n - 1) then (x.toNat % 2 ^ n : Int) - 2 ^ n else (x.toNat % 2 ^ n : Int)
  match fn with
  | 3 => lo (m.toNat + v.toNat)
  | 4 => m &&& v
  | 5 => m ||| v
  | 6 => m ^^^ v
  | 7 => if sg v < sg m then v else m
  | 8 => if sg m < sg v then v else m
  | 9 => if v.toNat < m.toNat then v else m
  | 10 => if m.toNat < v.toNat then v else m
  | 11 => v
  | _ => BitVec.ofNat 128 (fAdd .fp32 { mode := 0, ftz := false, sat := false } m.toNat v.toNat).1

/-- An ATOM word by its function code (R181, R188). -/
def State.atom (s : State) (fn : Nat) (d : BitVec 7) (b : BitVec 6) (v : BitVec 7) (c : BitVec 3) : Out :=
  let a := s.attrs
  .next (s.scoped accAtom fn d b v c
    (fun acc ds t l pl =>
      let r := t.atomicAt acc (fun m => some (atomicNew fn (8 * a.size) m (s.blockLane ds l))) pl
      (r.1, r.2, true))
    (fun ds l => { LaneOp.none with data := s.blockLane ds l }))

/-- ATOM.add (R188). -/
def execAtomAdd (d : BitVec 7) (b : BitVec 6) (v : BitVec 7) (c : BitVec 3) (s : State) : Out := s.atom 3 d b v c
/-- ATOM.and (R188). -/
def execAtomAnd (d : BitVec 7) (b : BitVec 6) (v : BitVec 7) (c : BitVec 3) (s : State) : Out := s.atom 4 d b v c
/-- ATOM.or (R188). -/
def execAtomOr (d : BitVec 7) (b : BitVec 6) (v : BitVec 7) (c : BitVec 3) (s : State) : Out := s.atom 5 d b v c
/-- ATOM.xor (R188). -/
def execAtomXor (d : BitVec 7) (b : BitVec 6) (v : BitVec 7) (c : BitVec 3) (s : State) : Out := s.atom 6 d b v c
/-- ATOM.min (R188). -/
def execAtomMin (d : BitVec 7) (b : BitVec 6) (v : BitVec 7) (c : BitVec 3) (s : State) : Out := s.atom 7 d b v c
/-- ATOM.max (R188). -/
def execAtomMax (d : BitVec 7) (b : BitVec 6) (v : BitVec 7) (c : BitVec 3) (s : State) : Out := s.atom 8 d b v c
/-- ATOM.minn (R188). -/
def execAtomMinn (d : BitVec 7) (b : BitVec 6) (v : BitVec 7) (c : BitVec 3) (s : State) : Out := s.atom 9 d b v c
/-- ATOM.maxn (R188). -/
def execAtomMaxn (d : BitVec 7) (b : BitVec 6) (v : BitVec 7) (c : BitVec 3) (s : State) : Out := s.atom 10 d b v c
/-- ATOM.exch (R188). -/
def execAtomExch (d : BitVec 7) (b : BitVec 6) (v : BitVec 7) (c : BitVec 3) (s : State) : Out := s.atom 11 d b v c
/-- ATOM.fadd (R190). -/
def execAtomFadd (d : BitVec 7) (b : BitVec 6) (v : BitVec 7) (c : BitVec 3) (s : State) : Out := s.atom 12 d b v c

/-- FENCE (R193): order 1 .acq, 2 .rel, 3 .ar, 4 .sc; at .grp it completes at once. -/
def execFence (o c : BitVec 3) (s : State) : Out :=
  let acq (t : State) : State := (if o = 2#3 then t else t.acquire c.toNat).advance
  .next (if c = 1#3 then s.advance
  else if o = 1#3 then (if s.drains s.cur.id .reads then s.waitAt (.drain .reads) else acq s)
  else s.release false c.toNat acq)

/-- The line of CFLUSH and CINV (R194): key of the line in the core's L1; none when the address names no line. -/
def State.namedLine (s : State) (r : BitVec 6) : State × Option Leaf × Nat :=
  let a := (s.getS r).toNat + s.immAddr
  let va := a - a % 128
  if 2 ^ 57 ≤ va then (s, none, va)
  else
    match s.translate va with
    | (s1, .ok l) => (s1, if l.kind = 3 then none else some l, va)
    | (s1, .error _) => (s1, none, va)

/-- Does the unit carry a HIMM of nonzero payload before a word with all = 1 (R192)? -/
def State.allWithOffset (s : State) (all : BitVec 1) : Bool := all == 1#1 && s.immAddr != 0

/-- The L1 without the line of a leaf. -/
def State.dropLine (s : State) (l : Leaf) (va : Nat) : State :=
  let line := leafPhys l va / 128
  { s with mem := if l.kind = 1 then s.mem.l1Drop s.cur.id.core 0 line else s.mem.peerDrop s.cur.id.core l.unit line }

/-- Accesses that CFLUSH comes after are performed: those of the core to the line, or to every line, that are still on their
way to a home of the package; held packets of the group are sent. -/
def State.flushLines (s : State) (line : Option Nat) : State :=
  let s1 := s.flushGroup s.cur.id
  { s1 with mem := s1.mem.performLate (fun x => x.core == s.cur.id.core && (match line with
    | some n => x.line == n
    | none => true)) }

/-- CFLUSH (R194): it waits for the group's stores and atomics to the line, or to every line, to be performed at their homes,
then invalidates the line. -/
def execCflush (l : BitVec 1) (r : BitVec 6) (s : State) : Out :=
  let flush (t : State) (line : Option (Nat × Nat)) (k : State → State) : State :=
    if t.drains t.cur.id (.flush line) then t.waitAt (.drain (.flush line)) else (k t).advance
  .next (if s.allWithOffset l then s.trap0 0 3
  else if l = 1#1 then
    flush (s.flushLines none) none (fun t => { t with mem := t.mem.l1DropAll t.cur.id.core })
  else
    match s.namedLine r with
    | (s1, none, _) => s1.advance
    | (s1, some lf, va) =>
      let line := leafPhys lf va / 128
      if lf.kind = 1 then ((s1.flushLines (some line)).dropLine lf va).advance
      else flush (s1.flushGroup s1.cur.id) (some (lf.unit, line)) (fun t => t.dropLine lf va))

/-- CINV of kind 0 (R194). -/
def execCinv (l : BitVec 1) (r : BitVec 6) (s : State) : Out :=
  .next (if s.allWithOffset l then s.trap0 0 3
  else if l = 1#1 then State.advance { s with mem := s.mem.l1DropAll s.cur.id.core }
  else
    match s.namedLine r with
    | (s1, none, _) => s1.advance
    | (s1, some lf, va) => (s1.dropLine lf va).advance)

/-- The line of the core's instruction cache is invalidated: what its groups execute from it is what the home holds then, until
a group stores into the line (R28, R195). -/
def Mem.icDrop (m : Mem) (core line : Nat) : Mem :=
  match sget none m.older line with
  | some _ => { m with icache := sput none m.icache (icKey core line) (some (homeLine m line)) }
  | none => { m with icache := sdel m.icache (icKey core line) }

/-- Every line of the core's instruction cache is invalidated. -/
def Mem.icDropAll (m : Mem) (core : Nat) : Mem :=
  m.older.foldl (fun n e => n.icDrop core e.1) { m with icache := sfilter (fun k => k / 2 ^ 24 != core) m.icache }

/-- CINV of kind 1 (R194): the instruction cache. The group's own stores on their way to the home are performed first (R195). -/
def execCinvI (l : BitVec 1) (r : BitVec 6) (s : State) : Out :=
  let core := s.cur.id.core
  .next (if s.allWithOffset l then s.trap0 0 3
  else if l = 1#1 then State.advance { s with mem := (s.mem.performLate (fun x => x.core == core)).icDropAll core }
  else
    match s.namedLine r with
    | (s1, none, _) => s1.advance
    | (s1, some lf, va) =>
      let line := leafPhys lf va / 128
      if lf.kind = 1 then
        State.advance { s1 with mem := (s1.mem.performLate (fun x => x.core == core && x.line == line)).icDrop core line }
      else s1.advance)

end Sys2Proof.Machine
end

