-- ==== Sys2Proof/Machine/Runs.lean ====
section
/-! DEFINITION. Hints and runs (R26, R43 to R48, R79 to R86): where a hint may stand, the check of a run, its start and its
end, the completion of its words and early decision. -/

namespace Sys2Proof.Machine

/-- The detail of class 0 for a refused word (R315). -/
def illegalDetail : Illegal → Nat
  | .reservedMajor => 0
  | .unassigned => 1
  | .reservedField => 2
  | .reservedValue => 3
  | .misplacedHint => 4

/-- Major opcode of a word (R33). -/
def majorOf (w : Word) : Nat := (bits w 27 5).toNat

/-! ## Where a hint may stand (R26, R45, R47) -/

/-- Is the instruction a hint? -/
def isHint : Instr → Bool
  | .hrun .. => true
  | .hend .. => true
  | .himm _ => true
  | .hmod .. => true
  | _ => false

/-- What a HIMM with payload `p` before the word raises, as a detail of class 0 (R45, R125). -/
def himmFault (p : BitVec 25) : Instr → Option Nat
  | .saddi .. => none
  | .sandi .. => none
  | .sori .. => none
  | .sxori .. => none
  | .scmpi .. => none
  | .sli .. => none
  | .viaddImm .. => none
  | .viandImm .. => none
  | .viorImm .. => none
  | .vixorImm .. => none
  | .vmoviB32 .. => none
  | .vaddImm .. => if p.extractLsb' 16 9 != 0#9 then some 2 else none
  | .vmulImm .. => if p.extractLsb' 16 9 != 0#9 then some 2 else none
  | .vminImm .. => if p.extractLsb' 16 9 != 0#9 then some 2 else none
  | .vmaxImm .. => if p.extractLsb' 16 9 != 0#9 then some 2 else none
  | .vmoviF32 .. => if p.extractLsb' 16 9 != 0#9 then some 2 else none
  | .vcvt _ _ y x =>
    if p.extractLsb' 7 18 != 0#18 then some 2
    else if p.extractLsb' 1 6 != 0#6 && (decide (8 ≤ x.toNat) || (y != 10#4 && y != 11#4)) then some 3
    else none
  | .ld .. => none
  | .st .. => none
  | .scopedLd .. => none
  | .scopedSt .. => none
  | .cas .. => none
  | .atomAdd .. => none
  | .atomAnd .. => none
  | .atomOr .. => none
  | .atomXor .. => none
  | .atomMin .. => none
  | .atomMax .. => none
  | .atomMinn .. => none
  | .atomMaxn .. => none
  | .atomExch .. => none
  | .atomFadd .. => none
  | .cflush .. => none
  | .cinv .. => none
  | .cinvI .. => none
  | .hmod .. => none
  | _ => some 4

/-- May a word carry cut (R47)? -/
def takesCut : Instr → Bool
  | .vmin .. => true
  | .vmax .. => true
  | .vclamp .. => true
  | .vcmpc .. => true
  | .vminImm .. => true
  | .vmaxImm .. => true
  | _ => false

/-- What an HMOD before the word raises (R47, R155, R192). A nonzero reserved field is named before a misplaced hint
(log 6). -/
def hmodFault (m : ModHint) (raw : Word) (i : Instr) : Option Nat :=
  if isHint i then some 4
  else if majorOf raw != 14 && (m.xorder != 0#3 || m.xwidth != 0#3 || m.xspace != 0#3) then some 2
  else if m.gEn && (decide (majorOf raw < 5) || decide (15 < majorOf raw)) then some 4
  else if m.cut && !takesCut i then some 4
  else none

/-- What hints before the word `raw`, which holds `i`, raise (R26). -/
def hintFault (imm : Option (BitVec 25)) (mod : Option ModHint) (raw : Word) (i : Instr) : Option Nat :=
  match imm.bind (fun p => himmFault p i) with
  | some d => some d
  | none => mod.bind (fun m => hmodFault m raw i)

/-- The payload of HMOD. -/
def modOf (g n : BitVec 1) (p : BitVec 3) (r : BitVec 1) (m : BitVec 3) (c : BitVec 1) (o w sp : BitVec 3) : ModHint :=
  { gEn := g == 1#1, gNeg := n == 1#1, gPred := p, rmEn := r == 1#1, rm := m, cut := c == 1#1, xorder := o, xwidth := w,
    xspace := sp }

/-- A hint takes effect on the next word (R26, R48); inside a run it takes an issue slot (R76). -/
def State.latch (s : State) (imm : Option (BitVec 25)) (mod : Option ModHint) : State :=
  let s1 := s.setFrag { s.cur.frag with pc := s.cur.frag.pc + 4#57, fuse := .none,
                                        hint := some { first := s.unitPc, imm := imm, mod := mod } }
  { s1 with cur := { s1.cur with run := s1.cur.run.map (fun r => { r with clock := r.clock + 1 }) } }

/-- HIMM (R26, R45): illegal after another hint. -/
def execHimm (p : BitVec 25) (s : State) : Out :=
  .next (if s.cur.frag.hint.isSome then s.trap0 0 4 else s.latch (some p) none)

/-- HMOD (R26, R46): it may follow HIMM only. -/
def execHmod (g n : BitVec 1) (p : BitVec 3) (r : BitVec 1) (m : BitVec 3) (c : BitVec 1) (o w sp : BitVec 3)
    (s : State) : Out :=
  .next (if s.hmod.isSome then s.trap0 0 4 else s.latch s.himm (some (modOf g n p r m c o w sp)))

/-! ## Registers that a word of a run names -/

/-- Vector register fields of a word permitted in a run: blocks read and blocks written, as (field, registers). -/
def vecUse : Instr → List (Nat × Nat) × List (Nat × Nat)
  | .vadd d a b => ([(a.toNat, 1), (b.toNat, 1)], [(d.toNat, 1)])
  | .vsub d a b => ([(a.toNat, 1), (b.toNat, 1)], [(d.toNat, 1)])
  | .vmul d a b => ([(a.toNat, 1), (b.toNat, 1)], [(d.toNat, 1)])
  | .vfma d a b => ([(a.toNat, 1), (b.toNat, 1), (d.toNat, 1)], [(d.toNat, 1)])
  | .vfms d a b => ([(a.toNat, 1), (b.toNat, 1), (d.toNat, 1)], [(d.toNat, 1)])
  | .vfnma d a b => ([(a.toNat, 1), (b.toNat, 1), (d.toNat, 1)], [(d.toNat, 1)])
  | .vfnms d a b => ([(a.toNat, 1), (b.toNat, 1), (d.toNat, 1)], [(d.toNat, 1)])
  | .vdiv d a b => ([(a.toNat, 1), (b.toNat, 1)], [(d.toNat, 1)])
  | .vmin d a b => ([(a.toNat, 1), (b.toNat, 1)], [(d.toNat, 1)])
  | .vmax d a b => ([(a.toNat, 1), (b.toNat, 1)], [(d.toNat, 1)])
  | .vclamp d a b => ([(a.toNat, 1), (b.toNat, 1), (d.toNat, 1)], [(d.toNat, 1)])
  | .vscale d a b => ([(a.toNat, 1), (b.toNat, 1)], [(d.toNat, 1)])
  | .vcmp _ a b _ => ([(a.toNat, 1), (b.toNat, 1)], [])
  | .vcmpc _ a b _ => ([(a.toNat, 1), (b.toNat, 1)], [])
  | .vsel d a b _ => ([(a.toNat, 1), (b.toNat, 1)], [(d.toNat, 1)])
  | .vaddPair d a b _ => ([(a.toNat, 1), (b.toNat, 1)], [(d.toNat, 1)])
  | .vsubPair d a b _ => ([(a.toNat, 1), (b.toNat, 1)], [(d.toNat, 1)])
  | .vmulPair d a b _ => ([(a.toNat, 1), (b.toNat, 1)], [(d.toNat, 1)])
  | .vfmaPair d a b _ => ([(a.toNat, 1), (b.toNat, 1), (d.toNat, 1)], [(d.toNat, 1)])
  | .vfmsPair d a b _ => ([(a.toNat, 1), (b.toNat, 1), (d.toNat, 1)], [(d.toNat, 1)])
  | .vfnmaPair d a b _ => ([(a.toNat, 1), (b.toNat, 1), (d.toNat, 1)], [(d.toNat, 1)])
  | .vfnmsPair d a b _ => ([(a.toNat, 1), (b.toNat, 1), (d.toNat, 1)], [(d.toNat, 1)])
  | .vminPair d a b _ => ([(a.toNat, 1), (b.toNat, 1)], [(d.toNat, 1)])
  | .vmaxPair d a b _ => ([(a.toNat, 1), (b.toNat, 1)], [(d.toNat, 1)])
  | .vclampPair d a b _ => ([(a.toNat, 1), (b.toNat, 1), (d.toNat, 1)], [(d.toNat, 1)])
  | .vdot2 d a b _ => ([(a.toNat, 1), (b.toNat, 1), (d.toNat, 1)], [(d.toNat, 1)])
  | .vdot4 d a b _ => ([(a.toNat, 1), (b.toNat, 1), (d.toNat, 1)], [(d.toNat, 1)])
  | .viadd d a b => ([(a.toNat, 1), (b.toNat, 1)], [(d.toNat, 1)])
  | .visub d a b => ([(a.toNat, 1), (b.toNat, 1)], [(d.toNat, 1)])
  | .vimul d a b => ([(a.toNat, 1), (b.toNat, 1)], [(d.toNat, 1)])
  | .vimulhI32 d a b => ([(a.toNat, 1), (b.toNat, 1)], [(d.toNat, 1)])
  | .vimulhN32 d a b => ([(a.toNat, 1), (b.toNat, 1)], [(d.toNat, 1)])
  | .vimad d a b => ([(a.toNat, 1), (b.toNat, 1), (d.toNat, 1)], [(d.toNat, 1)])
  | .vimin d a b => ([(a.toNat, 1), (b.toNat, 1)], [(d.toNat, 1)])
  | .vimax d a b => ([(a.toNat, 1), (b.toNat, 1)], [(d.toNat, 1)])
  | .viminn d a b => ([(a.toNat, 1), (b.toNat, 1)], [(d.toNat, 1)])
  | .vimaxn d a b => ([(a.toNat, 1), (b.toNat, 1)], [(d.toNat, 1)])
  | .viabs d a => ([(a.toNat, 1)], [(d.toNat, 1)])
  | .viand d a b => ([(a.toNat, 1), (b.toNat, 1)], [(d.toNat, 1)])
  | .vior d a b => ([(a.toNat, 1), (b.toNat, 1)], [(d.toNat, 1)])
  | .vixor d a b => ([(a.toNat, 1), (b.toNat, 1)], [(d.toNat, 1)])
  | .viandn d a b => ([(a.toNat, 1), (b.toNat, 1)], [(d.toNat, 1)])
  | .vishl d a b => ([(a.toNat, 1), (b.toNat, 1)], [(d.toNat, 1)])
  | .vishr d a b => ([(a.toNat, 1), (b.toNat, 1)], [(d.toNat, 1)])
  | .visra d a b => ([(a.toNat, 1), (b.toNat, 1)], [(d.toNat, 1)])
  | .vpop d a => ([(a.toNat, 1)], [(d.toNat, 1)])
  | .vclz d a => ([(a.toNat, 1)], [(d.toNat, 1)])
  | .vbfe d a b => ([(a.toNat, 1), (b.toNat, 1)], [(d.toNat, 1)])
  | .vbfi d a b => ([(a.toNat, 1), (b.toNat, 1), (d.toNat, 1)], [(d.toNat, 1)])
  | .vprm d a b => ([(a.toNat, 1), (b.toNat, 1), (d.toNat, 1)], [(d.toNat, 1)])
  | .vicmp _ a b _ => ([(a.toNat, 1), (b.toNat, 1)], [])
  | .vaddImm d _ => ([(d.toNat, 1)], [(d.toNat, 1)])
  | .vmulImm d _ => ([(d.toNat, 1)], [(d.toNat, 1)])
  | .vminImm d _ => ([(d.toNat, 1)], [(d.toNat, 1)])
  | .vmaxImm d _ => ([(d.toNat, 1)], [(d.toNat, 1)])
  | .viaddImm d _ => ([(d.toNat, 1)], [(d.toNat, 1)])
  | .viandImm d _ => ([(d.toNat, 1)], [(d.toNat, 1)])
  | .viorImm d _ => ([(d.toNat, 1)], [(d.toNat, 1)])
  | .vixorImm d _ => ([(d.toNat, 1)], [(d.toNat, 1)])
  | .vishlImm d _ => ([(d.toNat, 1)], [(d.toNat, 1)])
  | .vishrImm d _ => ([(d.toNat, 1)], [(d.toNat, 1)])
  | .visraImm d _ => ([(d.toNat, 1)], [(d.toNat, 1)])
  | .vmoviF32 d _ => ([], [(d.toNat, 1)])
  | .vmoviB32 d _ => ([], [(d.toNat, 1)])
  | .vmoviF16x2 d _ => ([], [(d.toNat, 1)])
  | .vmoviF8e4x2 d _ => ([], [(d.toNat, 1)])
  | .vmoviF8e5x2 d _ => ([], [(d.toNat, 1)])
  | .vsqrt d a => ([(a.toNat, 1)], [(d.toNat, 1)])
  | .vrsq d a => ([(a.toNat, 1)], [(d.toNat, 1)])
  | .vrcp d a => ([(a.toNat, 1)], [(d.toNat, 1)])
  | .vabs d a => ([(a.toNat, 1)], [(d.toNat, 1)])
  | .vneg d a => ([(a.toNat, 1)], [(d.toNat, 1)])
  | .vexp2 d a => ([(a.toNat, 1)], [(d.toNat, 1)])
  | .vlog2 d a => ([(a.toNat, 1)], [(d.toNat, 1)])
  | .vsinp d a => ([(a.toNat, 1)], [(d.toNat, 1)])
  | .vcosp d a => ([(a.toNat, 1)], [(d.toNat, 1)])
  | .vtanh d a => ([(a.toNat, 1)], [(d.toNat, 1)])
  | .vrnd d a => ([(a.toNat, 1)], [(d.toNat, 1)])
  | .vgetexp d a => ([(a.toNat, 1)], [(d.toNat, 1)])
  | .vgetman d a => ([(a.toNat, 1)], [(d.toNat, 1)])
  | .vcvt d a y x => ([(a.toNat, cvtRegs (cvtType x))], [(d.toNat, cvtRegs (cvtType y))])
  | .vmov d a => ([(a.toNat, 1)], [(d.toNat, 1)])
  | .vmovLane d => ([], [(d.toNat, 1)])
  | .vmovs d _ => ([], [(d.toNat, 1)])
  | .ld d _ v w x =>
    (if x.getLsbD 3 then [(v.toNat, 1)] else [], [(d.toNat, regsFor (widthBytes w.toNat))])
  | .mrd .. => ([], [(120, 8)])
  | _ => ([], [])

/-- Is the word permitted inside a run (R44)? -/
def runAllowed (raw : Word) (i : Instr) : Bool :=
  match majorOf raw, i with
  | _, .launch .. => false
  | _, .srd .. => false
  | _, .swr .. => false
  | _, .exwr _ => false
  | _, .lds _ _ _ sp => sp == 0#3
  | _, .ld _ _ _ _ x => x.extractLsb' 0 3 == 0#3
  | _, .mrd .. => true
  | _, .himm _ => true
  | _, .hmod .. => true
  | m, _ => m == 2 || m == 3 || (decide (5 ≤ m) && decide (m ≤ 9)) || m == 11

/-! ## The check of a run (R44) -/

/-- Fetch `n` words from `a`; a word that cannot be fetched ends the list with its detail of class 3. -/
def State.fetchRun (s : State) (a : Addr) : Nat → State × List (Except Nat Word)
  | 0 => (s, [])
  | n + 1 =>
    match s.fetchWord a with
    | (s1, .error d) => (s1, [.error d])
    | (s1, .ok w) =>
      let r := s1.fetchRun (a + 4#57) n
      (r.1, .ok w :: r.2)

/-- The next words decide on hints at the head of the list: the detail of class 0 that they raise. A word that cannot be
fetched or decoded fails on its own. -/
def hintsBefore (imm : Option (BitVec 25)) (mod : Option ModHint) : List (Except Nat Word) → Option Nat
  | .ok w :: rest =>
    match decode w with
    | .error _ => none
    | .ok (.hmod ..) =>
      if mod.isSome then some 4
      else match rest with
        | .ok w' :: _ =>
          match decode w' with
          | .ok j => if isHint j then none else imm.bind (fun x => himmFault x j)
          | .error _ => none
        | _ => none
    | .ok i => hintFault imm mod w i
  | _ => none

/-- Does a field fail R13 (R44)? The first block of the list that fails, as its detail of class 2. `idx`: the field of a
vector index. -/
def boundFault (vregs window : Nat) (idx : Option Nat) : List (Nat × Nat) → Option Nat
  | [] => none
  | (f, k) :: rest =>
    if f < 120 && decide (vregs < f + window + k) then some (if idx == some f then 3 else boundDetail k)
    else boundFault vregs window idx rest

/-- Does a block of the list lie on both sides of field value 120 (R107)? -/
def blockStraddles (us : List (Nat × Nat)) : Bool := us.any (fun u => decide (u.1 < 120) && decide (120 < u.1 + u.2))

/-- Temporaries that the blocks name, as bits 0 to 7. -/
def tempBits (us : List (Nat × Nat)) : BitVec 8 :=
  us.foldl (fun m u => (List.range u.2).foldl (fun m j =>
    if 120 ≤ u.1 + j then m ||| (1#8 <<< (u.1 + j - 120)) else m) m) 0#8

/-- A flag field that holds 12 to 14 (R43). -/
def flagReserved (f : BitVec 4) : Bool := decide (12 ≤ f.toNat) && f != 15#4

/-- A register field of HEND that holds 120 to 126 (R43). -/
def hendRegReserved (x : BitVec 7) : Bool := decide (120 ≤ x.toNat) && x != 127#7

/-- A scoped word of a run under the HMOD before it is a reserved encoding: its combination (R181), or its block (R107). -/
def scopedReserved (mod : Option ModHint) (d : BitVec 7) (c : BitVec 3) (acc fn : Nat) : Bool :=
  let a := attrsOf mod
  !a.permits acc fn || a.badScope c || blockLong d.toNat (a.block acc) || blockStraddles [(d.toNat, a.block acc)]

/-- A reserved encoding that no table of fields shows alone (R44): values that the hints before the word complete, and
blocks that straddle 119 and 120 (R107), among the words that a run forbids too. -/
def reservedInRun (imm : Option (BitVec 25)) (mod : Option ModHint) : Instr → Bool
  | .hrun _ _ a b => flagReserved a || flagReserved b
  | .hend f x y z => flagReserved f || [x, y, z].any hendRegReserved
  | .st d _ _ w _ => blockStraddles [(d.toNat, regsFor (widthBytes w.toNat))]
  | .scopedLd d _ _ c => scopedReserved mod d c accLoad 0
  | .scopedSt d _ _ c => scopedReserved mod d c accStore 1
  | .cas d _ _ c => scopedReserved mod d c accCas 2
  | .atomAdd d _ _ c => scopedReserved mod d c accAtom 3
  | .atomAnd d _ _ c => scopedReserved mod d c accAtom 4
  | .atomOr d _ _ c => scopedReserved mod d c accAtom 5
  | .atomXor d _ _ c => scopedReserved mod d c accAtom 6
  | .atomMin d _ _ c => scopedReserved mod d c accAtom 7
  | .atomMax d _ _ c => scopedReserved mod d c accAtom 8
  | .atomMinn d _ _ c => scopedReserved mod d c accAtom 9
  | .atomMaxn d _ _ c => scopedReserved mod d c accAtom 10
  | .atomExch d _ _ c => scopedReserved mod d c accAtom 11
  | .atomFadd d _ _ c => scopedReserved mod d c accAtom 12
  | .cflush l _ => l == 1#1 && imm.getD 0#25 != 0#25
  | .cinv l _ => l == 1#1 && imm.getD 0#25 != 0#25
  | .cinvI l _ => l == 1#1 && imm.getD 0#25 != 0#25
  | .mrd .. => false
  | i => blockStraddles (vecUse i).1 || blockStraddles (vecUse i).2

/-- The hints that stand before the word after `i` in a run (R26). -/
def hintsAfter (imm : Option (BitVec 25)) : Instr → Option (BitVec 25) × Option ModHint
  | .himm p => (some p, none)
  | .hmod g n p r m c o wd sp => (imm, some (modOf g n p r m c o wd sp))
  | _ => (none, none)

/-- What a hint of a run raises by the words after it (R26). -/
def hintInRun (imm : Option (BitVec 25)) (rest : List (Except Nat Word)) : Instr → Option Nat
  | .himm p => hintsBefore (some p) none rest
  | .hmod g n p r m c o wd sp => hintsBefore imm (some (modOf g n p r m c o wd sp)) rest
  | _ => none

/-- The field of a word's vector index, when it has one. -/
def indexField : Instr → Option Nat
  | .ld _ _ v _ x => if x.getLsbD 3 then some v.toNat else none
  | _ => none

/-- One word of a run: the cause of its failure (R44), in the order of the rows, under the hints `hints` before it. `rest`
are the words after it. -/
def wordFault (vregs window : Nat) (written : BitVec 8) (hints : Option (BitVec 25) × Option ModHint) (w : Word)
    (rest : List (Except Nat Word)) : Except Nat (Instr × BitVec 8) :=
  match decode w with
  | .error e => .error (illegalDetail e)
  | .ok i =>
    let use := vecUse i
    match hintInRun hints.1 rest i with
    | some d => .error d
    | none =>
      if reservedInRun hints.1 hints.2 i then .error 3
      else if !runAllowed w i then .error (32 + 2)
      else if tempBits use.1 &&& ~~~written != 0#8 then .error (32 + 3)
      else
        match boundFault vregs window none use.2, boundFault vregs window (indexField i) use.1 with
        | some d, _ => .error (64 + d)
        | none, some d => .error (64 + d)
        | none, none => .ok (i, written ||| tempBits use.2)

/-- The closing word of a run (R44). -/
def closingFault (vregs window : Nat) (w : Word) : Option Nat :=
  match decode w with
  | .ok (.hend f x y z) =>
    if flagReserved f || [x, y, z].any hendRegReserved then some 3
    else (boundFault vregs window none (([x, y, z].filter (fun r => r != 127#7)).map (fun r => (r.toNat, 1)))).map (64 + ·)
  | _ => some (32 + 1)

/-- The words from index 1 on, `n` of them, then the closing word: the instructions, or the cause and the index of the
first failure. -/
def checkWords (vregs window : Nat) : Nat → Nat → BitVec 8 → Option (BitVec 25) × Option ModHint → List (Except Nat Word) →
    Except (Nat × Nat) (List Instr)
  | idx, 0, _, _, ws =>
    match ws with
    | .ok w :: _ =>
      match closingFault vregs window w, decode w with
      | some c, _ => .error (c, idx)
      | none, .ok i => .ok [i]
      | none, .error _ => .ok []
    | .error d :: _ => .error (96 + d, idx)
    | [] => .error (96, idx)
  | idx, n + 1, written, hints, ws =>
    match ws with
    | .ok w :: rest =>
      match wordFault vregs window written hints w rest with
      | .error c => .error (c, idx)
      | .ok (i, wr) =>
        match checkWords vregs window (idx + 1) n wr (hintsAfter hints.1 i) rest with
        | .error e => .error e
        | .ok is => .ok (i :: is)
    | .error d :: _ => .error (96 + d, idx)
    | [] => .error (96, idx)

/-- Is the word a load of a run? -/
def isRunLoad : Instr → Bool
  | .ld .. => true
  | .lds .. => true
  | _ => false

def isMrd : Instr → Bool
  | .mrd .. => true
  | _ => false

/-- Free values of a run: 32 lanes of each temporary and of each vector register (R81, R233). -/
def runValues : Nat := 32 * (8 + 256)

/-- Words of closed runs in the time of a run that starts `gap` clocks after the latest issue of the last one (R80). -/
def HendFlag.later (h : HendFlag) (gap : Nat) : HendFlag :=
  { h with clock := 0, flight := h.flight.map (fun w =>
      { w with first := w.first - 2 * (h.clock + gap), complete := w.complete - 2 * (h.clock + gap) }) }

/-- The run starts (R79 steps 3 and 4): flags are bound and the next word is index 1. How many clocks have passed since the
last run closed is free. -/
def State.startRun (s : State) (l : BitVec 5) (a b : BitVec 4) (ws : List Instr) : State :=
  let r : Run :=
    { base := s.cur.frag.pc, len := l.toNat, clock := 0, flagLd := a.toNat, flagMrd := b.toNat, words := ws, temps := [],
      seed := s.fresh + 1, lost := [], twritten := [], flight := [], deferred := none,
      loadsLeft := (ws.filter isRunLoad).length, mrdsLeft := (ws.filter isMrd).length, ldDone := false, mrdDone := false }
  let regs := (s.cur.regs.bindFlag a.toNat).bindFlag b.toNat
  let gap := 1 + (s.freeNow.extractLsb' 0 16).toNat
  State.advance { s.drew (1 + runValues) with cur := { s.cur with run := some r, regs := regs, hend := s.cur.hend.map (·.later gap) } }

/-- HRUN at the current word (R44, R79): the check, the wait, the start. A failed check traps at the PC of HRUN and names
the failing word's address. -/
def State.hrun (s : State) (l : BitVec 5) (w : BitVec 12) (a b : BitVec 4) : State :=
  let pc := s.cur.frag.pc
  let bad (t : State) (cause idx : Nat) : State :=
    t.trap cause { fmask := 0#32, addr := (pc + 4#57 * BitVec.ofNat 57 idx).toNat, aux := 0#64 }
  if l = 0#5 || decide (24 < l.toNat) then bad s 32 0
  else if flagReserved a || flagReserved b then bad s 3 0
  else
    let fetched := s.fetchRun (pc + 4#57) (l.toNat + 1)
    match checkWords s.cur.id.vregs s.xw 1 l.toNat 0#8 (none, none) fetched.2 with
    | .error e => bad fetched.1 e.1 e.2
    | .ok ws =>
      if s.cur.regs.flagsDone w then ((fetched.1.flagsPassed w).startRun l a b ws) else fetched.1.waitAt (.flags w)

/-- HRUN (R43, R44, R79). -/
def execHrun (l : BitVec 5) (w : BitVec 12) (a b : BitVec 4) (s : State) : Out := .next (s.hrun l w a b)

/-- RUN_START (R79): the fragment waits at an HRUN whose flags are done; the run is checked again and starts. -/
def execRunStart (s : State) : Out :=
  .next (match s.fetchWord s.cur.frag.pc with
    | (s1, .ok w) =>
      match decode w with
      | .ok (.hrun l m a b) => if s1.cur.regs.flagsDone m then s1.hrun l m a b else s1
      | _ => s1
    | (s1, .error _) => s1)

/-! ## The end of a run (R43, R80, R81) -/

/-- Does the word of the flight write one of the registers? -/
def writesReg (regs : List Nat) (w : InFlight) : Bool :=
  w.dests.any (fun d => match d with | .vec (.reg r) _ => regs.contains r | _ => false)

/-- Do the registers that the HEND names hold their final values (R43)? -/
def HendFlag.complete (h : HendFlag) : Bool :=
  (h.flight.filter (fun w => h.regs.isEmpty || writesReg h.regs w)).all (·.done)

/-- Complete the flags of closed runs that are due; a run all of whose words are complete is forgotten. -/
def Group.settleFlags (g : Group) : Group :=
  let regs := g.hend.foldl (fun (r : Regs) h => if h.complete then r.unbindFlag h.flag else r) g.regs
  let hs := (g.hend.map (fun h => if h.complete then { h with flag := 15 } else h)).filter
    (fun h => h.flight.any (fun w => !w.done))
  { g with regs := regs, hend := hs }

/-- The run closes (R80, R81): temporaries cease to exist, words that have not completed go on. -/
def Group.closeRun (g : Group) (r : Run) (flag : Nat) (named : List Nat) : Group :=
  let settled := settleBy (2 * (r.clock + 1)) r.flight
  let regs0 := { g.regs with fstat := g.regs.fstat ||| settled.1 }
  let regs1 := if r.ldDone then regs0 else regs0.unbindFlag r.flagLd
  let regs2 := if r.mrdDone then regs1 else regs1.unbindFlag r.flagMrd
  Group.settleFlags
    { g with regs := regs2.bindFlag flag, run := none, hend := g.hend ++ [{ flag := flag, regs := named, flight := settled.2, clock := r.clock + 1 }] }

/-- HEND (R43, R80, R81, R233): a deferred fault of an MRD is raised here and reported at the address after HEND. A reserved
value is looked for before an open run (log 102). -/
def execHend (f : BitVec 4) (x y z : BitVec 7) (s : State) : Out :=
  .next (if flagReserved f || [x, y, z].any hendRegReserved then
      s.trap0 0 3
    else
      match s.cur.run with
      | none => s.trap0 1 4
      | some r =>
        let named := ([x, y, z].filter (fun n => n != 127#7)).map (fun n => n.toNat + s.xw)
        let t := State.advance { s with cur := s.cur.closeRun r f.toNat named }
        match r.deferred with
        | none => t
        | some (cause, pc) =>
          t.stopWith cause { fmask := 0#32, addr := 0, aux := pc.zeroExtend 64 } t.cur.frag.pc.toNat true
            (t.pastUnit t.cur.frag.pc 2) t.cur.frag.member)

/-! ## Completion of words (R76, R90) -/

/-- Words of the group that have issued in a run and not completed: those of the open run, then those of closed runs. -/
def Group.pending (g : Group) : List InFlight :=
  ((g.run.map (·.flight)).getD [] ++ g.hend.flatMap (·.flight)).filter (fun w => !w.done)

/-- Every word of the flight that completes by time `t` completes, when the word `w` is one of them. -/
def settleWith (w : InFlight) (flight : List InFlight) : BitVec 8 × List InFlight :=
  if flight.contains w then settleBy w.complete flight else (0#8, flight)

/-- The word completes, and with it what completes no later in its run. -/
def Group.commit (g : Group) (w : InFlight) : Group :=
  let opened := g.run.map (fun r => (r, settleWith w r.flight))
  let closed := g.hend.map (fun h => (h, settleWith w h.flight))
  let flags := orFlags ((opened.map (·.2.1)).getD 0#8 :: closed.map (·.2.1))
  Group.settleFlags
    { g with regs := { g.regs with fstat := g.regs.fstat ||| flags },
             run := opened.map (fun r => { r.1 with flight := r.2.2 }),
             hend := closed.map (fun h => { h.1 with flight := h.2.2 }) }

/-- Commit the i-th pending word over the groups. -/
def commitAt : Nat → List Group → List Group
  | _, [] => []
  | i, g :: gs =>
    match g.pending[i]? with
    | some w => g.commit w :: gs
    | none => g :: commitAt (i - g.pending.length) gs

/-- The selected group and the others from one list. -/
def State.withGroups (s : State) (gs : List Group) : State :=
  match gs with
  | [] => s
  | g :: rest => { s with cur := g, others := rest }

/-- RESULT_COMMIT (R76, R90): the stream or the latency of a word ends. -/
def execResultCommit (i : Nat) (s : State) : Out := .next (s.withGroups (commitAt i s.groups))

/-! ## Early decision (R83 to R86) -/

/-- Is the value of a temporary that `c` wrote read, and by which words after it? `live`: the lanes in which its value
stands. -/
def readersOf (t : Nat) : Mask → List InFlight → List Nat
  | _, [] => []
  | live, e :: es =>
    let reads := live != 0#32 && e.srcs.contains (.vec (.temp t))
    let writes := e.dests.any (fun d => destLoc d == .vec (.temp t))
    let rest := readersOf t (if writes then live &&& ~~~e.active else live) es
    if reads then e.idx :: rest else rest

/-- The lanes in which a value of temporary `t` still stands after the words. -/
def liveAfter (t : Nat) : Mask → List InFlight → Mask
  | live, [] => live
  | live, e :: es =>
    liveAfter t (if e.dests.any (fun d => destLoc d == .vec (.temp t)) then live &&& ~~~e.active else live) es

/-- Do words of the run that have not issued read the temporary before one writes it in every lane? A word with a guard
may leave lanes (log 22). -/
def readLater (t : Nat) : Bool → List Instr → Bool
  | _, [] => false
  | guarded, i :: is =>
    let use := vecUse i
    let named (us : List (Nat × Nat)) : Bool := us.any (fun u => decide (u.1 ≤ 120 + t) && decide (120 + t < u.1 + u.2))
    let keeps := guarded || isMrd i
    let g := match i with | .hmod g .. => g == 1#1 | _ => false
    named use.1 || ((keeps || !named use.2) && readLater t g is)

/-- Temporaries that a word writes; none when it writes anything else, or nothing. -/
def tempDests (c : InFlight) : Option (List Nat) :=
  if c.dests.isEmpty then none
  else c.dests.mapM (fun d => match d with | .vec (.temp t) _ => some t | _ => none)

/-- Does the word write the location in lane `l`? A vector register, a temporary and a predicate are written in the word's
active lanes only. -/
def InFlight.covers (e : InFlight) (l : Nat) (x : Loc) : Bool :=
  e.dests.any (fun d => destLoc d == x) && (match x with
    | .vec _ => e.active.getLsbD l
    | .pred _ => e.active.getLsbD l
    | _ => true)

/-- Indices of the words on which the values at `need` in lane `l` depend, the words given latest first (R85): a word that
writes a location hides what stood there before. -/
def feeds (l : Nat) : List Loc → List InFlight → List Nat
  | _, [] => []
  | need, e :: es =>
    let hit := need.filter (e.covers l)
    if hit.isEmpty then feeds l need es
    else e.idx :: feeds l (need.filter (fun x => !hit.contains x) ++ e.srcs) es

/-- Does the value of word `c` reach the operand of `w` that lane `l` does not return, and not the one it returns (R85)?
`all` are the words before `w`, latest first. -/
def feedsLoser (w : InFlight) (l : Nat) (all : List InFlight) (c : InFlight) : Bool :=
  match w.returned.getD l none with
  | none => false
  | some k =>
    let lost := (w.srcs.zipIdx.filter (fun x => x.2 != k)).map (·.1)
    (feeds l lost all).contains c.idx && !(feeds l (w.srcs[k]?).toList all).contains c.idx

/-- The cancellable set of the deciding word `w` in lane `l` (R85): `before` are the words issued before it, latest first,
`after` the words issued after a candidate, `later` the words not issued. -/
def cancelSet (w : InFlight) (l : Nat) (later : List Instr) : List InFlight → List InFlight → List Nat → List Nat
  | [], _, set => set
  | c :: before, after, set =>
    let ok := !c.done && match tempDests c with
      | none => false
      | some ts =>
        let readers := ts.flatMap (fun t => readersOf t c.active after)
        let open_ := ts.any (fun t => liveAfter t c.active after != 0#32 && readLater t false later)
        !readers.isEmpty && !open_ && readers.all (fun i => i == w.idx || set.contains i)
    let operand := w.returned.isEmpty ||
      feedsLoser w l ((after.filter (fun e => decide (e.idx < w.idx))).reverse ++ c :: before) c
    cancelSet w l later before (c :: after) (if ok && operand then c.idx :: set else set)

/-- When lane `l` of a word that returns an operand is complete after an early decision: when the stream of that operand is
(R84); an operand that is no stream of the run leaves the word's own time. -/
def returnedEnd (w : InFlight) (before : List InFlight) (l : Nat) : Nat :=
  match (w.returned.getD l none).bind (fun k => w.srcs[k]?) with
  | none => w.complete
  | some x =>
    match before.find? (fun e => e.covers l x) with
    | some e => if streamedFrom x e then e.complete else w.complete
    | none => w.complete

/-- The word after an early decision in the lanes of `settle`: a word that returns an operand completes early when every
active lane has settled (R84). `before` are the words issued before it, latest first. -/
def InFlight.settled (w : InFlight) (before : List InFlight) (settle : Mask) : InFlight :=
  let early := w.early ||| settle
  let ends := ((List.range 32).filter (fun l => w.active.getLsbD l)).map (returnedEnd w before)
  { w with open_ := w.open_ &&& ~~~settle, early := early,
           complete := if !w.returned.isEmpty && w.active &&& ~~~early == 0#32 then ends.foldl max 0 else w.complete }

/-- FSTAT.inexact and FSTAT.underflow, which a cancelled word may leave out (R86). -/
def droppedFlags : BitVec 8 := 0x18#8

/-- The decision of word `w` of a flight: it settles in the lanes of `settle`, cancels among its set where `pick` has a
one, and drops flags where `drop` has a one. -/
def decideIn (w : InFlight) (later : List Instr) (settle : Mask) (pick drop : Nat → Mask) (flight : List InFlight) :
    List InFlight :=
  let before := (flight.filter (fun e => decide (e.idx < w.idx))).reverse
  let after := flight.filter (fun e => decide (w.idx ≤ e.idx))
  let sets := (List.range 32).map (fun l => if settle.getLsbD l then cancelSet w l later before after [] else [])
  flight.map (fun e =>
    if e.idx = w.idx then e.settled before settle
    else
      let lanes := mkMask (fun l => (sets.getD l []).contains e.idx) &&& pick e.idx
      let flags := e.flags.zipIdx.map (fun fl =>
        if lanes.getLsbD fl.2 && (drop e.idx).getLsbD fl.2 then fl.1 &&& ~~~droppedFlags else fl.1)
      { e with cancelled := e.cancelled ||| lanes, flags := flags })

/-- Deciding words of a group that have lanes left to settle. -/
def Group.deciding (g : Group) : List InFlight := g.pending.filter (fun w => w.decides && w.open_ != 0#32)

/-- The decision in a group; FSTAT.cut is set when a word is cancelled in a lane (R86). -/
def Group.decideWord (g : Group) (w : InFlight) (seed : Nat) : Group :=
  let half (i : Nat) (hi : Nat) : Mask := (Config.free (seed + 1 + i)).extractLsb' hi 32
  let settle := w.open_ &&& (Config.free seed).extractLsb' 0 32
  let act (later : List Instr) (fl : List InFlight) : List InFlight :=
    if fl.contains w then decideIn w later settle (fun i => half i 0) (fun i => half i 32) fl else fl
  let run := g.run.map (fun r => { r with flight := act (r.words.drop (r.index g.frag.pc - 1)) r.flight })
  let hend := g.hend.map (fun h => { h with flight := act [] h.flight })
  let count (fl : List InFlight) : Nat := (fl.filter (fun e => e.cancelled != 0#32)).length
  let old := (g.run.map (fun r => count r.flight)).getD 0 + (g.hend.map (fun h => count h.flight)).foldl (· + ·) 0
  let new := (run.map (fun r => count r.flight)).getD 0 + (hend.map (fun h => count h.flight)).foldl (· + ·) 0
  { g with run := run, hend := hend,
           regs := if old < new then { g.regs with fstat := g.regs.fstat ||| 0x40#8 } else g.regs }

/-- Decide at the i-th deciding word over the groups. -/
def decideAt (seed : Nat) : Nat → List Group → List Group
  | _, [] => []
  | i, g :: gs =>
    match g.deciding[i]? with
    | some w => g.decideWord w seed :: gs
    | none => g :: decideAt seed (i - g.deciding.length) gs

/-- EARLY_DECISION (R83 to R86): which lanes settle now, which members of the cancellable set are cancelled there and
which of their flags stay away are free. -/
def execEarlyDecision (i : Nat) (s : State) : Out :=
  .next ((s.drew 32).withGroups (decideAt s.fresh i s.groups))

end Sys2Proof.Machine
end

