-- ==== Sys2Proof/Machine/Traps.lean ====
section
/-! DEFINITION. The words of major 22 but for the CSR accesses: TRAP, BKPT, WATCH, GSTOP, GRESUME, GKILL, TLBINV (R323 to
R337), and the posting of fault records (R321). -/

namespace Sys2Proof.Machine

/-- A word that only a privileged group may issue (R334). -/
def State.privileged (s : State) (k : State) : State := if s.cur.id.privileged then k else s.trap0 4 9

/-- An engine-operand fault (R329, R272). -/
def State.operandFault (s : State) : State := s.trap0 15 0

/-- A deliberate stop: the word completes, then the group stops (R325). -/
def State.deliberate (s : State) (cause : Nat) (aux : DWord) : State :=
  let t := s.advance
  t.stopWith cause { fmask := 0#32, addr := 0, aux := aux } s.unitPc.toNat false t.cur.frag.pc t.cur.frag.member

/-- TRAP (R324, R325). -/
def execTrap (n : BitVec 6) (b : BitVec 6) (g : BitVec 1) (s : State) : Out :=
  .next (s.deliberate (960 + n.toNat) (if g = 1#1 then s.getS b else 0#64))

/-- BKPT (R324, R325). -/
def execBkpt (n : BitVec 5) (s : State) : Out := .next (s.deliberate (32 * 29 + n.toNat) 0#64)

/-- The slot that a watch control word describes, for address `a` (R326): none when it is refused; some none disables. -/
def watchOf (a c : DWord) : Option (Option WatchSlot) :=
  if !c.getLsbD 4 then some none
  else
    let lg := (c.extractLsb' 16 5).toNat
    let space := (c.extractLsb' 8 2).toNat
    let w : WatchSlot :=
      { addr := a.toNat, lg := lg, space := space, exec := c.getLsbD 11, read := c.getLsbD 12, write := c.getLsbD 13,
        atomic := c.getLsbD 14, async := c.getLsbD 15 }
    if c.extractLsb' 21 43 != 0#43 || c.getLsbD 10 || c.extractLsb' 5 3 != 0#3 || c.extractLsb' 2 2 != 0#2
        || decide (lg < 2) || decide (30 < lg) || space == 3 || a.toNat % 2 ^ lg != 0 || (w.exec && space != 2)
        || (w.async && !w.write) then none
    else some (some w)

/-- WATCH (R326). -/
def execWatch (a b : BitVec 6) (s : State) : Out :=
  .next (match watchOf (s.getS a) (s.getS b) with
  | none => s.trap0 4 11
  | some w =>
    State.advance { s with cur := { s.cur with watch := sput none s.cur.watch ((s.getS b).extractLsb' 0 2).toNat w } })

/-! ## Acting on other groups (R329 to R333) -/

/-- Do the selection registers hold a reserved value (R329)? -/
def selectionBad (sel member : DWord) : Bool :=
  sel.extractLsb' 62 2 == 3#2 || sel.extractLsb' 48 14 != 0#14
    || (sel.extractLsb' 62 2 == 0#2 && member.extractLsb' 8 24 != 0#24)

/-- Does the selection name the group (R329)? -/
def selects (job : BitVec 16) (sel member : DWord) (g : GroupId) : Bool :=
  g.job == job &&
    match (sel.extractLsb' 62 2).toNat with
    | 0 => g.grid % 2 ^ 48 == (sel.extractLsb' 0 48).toNat && g.clu == (member.extractLsb' 32 32).toNat
        && g.team == (member.extractLsb' 4 4).toNat && g.grp == (member.extractLsb' 0 4).toNat
    | 1 => g.grid % 2 ^ 48 == (sel.extractLsb' 0 48).toNat
    | _ => true

/-- The fragment that holds the lowest lane. -/
def Group.lowest (g : Group) : Frag := (lowestFrag g.frag g.sibs).1

/-- GSTOP acts on one group (R330). -/
def State.stopGroup (s : State) (issuer : BitVec 32) (g : Group) : State :=
  if g.stop.isSome then s
  else
    let r := s.recordOf g (32 * 28) g.lowest.pc.toNat 0#32 0 (issuer.zeroExtend 64)
    (s.onGroup g.id.grid g.id.clu g.id.team g.id.grp (fun h => h.stopped (32 * 28) 0#32 false 0#57 0#32)).report r
      g.id.privileged

/-- The fragment that caused the stop continues as the mode gives (R331): 0 retry, 1 fmask, 2 skip. -/
def Frag.resumed (f : Frag) (st : Stop) (fmask : Mask) (mode : Nat) (nowatch : Bool) : Frag :=
  if st.frag == 0#32 || f.member != st.frag then f
  else
    let f1 := { f with nowatch := nowatch }
    if !st.modal then f1
    else if mode = 1 then { f1 with limit := some fmask }
    else if mode = 2 then { f1 with pc := st.skipTo, hint := none, wait := .ready, fuse := .none }
    else f1

/-- GRESUME acts on one group (R331). -/
def Group.resumedWith (mode : Nat) (nowatch : Bool) (g : Group) : Group :=
  match g.stop with
  | none => g
  | some st =>
    { g with stop := none, frag := g.frag.resumed st g.regs.fmask mode nowatch,
             sibs := g.sibs.map (fun f => f.resumed st g.regs.fmask mode nowatch) }

/-- Is there no room for a record, by the ring's registers (R321)? -/
def FaultUnit.full (f : FaultUnit) : Bool :=
  !f.enable || decide (2 ^ (f.logEntries.toNat + 4) ≤ (f.tail - f.head).toNat)

/-- Are records being held (R320, R321)? -/
def FaultUnit.held (f : FaultUnit) : Bool := !f.records.isEmpty && (f.full || f.heldBit)

/-- Does a record tell of a stop of the group? Watch events tell of another's write. -/
def Record.names (r : Record) (g : GroupId) : Bool :=
  r.job == g.job && r.grid == g.grid && r.clu == g.clu && r.team == g.team && r.grp == g.grp && r.nfrag != 0
    && !droppable r.cause

/-- A held record of a group that GKILL has ended is discarded (R332). -/
def FaultUnit.discard (f : FaultUnit) (g : GroupId) : FaultUnit :=
  if f.held then { f with records := f.records.filter (fun r => !r.names g) } else f

/-- GKILL acts on one group (R332): it ends as by EXIT, its pending register writes are discarded, and its launch ends
killed. -/
def State.killGroup (s : State) (g : GroupId) : State :=
  let s1 := (s.onGroup g.grid g.clu g.team g.grp Group.ended).countsFall g
  { s1 with
    fault := s1.fault.discard g,
    sched := { s1.sched with
      launches := s1.sched.launches.map (fun l => if l.grid == g.grid then { l with killed := true } else l) } }

/-- A launch of a grid that starts no further cluster. -/
def Launch.halted (grid : Nat) (job : BitVec 16) (l : Launch) : Launch :=
  if l.grid == grid && l.job == job then { l with stopped := true } else l

/-- With kind 1, clusters of the grid that have not started never start (R332). -/
def State.stopGrid (s : State) (job : BitVec 16) (sel : DWord) : State :=
  if sel.extractLsb' 62 2 == 1#2 then
    let grid := (sel.extractLsb' 0 48).toNat
    let f := Launch.halted grid job
    let queues := s.sched.queues.map (fun q => (q.1, { q.2 with host := q.2.host.map f, dev := q.2.dev.map f }))
    { s with sched := { s.sched with launches := s.sched.launches.map f, queues := queues } }
  else s

/-- A word that selects saved groups is held for them (R344). -/
def State.holdWord (s : State) (job : BitVec 16) (w : HeldWord) : State :=
  { s with ctx := { s.ctx with
      saved := s.ctx.saved.map (fun c =>
        if c.job == job && c.groups.any (fun g => selects job w.sel w.member g.id) then { c with held := c.held ++ [w] }
        else c) } }

/-- A word of R329 acts on one group. -/
def State.applyOn (s : State) (w : HeldWord) (g : Group) : State :=
  match w.kind with
  | 0 => s.stopGroup w.issuer g
  | 1 => s.onGroup g.id.grid g.id.clu g.id.team g.id.grp (fun h => h.resumedWith w.mode w.nowatch)
  | _ => s.killGroup g.id

/-- Is the group inside a run that no stop has interrupted (R329), or inside a word? -/
def Group.inRun (g : Group) : Bool := (g.run.isSome && g.stop.isNone) || g.part.isSome

/-- Does a word of R329 wait for the group's boundary: for the end of a run or a word, behind words that wait already, or,
a GSTOP, for a trap that the group is about to take (R333)? -/
def Group.defers (g : Group) (kind : Nat) : Bool :=
  g.inRun || !g.due.isEmpty || (kind == 0 && !g.swapped && g.stop.isNone && !g.cmdFaults.isEmpty)

/-- A word of R329 reaches one group, at once or at its next boundary. -/
def State.reach (s : State) (w : HeldWord) (g : Group) : State :=
  if g.defers w.kind then s.onGroup g.id.grid g.id.clu g.id.team g.id.grp (fun h => { h with due := h.due ++ [w] })
  else s.applyOn w g

/-- Apply a word of R329 to the groups of a job that it selects. -/
def State.applyWord (s : State) (job : BitVec 16) (w : HeldWord) : State :=
  let t := (s.liveGroups.filter (fun g => selects job w.sel w.member g.id)).foldl (fun u g => u.reach w g) s
  if 2 ≤ w.kind then t.stopGrid job w.sel else t

/-- The selected group has reached the end of its run: the words that waited for it act, oldest first. -/
def State.meetDue (s : State) : State :=
  s.cur.due.foldl (fun t w => if t.cur.alive then t.applyOn w t.cur else t) { s with cur := { s.cur with due := [] } }

/-- GSTOP, GRESUME, GKILL: the privilege, the selection, then the effect after the word (R329, R334). -/
def State.onSelected (s : State) (kind : Nat) (a b : BitVec 6) (mode : Nat) (nowatch : Bool) : State :=
  s.privileged (
    if selectionBad (s.getS a) (s.getS b) then s.operandFault
    else
      let w : HeldWord := { kind := kind, sel := s.getS a, member := s.getS b, mode := mode, nowatch := nowatch,
                            issuer := s.groupSource s.cur.id }
      (s.advance.applyWord s.cur.id.job w).holdWord s.cur.id.job w)

/-- GSTOP (R330). -/
def execGstop (a b : BitVec 6) (s : State) : Out := .next (s.onSelected 0 a b 0 false)

/-- GRESUME.retry (R331). -/
def execGresumeRetry (a b : BitVec 6) (w : BitVec 1) (s : State) : Out := .next (s.onSelected 1 a b 0 (w == 1#1))

/-- GRESUME.fmask (R331). -/
def execGresumeFmask (a b : BitVec 6) (w : BitVec 1) (s : State) : Out := .next (s.onSelected 1 a b 1 (w == 1#1))

/-- GRESUME.skip (R331). -/
def execGresumeSkip (a b : BitVec 6) (w : BitVec 1) (s : State) : Out := .next (s.onSelected 1 a b 2 (w == 1#1))

/-- GKILL (R332). -/
def execGkill (a b : BitVec 6) (s : State) : Out := .next (s.onSelected 2 a b 0 false)

/-- Cached translations that cover job-space address `a`, and the cached entries of its walk, leave (R336). -/
def tlbWithout (m : SMap (Option Leaf)) (a : Nat) : SMap (Option Leaf) := m.filter (fun e => !cachedFor a e)

/-- Are accesses to peers under way on the package (R336)? -/
def State.accessesOut (s : State) : Bool := !s.fabric.txns.isEmpty || !s.fabric.held.isEmpty

/-- TLBINV (R336): .page drops the translations that cover A, .job and .all every one; the fragment holds until the accesses
under way have been performed. -/
def execTlbinv (a : BitVec 6) (r : BitVec 2) (s : State) : Out :=
  .next (s.privileged (
    let m := s.mem.performLate (fun _ => true)
    let s1 := { s with mem := { m with tlb := if r = 0#2 then tlbWithout m.tlb (s.getS a).toNat else [] } }
    let s2 := s1.sendAll (fun _ => true)
    if s2.accessesOut then s2.waitAt .performed else s2.advance))

/-! ## Posting fault records (R317, R321) -/

/-- A number below 2^(hi - lo + 1) at bit `lo` of a word. -/
def at_ (lo : Nat) (x : Nat) : Nat := x * 2 ^ lo

/-- The 64 bytes of a record (R317). -/
def Record.bytes (r : Record) : List Byte :=
  leBytes 8 r.time.toNat ++ leBytes 8 (at_ 32 r.source.toNat + r.cause % 1024)
    ++ leBytes 8 (at_ 48 r.job.toNat + r.grid % 2 ^ 48)
    ++ leBytes 8 (at_ 32 (r.clu % 2 ^ 32) + at_ 22 (r.core % 1024) + at_ 8 (if r.inRun then 1 else 0)
        + at_ 4 (r.team % 16) + r.grp % 16)
    ++ leBytes 8 (r.pc % 2 ^ 57) ++ leBytes 8 (at_ 40 (r.nfrag % 256) + r.fmask.toNat) ++ leBytes 8 (r.addr % 2 ^ 64)
    ++ leBytes 8 r.aux.toNat

/-- Records stay held because their entry cannot be written (R321); the host is signalled when the holding begins. -/
def State.holdRecords (s : State) : State :=
  if s.fault.heldBit then s else { s with fault := { s.fault with heldBit := true }, msi := s.msi ++ [0] }

/-- Job-space address of the next entry of the fault ring (R321). -/
def FaultUnit.entryAt (f : FaultUnit) : Nat := f.base.toNat + 64 * (f.tail.toNat % 2 ^ (f.logEntries.toNat + 4))

/-- The page of the next entry, when it translates to a writable kind-1 page (R321). -/
def State.ringPage (s : State) : State × Option Leaf :=
  match s.translate (s.fault.entryAt % 2 ^ 57) with
  | (s1, .ok l) => (s1, if l.kind = 1 && l.write then some l else none)
  | (s1, .error _) => (s1, none)

/-- Can the fault unit post its oldest record (R319, R321)? Held records go as soon as the ring can take them; no record
accepted later may come before it any more. -/
def State.postReady (s : State) : Bool :=
  match s.fault.records with
  | [] => false
  | r :: _ => !s.fault.full && decide (r.time.toNat < s.time.toNat) && (!s.fault.heldBit || s.ringPage.2.isSome)

/-- FAULT_RECORD_POST (R321): the oldest record is written into its entry, then tail advances; a record that cannot be
posted is held. -/
def execFaultRecordPost (s : State) : Out :=
  .next (match s.fault.records with
  | [] => s
  | r :: rest =>
    if s.fault.full then s
    else
      match s.ringPage with
      | (s1, some l) =>
        { s1 with mem := s1.mem.pkgWrite (leafPhys l (s.fault.entryAt % 2 ^ 57)) r.bytes,
                  fault := { s1.fault with records := rest, tail := s1.fault.tail + 1#32, heldBit := false } }
      | (s1, none) => s1.holdRecords)

end Sys2Proof.Machine
end

