-- ==== Sys2Proof/Machine/Launches.lean ====
section
/-! DEFINITION. Launch records and launch queues (R129, R130, R293 to R299, R421): the check of a record, LAUNCH, and the
taking of a record from a host ring. -/

namespace Sys2Proof.Machine

/-! ## The launch record -/

/-- The `n` bits from bit `lo` of a number. -/
def field (x lo n : Nat) : Nat := x / 2 ^ lo % 2 ^ n

/-- The little-endian 64-bit word at offset `o` of a byte string. -/
def word64 (bs : List Byte) (o : Nat) : Nat := leNat ((bs.drop o).take 8)

/-- A dependence slot (R297): none when a reserved field is set. -/
def depOf (w : Nat) : Option (Nat × Nat × Nat) :=
  let use := field w 62 2
  let value := field w 12 32
  let counter := field w 0 12
  if field w 44 18 != 0 || ((use == 0 || use == 2) && value != 0) || (use == 0 && counter != 0) then none
  else some (use, value, counter)

/-- The record that 128 bytes hold (R129); none when it is malformed (R130). -/
def recordFrom (bs : List Byte) : Option LaunchRec :=
  let w (o : Nat) : Nat := word64 bs o
  let entry := w 0
  let args := w 8
  let spill := w 0x10
  let a := w 0x18
  let b := w 0x20
  let spills := field b 22 8
  match (List.range 4).mapM (fun i => depOf (w (0x28 + 8 * i))) with
  | none => none
  | some deps =>
    if decide (2 ^ 57 ≤ entry) || entry % 4 != 0 || decide (2 ^ 57 ≤ args) || decide (2 ^ 57 ≤ spill)
        || (spills != 0 && spill % 256 != 0) || field a 32 32 == 0 || field a 28 4 != 0 || field a 24 4 == 0
        || decide (10 < field a 24 4) || field a 20 4 == 0 || decide (12 < field a 20 4)
        || decide (12 < field a 24 4 * field a 20 4) || decide (16 < field a 6 5) || field a 0 3 != 0
        || field b 48 16 != 0 || decide (384 < field b 39 9) || decide (256 < field b 30 9) || decide (248 < spills)
        || field b 16 6 != 0 || !((bs.drop 0x48).take 56).all (· == 0#8) then none
    else some
      { entry := BitVec.ofNat 57 entry, args := BitVec.ofNat 57 args, spillBase := BitVec.ofNat 57 spill,
        clusters := field a 32 32, rows := field a 24 4, cols := field a 20 4, groups := field a 16 4 + 1,
        vregs := 8 * (field a 11 5 + 1), accs := field a 6 5, priority := field a 4 2, rowstat := a.testBit 3,
        tilePages := field b 39 9, tiles := field b 30 9, spillEntries := spills, waitThresh := field b 0 16,
        deps := deps }

/-- Banks of a parity group that have failed (R161, R165). -/
def TileErrors.failedIn (e : TileErrors) (g : Nat) : Nat :=
  (if e.failedParity.getLsbD g then 1 else 0) + onesOf (e.failedData.extractLsb' (8 * g) 8)

/-- No new team may start on the core: two banks of one parity group have failed (R165). -/
def State.coreExcluded (s : State) (core : Nat) : Bool :=
  (List.range 4).any (fun g => decide (2 ≤ (sget TileErrors.reset s.mem.tileErrors core).failedIn g))

/-- CORE of a die's row and column (R23). -/
def coreAt (die row col : Nat) : Nat := 256 * die + 16 * row + col

/-- Cores of a rectangle, in TEAM order (R131). -/
def rectangle (die row col rows cols : Nat) : List Nat :=
  (List.range rows).flatMap (fun i => (List.range cols).map (fun j => coreAt die (row + i) (col + j)))

/-- Origins of a die in row-major order that leave the rectangle inside the mesh (R301). -/
def origins (r : LaunchRec) : List (Nat × Nat) :=
  ((List.range (11 - r.rows)).flatMap (fun row => (List.range (17 - r.cols)).map (fun col => (row, col)))).filter
    (fun o => !r.rowstat || (o.1 % 2 == 0 && o.2 % 2 == 0))

/-- Can the record's cluster fit on an empty package (R130, R302)? -/
def State.placeable (s : State) (r : LaunchRec) : Bool :=
  decide (r.groups * r.vregs * 128 ≤ 2 ^ 20) && decide (r.groups * r.accs * 3584 ≤ 512 * 1024)
    && (List.range 4).any (fun die => (origins r).any (fun o =>
      (rectangle die o.1 o.2 r.rows r.cols).all (fun c => !s.coreExcluded c)))

/-- The check of R130: none when the record passes, else the detail of class 4 at LAUNCH. -/
def State.checkRecord (s : State) (bs : List Byte) : Except Nat LaunchRec :=
  match recordFrom bs with
  | none => .error 7
  | some r => if s.placeable r then .ok r else .error 8

/-! ## Lists and queues -/

def State.queue (s : State) (q : Nat) : Queue := sget Queue.reset s.sched.queues q

def State.putQueue (s : State) (q : Nat) (x : Queue) : State :=
  { s with sched := { s.sched with queues := sput Queue.reset s.sched.queues q x } }

/-- GRID (R295). -/
def gridOf (q : Nat) (device : Bool) (n : Nat) : Nat := q * 2 ^ 42 + (if device then 2 ^ 41 else 0) + n % 2 ^ 41

/-- A launch of a record. -/
def newLaunch (grid : Nat) (job : BitVec 16) (r : LaunchRec) (priv : Bool) (q : Nat) (device : Bool) (entry : Nat) : Launch :=
  { grid := grid, job := job, record := r, privileged := priv, queue := q, device := device, entryAddr := entry,
    started := 0, killed := false, stopped := false }

/-- The record enters the device list (R299). -/
def State.enterDevice (s : State) (q : Nat) (r : LaunchRec) (d : BitVec 6) : State :=
  let x := s.queue q
  let grid := gridOf q true x.takenDev
  let l := newLaunch grid s.cur.id.job r false q true 0
  ((s.putQueue q { x with dev := x.dev ++ [l], takenDev := x.takenDev + 1 }).putS d (BitVec.ofNat 64 grid)).advance

/-- LAUNCH once its record is read (R299): the fragment waits while the device list is full, then while the release is not
done. -/
def State.launchRecord (s : State) (q : Nat) (r : LaunchRec) (d : BitVec 6) : State :=
  let s1 := s.flushGroup s.cur.id
  if 16 ≤ (s.queue q).dev.length then s.waitAt (.deviceList q r)
  else if s1.drains s.cur.id (.release 5 false) then s1.waitAt (.deviceList q r)
  else State.enterDevice { s1 with mem := s1.mem.released s.cur.id 5 } q r d

/-- LAUNCH (R299): the record is read once; a fault of its check names its address (R4, R130). -/
def execLaunch (d a : BitVec 6) (s : State) : Out :=
  .next (match s.cur.frag.wait with
  | .deviceList q r => s.launchRecord q r d
  | _ =>
    let va := (s.getS a).toNat
    let q := s.cur.id.grid / 2 ^ 42 % 64
    if va % 128 != 0 || decide (2 ^ 57 ≤ va) then s.trap0 4 6
    else
      match s.translate va with
      | (s1, .error _) => s1.trap0 4 6
      | (s0, .ok l) =>
        let s1 := s0.ownStores
        if l.kind ≠ 1 || !l.read then s1.trap0 4 6
        else if pkgPoisoned s1.mem (leafPhys l va) 128 then
          s1.trap (32 * 12 + 8) { fmask := 0#32, addr := va, aux := 0#64 }
        else
          match s1.checkRecord (readBytes s1.mem.pkg (leafPhys l va) 128) with
          | .error d => s1.trap (32 * 4 + d) { fmask := 0#32, addr := va, aux := 0#64 }
          | .ok r => s1.launchRecord q r d)

/-- Address of entry `k` of a queue's ring (R294). -/
def Queue.entryAt (x : Queue) (k : Nat) : Nat := x.base.toNat + 128 * (k % 2 ^ x.logEntries.toNat)

/-- Bytes at a job-space address that a queue reads: none when the page is not a readable kind-1 page or a word is poisoned
(R294). -/
def State.queueRead (s : State) (va n : Nat) : State × Option (List Byte) :=
  if 2 ^ 57 ≤ va then (s, none)
  else
    match s.translate va with
    | (s1, .error _) => (s1, none)
    | (s1, .ok l) =>
      if l.kind = 1 && l.read && !pkgPoisoned s1.mem (leafPhys l va) n then
        (s1, some (readBytes s1.mem.pkg (leafPhys l va) n))
      else (s1, none)

/-- The bytes of an ASCII string. -/
def ascii (t : String) : List Byte := t.toList.map (fun c => BitVec.ofNat 8 c.toNat)

/-- The bytes of a digest. -/
def digestBytes (d : BitVec 256) : List Byte := leBytes 32 d.toNat

/-- The key slot that a job holds (R410). -/
def State.keySlot (s : State) (job : BitVec 16) : Option KeySlot :=
  (s.sec.slots.filterMap id).find? (fun k => k.job == job)

/-- Does the signature of record `k` verify under the owner's key (R421)? -/
def State.signedBy (s : State) (q : Nat) (x : Queue) (rec sig : List Byte) : Bool :=
  match s.keySlot x.job with
  | none => false
  | some slot =>
    let msg := ascii "KQ9L" ++ leBytes 2 x.job.toNat ++ leBytes 1 q ++ leBytes 4 x.head.toNat ++ rec.take 0x78
    Config.sm2Verify slot.owner (digestBytes (Config.sm3 msg)) (BitVec.ofNat 512 (leNat sig))

/-- The completion word (R295). -/
def completionWord (grid status : Nat) : Nat := 2 ^ 63 + grid / 8 * 8 + status

/-- Write a completion word into a ring entry (R295): a release at .sys. -/
def State.writeCompletion (s : State) (entry grid status : Nat) : State :=
  let va := entry + 0x78
  if 2 ^ 57 ≤ va then s
  else
    match s.translate va with
    | (s1, .ok l) =>
      if l.kind = 1 then { s1 with mem := s1.mem.pkgWrite (leafPhys l va) (leBytes 8 (completionWord grid status)) } else s1
    | (s1, .error _) => s1

/-- The queue stalls; the host is signalled (R294). -/
def State.stallQueue (s : State) (q : Nat) : State :=
  { (s.putQueue q { s.queue q with stalled := true, retry := false }) with msi := s.msi ++ [0] }

/-- May the queue take its next host-ring record (R294)? -/
def Queue.canTake (x : Queue) : Bool := x.enable && x.head != x.tail && (!x.stalled || x.retry)

/-- The head of the host ring's list is checked (R294): a refused record is skipped, with its completion word. -/
def State.settleHost (q : Nat) : Nat → State → State
  | 0, s => s
  | n + 1, s =>
    let x := s.queue q
    match x.host, x.taken with
    | [], r :: rest =>
      match (if r.signed then s.checkRecord r.bytes else .error 7) with
      | .error _ => State.settleHost q n ((s.putQueue q { x with taken := rest }).writeCompletion r.entry r.grid 2)
      | .ok rec => s.putQueue q { x with taken := rest, host := [newLaunch r.grid r.job rec r.privileged q false r.entry] }
    | _, _ => s

/-- The host ring's list goes on until its head has been checked. -/
def State.headChecked (s : State) (q : Nat) : State := State.settleHost q (s.queue q).taken.length s

/-- QUEUE_TAKE_RECORD (R294, R295, R421): the record is read once and head advances; the head of the list is checked. -/
def execQueueTakeRecord (q : BitVec 6) (s : State) : Out :=
  .next (
    let n := q.toNat
    let x := s.queue n
    if !x.canTake then s
    else
      let k := x.head.toNat
      let entry := x.entryAt k
      match s.queueRead entry 128 with
      | (s1, none) => s1.stallQueue n
      | (s1, some rec) =>
        let sigAt := x.base.toNat + 128 * 2 ^ x.logEntries.toNat + 64 * (k % 2 ^ x.logEntries.toNat)
        match (if x.signed then s1.queueRead sigAt 64 else (s1, some [])) with
        | (s2, none) => s2.stallQueue n
        | (s2, some sig) =>
          let r : TakenRecord :=
            { grid := gridOf n false x.takenHost, entry := entry, job := x.job, bytes := rec,
              signed := !x.signed || s2.signedBy n x rec sig,
              privileged := x.signed && s2.fault.supEnable && s2.fault.supQueue == q }
          let taken := { x with head := x.head + 1#32, takenHost := x.takenHost + 1, stalled := false, retry := false,
                                taken := x.taken ++ [r] }
          (s2.putQueue n taken).headChecked n)

end Sys2Proof.Machine
end

