-- ==== Sys2Proof/Machine/MatrixMath.lean ====
section
/-! DEFINITION. The arithmetic of the matrix engine: elements and scales (R60 to R64, R213 to R217), the accumulator update
(R70 to R72), the sparse rows (R220), the epilogue chain (R230 to R232), the online softmax factors (R235). -/

namespace Sys2Proof.Machine

/-- The environment of RoundQuiet and of the epilogue (R70, R231): nearest-even, no flush. -/
def quiet (sat : Bool) : FEnv := { mode := 0, ftz := false, sat := sat }

/-! ## Formats -/

/-- The formats of the format block by code (R213). -/
def elemFmt (c : Nat) : Fmt :=
  match c with
  | 0 => .bf16
  | 1 => .fp16
  | 2 => .e4m3
  | 3 => .e5m2
  | 4 => .t8
  | 5 => .t6
  | _ => .fp4

/-- The k class of a format code (R213). -/
def classOf (c : Nat) : Nat :=
  match c with
  | 0 => 16
  | 1 => 16
  | 2 => 32
  | 3 => 32
  | 4 => 32
  | 5 => 40
  | _ => 64

/-- The code of element `q` in the bytes of a row or column (R214). -/
def elemCode (cls : Nat) (bs : List Byte) (q : Nat) : Nat :=
  let byte (i : Nat) : Nat := (bs.getD i 0#8).toNat
  if cls = 16 then byte (2 * q) + 256 * byte (2 * q + 1)
  else if cls = 32 then byte q
  else if cls = 40 then
    let w := byte (3 * (q / 4)) + 256 * byte (3 * (q / 4) + 1) + 65536 * byte (3 * (q / 4) + 2)
    w / 2 ^ (6 * (q % 4)) % 64
  else if q % 2 = 0 then byte (q / 2) % 16 else byte (q / 2) / 16

/-- The exact values of the first `n` elements (R70). -/
def elements (fmt : Nat) (bs : List Byte) (n : Nat) : List Num :=
  (List.range n).map (fun q => unpack (elemFmt fmt) (elemCode (classOf fmt) bs q))

/-- The exact value of a scale byte: E8M0 (R60), or S8 (R64). -/
def scaleVal (s8 : Bool) (b : Nat) : Num :=
  if b = 0xFF then .nan false false 0
  else if s8 then
    if b / 8 = 0 then .fin false (b % 8) (-17) else .fin false (8 + b % 8) ((b / 8 : Int) - 18)
  else .fin false 1 ((b : Int) - 127)

/-- A format block (R216). -/
structure FmtBlock where
  bSoff : Nat
  spTrap : Bool
  aSsel : Nat
  aSreg : Nat
  bS8 : Bool
  aS8 : Bool
  blk : Nat
  bfmt : Nat
  afmt : Nat
  deriving DecidableEq, Repr

def fmtBlock (x : DWord) : FmtBlock :=
  { bSoff := (x.extractLsb' 24 24).toNat, spTrap := x.getLsbD 23, aSsel := (x.extractLsb' 20 2).toNat,
    aSreg := (x.extractLsb' 13 7).toNat, bS8 := x.getLsbD 12, aS8 := x.getLsbD 11, blk := (x.extractLsb' 8 3).toNat,
    bfmt := (x.extractLsb' 4 4).toNat, afmt := (x.extractLsb' 0 4).toNat }

/-- Keff (R213). -/
def FmtBlock.keff (f : FmtBlock) (sparse : Bool) : Nat := if sparse then 2 * classOf f.afmt else classOf f.afmt

/-- Block length L (R216). -/
def FmtBlock.len (f : FmtBlock) (sparse : Bool) : Nat :=
  match f.blk with
  | 2 => 32
  | 3 => 16
  | 4 => 8
  | _ => f.keff sparse

/-- Number of blocks. -/
def FmtBlock.blocks (f : FmtBlock) (sparse : Bool) : Nat := f.keff sparse / f.len sparse

/-- Is a format block valid (R216, R217)? -/
def fmtBlockOk (x : DWord) (sparse : Bool) : Bool :=
  let f := fmtBlock x
  x.extractLsb' 48 16 == 0#16 && !x.getLsbD 22 && decide (f.blk ≤ 4) && decide (f.afmt ≤ 6) && decide (f.bfmt ≤ 6)
    && classOf f.afmt == classOf f.bfmt && f.keff sparse % f.len sparse == 0 && decide (f.blocks sparse ≤ 4)
    && decide (f.aSsel + f.blocks sparse ≤ 4)
    && (f.blk != 0 || (!f.aS8 && !f.bS8 && f.aSreg == 0 && f.aSsel == 0 && f.bSoff == 0))

/-! ## The accumulator update (R70 to R72) -/

/-- The A56 value of a number. -/
def a56 (x : Nat) : A56 := BitVec.ofNat 56 x

/-- RoundQuiet(A56) of a sum of exact terms; none stands for 0 × ∞ (R70, R72). -/
def roundQuiet (ts : List (Option Num)) : A56 :=
  if ts.any (fun t => match t with | some v => numIsNan v | none => true) then a56 (fmtDefaultNan .a56)
  else match gatherSum (ts.filterMap id) with
    | .bad => a56 (fmtDefaultNan .a56)
    | .inf n => a56 (withSign .a56 n (fmtInfCode .a56))
    | .fin xs => a56 (roundSum .a56 (quiet false) xs).1

/-- The exact value of an A56 element. -/
def a56Num (x : A56) : Num := unpack .a56 x.toNat

/-- The products of a block times the scale product; the whole block is NaN when the scale is. -/
def scaledTerms (ps : List (Option Num)) (m : Num) : List (Option Num) :=
  if numIsNan m then [none] else ps.map (fun p => p.bind (fun v => if numIsNan v then none else numMul v m))

/-- Does a zero S8 scale mask the block (R72)? -/
def masked (sa sb : Num) : Bool := !numIsNan sa && !numIsNan sb && (numIsZero sa || numIsZero sb)

/-- The update of one element by one block (R71, R72). -/
def blockUpdate (acc : A56) (as bs : List Num) (sa sb : Num) : A56 :=
  if masked sa sb then acc
  else roundQuiet (some (a56Num acc) :: scaledTerms (List.zipWith numMul as bs) ((numMul sa sb).getD (.nan false false 0)))

/-- The update of one element over the blocks in ascending k (R71). -/
def elementUpdate (len : Nat) : Nat → A56 → List Num → List Num → List Num → List Num → A56
  | 0, acc, _, _, _, _ => acc
  | n + 1, acc, as, bs, sas, sbs =>
    elementUpdate len n (blockUpdate acc (as.take len) (bs.take len) (sas.headD (numPow2 0)) (sbs.headD (numPow2 0)))
      (as.drop len) (bs.drop len) (sas.drop 1) (sbs.drop 1)

/-- The terms of the row sum T of MMAO (R219, R72): a block with a zero S8 scale contributes nothing. -/
def rowTerms (len : Nat) : Nat → List Num → List Num → List (Option Num)
  | 0, _, _ => []
  | n + 1, as, sas =>
    let sa := sas.headD (numPow2 0)
    let here := if numIsZero sa then [] else scaledTerms ((as.take len).map some) sa
    here ++ rowTerms len n (as.drop len) (sas.drop 1)

/-! ## Sparse rows (R220) -/

/-- The positions of the two stored values of a group by its code; none for a reserved code. -/
def sparsePair (c : Nat) : Option (Nat × Nat) :=
  match c with
  | 0 => some (0, 1)
  | 1 => some (0, 2)
  | 2 => some (0, 3)
  | 3 => some (1, 2)
  | 4 => some (1, 3)
  | 5 => some (2, 3)
  | _ => none

/-- Metadata registers of a class (R220). -/
def metaRegs (cls : Nat) : Nat := if cls = 16 then 1 else if cls = 32 then 2 else if cls = 40 then 3 else 4

/-- The metadata bit string of a lane. -/
def metaBits (ws : List Word) : Nat := ws.foldr (fun w x => w.toNat + 2 ^ 32 * x) 0

/-- The dense row from `g` groups of the stored values (R220). -/
def denseRow (stored : List Num) (bits : Nat) : Nat → List Num
  | 0 => []
  | n + 1 =>
    let zero : Num := .fin false 0 0
    let row := match sparsePair (bits % 16) with
      | some (p, q) => (List.range 4).map (fun i =>
          if i = p then stored.getD 0 zero else if i = q then stored.getD 1 zero else zero)
      | none => List.replicate 4 zero
    row ++ denseRow (stored.drop 2) (bits / 16) n

/-- Does the metadata of `n` groups hold a reserved code? -/
def reservedCode (bits : Nat) : Nat → Bool
  | 0 => false
  | n + 1 => decide (6 ≤ bits % 16) || reservedCode (bits / 16) n

/-! ## The epilogue chain (R229 to R232) -/

/-- A command word (R229). -/
structure Command where
  scale : Nat
  actTile : Nat
  biasTile : Nat
  outfmt : Nat
  sat : Bool
  quant : Bool
  act : Bool
  bias : Bool
  deriving DecidableEq, Repr

def command (x : DWord) : Command :=
  { scale := (x.extractLsb' 32 32).toNat, actTile := (x.extractLsb' 16 8).toNat, biasTile := (x.extractLsb' 8 8).toNat,
    outfmt := (x.extractLsb' 4 3).toNat, sat := x.getLsbD 3, quant := x.getLsbD 2, act := x.getLsbD 1,
    bias := x.getLsbD 0 }

/-- Are a command word and the offset word it uses valid (R229)? -/
def commandOk (x off : DWord) : Bool :=
  let c := command x
  x.extractLsb' 24 8 == 0#8 && !x.getLsbD 7 && c.outfmt != 7
    && (if c.quant then decide (1 ≤ c.outfmt) && decide (c.outfmt ≤ 5) else c.outfmt == 0 || c.outfmt == 6)
    && !(c.outfmt == 6 && (c.bias || c.act))
    && (!(c.bias || c.act) || off.extractLsb' 48 16 == 0#16)
    && (!c.act || off.extractLsb' 24 3 == 0#3) && (!c.bias || off.extractLsb' 0 2 == 0#2)

/-- Bytes of an output element (R232). -/
def outBytes (outfmt : Nat) : Nat := if outfmt = 0 then 4 else if outfmt = 1 then 2 else if outfmt = 6 then 8 else 1

/-- The exact sum of two numbers, with invalid for ∞ − ∞. -/
def numAdd (x y : Num) : Num × Flags :=
  match x, y with
  | .nan .., _ => (.nan false false 0, 0#8)
  | _, .nan .. => (.nan false false 0, 0#8)
  | .inf a, .inf b => if a = b then (.inf a, 0#8) else (.nan false false 0, flagInvalid)
  | .inf a, _ => (.inf a, 0#8)
  | _, .inf b => (.inf b, 0#8)
  | .fin a m e, .fin b n g =>
    let lo := min e g
    let u : Int := (m : Int) * 2 ^ (e - lo).toNat
    let v : Int := (n : Int) * 2 ^ (g - lo).toNat
    let t := (if a then -u else u) + (if b then -v else v)
    (.fin (if t = 0 then a && b else decide (t < 0)) t.natAbs lo, 0#8)

/-- The exact product, with invalid for 0 × ∞. -/
def numTimes (x y : Num) : Num × Flags :=
  if numIsNan x || numIsNan y then (.nan false false 0, 0#8)
  else match numMul x y with
    | some p => (p, 0#8)
    | none => (.nan false false 0, flagInvalid)

/-- An activation table (R230). -/
structure ActTable where
  x0 : Num
  wexp : Int
  /-- slope and intercept of each segment -/
  entries : List (Num × Num)
  deriving DecidableEq, Repr

/-- The FP32 value at offset `o` of bytes. -/
def f32At (bs : List Byte) (o : Nat) : Num := unpack .fp32 (leNat ((bs.drop o).take 4))

/-- The table that 520 bytes hold. -/
def actTable (bs : List Byte) : ActTable :=
  { x0 := f32At bs 0, wexp := (BitVec.ofNat 32 (leNat ((bs.drop 4).take 4))).toInt,
    entries := (List.range 64).map (fun e => (f32At bs (8 + 8 * e), f32At bs (12 + 8 * e))) }

/-- The segment of a value (R230, R231): x and x0 are no NaNs. -/
def ActTable.segment (t : ActTable) (x : Num) : Nat :=
  match (numAdd x (numNegate t.x0)).1 with
  | .nan .. => 0
  | .inf neg => if neg then 0 else 63
  | .fin neg m e =>
    if neg then 0
    else
      let sh := e - t.wexp
      let q := if 0 ≤ sh then m * 2 ^ (min sh.toNat 8) else m / 2 ^ (-sh).toNat
      min q 63

/-- The activation stage (R231). -/
def ActTable.apply (t : ActTable) (x : Num) : Num × Flags :=
  if numIsNan x || numIsNan t.x0 then (.nan false false 0, 0#8)
  else if numIsInf x && numIsInf t.x0 && numNeg x == numNeg t.x0 then (.nan false false 0, flagInvalid)
  else
    let en := t.entries.getD (t.segment x) (.fin false 0 0, .fin false 0 0)
    let p := numTimes en.1 x
    let r := numAdd p.1 en.2
    (r.1, p.2 ||| r.2)

/-- Output format of a code (R229). -/
def outFmt (c : Nat) : Fmt :=
  match c with
  | 0 => .fp32
  | 1 => .bf16
  | 2 => .e4m3
  | 3 => .e5m2
  | _ => .t8

/-- The default NaN of an output format (R231). -/
def outNan (c : Nat) : Nat := if c = 5 then 0 else if c = 6 then fmtDefaultNan .a56 else fmtDefaultNan (outFmt c)

/-- A number rounded to .i8 (R69, R231). -/
def toI8 : Num → Nat × Flags
  | .nan .. => (0, flagInvalid)
  | .inf neg => (if neg then 0x80 else 0x7F, flagInvalid)
  | .fin neg m e =>
    let r := roundInt 0 neg { mant := m, exp := e, sticky := false }
    let y : Int := if neg then -(r.1 : Int) else r.1
    if 127 < y then (0x7F, flagInvalid)
    else if y < -128 then (0x80, flagInvalid)
    else ((BitVec.ofInt 8 y).toNat, flagIf r.2 flagInexact)

/-- The final rounding (R231): a NaN delivers the default NaN without a flag. -/
def roundOut (c : Nat) (sat : Bool) (x : Num) : Nat × Flags :=
  if c = 5 then toI8 x
  else if numIsNan x then (outNan c, 0#8)
  else roundNum (outFmt c) (quiet sat) x

/-- The chain for one element (R231): the output bits and the flags. -/
def epilogue (c : Command) (acc : A56) (bias : Num) (tab : ActTable) : Nat × Flags :=
  if c.outfmt = 6 then (acc.toNat, 0#8)
  else
    let x0 : Num := if numIsNan (a56Num acc) then .nan false false 0 else a56Num acc
    let b := if c.bias then numAdd x0 bias else (x0, 0#8)
    let a := if c.act then tab.apply b.1 else (b.1, 0#8)
    let q := if c.quant then numTimes a.1 (unpack .fp32 c.scale) else (a.1, 0#8)
    let r := roundOut c.outfmt c.sat q.1
    (r.1, b.2 ||| a.2 ||| q.2 ||| r.2)

/-! ## Row statistics (R235) -/

/-- A56 rounded to FP32 without flags. -/
def a56ToF32 (x : A56) : Nat := if numIsNan (a56Num x) then fmtDefaultNan .fp32 else (roundNum .fp32 (quiet false) (a56Num x)).1

/-- Max over FP32 values (R114, R235). -/
def maxF32 : List Nat → Nat
  | [] => 0xFF800000
  | x :: xs => xs.foldl (fun m y => (fMax .fp32 (quiet false) m y).1) x

/-- 2^(a − b) as a magnitude, for finite a below b: its exact value when the difference is whole. -/
def pow2Diff (a b : Num) : Mag :=
  match (numAdd a (numNegate b)).1 with
  | .fin _ m e =>
    let top := e + (m.log2 : Int)
    if 14 ≤ top then { mant := 1, exp := -9000, sticky := true }
    else
      let fx : Int := -(toFx m e : Int)
      let whole := fx / 2 ^ fxP
      let part := (fx % 2 ^ fxP).toNat
      if part = 0 then { mant := 1, exp := whole, sticky := false } else fxMag (fxExp (fxMul part fxLn2)) whole
  | _ => { mant := 1, exp := 0, sticky := false }

/-- RoundQuiet(A56) of an element times the factor of .max: 1 when the maximum stays, 0 when the old one was −∞ (R235). -/
def rescale (rmax m : Nat) (x : A56) : A56 :=
  let r := unpack .fp32 rmax
  let n := unpack .fp32 m
  let v := a56Num x
  if numIsNan r || numIsNan n || numIsNan v then a56 (fmtDefaultNan .a56)
  else if numEq r n then x
  else if numIsInf r || numIsInf n then
    match v with
    | .fin neg _ _ => a56 (withSign .a56 neg 0)
    | _ => a56 (fmtDefaultNan .a56)
  else
    match v with
    | .fin neg mant e =>
      if mant = 0 then x
      else
        let f := pow2Diff r n
        a56 (roundMag .a56 (quiet false) neg { mant := mant * f.mant, exp := e + f.exp, sticky := f.sticky }).1
    | _ => x

end Sys2Proof.Machine
end

