-- ==== Sys2Proof/Machine/Matrix.lean ====
section
/-! DEFINITION. The matrix words of majors 16 and 17 (R212 to R239): the checks at issue, the queue of the engine, the
completion of a word, batches, MRD inside a run, row statistics. -/

namespace Sys2Proof.Machine

/-! ## Tiles of a team (R167) -/

/-- Key of entry `n` of a team's range in the tile table. -/
def Team.entryKey (t : Team) (n : Nat) : Nat := t.core * 256 + t.tabBase + n

/-- The entry of tile `n`; none when `n` lies outside the team's range. -/
def State.tileOf (s : State) (t : Team) (n : Nat) : Option TileEntry :=
  if n < t.tabCount then some (sget TileEntry.reset s.mem.table (t.entryKey n)) else none

/-- Number of a tile state (R248). -/
def tileStateNum : TileState → Nat
  | .empty => 0
  | .filling => 1
  | .ready => 2
  | .draining => 3

/-- The defined entry of tile `n`, else the tile-entry fault (R167). -/
def State.withTile (s : State) (n : Nat) (k : TileEntry → State) : State :=
  match s.tileOf s.team n with
  | some e => if e.defined then k e else s.trap0 15 3
  | none => s.trap0 15 3

/-- Is the tile of that key in use by a matrix word (R226)? -/
def State.tileBusy (s : State) (key : Nat) : Bool := s.groups.any (fun g => g.matrix.words.any (fun w => w.tiles.contains key))

/-- Wait until tile `n` is in one of the states (R169). -/
def State.inStates (s : State) (n : Nat) (e : TileEntry) (sts : List Nat) (k : State) : State :=
  if sts.contains (tileStateNum e.st) then k else s.waitAt (.tile n sts)

/-! ## Operand words (R215) -/

/-- Fields of an operand word. -/
structure OpWord where
  metaField : Nat
  ostride : Nat
  off : Nat
  tile : Nat
  acc2 : Nat
  acc : Nat
  vreg : Nat
  deriving DecidableEq, Repr

def opWord (x : DWord) : OpWord :=
  { metaField := (x.extractLsb' 56 7).toNat, ostride := (x.extractLsb' 48 8).toNat, off := (x.extractLsb' 24 24).toNat,
    tile := (x.extractLsb' 16 8).toNat, acc2 := (x.extractLsb' 12 4).toNat, acc := (x.extractLsb' 8 4).toNat,
    vreg := (x.extractLsb' 0 7).toNat }

/-- Bits of the operand word that each kind of word uses. -/
def opWordMask : MOp → DWord
  | .mma => 0x00FFFFFFFFFF0F7F#64
  | .mmao => 0x00FFFFFFFFFF0F7F#64
  | .mmas => 0x7FFFFFFFFFFF0F7F#64
  | .rd => 0x0000000000000F7F#64
  | .wr => 0x0000000000000F7F#64
  | .epi => 0x0000FFFFFFFF0F00#64
  | .statReset => 0x0000000000000F00#64
  | .statMax => 0x000000000000FF7F#64
  | .statRead => 0x0000000000000F7F#64
  | .zero => 0#64

/-- Is a reserved bit of the operand word set (R215)? -/
def opWordBad (op : MOp) (x : DWord) : Bool := x &&& ~~~opWordMask op != 0#64

/-- The register-bound fault of accumulator `n`, else go on (R215). -/
def State.accOk (s : State) (n : Nat) : Bool := decide (n < s.cur.id.accs)

/-- Are the registers of a block of `k` from field value `f` within the allotment (R13)? -/
def State.blockIn (s : State) (f k : Nat) : Bool := k == 0 || decide (f + (k - 1) + s.xw < s.cur.id.vregs)

/-- The matrix-operand fault. -/
def State.matrixFault (s : State) : State := s.trap0 14 0

/-- Effective numbers of a block (R13). -/
def State.blockRegs (s : State) (f k : Nat) : List Nat := (List.range k).map (fun j => f + j + s.xw)

/-! ## Registers under way (R209, R227) -/

/-- The latest operand that a register is for words under way. -/
def Group.operandOf (g : Group) (r : Nat) : Option MResult :=
  g.matrix.results.foldl (fun x m => if m.operand && m.reg == r then some m else x) none

/-- What a register holds for the matrix engine: an operand register that waits for an MWAIT is read as it stood, in the
lanes that the group has not written since. -/
def Group.trueReg (g : Group) (r : Nat) : Lanes :=
  let cur := sget zeroLanes g.regs.v r
  match g.operandOf r with
  | some m => mergeLanes m.touched m.value cur
  | none => cur

/-- The results that wait for an MWAIT when a register becomes a destination (R209, R227): earlier results for it give way in
its lanes, and an operand in it has been written. -/
def MResult.givesWay (r : Nat) (mask : Mask) (m : MResult) : MResult :=
  if m.reg != r then m else if m.operand then { m with touched := m.touched ||| mask } else { m with mask := m.mask &&& ~~~mask }

/-- Replace a register by free values until the MWAIT; `value` is what it will hold. An operand that no word has written
since it was placed stays as it is. -/
def State.placeReg (s : State) (r : Nat) (mask : Mask) (value : Lanes) (operand : Bool) (acc : Nat) (rows : Mask) : State :=
  let cur := sget zeroLanes s.cur.regs.v r
  let shared := operand && (s.cur.operandOf r).any (fun m => m.touched == 0#32)
  let placed := if shared then cur else mergeLanes mask cur (freeLanes s.fresh)
  let s1 := s.drew 32
  let e : MResult := { batch := none, id := s.fresh, reg := r, mask := mask, value := value, touched := 0#32, operand := operand,
                       acc := acc, rows := rows }
  let old := if operand then s1.cur.matrix.results else s1.cur.matrix.results.map (MResult.givesWay r mask)
  { s1 with cur := { s1.cur with
      regs := { s1.cur.regs with v := sput zeroLanes s1.cur.regs.v r placed },
      matrix := { s1.cur.matrix with results := old ++ [e] } } }

/-- Numbers of the results that have come after the first `n`, with their registers. -/
def Group.newResults (g : Group) (n : Nat) : List (Nat × Nat) := (g.matrix.results.drop n).map (fun m => (m.reg, m.id))

/-- Operand registers become undefined to the group until the MWAIT (R209). -/
def State.placeOperands (s : State) (rs : List Nat) (acc : Nat) (rows : Mask) : State :=
  rs.foldl (fun t r => t.placeReg r 0xFFFFFFFF#32 (t.cur.trueReg r) true acc rows) s

/-! ## Issue -/

/-- Words of a core's engine (R226). -/
def State.engineWords (s : State) (core : Nat) : Nat :=
  (s.groups.filter (fun g => g.id.core == core)).foldl (fun n g => n + g.matrix.words.length) 0

/-- The word enters the engine's queue (R223, R226): a word beyond 64 waits. -/
def State.enqueue (s : State) (w : MWord) (k : State → State) : State :=
  if 64 ≤ s.engineWords s.cur.id.core then s.waitAt .matrix
  else
    k { s with cur := { s.cur with matrix := { s.cur.matrix with words := s.cur.matrix.words ++ [w] } } }

/-- A word with nothing in it, of the current unit. -/
def State.mword (s : State) (op : MOp) (ow : DWord) : MWord :=
  { op := op, pc := s.unitPc, ow := ow, fb := 0#64, cmd := 0#64, offw := 0#64, cols := 0, raw := false, exec := s.active,
    a := [], scale := none, metas := [], live := [], src := [], dst := [], tiles := [],
    since := s.cur.mrdy, issued := s.mem.tileOld.length, batch := none }

/-- Octets with an active lane (R212). -/
def octets (m : Mask) : List Nat := (List.range 4).filter (fun o => m.extractLsb' (8 * o) 8 != 0#8)

/-- B bytes and B scale bytes that octet `o` reads (R215 to R217): (offset, length) in the tile. -/
def bRanges (op : MOp) (o : Nat) (ow : OpWord) (f : FmtBlock) : (Nat × Nat) × (Nat × Nat) :=
  let sparse := op == .mmas
  let shift := o * ow.ostride * 512
  ((ow.off + shift, if sparse then 1024 else 512),
    (f.bSoff + shift, if f.blk = 0 then 0 else 16 * f.blocks sparse))

/-- Bytes of a tile range as a word of group `g` reads them (R209). -/
def State.tileBytes (s : State) (g : GroupKey) (w : MWord) (seed : Nat) (t : Team) (e : TileEntry) (r : Nat × Nat) : List Byte :=
  s.operandBytes g w.since w.issued seed (t.key (e.off + r.1)) r.2

/-- Metadata registers of a word. -/
def metaCount (op : MOp) (f : FmtBlock) : Nat := if op = .mmas && decide (f.afmt ≤ 6) then metaRegs (classOf f.afmt) else 0

/-- The A operands of a word: from the latch what it holds, from the registers the rest (R221). Answers the latch to hold
afterwards, the operands, and the registers read. -/
def State.operands (s : State) (reuse : Bool) (ow : OpWord) (f : FmtBlock) (op : MOp) :
    Option Latch × (List Lanes × Option Lanes × List Lanes) × List Nat :=
  let aRegs := s.blockRegs ow.vreg 8
  let sRegs := if f.blk = 0 then [] else s.blockRegs f.aSreg 1
  let mRegs := s.blockRegs ow.metaField (metaCount op f)
  let read (rs : List Nat) : List Lanes := rs.map s.cur.trueReg
  match s.cur.matrix.latch with
  | none =>
    let own : Latch := { a := read aRegs, scale := (read sRegs).head?, metas := if op = .mmas then some (read mRegs) else none }
    (if reuse then some own else none, (own.a, own.scale, read mRegs), aRegs ++ sRegs ++ mRegs)
  | some lt =>
    let sc := if f.blk = 0 then none else match lt.scale with | some x => some x | none => (read sRegs).head?
    let held := lt.metas.getD []
    -- metadata that the latch does not hold comes from the word's own registers
    let mOwn := mRegs.drop held.length
    (if reuse then some lt else none, (lt.a, sc, if op = .mmas then held.take mRegs.length ++ read mOwn else []),
      (if lt.scale.isNone then sRegs else []) ++ mOwn)

/-- Lanes of active rows whose metadata holds a reserved code (R220). -/
def reservedRows (exec : Mask) (cls : Nat) (metas : List Lanes) : Mask :=
  mkMask (fun l => exec.getLsbD l && reservedCode (metaBits (metas.map (fun m => laneOf m l))) (cls / 2))

/-- The A registers named by a word, before the latch is looked at: their register-bound detail (R13, R239). -/
def State.mmaBound (s : State) (ow : OpWord) (f : FmtBlock) (op : MOp) : Option Nat :=
  let m := metaCount op f
  if !s.accOk ow.acc then some 2
  else if !s.blockIn ow.vreg 8 then some 1
  else if !s.blockIn ow.metaField m then some (boundDetail m)
  else if f.blk != 0 && !s.blockIn f.aSreg 1 then some 0
  else none

/-- MMA, MMAS, MMAO (R215 to R222). -/
def State.multiply (s : State) (op : MOp) (a b : BitVec 6) (reuse : Bool) : State :=
  let x := s.getS a
  let y := s.getS b
  let ow := opWord x
  let f := fmtBlock y
  let sparse := op == .mmas
  match s.mmaBound ow f op with
  | some d => s.trap0 2 d
  | none =>
    if opWordBad op x || !fmtBlockOk y sparse || ow.off % (if sparse then 1024 else 512) != 0
        || blockLong ow.vreg 8 || blockLong ow.metaField (max 1 (metaCount op f)) then s.matrixFault
    else
      s.withTile ow.tile (fun e =>
        let t := s.team
        let rs := (octets s.active).map (fun o => bRanges op o ow f)
        if rs.any (fun r => decide (e.size < r.1.1 + r.1.2) || (r.2.2 != 0 && decide (e.size < r.2.1 + r.2.2))) then
          s.matrixFault
        else
          s.inStates ow.tile e [2, 3] (
            let o := s.operands reuse ow f op
            let bad := if sparse then reservedRows s.active (classOf f.afmt) o.2.1.2.2 else 0#32
            if f.spTrap && bad != 0#32 then s.trap (32 * 14 + 1) { fmask := bad, addr := 0, aux := 0#64 }
            else if op = .mmao && !rowstatCore s.cur.id.core then s.trap0 14 2
            else
              let t1 := { s with cur := { s.cur with matrix := { s.cur.matrix with latch := o.1 } } }
              let t2 := t1.placeOperands o.2.2 ow.acc s.active
              let live := (t2.cur.newResults s.cur.matrix.results.length).map (·.2)
              let w := { s.mword op x with
                fb := y, a := o.2.1.1, scale := o.2.1.2.1, metas := o.2.1.2.2, live := live,
                tiles := [t.entryKey ow.tile] }
              if 64 ≤ s.engineWords s.cur.id.core then s.waitAt .matrix
              else t2.enqueue w State.advance))

/-- MMA (R219). -/
def execMma (a b : BitVec 6) (r : BitVec 1) (s : State) : Out := .next (s.multiply .mma a b (r == 1#1))

/-- MMAS (R219, R220). -/
def execMmas (a b : BitVec 6) (r : BitVec 1) (s : State) : Out := .next (s.multiply .mmas a b (r == 1#1))

/-- MMAO (R219, R236). -/
def execMmao (a b : BitVec 6) (r : BitVec 1) (s : State) : Out := .next (s.multiply .mmao a b (r == 1#1))

/-- MZERO (R228). -/
def execMzero (n : BitVec 4) (s : State) : Out :=
  .next (if !s.accOk n.toNat then s.trap0 2 2
  else s.enqueue { s.mword .zero 0#64 with ow := n.zeroExtend 64 <<< 8 } State.advance)

/-- Columns of a selection (R218). -/
def colList (cols : Nat) : List Nat :=
  match cols with
  | 0 => List.range 16
  | 1 => List.range 8
  | _ => (List.range 8).map (· + 8)

/-- MWR (R228): its source registers are read at issue (R227). -/
def execMwr (a : BitVec 6) (r : BitVec 1) (l : BitVec 2) (s : State) : Out :=
  let x := s.getS a
  let ow := opWord x
  let n := (colList l.toNat).length * (if r = 1#1 then 2 else 1)
  .next (if !s.accOk ow.acc then s.trap0 2 2
  else if !s.blockIn ow.vreg n then s.trap0 2 1
  else if opWordBad .wr x || blockLong ow.vreg n then s.matrixFault
  else
    let src := (s.blockRegs ow.vreg n).map (fun q => sget zeroLanes s.cur.regs.v q)
    let high := mkMask (fun i => s.active.getLsbD i && r == 1#1
      && (src.zipIdx.any (fun q => q.2 % 2 == 1 && (laneOf q.1 i).extractLsb' 24 8 != 0#8)))
    if high != 0#32 then s.trap (32 * 14) { fmask := high, addr := 0, aux := 0#64 }
    else s.enqueue { s.mword .wr x with cols := l.toNat, raw := r == 1#1, src := src } State.advance)

/-! ## MRD and MEPI at issue (R229 to R233) -/

/-- Registers of an MRD (R232). -/
def rdRegs (cols outfmt : Nat) : Nat := (colList cols).length * outBytes outfmt / 4

/-- The stages of a command: (tile, offset, bytes) of the bias row and of the table, when enabled (R229). -/
def stages (c : Command) (off : DWord) : List (Nat × Nat × Nat) :=
  (if c.bias then [(c.biasTile, (off.extractLsb' 0 24).toNat, 64)] else [])
    ++ (if c.act then [(c.actTile, (off.extractLsb' 24 24).toNat, 520)] else [])

/-- What stands in the way of the tiles of the stages: a tile-entry fault (true), an extent outside the tile (false). -/
def State.stageFault (s : State) (ss : List (Nat × Nat × Nat)) : Option Bool :=
  if ss.any (fun g => match s.tileOf s.team g.1 with | some e => !e.defined | none => true) then some true
  else if ss.any (fun g => match s.tileOf s.team g.1 with | some e => decide (e.size < g.2.1 + g.2.2) | none => false) then
    some false
  else none

/-- The stage whose tile is not in one of the states. -/
def State.stageWaits (s : State) (ss : List (Nat × Nat × Nat)) (sts : List Nat) : Option Nat :=
  (ss.find? (fun g => match s.tileOf s.team g.1 with
    | some e => !sts.contains (tileStateNum e.st)
    | none => false)).map (·.1)

/-- Bytes of the stages. -/
def State.stageBytes (s : State) (g : GroupKey) (w : MWord) (seed : Nat) (t : Team) (ss : List (Nat × Nat × Nat)) :
    List (List Byte) :=
  ss.zipIdx.map (fun x => match s.tileOf t x.1.1 with
    | some e => s.tileBytes g w (seed + 1024 * x.2) t e x.1.2
    | none => [])

/-- Bytes that MEPI writes for the active rows lie inside its tile (R215, R232). -/
def rowsEnd (exec : Mask) (off n : Nat) : Nat :=
  match (List.range 32).reverse.find? (fun l => exec.getLsbD l) with
  | some l => off + (l + 1) * n
  | none => 0

/-- MRD outside a run (R227, R231, R232). -/
def State.readOut (s : State) (x y z : DWord) (cols : Nat) : State :=
  let ow := opWord x
  let c := command y
  let n := rdRegs cols c.outfmt
  if !s.accOk ow.acc then s.trap0 2 2
  else if !s.blockIn ow.vreg n then s.trap0 2 (boundDetail n)
  else if opWordBad .rd x || !commandOk y z || blockLong ow.vreg (max 1 n) then s.matrixFault
  else
    let ss := stages c z
    match s.stageFault ss with
    | some true => s.trap0 15 3
    | some false => s.matrixFault
    | none =>
      match s.stageWaits ss [2, 3] with
      | some i => s.waitAt (.tile i [2, 3])
      | none =>
        if 64 ≤ s.engineWords s.cur.id.core then s.waitAt .matrix
        else
          let t := s.team
          let regs := s.blockRegs ow.vreg n
          let s1 := regs.foldl (fun u r => u.placeReg r u.active (sget zeroLanes u.cur.regs.v r) false ow.acc 0#32) s
          let w := { s.mword .rd x with
            cmd := y, offw := z, cols := cols,
            dst := s1.cur.newResults s.cur.matrix.results.length, tiles := ss.map (fun g => t.entryKey g.1) }
          s1.enqueue w State.advance

/-- MEPI (R226, R232). -/
def execMepi (a b c : BitVec 6) (l : BitVec 2) (s : State) : Out :=
  let x := s.getS a
  let y := s.getS b
  let z := s.getS c
  let ow := opWord x
  let cm := command y
  let n := (colList l.toNat).length * outBytes cm.outfmt
  .next (if !s.accOk ow.acc then s.trap0 2 2
  else if opWordBad .epi x || !commandOk y z || ow.off % 16 != 0 then s.matrixFault
  else
    let ss := stages cm z
    s.withTile ow.tile (fun e =>
      match s.stageFault ss with
      | some true => s.trap0 15 3
      | some false => s.matrixFault
      | none =>
        if e.size < rowsEnd s.active ow.off n then s.matrixFault
        else
          s.inStates ow.tile e [2] (
            match s.stageWaits ss [2, 3] with
            | some i => s.waitAt (.tile i [2, 3])
            | none =>
              let t := s.team
              s.enqueue { s.mword .epi x with
                  cmd := y, offw := z, cols := l.toNat,
                  tiles := t.entryKey ow.tile :: ss.map (fun g => t.entryKey g.1) }
                State.advance)))

/-! ## The epilogue on a row -/

/-- What the stages hold for the chain: bias values, the table, and which of them are poisoned. -/
structure StageData where
  bias : List Byte
  table : List Byte
  biasPoison : List Bool
  headPoison : Bool
  entryPoison : List Bool
  deriving DecidableEq, Repr

/-- The words of a tile range are read (R162). -/
def State.scanned (_ : State) (t : Team) (e : TileEntry) (m : Mem) (r : Nat × Nat) : Mem :=
  m.tileRead true false (t.key (e.off + r.1)) r.2

/-- The tiles of the stages are read (R162). -/
def State.scanStages (s : State) (t : Team) (ss : List (Nat × Nat × Nat)) : Mem :=
  ss.foldl (fun m g => match s.tileOf t g.1 with | some e => s.scanned t e m g.2 | none => m) s.mem

/-- Is the byte range of a tile in a poisoned word? -/
def State.rangePoison (s : State) (t : Team) (e : TileEntry) (o n : Nat) : Bool := tilePoisoned s.mem (t.key (e.off + o)) n

/-- Read the stages for a word of group `g` (R209, R231, R238). -/
def State.stageData (s : State) (g : GroupKey) (w : MWord) (t : Team) (c : Command) (off : DWord) : StageData :=
  let mixed := s.stageBytes g w s.fresh t (stages c off)
  let ent (n : Nat) : TileEntry := (s.tileOf t n).getD TileEntry.reset
  let bo := (off.extractLsb' 0 24).toNat
  let ao := (off.extractLsb' 24 24).toNat
  { bias := if c.bias then mixed.headD [] else [],
    table := if c.act then mixed.getLastD [] else [],
    biasPoison := (List.range 16).map (fun j => c.bias && s.rangePoison t (ent c.biasTile) (bo + 4 * j) 4),
    headPoison := c.act && s.rangePoison t (ent c.actTile) ao 8,
    entryPoison := (List.range 64).map (fun e => c.act && s.rangePoison t (ent c.actTile) (ao + 8 + 8 * e) 8) }

/-- One output of the chain (R231, R238): its bits, its flags, whether poison decided it. -/
def outputOf (c : Command) (d : StageData) (tab : ActTable) (acc : A56) (j : Nat) : Nat × Flags × Bool :=
  let bias := f32At d.bias (4 * j)
  let x := if c.bias then (numAdd (a56Num acc) bias).1 else a56Num acc
  let usesEntry := c.act && !numIsNan x && !numIsNan tab.x0 && d.entryPoison.getD (tab.segment x) false
  if d.biasPoison.getD j false || d.headPoison || usesEntry then (outNan c.outfmt, 0#8, true)
  else
    let r := epilogue c acc bias tab
    (r.1, r.2, false)

/-- Outputs of one row over the selected columns. -/
def rowOutputs (c : Command) (d : StageData) (cols : Nat) (row : AccRow) : List (Nat × Flags × Bool) :=
  let tab := actTable d.table
  (colList cols).map (fun j => outputOf c d tab (row.getD j 0#56) j)

/-- The bytes of a row's outputs (R232). -/
def rowBytes (c : Command) (outs : List (Nat × Flags × Bool)) : List Byte :=
  outs.flatMap (fun o => leBytes (outBytes c.outfmt) o.1)

/-- The 32-bit words of a row's bytes. -/
def wordsOfBytes : List Byte → List Word
  | b0 :: b1 :: b2 :: b3 :: rest => (b3 ++ b2 ++ b1 ++ b0) :: wordsOfBytes rest
  | _ => []

/-- Row `i` of an accumulator. -/
def Group.accRow (g : Group) (acc i : Nat) : AccRow := sget zeroRow g.regs.ac (acc * 32 + i)

/-- Has a matrix word of the group that names the accumulator not completed (R226, R233)? -/
def MWord.names (w : MWord) (acc : Nat) : Bool :=
  (opWord w.ow).acc == acc || (w.op == .statMax && (opWord w.ow).acc2 == acc)

/-! ## MRD inside a run (R233) -/

/-- The MRD of the open run has read its accumulator (R43). -/
def State.mrdRead (s : State) : State :=
  { s with cur := { s.cur with run := s.cur.run.map (fun r => { r with mrdsLeft := r.mrdsLeft - 1 }) } }

/-- A fault deferred to HEND; the first one stands. -/
def State.defer (s : State) (cause : Nat) : State :=
  { s with cur := { s.cur with run := s.cur.run.map (fun r =>
      if r.deferred.isSome then r else { r with deferred := some (cause, s.unitPc) }) } }

/-- Timing of an MRD in a run (R233, R77). -/
def mrdTime (c : Command) : Timing :=
  let d := 4 + 2 * (if c.bias then 1 else 0) + 3 * (if c.act then 1 else 0)
  match c.outfmt with
  | 0 => .stream d 14
  | 1 => .stream d 6
  | 2 => .stream d 4
  | 3 => .stream d 4
  | _ => .fixed 12

/-- A destination of a failed MRD is undefined to the words of the run that read it (R233). -/
def Run.lose (r : Run) : RegRef → Run
  | .temp i => { r with twritten := sput 0#32 r.twritten i 0#32 }
  | .reg n => { r with lost := sput 0#32 r.lost n 0xFFFFFFFF#32 }

/-- A failed MRD writes nothing; each destination that its block of `n` from field `f` names is undefined to the rest of
the run (R233). -/
def State.mrdFailed (s : State) (cause f n : Nat) (srcs : List Loc) : State :=
  let ds := (List.range (max 1 n)).filterMap (fun i => if f + i < 128 then s.ref (f + i) else none)
  let s1 := s.defer cause
  let s2 := { s1 with cur := { s1.cur with run := s1.cur.run.map (fun r => ds.foldl Run.lose r) } }
  s2.mrdRead.done 1 srcs []

/-- MRD in a run (R233). -/
def State.mrdRun (s : State) (a b c : BitVec 6) (cols : Nat) : State :=
  let x := s.getS a
  let y := s.getS b
  let z := s.getS c
  let ow := opWord x
  let cm := command y
  let n := rdRegs cols cm.outfmt
  let srcs := [Loc.scalar a.toNat, Loc.scalar b.toNat, Loc.scalar c.toNat]
  let ds := (s.refs ow.vreg n).getD []
  let ss := stages cm z
  if !s.accOk ow.acc || opWordBad .rd x || !commandOk y z || cm.outfmt == 6 || blockLong ow.vreg (max 1 n)
      || s.straddles ow.vreg n || ds.length != n then s.mrdFailed (32 * 14 + 4) ow.vreg n srcs
  else
    match s.stageFault ss with
    | some true => s.mrdFailed (32 * 15 + 3) ow.vreg n srcs
    | some false => s.mrdFailed (32 * 14 + 4) ow.vreg n srcs
    | none =>
      if (s.stageWaits ss [1, 2, 3]).isSome then s.mrdFailed (32 * 14 + 4) ow.vreg n srcs
      else
        match s.stageWaits ss [2, 3] with
        | some i => s.waitAt (.tile i [2, 3])
        | none =>
          if s.cur.matrix.words.any (fun w => w.names ow.acc) then s.waitAt (.accIdle ow.acc)
          else
            let t := s.team
            let d := s.stageData s.cur.id.key (s.mword .rd 0#64) t cm z
            let outs := (List.range 32).map (fun i =>
              if s.active.getLsbD i then rowOutputs cm d cols (s.cur.accRow ow.acc i) else [])
            let poisoned := outs.any (fun o => o.any (fun e => e.2.2))
            let m := s.scanStages t ss
            let s0 := if poisoned then s.defer (32 * 14 + 3) else s
            let s1 := { s0.drew 2048 with mem := if poisoned then m.tileSeen t.core else m }
            let vals := outs.map (fun o => wordsOfBytes (rowBytes cm o))
            let olds := ds.map (fun r => Dest.vec r (s.getRef r))
            let s2 := ds.zipIdx.foldl (fun (u : State) (rk : RegRef × Nat) =>
              u.putRef s.active rk.1 (vals.map (fun ws => ws.getD rk.2 0#32))) s1
            s2.mrdRead.finish (mrdTime cm) none srcs olds (outs.map (fun o => orFlags (o.map (fun e => e.2.1)))) none

/-- MRD (R231 to R233). -/
def execMrd (a b c : BitVec 6) (l : BitVec 2) (s : State) : Out :=
  .next (if s.cur.run.isSome then s.mrdRun a b c l.toNat else s.readOut (s.getS a) (s.getS b) (s.getS c) l.toNat)

/-! ## Row statistics at issue (R235, R236) -/

/-- MSTAT (R235, R236, R239). -/
def State.mstat (s : State) (op : MOp) (a : BitVec 6) (n : Nat) : State :=
  let x := s.getS a
  let ow := opWord x
  if !s.accOk ow.acc || (op == .statMax && !s.accOk ow.acc2) then s.trap0 2 2
  else if !s.blockIn ow.vreg n then s.trap0 2 (boundDetail n)
  else if opWordBad op x || (n != 0 && blockLong ow.vreg n) then s.matrixFault
  else if !rowstatCore s.cur.id.core then s.trap0 14 2
  else if 64 ≤ s.engineWords s.cur.id.core then s.waitAt .matrix
  else
    let regs := s.blockRegs ow.vreg n
    let s1 := regs.foldl (fun u r => u.placeReg r u.active (sget zeroLanes u.cur.regs.v r) false ow.acc 0#32) s
    s1.enqueue { s.mword op x with dst := s1.cur.newResults s.cur.matrix.results.length } State.advance

/-- MSTAT.reset (R235). -/
def execMstatReset (a : BitVec 6) (s : State) : Out := .next (s.mstat .statReset a 0)

/-- MSTAT.max (R235). -/
def execMstatMax (a : BitVec 6) (s : State) : Out := .next (s.mstat .statMax a 1)

/-- MSTAT.read (R235). -/
def execMstatRead (a : BitVec 6) (s : State) : Out := .next (s.mstat .statRead a 2)

/-- MRDY (R225): matrix words issued after it see the stores of other groups that happened before it (R209). -/
def execMrdy (s : State) : Out :=
  .next (State.advance { s with cur := { s.cur with mrdy := s.mem.tileOld.length } })

/-! ## Completion of a word -/

/-- Rows of a mask. -/
def rowsOf (m : Mask) : List Nat := (List.range 32).filter (fun l => m.getLsbD l)

/-- Update the rows of a mask of an accumulator. -/
def putRows (ac : SMap AccRow) (acc : Nat) (m : Mask) (f : Nat → AccRow) : SMap AccRow :=
  (rowsOf m).foldl (fun a i => sput zeroRow a (acc * 32 + i) (f i)) ac

/-- Default rmax of a row (R234). -/
def rmaxReset : Word := 0xFF800000#32

/-- Bytes of row `i` of A: lane `i`'s bytes of the eight registers (R214). -/
def aRow (a : List Lanes) (i : Nat) : List Byte := a.flatMap (fun r => leBytes 4 (laneOf r i).toNat)

/-- The A elements of row `i` (R219, R220). -/
def MWord.rowA (w : MWord) (f : FmtBlock) (i : Nat) : List Num :=
  let bs := aRow w.a i
  if w.op = .mmas then
    let k := classOf f.afmt
    denseRow (elements f.afmt bs k) (metaBits (w.metas.map (fun m => laneOf m i))) (k / 2)
  else elements f.afmt bs (classOf f.afmt)

/-- The A scales of row `i` (R217). -/
def MWord.scalesA (w : MWord) (f : FmtBlock) (i : Nat) : List Num :=
  if f.blk = 0 then []
  else
    let x := laneOf (w.scale.getD zeroLanes) i
    (List.range (f.blocks (w.op == .mmas))).map (fun b =>
      scaleVal f.aS8 (x.extractLsb' (8 * (f.aSsel + b)) 8).toNat)

/-- B columns of an octet: elements, scales, poisoned (R217, R219, R238). -/
def columnsOf (op : MOp) (f : FmtBlock) (b sc : List Byte) (poison : Nat → Bool) : List (List Num × List Num × Bool) :=
  let sparse := op == .mmas
  let w := if sparse then 64 else 32
  let nb := f.blocks sparse
  (List.range 16).map (fun j =>
    (elements f.bfmt ((b.drop (w * j)).take w) (f.keff sparse),
     if f.blk = 0 then [] else (List.range nb).map (fun k => scaleVal f.bS8 (sc.getD (nb * j + k) 0#8).toNat),
     poison j))

/-- One row's update by the columns (R71, R238). -/
def rowUpdate (f : FmtBlock) (sparse : Bool) (row : AccRow) (as sas : List Num)
    (cols : List (List Num × List Num × Bool)) : AccRow :=
  (row.zip cols).map (fun rc =>
    if rc.2.2.2 then a56 (fmtDefaultNan .a56)
    else elementUpdate (f.len sparse) (f.blocks sparse) rc.1 as rc.2.1 sas rc.2.2.1)

/-- A row of free values (R3). -/
def freeRow (seed : Nat) : AccRow := (List.range 16).map (fun j => (Config.free (seed + j)).extractLsb' 0 56)

/-- The multiply of a word takes effect (R209, R219): the state, the group, whether a poisoned word was read. -/
def finishMultiply (s : State) (g : Group) (w : MWord) : State × Group × Bool :=
  let ow := opWord w.ow
  let f := fmtBlock w.fb
  let sparse := w.op == .mmas
  let t := s.teamFor g.id
  let e := (s.tileOf t ow.tile).getD TileEntry.reset
  let os := octets w.exec
  let fusedPass := decide (os.length = 4) && ow.ostride == 0
  let written := g.matrix.results.any (fun m => w.live.contains m.id && m.touched != 0#32)
  let seedOf (o : Nat) : Nat := if fusedPass then s.fresh else s.fresh + 2048 * o
  let per (o : Nat) : List (List Num × List Num × Bool) :=
    let r := bRanges w.op o ow f
    let b := s.tileBytes g.id.key w (seedOf o) t e r.1
    let sc := s.tileBytes g.id.key w (seedOf o + 1024) t e r.2
    let cw := if sparse then 64 else 32
    let nb := f.blocks sparse
    columnsOf w.op f b sc (fun j =>
      s.rangePoison t e (r.1.1 + cw * j) cw || (f.blk != 0 && s.rangePoison t e (r.2.1 + nb * j) nb))
  let colsFor : List (Nat × List (List Num × List Num × Bool)) := os.map (fun o => (o, per o))
  let poison := colsFor.any (fun c => c.2.any (fun x => x.2.2))
  let newRow (i : Nat) : AccRow :=
    if written then freeRow (s.fresh + 8192 + 16 * i)
    else
      rowUpdate f sparse (g.accRow ow.acc i) (w.rowA f i) (w.scalesA f i)
        (((colsFor.find? (fun c => c.1 == i / 8)).map (·.2)).getD [])
  let newSum (i : Nat) : A56 :=
    if written then (Config.free (s.fresh + 9216 + i)).extractLsb' 0 56
    else
      roundQuiet (some (a56Num (sget 0#56 g.regs.rsum (ow.acc * 32 + i)))
        :: rowTerms (f.len sparse) (f.blocks sparse) (w.rowA f i) (w.scalesA f i))
  let rs := if w.op = .mmao then
      (rowsOf w.exec).foldl (fun m i => sput 0#56 m (ow.acc * 32 + i) (newSum i)) g.regs.rsum
    else g.regs.rsum
  let m := (os.map (fun o => bRanges w.op o ow f)).foldl (fun (m : Mem) r => s.scanned t e (s.scanned t e m r.1) r.2) s.mem
  let s1 := { s.drew 16384 with mem := if poison then m.tileSeen t.core else m }
  (s1, { g with regs := { g.regs with ac := putRows g.regs.ac ow.acc w.exec newRow, rsum := rs } }, poison)

/-- The value of MWR for column `c` of the selection in lane `i` (R228). -/
def mwrValue (w : MWord) (c i : Nat) : A56 :=
  if w.raw then
    (laneOf (w.src.getD (2 * c + 1) zeroLanes) i).extractLsb' 0 24 ++ laneOf (w.src.getD (2 * c) zeroLanes) i
  else
    let x := unpack .fp32 (laneOf (w.src.getD c zeroLanes) i).toNat
    if numIsNan x then a56 (fmtDefaultNan .a56) else a56 (roundNum .a56 (quiet false) x).1

/-- MWR takes effect (R228). -/
def finishWrite (g : Group) (w : MWord) : Group :=
  let acc := (opWord w.ow).acc
  let row (i : Nat) : AccRow :=
    (colList w.cols).zipIdx.foldl (fun r jc => r.set jc.1 (mwrValue w jc.2 i)) (g.accRow acc i)
  { g with regs := { g.regs with ac := putRows g.regs.ac acc w.exec row } }

/-- The values that a word delivers enter the results of its destination registers (R227). -/
def Group.deliver (g : Group) (w : MWord) (vals : Nat → Lanes) : Group :=
  let hit (m : MResult) (d : Nat × Nat) : Bool := m.reg == d.1 && m.id == d.2
  { g with matrix := { g.matrix with
      results := g.matrix.results.map (fun m =>
        match w.dst.zipIdx.find? (fun d => hit m d.1) with
        | some d => { m with value := mergeLanes w.exec m.value (vals d.2) }
        | none => m) } }

/-- MRD takes effect (R231, R232). -/
def finishRead (s : State) (g : Group) (w : MWord) : State × Group × Flags × Bool :=
  let c := command w.cmd
  let t := s.teamFor g.id
  let d := s.stageData g.id.key w t c w.offw
  let outs := (List.range 32).map (fun i =>
    if w.exec.getLsbD i then rowOutputs c d w.cols (g.accRow (opWord w.ow).acc i) else [])
  let words := outs.map (fun o => wordsOfBytes (rowBytes c o))
  let poison := outs.any (fun o => o.any (fun e => e.2.2))
  let m := s.scanStages t (stages c w.offw)
  let s1 := { s.drew 2048 with mem := if poison then m.tileSeen t.core else m }
  (s1, g.deliver w (fun k => words.map (fun ws => ws.getD k 0#32)),
    orFlags (outs.map (fun o => orFlags (o.map (fun e => e.2.1)))), poison)

/-- Maximal runs of consecutive rows, as (first, bytes). -/
def joinRows : List (Nat × List Byte) → List (Nat × List Byte)
  | [] => []
  | (i, bs) :: rest =>
    match joinRows rest with
    | [] => [(i, bs)]
    | (j, cs) :: more => if j = i + 1 then (i, bs ++ cs) :: more else (i, bs) :: (j, cs) :: more

/-- The parts of a write that end where a 16-byte word of tile memory does: its first word, whole words, its last word. -/
def wordParts (a : Nat) (bs : List Byte) : List (Nat × List Byte) :=
  let head := min bs.length ((16 - a % 16) % 16)
  let mid := (bs.length - head) / 16 * 16
  [(a, bs.take head), (a + head, (bs.drop head).take mid), (a + head + mid, bs.drop (head + mid))].filter (fun p => !p.2.isEmpty)

/-- A part that merges with a poisoned word (R164): it stores nothing. -/
def mergesPoison (m : Mem) (p : Nat × List Byte) : Bool := decide (p.2.length < 16) && tilePoisoned m p.1 p.2.length

/-- MEPI takes effect (R164, R227, R232, R238): rows of active lanes are written into the destination tile. -/
def finishEpi (s : State) (g : Group) (w : MWord) : State × Flags × Bool :=
  let c := command w.cmd
  let ow := opWord w.ow
  let t := s.teamFor g.id
  let e := (s.tileOf t ow.tile).getD TileEntry.reset
  let d := s.stageData g.id.key w t c w.offw
  let n := (colList w.cols).length * outBytes c.outfmt
  let outs := (rowsOf w.exec).map (fun i => (i, rowOutputs c d w.cols (g.accRow ow.acc i)))
  let at_ (i : Nat) : Nat := t.key (e.off + ow.off + i * n)
  let parts := (joinRows (outs.map (fun o => (o.1, rowBytes c o.2)))).flatMap (fun r => wordParts (at_ r.1) r.2)
  let m0 := parts.foldl (fun (m : Mem) p => m.tileRead (decide (p.2.length < 16)) true p.1 p.2.length)
    (s.scanStages t (stages c w.offw))
  let good := parts.filter (fun p => !mergesPoison m0 p)
  let poison := outs.any (fun o => o.2.any (fun x => x.2.2)) || decide (good.length < parts.length)
  let put (m : Mem) (p : Nat × List Byte) : Mem :=
    let m1 := m.tilePut (some g.id.key) p.1 p.2
    { m1 with epi := m1.epi ++ (m.overwritten p.1 p.2).map (fun x =>
        { owner := g.id.key, batch := w.batch.getD 16, key := x.1, old := x.2 }) }
  let m1 := good.foldl put m0
  let s2 := { s.drew 2048 with mem := if poison then m1.tileSeen t.core else m1 }
  let wr : Writes := { tile := good.map (fun p => (p.1, p.2.length)), job := [] }
  (s2.watchEvents none (s.groupSource g.id) w.pc.toNat false g.id.job wr,
    orFlags (outs.map (fun o => orFlags (o.2.map (fun x => x.2.1)))), poison)

/-- MSTAT takes effect (R235). -/
def finishStat (g : Group) (w : MWord) : Group :=
  let ow := opWord w.ow
  let key (i : Nat) : Nat := ow.acc * 32 + i
  let r := g.regs
  match w.op with
  | .statReset =>
    { g with regs := { r with
        rmax := (rowsOf w.exec).foldl (fun m i => sput rmaxReset m (key i) rmaxReset) r.rmax,
        rsum := (rowsOf w.exec).foldl (fun m i => sput 0#56 m (key i) 0#56) r.rsum } }
  | .statMax =>
    let old (i : Nat) : Nat := (sget rmaxReset r.rmax (key i)).toNat
    let new (i : Nat) : Nat := (fMax .fp32 (quiet false) (old i) (maxF32 ((g.accRow ow.acc2 i).map a56ToF32))).1
    let g1 := { g with regs := { r with
        ac := putRows r.ac ow.acc w.exec (fun i => (g.accRow ow.acc i).map (rescale (old i) (new i))),
        rsum := (rowsOf w.exec).foldl (fun m i =>
          sput 0#56 m (key i) (rescale (old i) (new i) (sget 0#56 r.rsum (key i)))) r.rsum,
        rmax := (rowsOf w.exec).foldl (fun m i => sput rmaxReset m (key i) (BitVec.ofNat 32 (new i))) r.rmax } }
    g1.deliver w (fun _ => mkLanes (fun i => BitVec.ofNat 32 (new i)))
  | _ =>
    g.deliver w (fun k => mkLanes (fun i =>
      if k = 0 then BitVec.ofNat 32 (a56ToF32 (sget 0#56 r.rsum (key i))) else sget rmaxReset r.rmax (key i)))

/-- Key of a batch in the maps: 16 for the open batch. -/
def batchKey (b : Option Nat) : Nat := b.getD 16

/-- A batch closed into `b` that has no word left is complete: its flags reach FSTAT and its bindings complete (R21,
R223). -/
def Group.settleBatch (g : Group) (b : Nat) : Group :=
  if g.matrix.words.any (fun w => w.batch == some b) then g
  else
    let bound := g.matrix.binds.filter (fun x => x.1 == b)
    let regs := bound.foldl (fun (r : Regs) x => r.unbindFlag x.2)
      { g.regs with fstat := g.regs.fstat ||| sget 0#8 g.matrix.flags b }
    { g with regs := regs, matrix := { g.matrix with flags := sdel g.matrix.flags b,
                                                     binds := g.matrix.binds.filter (fun x => x.1 != b) } }

/-- The word leaves the engine with its flags and its poison. -/
def Group.wordDone (g : Group) (w : MWord) (flags : Flags) (poison : Bool) : Group :=
  let key := batchKey w.batch
  let m := g.matrix
  let g1 := { g with matrix := { m with
      words := m.words.erase w,
      flags := sput 0#8 m.flags key (sget 0#8 m.flags key ||| flags),
      poison := if poison then sput false m.poison key true else m.poison } }
  match w.batch with
  | some b => g1.settleBatch b
  | none => g1

/-- FSTAT.spmeta of a sparse word (R220). -/
def MWord.sparseFlags (w : MWord) : Flags :=
  if w.op = .mmas && reservedRows w.exec (classOf (fmtBlock w.fb).afmt) w.metas != 0#32 then flagSpmeta else 0#8

/-- A word of group `g` completes. -/
def finishWord (s : State) (g : Group) (w : MWord) : State × Group :=
  match w.op with
  | .zero =>
    let acc := (opWord w.ow).acc
    (s, Group.wordDone { g with regs := { g.regs with ac := putRows g.regs.ac acc w.exec (fun _ => zeroRow) } } w 0#8 false)
  | .wr => (s, (finishWrite g w).wordDone w 0#8 false)
  | .rd =>
    let r := finishRead s g w
    (r.1, r.2.1.wordDone w r.2.2.1 r.2.2.2)
  | .epi =>
    let r := finishEpi s g w
    (r.1, g.wordDone w r.2.1 r.2.2)
  | .statReset => (s, (finishStat g w).wordDone w 0#8 false)
  | .statMax => (s, (finishStat g w).wordDone w 0#8 false)
  | .statRead => (s, (finishStat g w).wordDone w 0#8 false)
  | _ =>
    let r := finishMultiply s g w
    (r.1, r.2.1.wordDone w w.sparseFlags r.2.2)

/-- Words that may complete: no earlier word of the group names the same accumulator (R226). -/
def eligible : List MWord → List MWord → List MWord
  | _, [] => []
  | before, w :: ws =>
    let accs := (opWord w.ow).acc :: (if w.op = .statMax then [(opWord w.ow).acc2] else [])
    let free := !before.any (fun b => accs.any (fun a => b.names a))
    (if free then [w] else []) ++ eligible (before ++ [w]) ws

/-- Index of the group and the word of every word that may complete. -/
def State.completable (s : State) : List (Nat × MWord) :=
  s.groups.zipIdx.flatMap (fun gi => (eligible [] gi.1.matrix.words).map (fun w => (gi.2, w)))

/-- Replace group `i`. -/
def State.setGroup (s : State) (i : Nat) (g : Group) : State := s.withGroups (s.groups.set i g)

/-- MATRIX_WORD_COMPLETE (R226, R237): one of the words that may complete; which is unspecified. -/
def execMatrixWordComplete (s : State) : Out :=
  .next (
    let ws := s.completable
    let s0 := if 1 < ws.length then s.drawn else s
    match ws[s.freeNow.toNat % max 1 ws.length]? with
    | none => s
    | some (i, w) =>
      match s.groups[i]? with
      | none => s
      | some g =>
        let r := finishWord s0 g w
        r.1.setGroup i r.2)

/-! ## Batches (R223, R224, R238) -/

/-- The open batch of a group is closed: MEPI bytes of its words wait for the MWAIT of `b` (R223, R227). -/
def Mem.epiClosed (m : Mem) (g : GroupKey) (b : Nat) : Mem :=
  if m.epi.isEmpty then m
  else { m with epi := m.epi.map (fun e => if e.owner == g && e.batch == 16 then { e with batch := b } else e) }

/-- The MWAIT of a batch has passed: its MEPI bytes are what they are (R227). -/
def Mem.epiPassed (m : Mem) (g : GroupKey) (b : Nat) : Mem :=
  if m.epi.isEmpty then m else { m with epi := m.epi.filter (fun e => !(e.owner == g && e.batch == b)) }

/-- MFEN (R223). -/
def execMfen (a : BitVec 6) (b : BitVec 4) (s : State) : Out :=
  let f := ((s.getS a).extractLsb' 0 4).toNat
  .next (if 12 ≤ f && f ≤ 14 then s.matrixFault
  else
    let g := s.cur
    let m := g.matrix
    let key := b.toNat
    let close (x : Option Nat) : Option Nat := if x.isNone then some key else x
    let m1 := { m with
      words := m.words.map (fun w => { w with batch := close w.batch }),
      results := m.results.map (fun r => { r with batch := close r.batch }),
      flags := sdel (sput 0#8 m.flags key (sget 0#8 m.flags key ||| sget 0#8 m.flags 16)) 16,
      poison := sdel (sput false m.poison key (sget false m.poison key || sget false m.poison 16)) 16,
      binds := if f < 12 then m.binds ++ [(key, f)] else m.binds }
    State.advance { s with cur := Group.settleBatch { g with regs := g.regs.bindFlag f, matrix := m1 } key,
                           mem := s.mem.epiClosed g.id.key key })

/-- What a register holds after the MWAIT (R209, R227): a destination its results, or free values in the lanes that the
group has written meanwhile; an operand register what it held, unless the group has written it. -/
def landing (seed : Nat) (m : MResult) (cur : Lanes) : Lanes :=
  if m.operand then mergeLanes m.touched m.value cur
  else mergeLanes m.mask cur (mergeLanes m.touched m.value (freeLanes seed))

/-- Is the register an operand of a result that still waits? -/
def MResult.holds (r : Nat) (m : MResult) : Bool := m.operand && m.reg == r

/-- One entry of a batch is delivered; `rest` are the entries that remain. A write of an operand register makes the results
of its word undefined (R209). -/
def Group.land (g : Group) (seed : Nat) (m : MResult) (rest : List MResult) : Group :=
  let new := landing seed m (sget zeroLanes g.regs.v m.reg)
  let ac := if m.operand && m.touched != 0#32 then putRows g.regs.ac m.acc m.rows (fun i => freeRow (seed + 32 + 16 * i))
    else g.regs.ac
  { g with regs := { g.regs with v := if rest.any (MResult.holds m.reg) then g.regs.v else sput zeroLanes g.regs.v m.reg new,
                                 ac := ac } }

/-- Entries that remain when a destination has been delivered: an operand in its register will hold the results. -/
def MResult.follows (seed : Nat) (cur : Lanes) (m : MResult) (x : MResult) : MResult :=
  if !m.operand && x.holds m.reg then { x with value := mergeLanes m.mask x.value (landing seed m cur) } else x

/-- The entries of a batch are delivered one after the other; the others remain. -/
def landAll : List MResult → State → List MResult → State × List MResult
  | [], s, others => (s, others)
  | m :: ms, s, others =>
    let f := MResult.follows s.fresh (sget zeroLanes s.cur.regs.v m.reg) m
    landAll ms { s.drew 600 with cur := s.cur.land s.fresh m (ms ++ others) } (others.map f)

/-- MWAIT (R224, R227, R238). -/
def execMwait (b : BitVec 4) (s : State) : Out :=
  let key := b.toNat
  .next (if s.cur.matrix.words.any (fun w => w.batch == some key) then s.waitAt (.batch key)
  else
    let mine := s.cur.matrix.results.filter (fun r => r.batch == some key)
    let others := s.cur.matrix.results.filter (fun r => r.batch != some key)
    let (s1, others) := landAll mine s others
    let poisoned := sget false s1.cur.matrix.poison key
    let s2 := { s1 with cur := { s1.cur with matrix := { s1.cur.matrix with
        results := others, poison := sdel s1.cur.matrix.poison key } }, mem := s1.mem.epiPassed s1.cur.id.key key }
    if poisoned then s2.trap0 14 3 else s2.advance)

end Sys2Proof.Machine
end

