-- ==== Sys2Proof/Machine/Tiles.lean ====
section
/-! DEFINITION. The tile table, fetch windows, arrival barriers, rings and block decode (R167 to R170, R247, R248, R254 to
R263, R267, R268). -/

namespace Sys2Proof.Machine

/-! ## Entries -/

/-- Replace entry `n` of a team. -/
def State.putEntry (s : State) (t : Team) (n : Nat) (e : TileEntry) : State :=
  { s with mem := { s.mem with table := sput TileEntry.reset s.mem.table (t.entryKey n) e } }

/-- Is tile `n` a slot of a live ring of the team (R248, R260)? `but`: a ring that does not count. -/
def Team.ringSlot (t : Team) (n : Nat) (but : Option Nat) : Bool :=
  t.rings.any (fun r => r.2.live && some r.1 != but && decide (r.2.first ≤ n) && decide (n < r.2.first + r.2.n))

/-- TDEF with the state it gives the entry (R168, R247). -/
def State.tdef (s : State) (a b : BitVec 6) (ready : Bool) : State :=
  let x := s.getS a
  let y := s.getS b
  let size := (x.extractLsb' 32 24).toNat
  let off := (x.extractLsb' 8 24).toNat
  let n := (x.extractLsb' 0 8).toNat
  let pitch := (y.extractLsb' 0 20).toNat
  if x.extractLsb' 56 8 != 0#8 || size == 0 || size % 16 != 0 || off % 16 != 0 || y.extractLsb' 20 44 != 0#44
      || pitch % 16 != 0 then s.operandFault
  else
    match s.tileOf s.team n with
    | none => s.trap0 15 3
    | some e =>
      if e.defined then s.trap0 15 3
      else if s.team.bytes < off + size then s.trap0 15 4
      else
        let e1 : TileEntry :=
          { defined := true, off := off, size := size, pitch := pitch, st := if ready then .ready else .empty }
        (s.putEntry s.team n e1).advance

/-- TDEF and TDEF.ready (R247). -/
def execTdef (a b : BitVec 6) (r : BitVec 1) (s : State) : Out := .next (s.tdef a b (r == 1#1))

/-- Fields of the control word (R250). -/
def ctlTile (x : DWord) : Nat := (x.extractLsb' 0 8).toNat
def ctlAb (x : DWord) : Nat := (x.extractLsb' 8 5).toNat
def ctlAbEn (x : DWord) : Bool := x.getLsbD 13
def ctlFlag (x : DWord) : Nat := (x.extractLsb' 16 4).toNat
def ctlScope (x : DWord) : Nat := (x.extractLsb' 20 3).toNat
def ctlIvreg (x : DWord) : Nat := (x.extractLsb' 24 7).toNat

/-- Bits of the fields a word uses. -/
def ctlTileBits : DWord := 0xFF#64
def ctlRingBits : DWord := 0xF#64
def ctlAbBits : DWord := 0x3F00#64
def ctlFlagBits : DWord := 0xF0000#64
def ctlScopeBits : DWord := 0x700000#64
def ctlIvregBits : DWord := 0x7F000000#64

/-- Has the control word a reserved field or value (R250)? -/
def ctlBad (x used : DWord) : Bool :=
  x &&& ~~~used != 0#64 || (decide (12 ≤ ctlFlag x) && ctlFlag x != 15)
    || (used &&& ctlScopeBits != 0#64 && decide (ctlScope x < 2))

/-- TREL (R168, R248): the entry becomes undefined and empty. -/
def execTrel (a : BitVec 6) (s : State) : Out :=
  let x := s.getS a
  let n := ctlTile x
  .next (if ctlBad x ctlTileBits then s.operandFault
  else
    s.withTile n (fun e =>
      if s.team.ringSlot n none then s.trap0 15 7
      else s.inStates n e [0, 2] (
        if s.tileBusy (s.team.entryKey n) then s.waitAt (.tileIdle n)
        else (s.putEntry s.team n TileEntry.reset).advance)))

/-- The value of TSTATE for an entry (R248). -/
def tstateValue (e : TileEntry) (ring busy : Bool) : Nat :=
  if e.defined then (if ring then 16 else 0) + (if busy then 8 else 0) + 4 + tileStateNum e.st else 0

/-- TSTATE (R248): an undefined entry of the range reads 0. -/
def execTstate (a d : BitVec 6) (s : State) : Out :=
  let x := s.getS a
  let n := ctlTile x
  .next (if ctlBad x ctlTileBits then s.operandFault
  else
    match s.tileOf s.team n with
    | none => s.trap0 15 3
    | some e =>
      let v := tstateValue e (s.team.ringSlot n none) (s.tileBusy (s.team.entryKey n))
      (s.putS d (BitVec.ofNat 64 v)).advance)

/-! ## The fetch window (R254, R255) -/

/-- TWIN (R255). -/
def execTwin (a : BitVec 6) (s : State) : Out :=
  let x := s.getS a
  let kib := (x.extractLsb' 16 15).toNat
  let req := (x.extractLsb' 0 9).toNat
  .next (if x.extractLsb' 31 33 != 0#33 || x.extractLsb' 9 7 != 0#7 || kib == 0 || decide (16384 < kib) || req == 0
      || decide (256 < req) then s.operandFault
  else (s.putTeam { s.team with kibMax := kib, reqMax := req }).advance)

/-- TWIN.rd (R255). -/
def execTwinRd (a : BitVec 6) (s : State) : Out :=
  .next (s.putS a (BitVec.ofNat 64 (s.team.kibMax * 2 ^ 16 + s.team.reqMax))).advance

/-- Commands of a team of some kinds. -/
def State.teamCmds (s : State) (g : GroupId) (ks : List CmdKind) : List Cmd :=
  s.cmds.filter (fun c => c.grid == g.grid && c.clu == g.clu && c.team == g.team && ks.contains c.kind)

/-- Does the window of the team of a group admit a fetch of `b` bytes (R254)? -/
def State.windowAdmits (s : State) (g : GroupId) (b : Nat) : Bool :=
  let t := s.teamFor g
  let out := s.teamCmds g [.tfetch, .tgath]
  let bytes := out.foldl (fun n c => n + c.bytes) 0
  decide (out.length < t.reqMax) && (bytes == 0 || decide (bytes + b ≤ t.kibMax * 1024))

/-! ## Arrival barriers (R257 to R259) -/

/-- Has a barrier word a reserved field set (R257)? -/
def abWordBad (x : DWord) : Bool := x.extractLsb' 24 40 != 0#40 || x.extractLsb' 5 3 != 0#3

/-- ABAR (R258). -/
def execAbar (a : BitVec 6) (s : State) : Out :=
  let x := s.getS a
  let n := (x.extractLsb' 0 5).toNat
  let c := (x.extractLsb' 8 16).toNat
  let t := s.team
  .next (if abWordBad x || c == 0 then s.operandFault
  else if (sget ABar.reset t.abars n).st = 1 then s.trap0 15 6
  else (s.putTeam { t with abars := sput ABar.reset t.abars n { st := 1, c := c, k := 0, n := 0 } }).advance)

/-- A fragment that waits at ABWAIT of barrier `b` has seen the firing: barrier 32 + b. -/
def Frag.seesFiring (b : Nat) (f : Frag) : Frag :=
  match f.wait with
  | .abar b' => if b' = b then { f with wait := .abar (32 + b) } else f
  | _ => f

/-- ABWAIT (R258, R259): an observed firing is an acquire at .team. -/
def execAbwait (a : BitVec 6) (s : State) : Out :=
  let x := s.getS a
  let n := (x.extractLsb' 0 5).toNat
  let b := sget ABar.reset s.team.abars n
  .next (if abWordBad x then s.operandFault
  else if s.cur.frag.wait = .abar (32 + n) then (s.acquire 2).advance
  else if b.st = 1 then s.waitAt (.abar n)
  else (if b.st = 2 then s.acquire 2 else s).advance)

/-! ## Rings (R260 to R263) -/

/-- The distance from counter y to counter x, modulo 2^32 (R260). -/
def ringDist (x y : Nat) : Nat := (x + 2 ^ 32 - y) % 2 ^ 32

def ringNext (x : Nat) : Nat := (x + 1) % 2 ^ 32

/-- Tile of a sequence (R261). -/
def Ring.tileOf (r : Ring) (q : Nat) : Nat := r.first + q % r.n

/-- Publication (R261): wr advances over complete slots. -/
def Ring.publish : Nat → Ring → Ring
  | 0, r => r
  | n + 1, r =>
    if r.complete.contains r.wr then
      Ring.publish n { r with wr := ringNext r.wr, complete := r.complete.filter (· != r.wr) }
    else r

/-- The fetch of sequence q has arrived (R261). -/
def Ring.arrived (r : Ring) (q : Nat) : Ring := Ring.publish 65 { r with complete := q :: r.complete }

/-- rd advances over released sequences (R261). -/
def Ring.reap : Nat → Ring → Ring
  | 0, r => r
  | n + 1, r =>
    if r.released.contains r.rd then
      Ring.reap n { r with rd := ringNext r.rd, released := r.released.filter (· != r.rd) }
    else r

/-- May tile `n` be a slot of ring `k` whose slots have `size` bytes (R260)? -/
def State.slotOk (s : State) (t : Team) (k size n : Nat) : Bool :=
  match s.tileOf t n with
  | some e => e.defined && e.st == .ready && e.size == size && !t.ringSlot n (some k)
  | none => false

/-- RGINIT (R260). -/
def execRginit (a : BitVec 6) (s : State) : Out :=
  let x := s.getS a
  let first := (x.extractLsb' 16 8).toNat
  let n := (x.extractLsb' 8 7).toNat
  let mode := (x.extractLsb' 4 1).toNat
  let k := (x.extractLsb' 0 4).toNat
  let t := s.team
  let r := sget Ring.reset t.rings k
  let size := ((s.tileOf t first).map (·.size)).getD 0
  .next (if x.extractLsb' 24 40 != 0#40 || x.getLsbD 15 || x.extractLsb' 5 3 != 0#3 then s.operandFault
  else if (r.live && (r.res != r.rd || r.cl != r.rd)) || n == 1 || decide (64 < n)
      || !((List.range n).all (fun i => s.slotOk t k size (first + i))) then s.trap0 15 7
  else
    let r1 := if n = 0 then Ring.reset else { Ring.reset with live := true, mode := mode, first := first, n := n }
    (s.putTeam { t with rings := sput Ring.reset t.rings k r1 }).advance)

/-- The handle of a sequence (R262). -/
def ringHandle (k q tile : Nat) : Nat := q * 2 ^ 32 + k * 2 ^ 8 + tile

/-- RGAWAIT (R261, R262): an acquire at .team; at .pod where SIGNALs fill the slots (R395). -/
def execRgawait (a d : BitVec 6) (s : State) : Out :=
  let k := ((s.getS a).extractLsb' 0 4).toNat
  let t := s.team
  let r := sget Ring.reset t.rings k
  .next (if !r.live then s.trap0 15 7
  else if r.cl = r.wr then s.waitAt (.ringData k)
  else
    let s1 := s.putTeam { t with rings := sput Ring.reset t.rings k { r with cl := ringNext r.cl } }
    ((s1.putS d (BitVec.ofNat 64 (ringHandle k r.cl (r.tileOf r.cl)))).acquire (if r.mode = 1 then 6 else 2)).advance)

/-- RGREL (R261, R262): a release at .team. -/
def execRgrel (a : BitVec 6) (s : State) : Out :=
  let x := s.getS a
  let q := (x.extractLsb' 32 32).toNat
  let k := (x.extractLsb' 8 4).toNat
  let r := sget Ring.reset s.team.rings k
  .next (if x.extractLsb' 12 20 != 0#20 then s.operandFault
  else if !r.live || (x.extractLsb' 0 8).toNat != r.tileOf q || decide (ringDist r.cl r.rd ≤ ringDist q r.rd)
      || r.released.contains q then s.trap0 15 7
  else
    s.release false 2 (fun t =>
      let r1 := Ring.reap 65 { r with released := q :: r.released }
      (t.putTeam { t.team with rings := sput Ring.reset t.team.rings k r1 }).advance))

/-! ## Block decode (R267, R268) -/

/-- The 7-bit mantissa m_q of a block, as a number (R267). -/
def mantissa (block : List Byte) (q : Nat) : Int :=
  let m := leNat ((block.drop 2).take 112) / 2 ^ (7 * q) % 128
  if 64 ≤ m then (m : Int) - 128 else m

/-- Value q of a block without escape: BF16 m × 2^(E - 133), exact (R268). -/
def blockValue (block : List Byte) (q : Nat) : Nat :=
  let m := mantissa block q
  (roundNum .bf16 { mode := 0, ftz := false, sat := false }
    (.fin (decide (m < 0)) m.natAbs (((block.getD 0 0#8).toNat : Int) - 133))).1

/-- Value q of the raw bytes of an escape block (R268). -/
def rawValue (raw : List Byte) (q : Nat) : Nat := leNat ((raw.drop (2 * q)).take 2)

/-- Register `r` (0 or 1) of the destination in lane l: values 4l + 2r and 4l + 2r + 1 (R268, R110). -/
def decodeLanes (value : Nat → Nat) (r : Nat) : Lanes :=
  mkLanes (fun l => BitVec.ofNat 32 (value (4 * l + 2 * r) + 2 ^ 16 * value (4 * l + 2 * r + 1)))

/-- A poisoned word read by VDECODE (R164, R166, R268). -/
def State.decodePoison (s : State) : State :=
  { s with mem := s.mem.tileSeen s.team.core }.trap (32 * 12) { fmask := s.active, addr := 0, aux := 0#64 }

/-- VDECODE (R267, R268). -/
def execVdecode (a : BitVec 6) (s : State) : Out :=
  let x := s.getS a
  let v := (x.extractLsb' 32 7).toNat
  let off := (x.extractLsb' 8 24).toNat
  let n := (x.extractLsb' 0 8).toNat
  let t := s.team
  let m := s.active
  .next (if blockLong v 2 then s.trap0 0 3
  else
    s.withBlock v 2 (fun ds =>
      if x.extractLsb' 39 25 != 0#25 || off % 128 != 0 then s.operandFault
      else
        s.withTile n (fun e =>
          let look (u : State) (o k : Nat) (go : State → List Byte → State) : State :=
            let m := s.scanned t e u.mem (o, k)
            let r := State.tileLoad { u with mem := m } (t.key (e.off + o)) k
            if r.1.rangePoison t e o k then r.1.decodePoison else go r.1 r.2
          let write (u : State) (value : Nat → Nat) : State :=
            (ds.zipIdx.foldl (fun (u : State) rk => u.putRef m rk.1 (decodeLanes value rk.2)) u).advance
          s.inStates n e [2, 3] (
            if e.size < off + 128 then s.trap0 15 8
            else look s off 8 (fun u head =>
              if head.getD 1 0#8 &&& 1#8 = 1#8 then
                let raw := leNat ((head.drop 4).take 3)
                if raw % 16 != 0 || decide (e.size < raw + 256) then u.trap0 15 8
                else look u raw 256 (fun v bs => write v (rawValue bs))
              else if head.getD 0 0#8 = 255#8 then u.trap0 15 8
              else look u off 114 (fun v bs => write v (blockValue bs)))))))

end Sys2Proof.Machine
end

