-- ==== Sys2Proof/Machine/FarMemory.lean ====
section
/-! DEFINITION. Far memory and how engines reach it and package memory: lines, integrity tags, descriptors, windows and the
checks of an element (R240 to R246, R269, R411 to R415). -/

namespace Sys2Proof.Machine

/-! ## Far lines (R240, R411 to R415) -/

/-- Key of a module address in far memory. -/
def farKey (module a : Nat) : Nat := module * 2 ^ 41 + a

/-- Highest module address (R240). -/
def farTop : Nat := 0x17FFFFFFFFF

/-- The far keys of a job: none when it is not bound (R410, R411). -/
def State.jobKeys (s : State) (job : BitVec 16) : Option (BitVec 384) := (s.keySlot job).bind (·.keys)

/-- Version of a line for a job: 0 outside sealed regions (R412, R415). -/
def State.lineVersion (s : State) (job : BitVec 16) (line : Nat) : Nat :=
  ((s.keySlot job).map (fun k => sget 0 k.versions line)).getD 0

/-- K1, K2 and the tweak give the cipher text of a line (R411): a function of outside standards. -/
def cipherLine (keys : BitVec 384) (line : Nat) (job : BitVec 16) (plain : List Byte) : List Byte :=
  let c := Config.sm4Encrypt (keys.extractLsb' 0 128) (line * 2 ^ 16 + job.toNat) plain
  (List.range 256).map (fun i => c.getD i 0#8)

/-- Does the line's tag fail for the job (R412)? -/
def State.tagFails (s : State) (job : BitVec 16) (line : Nat) : Bool :=
  match s.jobKeys job with
  | none => false
  | some k => sget none s.sec.tags line != some (k, s.lineVersion job line)

/-- Why a far line cannot be read: detail 7 or 8 of class 16 (R412). -/
def State.lineFault (s : State) (job : BitVec 16) (line : Nat) : Option Nat :=
  if sget false s.mem.farPoison line then some 7 else if s.tagFails job line then some 8 else none

/-- A joining slot that has not received keys refuses the far accesses of its job (R410). -/
def State.keysAwaited (s : State) (job : BitVec 16) : Bool := (s.keySlot job).any (fun k => k.keys.isNone)

/-- Bytes of far memory as a job's engine reads them, within one line (R411, R412): a job that is not bound reads the
cipher text of a tagged line. -/
def State.farRead (s : State) (job : BitVec 16) (key n : Nat) : Except Nat (List Byte) :=
  let line := key / 256
  match (if s.keysAwaited job then some 8 else s.lineFault job line) with
  | some d => .error d
  | none =>
    match s.jobKeys job, sget none s.sec.tags line with
    | none, some (k, _) => .ok (((cipherLine k line job (readBytes s.mem.far (line * 256) 256)).drop (key % 256)).take n)
    | _, _ => .ok (readBytes s.mem.far key n)

/-- The tag that a job's write leaves on a line (R413, R415): a sealed line's version grows. -/
def State.retag (s : State) (job : BitVec 16) (line : Nat) : State :=
  match s.keySlot job with
  | none => { s with sec := { s.sec with tags := sput none s.sec.tags line none } }
  | some slot =>
    match slot.keys with
    | none => { s with sec := { s.sec with tags := sput none s.sec.tags line none } }
    | some k =>
      let v := sget 0 slot.versions line
      let v1 := if v = 0 then 0 else v + 1
      let slot1 := { slot with versions := sput 0 slot.versions line v1 }
      { s with sec := { s.sec with
          tags := sput none s.sec.tags line (some (k, v1)),
          slots := s.sec.slots.map (fun x => if (x.map (·.job)) == some job then some slot1 else x) } }

/-- The far line as it lies in the module when a job without keys writes part of it (R411). -/
def State.bareLine (s : State) (job : BitVec 16) (line : Nat) : State :=
  match s.jobKeys job, sget none s.sec.tags line with
  | none, some (k, _) =>
    let plain := readBytes s.mem.far (line * 256) 256
    { s with mem := { s.mem with far := writeBytes s.mem.far (line * 256) (cipherLine k line job plain) } }
  | _, _ => s

/-- A write of far memory goes on record while a re-shard is at work (R286). -/
def Mem.farNoted (m : Mem) (key n : Nat) : Mem := if m.tracked then { m with farLog := (key, n) :: m.farLog } else m

/-- An engine write within one far line (R413): of part of the line, after the checks of the merge read; `whole` when the
engine writes the whole line. -/
def State.farWrite (s : State) (job : BitVec 16) (key : Nat) (bs : List Byte) (whole : Bool) : Except Nat State :=
  let line := key / 256
  match (if s.keysAwaited job then some 8 else if whole then none else s.lineFault job line) with
  | some d => .error d
  | none =>
    let s1 := (s.bareLine job line).retag job line
    .ok { s1 with mem := { (s1.mem.farNoted key bs.length) with
                                       far := writeBytes s1.mem.far key bs, farPoison := sput false s1.mem.farPoison line false } }

/-! ## Descriptors and windows (R243 to R246) -/

/-- The 128 bytes of a record at a job-space address (R243, R274): none when the address does not qualify. -/
def State.recordBytes (s : State) (va n : Nat) : State × Option (Nat × List Byte) :=
  if va % n != 0 || decide (2 ^ 57 ≤ va) then (s, none)
  else
    match s.translate va with
    | (s1, .error _) => (s1, none)
    | (s0, .ok l) =>
      let s1 := s0.ownStores
      if l.kind = 1 && l.read then (s1, some (leafPhys l va, readBytes s1.mem.pkg (leafPhys l va) n)) else (s1, none)

/-- A little-endian number of `n` bytes at offset `o`. -/
def numAt (bs : List Byte) (o n : Nat) : Nat := leNat ((bs.drop o).take n)

/-- A two's-complement number of `n` bits. -/
def signedOf (x n : Nat) : Int := if 2 ^ (n - 1) ≤ x then (x : Int) - 2 ^ n else x

/-- Dimension d of a descriptor (R243). -/
def dimAt (bs : List Byte) (d : Nat) : Dim :=
  { stride := signedOf (numAt bs (0x10 + 8 * d) 8 % 2 ^ 56) 56, size := numAt bs (0x48 + 4 * d) 4,
    ext := numAt bs (0x64 + 2 * d) 2, samp := if d < 3 then numAt bs (0x72 + d) 1 else 0 }

/-- Rank field of a descriptor's bytes. -/
def descRank (bs : List Byte) : Nat := numAt bs 8 1 % 8

/-- The descriptor that 128 bytes hold; none when it is malformed (R244). -/
def descFrom (bs : List Byte) : Option Desc :=
  let base := numAt bs 0 8
  let w := numAt bs 8 8
  let rank := descRank bs
  let esize : Nat := 2 ^ field w 4 2
  let dims := (List.range rank).map (dimAt bs)
  let unused := ((List.range 7).filter (fun d => decide (rank ≤ d))).all (fun d =>
    numAt bs (0x10 + 8 * d) 8 == 0 && numAt bs (0x48 + 4 * d) 4 == 0 && numAt bs (0x64 + 2 * d) 2 == 0
      && (decide (3 ≤ d) || numAt bs (0x72 + d) 1 == 0))
  if decide (2 ^ 57 ≤ base) || decide (2 ^ 9 ≤ w) || field w 6 2 != 0 || field w 3 1 != 0 || rank == 0 || !unused
      || !((bs.drop 0x75).all (· == 0#8))
      || (List.range rank).any (fun d => decide (2 ^ 56 ≤ numAt bs (0x10 + 8 * d) 8))
      || dims.any (fun d => d.size == 0 || d.ext == 0 || d.stride % (esize : Int) != 0) || base % esize != 0 then none
  else some { base := base, oob := w.testBit 8, esize := esize, dims := dims }

/-- The origin block from register `c` (R250): none when it is refused. -/
def State.originOf (s : State) (c rank : Nat) : Option (List Nat) :=
  let n := (rank + 1) / 2
  if 64 < c + n then none
  else
    let vals := (List.range n).flatMap (fun i =>
      let x := s.getS (BitVec.ofNat 6 (c + i))
      [(x.extractLsb' 0 32).toNat, (x.extractLsb' 32 32).toNat])
    if (vals.drop rank).all (· == 0) then some (vals.take rank) else none

/-- Product of extents. -/
def prodExt (ds : List Dim) : Nat := ds.foldl (fun n d => n * d.ext) 1

/-- Row bytes of a window (R246). -/
def Desc.rowBytes (d : Desc) : Nat := (d.dims.headD { stride := 0, size := 1, ext := 1, samp := 0 }).ext * d.esize

/-- Rows of a window (R246). -/
def Desc.rows (d : Desc) : Nat := prodExt (d.dims.drop 1)

/-- Window coordinates of element x of row r: dimension 1 varies fastest over the rows (R246). -/
def rowCoords (r : Nat) : List Dim → List Nat
  | [] => []
  | d :: ds => r % d.ext :: rowCoords (r / d.ext) ds

/-- Coordinates in the tensor of a window element (R245). -/
def Desc.coords (d : Desc) (origin w : List Nat) : List Nat :=
  d.dims.zipIdx.map (fun x => origin.getD x.2 0 + w.getD x.2 0 * (if x.2 < 3 then x.1.samp + 1 else 1))

/-- Address of an element (R245). -/
def Desc.addr (d : Desc) (cs : List Nat) : Int :=
  (d.dims.zip cs).foldl (fun a x => a + (x.2 : Int) * x.1.stride) (d.base : Int)

/-- Is the element in bounds (R245)? -/
def Desc.inb (d : Desc) (cs : List Nat) : Bool := (d.dims.zip cs).all (fun x => decide (x.2 < x.1.size))

/-- An element of a transfer: image offset, address, in bounds. -/
structure Elem where
  at_ : Nat
  addr : Int
  inb : Bool
  deriving DecidableEq, Repr

/-- Element x of row r of the window at an origin, at image offset `o` (R245). -/
def Desc.elem (d : Desc) (origin : List Nat) (r x o : Nat) : Elem :=
  let cs := d.coords origin (x :: rowCoords r (d.dims.drop 1))
  { at_ := o, addr := d.addr cs, inb := d.inb cs }

/-- The element that starts at image offset `o` when rows of `rb` bytes lie at pitch `p` (R246). -/
def Desc.elemAt (d : Desc) (origin : List Nat) (p rows o : Nat) : Option Elem :=
  let r := o / p
  let x := o % p
  if r < rows && x < d.rowBytes then some (d.elem origin r (x / d.esize) o) else Option.none

/-- Bytes of an image of `rows` rows at pitch `p`. -/
def imageBytes (rows p rb : Nat) : Nat := if rows = 0 then 0 else (rows - 1) * p + rb

/-! ## Elements at their addresses (R245, R269) -/

/-- Address of an element in a record (R317). -/
def addrOf (a : Int) : Nat := (a % (2 ^ 64 : Int)).toNat

/-- Does the element lie in job space (R245)? -/
def inJobSpace (a : Int) (esize : Nat) : Bool := decide (0 ≤ a) && decide (a + esize ≤ 2 ^ 57)

/-- Translate an element (R269): the leaf, or the detail of class 16. -/
def State.elemLeaf (s : State) (a : Int) (esize : Nat) (write : Bool) : State × Except Nat (Leaf × Nat) :=
  if !inJobSpace a esize then (s, .error 0)
  else
    let va := a.toNat
    match s.translate va with
    | (s1, .error .translation) => (s1, .error 0)
    | (s1, .error .format) => (s1, .error 1)
    | (s1, .error .poison) => (s1, .error 2)
    | (s1, .ok l) =>
      if (write && !l.write) || (!write && !l.read) then (s1, .error 3)
      else if l.kind = 3 && decide (farTop < leafPhys l va + esize - 1) then (s1, .error 4)
      else (s1, .ok (l, leafPhys l va))

/-- Read an element at a local or a far home (R252). -/
def State.homeRead (s : State) (job : BitVec 16) (l : Leaf) (pa n : Nat) : Except Nat (List Byte) :=
  if l.kind = 3 then s.farRead job (farKey l.unit pa) n
  else if pkgPoisoned s.mem pa n then .error 10 else .ok (readBytes s.mem.pkg pa n)

/-- Write an element at a local or a far home (R172, R264, R413). `whole`: the engine writes the whole protected word or
line; `poison`: the source was poisoned. -/
def State.homeWrite (s : State) (job : BitVec 16) (l : Leaf) (pa : Nat) (bs : List Byte) (whole poison : Bool) :
    Except Nat State :=
  if l.kind = 3 then
    match s.farWrite job (farKey l.unit pa) bs whole with
    | .error d => .error d
    | .ok s1 =>
      .ok (if poison then
        { s1 with mem := { s1.mem with farPoison := sput false s1.mem.farPoison (farKey l.unit pa / 256) true } } else s1)
  else if !whole && decide (bs.length < 8) && pkgPoisoned s.mem pa bs.length then .error 10
  else
    let m := s.mem.pkgWrite pa bs
    let m1 := if whole || poison then { m with pkgPoison := markWords m.pkgPoison (pa / 8) poison 1 } else m
    .ok { s with mem := m1 }

end Sys2Proof.Machine
end

