-- ==== Sys2Proof/Machine/Engines.lean ====
section
/-! DEFINITION. The fetch, commit and module engines (R249 to R256, R264 to R266, R269 to R272): the words, the chunks of a
command in transfer, and the events that end a command. -/

namespace Sys2Proof.Machine

/-! ## Accepting a command (R251) -/

/-- The key of a command's team. -/
def Cmd.inTeam (c : Cmd) (t : Team) : Bool := isTeam c.grid c.clu c.team t

/-- A command of the current unit with nothing in it. -/
def State.newCmd (s : State) (kind : CmdKind) (flag : Nat) : Cmd :=
  let g := s.cur.id
  { id := s.nextId, kind := kind, grid := g.grid, clu := g.clu, team := g.team, grp := g.grp, core := g.core, job := g.job,
    pc := s.unitPc, flag := flag, ab := none, ring := none, tile := none, src := Desc.none, dst := Desc.none, origin := [],
    idx := zeroLanes, exec := s.active, op := 0, pattern := 0#64, bytes := 0, at_ := s.mem.tileOld.length, read := false, image := [], chunks := [],
    got := [], fail := none, waiting := 0, key := 0, pitch := 0, cur := none, left := [], scope := 6, bad := [], awaits := [], after := [], watched := [] }

/-- The command is accepted (R251): its flag is bound, and the word is done. -/
def State.accepted (s : State) (c : Cmd) : State :=
  State.advance ({ s with nextId := s.nextId + 1, cmds := s.cmds ++ [c] }.setRegs (s.cur.regs.bindFlag c.flag))

/-- A fault that names the address in a register. -/
def State.trapAt (s : State) (cls detail : Nat) (b : BitVec 6) : State :=
  s.trap (32 * cls + detail) { fmask := 0#32, addr := (s.getS b).toNat, aux := 0#64 }

/-- What stands at the address of a descriptor in a register (R243, R244). -/
inductive DescRead where
  | unreadable
  | poisoned
  | bytes (bs : List Byte)
  deriving DecidableEq, Repr

/-- Read a descriptor; stores of the core on their way to their homes are performed first. -/
def State.readDesc (s : State) (b : BitVec 6) : State × DescRead :=
  match s.recordBytes (s.getS b).toNat 128 with
  | (s1, none) => (s1, .unreadable)
  | (s1, some (pa, bs)) => (s1, if pkgPoisoned s1.mem pa 128 then .poisoned else .bytes bs)

/-- Read the descriptor at the address in a register, with its origin block when it has one (R243, R244, R250): faults in
the order of R272. -/
def State.withDesc (s : State) (b : BitVec 6) (origin : Option Nat) (go : State → Desc → List Nat → State) : State :=
  match s.readDesc b with
  | (s1, .unreadable) => s1.trapAt 15 2 b
  | (s1, .poisoned) => s1.trapAt 12 8 b
  | (s1, .bytes bs) =>
    match (match origin with
      | some c => s1.originOf c (descRank bs)
      | none => some (List.replicate (descRank bs) 0)) with
    | none => s1.operandFault
    | some o =>
      match descFrom bs with
      | none => s1.trapAt 15 1 b
      | some d => go s1 d o

/-- A malformed record named by the word (R244). -/
def State.malformed (s : State) (b : BitVec 6) : State :=
  s.trapAt 15 1 b

/-- Does a window of `rows` rows fit a tile (R246)? -/
def TileEntry.fits (e : TileEntry) (d : Desc) (rows : Nat) : Bool :=
  let p := if e.pitch = 0 then d.rowBytes else e.pitch
  decide (d.rowBytes ≤ p) && decide (imageBytes rows p d.rowBytes ≤ e.size)

/-- The pitch of a window in a tile (R246). -/
def TileEntry.pitchOf (e : TileEntry) (d : Desc) : Nat := if e.pitch = 0 then d.rowBytes else e.pitch

/-- Chunks of an image (R253). -/
def chunksOf (n : Nat) : List Nat := List.range ((n + 511) / 512)

/-! ## The end of a command (R256, R264, R265, R269, R270) -/

/-- The failure of a command as its group will report it (R269). -/
def Cmd.fault (c : Cmd) : Option CmdFault :=
  c.fail.map (fun f => .command (32 * 16 + f.1) f.2.1 f.2.2.1 f.2.2.2 c.pc)

/-- A far-integrity or pair-key failure has been seen (R409). -/
def State.sawIntegrity (s : State) : State :=
  { s with sec := { s.sec with
      integrity := if s.sec.integrity = 0xFFFF#16 then s.sec.integrity else s.sec.integrity + 1#16 } }

/-- The command is complete: it leaves the list, its flag's binding completes, and its group takes note of its failure.
`acq`: passing the flag is an acquire at the command's scope (R208). -/
def State.cmdDone (s : State) (c : Cmd) (acq : Bool) : State :=
  let s0 := { s with cmds := s.cmds.filter (fun x => x.id != c.id) }
  let s1 := if c.fail.any (fun f => f.1 == 8) then s0.sawIntegrity else s0
  s1.onGroup c.grid c.clu c.team c.grp (fun g =>
    { g with regs := g.regs.unbindFlag c.flag, cmdFaults := g.cmdFaults ++ c.fault.toList,
             facq := if acq && decide (c.flag < 12) then sput 0 g.facq c.flag (max (sget 0 g.facq c.flag) c.scope) else g.facq })

/-- Apply `f` to the team of a command. -/
def State.onTeam (s : State) (c : Cmd) (f : Team → Team) : State :=
  { s with teams := s.teams.map (fun t => if c.inTeam t then f t else t) }

/-- The team of a command. -/
def State.cmdTeam (s : State) (c : Cmd) : Team :=
  (s.teams.find? c.inTeam).getD
    (Team.absent { GroupId.reset with grid := c.grid, clu := c.clu, team := c.team, core := c.core, job := c.job })

/-- Give the tile of a command a state (R168). -/
def State.tileGoes (s : State) (c : Cmd) (st : TileState) : State :=
  match c.tile with
  | none => s
  | some n =>
    let t := s.cmdTeam c
    match s.tileOf t n with
    | some e => s.putEntry t n { e with st := st }
    | none => s

/-- The contents of the command's tile become undefined (R168, R270). -/
def State.tileLost (s : State) (c : Cmd) : State :=
  match c.tile.bind (fun n => s.tileOf (s.cmdTeam c) n) with
  | none => s
  | some e =>
    let n := e.size / 8
    { s.drew n with mem := s.mem.tilePut none c.key (freeBytes s.fresh n) }

/-- The arrival is counted at a barrier (R258); the groups that wait for the firing see it. -/
def State.countArrival (s : State) (c : Cmd) : State :=
  match c.ab with
  | none => s
  | some b =>
    let x := sget ABar.reset (s.cmdTeam c).abars b
    let n := x.n + 1
    let fires := x.st == 1 && n == x.c
    let s1 := s.onTeam c (fun t =>
      { t with abars := sput ABar.reset t.abars b { x with n := n, st := if fires then 2 else x.st } })
    if fires then
      s1.mapGroups (fun g =>
        if g.id.grid == c.grid && g.id.clu == c.clu && g.id.team == c.team then
          { g with frag := g.frag.seesFiring b, sibs := g.sibs.map (Frag.seesFiring b) } else g)
    else s1

/-- The arrival of a fetch is recorded (R256, R258, R261, R270). -/
def State.fetchArrived (s : State) (c : Cmd) : State :=
  let s1 := if c.fail.isSome then s.tileLost c else s
  let s2 := match c.ring with
    | some (k, q) => s1.onTeam c (fun t =>
        { t with rings := sput Ring.reset t.rings k ((sget Ring.reset t.rings k).arrived q) })
    | none => s1.tileGoes c (if c.fail.isSome then .empty else .ready)
  (s2.countArrival c).cmdDone c false

/-- A command arrives, if it is a fetch of which every chunk is marked or abandoned (R256). -/
def State.arrive (s : State) (id : Nat) : State :=
  match s.cmds.find? (fun c => c.id == id) with
  | some c =>
    if (c.kind == .tfetch || c.kind == .tgath) && c.chunks.isEmpty && c.waiting == 0 then s.fetchArrived c else s
  | none => s

/-- FETCH_ARRIVAL (R256): every chunk of the fetch is marked or abandoned. -/
def execFetchArrival (id : Nat) (s : State) : Out := .next (s.arrive id)

/-! ## TFETCH and TGATH (R252 to R254) -/

/-- Rows of the block of one lane of a TGATH (R252). -/
def gatherRows (d : Desc) : Nat := prodExt ((d.dims.drop 1).dropLast)

/-- Where a fetch lands: a tile, or the next slot of a ring (R253, R261); the faults of R272 in their order from the tile
entry on, then the stalls. -/
def State.fetchInto (s : State) (c : Cmd) (x : DWord) (ring : Bool) (rows bytes : Nat) : State :=
  let t := s.team
  let k := ctlTile x % 16
  let r := sget Ring.reset t.rings k
  let n := if ring then r.tileOf r.res else ctlTile x
  let entry := match s.tileOf t n with
    | some e => if e.defined then some e else none
    | none => none
  let ringBad := ring && (!r.live || r.mode == 1)
  let ab := ctlAb x
  let bar := sget ABar.reset t.abars ab
  if !ring && entry.isNone then s.trap0 15 3
  else if (!ring || r.live) && (match entry with | some e => !e.fits c.src rows | none => false) then s.trap0 15 5
  else if ctlAbEn x && (bar.st != 1 || bar.c ≤ bar.k) then s.trap0 15 6
  else if ringBad then s.trap0 15 7
  else
    match entry with
    | none => s.trap0 15 3
    | some e =>
      if ring && r.n ≤ ringDist r.res r.rd then s.waitAt (.ringSpace k)
      else if !ring && e.st != .empty then s.waitAt (.tile n [0])
      else if !s.windowAdmits s.cur.id bytes then s.waitAt (.window bytes)
      else
        let p := e.pitchOf c.src
        let c1 := { c with
          tile := some n, key := t.key e.off, pitch := p, bytes := bytes, ab := if ctlAbEn x then some ab else none,
          ring := if ring then some (k, r.res) else none,
          chunks := if bytes = 0 then [] else chunksOf (imageBytes rows p c.src.rowBytes) }
        let s1 := if ring then
            s.putTeam { t with rings := sput Ring.reset t.rings k { r with res := ringNext r.res } }
          else s.putEntry t n { e with st := .filling }
        let s2 := if ctlAbEn x then
            s1.putTeam { s1.team with abars := sput ABar.reset s1.team.abars ab { bar with k := bar.k + 1 } }
          else s1
        let s3 := s2.accepted c1
        if bytes = 0 then s3.fetchArrived c1 else s3

/-- TFETCH (R252). -/
def execTfetch (a b c : BitVec 6) (r : BitVec 1) (s : State) : Out :=
  let x := s.getS a
  let ring := r == 1#1
  .next (if ctlBad x (ctlAbBits ||| ctlFlagBits ||| (if ring then ctlRingBits else ctlTileBits)) then s.operandFault
  else
    s.withDesc b (some c.toNat) (fun s1 d o =>
      let cmd := { s1.newCmd .tfetch (ctlFlag x) with src := d, origin := o }
      s1.fetchInto cmd x ring d.rows (d.rows * d.rowBytes)))

/-- TGATH (R252). -/
def execTgath (a b c : BitVec 6) (r : BitVec 1) (s : State) : Out :=
  let x := s.getS a
  let ring := r == 1#1
  .next (match s.ref (ctlIvreg x) with
  | none => s.trap0 2 0
  | some iv =>
    if ctlBad x (ctlAbBits ||| ctlFlagBits ||| ctlIvregBits ||| (if ring then ctlRingBits else ctlTileBits)) then
      s.operandFault
    else
      s.withDesc b (some c.toNat) (fun s1 d o =>
        if d.dims.length < 2 || (d.dims.getLast?.map (·.ext)) != some 1 then s1.malformed b
        else
          let rows := gatherRows d
          let cmd := { s1.newCmd .tgath (ctlFlag x) with src := d, origin := o, idx := s1.getRef iv }
          s1.fetchInto cmd x ring (32 * rows) (onesOf s1.active * (rows * d.rowBytes))))

/-! ## TCOMMIT and TREDF (R264, R266) -/

/-- Element size of a TREDF operation (R266). -/
def redSize : Nat → Nat
  | 1 => 2
  | 3 => 8
  | _ => 4

/-- A commit or a reduction is accepted (R251, R264, R266). -/
def State.commitFrom (s : State) (c : Cmd) (x : DWord) : State :=
  let n := ctlTile x
  let t := s.team
  s.withTile n (fun e =>
    if !e.fits c.dst c.dst.rows then s.trap0 15 5
    else s.inStates n e [2] (
      if decide (64 ≤ (s.teamCmds s.cur.id [.tcommit, .tredf]).length) then s.waitAt (.queue 0)
      else
        s.release false (ctlScope x) (fun u =>
          let p := e.pitchOf c.dst
          let len := imageBytes c.dst.rows p c.dst.rowBytes
          let now := u.tileLoad (t.key e.off) len
          let c1 := { c with tile := some n, key := t.key e.off, pitch := p, chunks := chunksOf len, scope := ctlScope x,
                             at_ := u.mem.tileOld.length, image := now.2 }
          (if t.ringSlot n none then now.1 else now.1.putEntry t n { e with st := .draining }).accepted c1)))

/-- TCOMMIT (R264). -/
def execTcommit (a b c : BitVec 6) (s : State) : Out :=
  let x := s.getS a
  .next (if ctlBad x (ctlTileBits ||| ctlFlagBits ||| ctlScopeBits) then s.operandFault
  else
    s.withDesc b (some c.toNat) (fun s1 d o =>
      s1.commitFrom { s1.newCmd .tcommit (ctlFlag x) with dst := d, origin := o } x))

/-- TREDF (R266). -/
def execTredf (a b c : BitVec 6) (o : BitVec 4) (s : State) : Out :=
  let x := s.getS a
  .next (if 6 ≤ o.toNat then s.trap0 0 3
  else if ctlBad x (ctlTileBits ||| ctlFlagBits ||| ctlScopeBits) then s.operandFault
  else
    s.withDesc b (some c.toNat) (fun s1 d org =>
      if d.esize != redSize o.toNat then s1.malformed b
      else s1.commitFrom { s1.newCmd .tredf (ctlFlag x) with dst := d, origin := org, op := o.toNat } x))

/-- Poisoned 16-byte words of an image (R164). -/
def State.imageBad (s : State) (c : Cmd) : List Nat :=
  (List.range ((c.image.length + 15) / 16)).filter (fun w => tilePoisoned s.mem (c.key + 16 * w) 1)

/-- Bytes of the source tile of a command as its engine has read them since the issue (R170, R227): each is the value at issue
or one that has been stored since (log 101). -/
def State.sourceBytes (s : State) (c : Cmd) : List Byte :=
  let now := readBytes s.mem.tile c.key c.image.length
  if s.mem.epi.isEmpty && s.mem.tileOld.length = c.at_ && now = c.image then now
  else mixValues s.fresh c.key (fun k =>
    (c.image.getD (k - c.key) 0#8 :: s.mem.lateValues c.at_ k ++ s.mem.epiValues k).filter (· != sget 0#8 s.mem.tile k)) now

/-- COMMIT_TILE_READ_DONE (R162, R168, R170, R264). -/
def execCommitTileReadDone (id : Nat) (s : State) : Out :=
  .next (match s.cmds.find? (fun c => c.id == id) with
  | some c =>
    if (c.kind == .tcommit || c.kind == .tredf) && !c.read then
      let image := s.sourceBytes c
      let s0 := { s.drew c.image.length with mem := s.mem.tileRead true false c.key c.image.length }
      let bad := s0.imageBad c
      let s1 := { s0 with mem := if bad.isEmpty then s0.mem else s0.mem.tileSeen c.core }
      let s2 := s1.onCmd id (fun c => { c with read := true, image := image, bad := bad })
      if (s2.cmdTeam c).ringSlot (c.tile.getD 256) none then s2 else s2.tileGoes c .ready
    else s
  | none => s)

/-! ## TCOPY and TFILL (R265) -/

/-- Every in-bounds element address of a window at origin 0. -/
def Desc.spread (d : Desc) : List Int :=
  ((List.range d.rows).flatMap (fun r => (List.range (d.rowBytes / d.esize)).map (fun x => d.elem [] r x 0))).filterMap
    (fun e => if e.inb then some e.addr else Option.none)

/-- Bounds of the addresses that a window at origin 0 can reach. -/
def Desc.hull (d : Desc) : Int × Int :=
  let span (x : Dim × Nat) : Int := ((x.1.ext - 1 : Nat) : Int) * (if x.2 < 3 then (x.1.samp : Int) + 1 else 1) * x.1.stride
  let spans := d.dims.zipIdx.map span
  ((d.base : Int) + spans.foldl (fun a x => a + min x 0) 0, (d.base : Int) + spans.foldl (fun a x => a + max x 0) 0 + d.esize)

/-- Do two windows at origin 0 share addresses of job space (R265)? -/
def windowsMeet (a b : Desc) : Bool :=
  decide (a.hull.1 < b.hull.2) && decide (b.hull.1 < a.hull.2)
    && (let bs := b.spread
        a.spread.any (fun x => bs.any (fun y => decide (x < y + b.esize) && decide (y < x + a.esize))))

/-- Far bytes of the in-bounds elements of a window at origin 0, as the page tables stand (R240). -/
def State.farSpread (s : State) (d : Desc) : List Nat :=
  d.spread.filterMap (fun a =>
    if !inJobSpace a d.esize then none
    else match (s.translate a.toNat).2 with
      | .ok l => if l.kind = 3 then some (farKey l.unit (leafPhys l a.toNat)) else none
      | .error _ => none)

/-- Do two windows share bytes of far memory (R265)? -/
def State.farMeet (s : State) (a b : Desc) : Bool :=
  let bs := s.farSpread b
  (s.farSpread a).any (fun x => bs.any (fun y => decide (x < y + b.esize) && decide (y < x + a.esize)))

/-- Chunks of a module command: 512 bytes of elements each, taken one after the other. -/
def moduleChunks (d : Desc) : Nat := (d.rows * d.rowBytes + 511) / 512

/-- A module command is accepted (R251, R265). -/
def State.moduleCmd (s : State) (c : Cmd) : State :=
  if decide (16 ≤ (s.teamCmds s.cur.id [.tcopy, .tfill]).length) then s.waitAt (.queue 1)
  else s.accepted { c with pitch := c.dst.rowBytes, chunks := [0] }

/-- A malformed descriptor among those that can be read. -/
def DescRead.malformed (d : DescRead) : Bool :=
  match d with
  | .bytes bs => (descFrom bs).isNone
  | _ => false

/-- TCOPY (R265): the faults of both descriptors in the order of R272. -/
def execTcopy (a b c : BitVec 6) (s : State) : Out :=
  let x := s.getS a
  .next (if ctlBad x ctlFlagBits then s.operandFault
  else
    let r1 := s.readDesc b
    let r2 := r1.1.readDesc c
    let s2 := r2.1
    if r1.2.malformed then s2.malformed b
    else if r2.2.malformed then s2.malformed c
    else
      match r1.2, r2.2 with
      | .bytes bs, .bytes cs =>
        match descFrom bs, descFrom cs with
        | some d, some e =>
          if d.esize != e.esize || d.dims.map (·.ext) != e.dims.map (·.ext) then s2.malformed b
          else
            let meet := if windowsMeet d e then 1 else 0
            s2.moduleCmd { s2.newCmd .tcopy (ctlFlag x) with src := d, dst := e, op := meet }
        | _, _ => s2.malformed b
      | .unreadable, _ => s2.trapAt 15 2 b
      | _, .unreadable => s2.trapAt 15 2 c
      | .poisoned, _ => s2.trapAt 12 8 b
      | _, _ => s2.trapAt 12 8 c)

/-- TFILL (R265). -/
def execTfill (a b c : BitVec 6) (s : State) : Out :=
  let x := s.getS a
  .next (if ctlBad x ctlFlagBits then s.operandFault
  else
    s.withDesc b none (fun s1 d _ =>
      s1.moduleCmd { s1.newCmd .tfill (ctlFlag x) with dst := d, pattern := s1.getS c }))

/-! ## A chunk in transfer (R245, R252, R256, R264 to R266, R270) -/

/-- Elements of a chunk of a window: those whose image offset lies in the chunk. -/
def Cmd.elems (c : Cmd) (d : Desc) (k : Nat) : List Elem :=
  let offsets := (List.range (512 / d.esize)).map (fun i => 512 * k + i * d.esize)
  if c.kind = .tgath then
    let rows := gatherRows d
    offsets.filterMap (fun o =>
      let r := o / c.pitch
      let l := r / rows
      if l < 32 && c.exec.getLsbD l then
        let last := d.dims.length - 1
        let org := c.origin.set last (c.origin.getD last 0 + (laneOf c.idx l).toNat)
        (d.elemAt org c.pitch rows (o - l * rows * c.pitch)).map (fun e => { e with at_ := o })
      else none)
  else offsets.filterMap (d.elemAt c.origin c.pitch d.rows)

/-- What an element does: nothing, bytes for its destination (poisoned?), or a failure (detail, address). -/
inductive Move where
  | skip
  | put (bs : List Byte) (poison : Bool)
  | fail (detail addr : Nat)
  deriving DecidableEq, Repr

/-- Bytes at consecutive keys; none when one of them is missing. -/
def gotBytes (m : SMap (Option Byte)) (o n : Nat) : Option (List Byte) :=
  (List.range n).mapM (fun i => sget none m (o + i))

/-- A source element of a fetch or of a copy (R245, R252, R265). -/
def State.source (s : State) (c : Cmd) (e : Elem) : Move :=
  let d := c.src
  if !e.inb then (if d.oob then .fail 5 (addrOf e.addr) else .put (List.replicate d.esize 0#8) false)
  else
    match (s.elemLeaf e.addr d.esize false).2 with
    | .error x => .fail x (addrOf e.addr)
    | .ok (l, pa) =>
      if c.kind = .tcopy && l.kind != 3 then .fail 6 (addrOf e.addr)
      else if l.kind = 2 then
        match gotBytes c.got e.at_ d.esize with
        | some bs => .put bs false
        | none => .skip
      else
        match s.homeRead c.job l pa d.esize with
        | .error x => .fail x (addrOf e.addr)
        | .ok bs => .put bs false

/-- The new value of a TREDF element from destination M and tile value V (R266). -/
def reduced (op : Nat) (m v : Nat) : Nat :=
  let env : FEnv := { mode := 0, ftz := false, sat := false }
  match op with
  | 0 => (fAdd .fp32 env m v).1
  | 1 => (fAdd .bf16 env m v).1
  | 2 => (m + v) % 2 ^ 32
  | 3 => (m + v) % 2 ^ 64
  | 4 => (fMax .fp32 env m v).1
  | _ => (fMin .fp32 env m v).1

/-- What a destination element of a command receives (R264 to R266); `seed` numbers the undefined values of a copy whose
windows share bytes. -/
def State.outgoing (s : State) (c : Cmd) (k seed : Nat) (e : Elem) : Move :=
  let n := c.dst.esize
  if !e.inb then (if c.dst.oob then .fail 5 (addrOf e.addr) else .skip)
  else
    match c.kind with
    | .tfill => .put (leBytes n c.pattern.toNat) false
    | .tcopy =>
      match (c.elems c.src k).find? (fun x => x.at_ == e.at_) with
      | some x =>
        match s.source c x with
        | .put bs p => if c.op = 1 || s.farMeet c.src c.dst then .put (leBytes n (Config.free (seed + e.at_ % 512)).toNat) p else .put bs p
        | m => m
      | none => .skip
    | _ => .put ((c.image.drop e.at_).take n) (c.bad.contains (e.at_ / 16))

/-- Are the `size` aligned bytes around address `a` all written by elements of these addresses? -/
def covered (as : List Int) (esize size : Nat) (a : Int) : Bool :=
  let lo := a - a % (size : Int)
  (List.range (size / esize)).all (fun i => as.contains (lo + (i * esize : Nat)))

/-- Perform a destination element (R264 to R266, R413): a peer's element leaves as a request. -/
def State.deliver (s : State) (c : Cmd) (as : List Int) (e : Elem) (bs : List Byte) (poison : Bool) : Except Nat State :=
  let n := c.dst.esize
  match s.elemLeaf e.addr n true with
  | (_, .error x) => .error x
  | (s1, .ok (l, pa)) =>
    if l.kind = 2 then
      if c.kind = .tcommit then
        let op : LaneOp := { LaneOp.none with lane := e.at_, addr := pa, size := n, data := datum bs }
        let s2 := s1.onCmd c.id (fun c => { c with waiting := c.waiting + 1 })
        .ok (s2.request (.cmd c.id) (addrOf e.addr) { s2.packet 2 l.unit c.job with ops := [op] })
      else .error 6
    else if l.kind = 1 && c.kind != .tcommit then .error 6
    else if c.kind = .tredf then
      match s1.homeRead c.job l pa n with
      | .error x => .error x
      | .ok old => s1.homeWrite c.job l pa (leBytes n (reduced c.op (leNat old) (leNat bs))) false poison
    else s1.homeWrite c.job l pa bs (covered as n (if l.kind = 3 then 256 else 8) e.addr) poison

/-- The module of the far page that holds a job-space address, 0 for none. -/
def State.moduleAt (s : State) (a : Int) : Nat :=
  if a < 0 || (2 ^ 57 : Int) ≤ a then 0
  else
    match (s.translate a.toNat).2 with
    | .ok l => if l.kind = 3 then l.unit else 0
    | .error _ => 0

/-- The source number of the engine that moves an element of a command (R318, R430). -/
def State.cmdSource (s : State) (c : Cmd) (a : Nat) : BitVec 32 :=
  s.unitSource (cmdUnit c.kind) (cmdIndex c.kind c.core (s.moduleAt a))

/-- Does the destination element lie in a peer's memory? -/
def State.atPeer (s : State) (a : Int) (esize : Nat) : Bool :=
  match (s.elemLeaf a esize true).2 with
  | .ok (l, _) => l.kind == 2
  | .error _ => false

/-- Elements of a chunk with what each moves. -/
def State.moves (s : State) (c : Cmd) (k : Nat) : List (Elem × Move) :=
  if c.kind = .tfetch || c.kind = .tgath then (c.elems c.src k).map (fun e => (e, s.source c e))
  else (c.elems c.dst k).map (fun e => (e, s.outgoing c k s.fresh e))

/-- The first failure of a chunk, and whether the element is moved all the same (a poisoned source, R264). -/
def State.moveFault (s : State) (c : Cmd) (as : List Int) (m : Elem × Move) : Option (Nat × Nat) :=
  match m.2 with
  | .skip => none
  | .fail d a => some (d, a)
  | .put bs p =>
    match s.deliver c as m.1 bs p with
    | .error d => some (d, addrOf m.1.addr)
    | .ok _ => if p then some (9, addrOf m.1.addr) else none

/-- The job-space bytes that a command writes, for the watch events (R328). -/
def movedRanges (ms : List (Elem × Move)) (n : Nat) : List (Nat × Nat) :=
  ms.filterMap (fun m => match m.2 with | .put _ _ => some (addrOf m.1.addr, n) | _ => none)

/-- The chunk's elements are written to their homes (R264 to R266). Of the elements of a chunk in which one fails, those
already moved stay written and the rest are abandoned; which ones is unspecified (R270). -/
def State.landOut (s : State) (c : Cmd) (k : Nat) : State :=
  let ms := s.moves c k
  let as := ms.filterMap (fun m => match m.2 with | .put _ _ => some m.1.addr | _ => none)
  let faults := ms.filterMap (s.moveFault c as)
  let failed := c.fail.isSome || !faults.isEmpty
  let seed := s.fresh + 512
  let moved := ms.zipIdx.filter (fun m => match m.1.2 with
    | .put _ p => p || !failed || (Config.free (seed + m.2)).getLsbD 0
    | _ => false)
  let s0 := if failed || (c.kind = .tcopy && c.op = 1) then s.drew 1024 else s
  -- a poisoned source is written last: a line that it meets stays poisoned (R264)
  let isBad (m : (Elem × Move) × Nat) : Bool := match m.1.2 with | .put _ p => p | _ => false
  let s1 := (moved.filter (fun m => !isBad m) ++ moved.filter isBad).foldl (fun (t : State) m => match m.1.2 with
    | .put bs p => (match t.deliver c as m.1.1 bs p with | .ok u => u | .error _ => t)
    | _ => t) s0
  let s2 := s1.watchCmd c.id (s.cmdSource c) c.pc.toNat (c.kind == .tredf) c.job
    { tile := [], job := movedRanges ((moved.map (·.1)).filter (fun (m : Elem × Move) => !s.atPeer m.1.addr c.dst.esize)) c.dst.esize }
  s2.onCmd c.id (fun x =>
    let x1 := match faults with
      | f :: _ => x.failed f.1 (cmdIndex x.kind x.core (s.moduleAt (f.2 : Nat))) f.2
      | [] => x
    let more := (c.kind == .tcopy || c.kind == .tfill) && decide (k + 1 < moduleChunks c.dst)
    { x1 with cur := none,
              chunks := if failed then [] else if more then [k + 1] else x.chunks.filter (· != k) })

/-- 16-byte words of tile memory that a chunk's elements reach, with the bytes written in each. -/
def wordsTouched (es : List Elem) (n : Nat) (k : Nat) : List (Nat × Nat) :=
  (List.range 32).map (fun i =>
    let w := 32 * k + i
    (w, ((es.filter (fun e => e.at_ / 16 == w)).length) * n))

/-- Elements of a fetched chunk are written into the tile: all that remain, or a free part of them, so that a racing access
meets each byte as it was or as it was fetched (R170). When the last has landed the chunk is marked (R253, R256); a narrow
write of a poisoned word fails (R164). -/
def State.landIn (s : State) (c : Cmd) (k : Nat) : State :=
  let n := c.src.esize
  let all := s.moves c k
  let rest := if c.left.isEmpty then all else all.filter (fun m => c.left.contains m.1.at_)
  let later : List (Elem × Move) := if s.freeNow.getLsbD 0 then []
    else (rest.zipIdx.filter (fun m => (Config.free (s.fresh + 1 + m.2)).getLsbD 0)).map (·.1)
  let now := rest.filter (fun m => !later.any (fun x => x.1.at_ == m.1.at_))
  let touched := wordsTouched (all.map (·.1)) n k
  let m0 := touched.foldl (fun (m : Mem) w =>
    if w.2 = 0 then m else m.tileRead (decide (w.2 < 16)) true (c.key + 16 * w.1) 16) s.mem
  let merge := touched.filter (fun w => decide (0 < w.2) && decide (w.2 < 16) && tilePoisoned m0 (c.key + 16 * w.1) 1)
  let faults := now.filterMap (fun m => match m.2 with
    | .fail d a => some (d, a)
    | .put _ _ => if merge.any (fun w => w.1 == m.1.at_ / 16) then some (9, addrOf m.1.addr) else none
    | .skip => none)
  match c.fail.isSome, faults with
  | false, [] =>
    let m1 := now.foldl (fun (m : Mem) x => match x.2 with
      | .put bs _ => m.tilePut none (c.key + x.1.at_) bs
      | _ => m) m0
    let whole := touched.filter (fun w => w.2 == 16 && !later.any (fun x => x.1.at_ / 16 == w.1)
      && now.any (fun x => x.1.at_ / 16 == w.1))
    let s1 := { s.drew (1 + rest.length) with
      mem := { m1 with
        tilePoison := whole.foldl (fun p (w : Nat × Nat) => sput false p (c.key / 16 + w.1) false) m1.tilePoison,
        tileFlaw := whole.foldl (fun p (w : Nat × Nat) => sput false p (c.key / 16 + w.1) false) m1.tileFlaw } }
    let s2 := s1.watchCmd c.id (s.cmdSource c) c.pc.toNat false c.job
      { tile := now.map (fun (m : Elem × Move) => (c.key + m.1.at_, n)), job := [] }
    s2.onCmd c.id (fun x =>
      if later.isEmpty then { x with cur := none, left := [], chunks := x.chunks.filter (· != k) }
      else { x with left := later.map (fun (m : Elem × Move) => m.1.at_) })
  | _, fs =>
    ({ s.drew (1 + rest.length) with mem := m0 }).onCmd c.id (fun x =>
      let x1 := match fs with | f :: _ => x.failed f.1 (cmdIndex x.kind x.core 0) f.2 | [] => x
      { x1 with cur := none, left := [], chunks := [] })

/-- The requests that a chunk needs before it can land: elements at peers (node, offset, physical address, size) of a
fetch, and the modules it touches (module, module address, job-space address). -/
def State.chunkNeeds (s : State) (c : Cmd) (k : Nat) : List (Nat × Elem × Nat) × List (Nat × Nat × Nat) :=
  let fetch := c.kind == .tfetch || c.kind == .tgath
  let sides := if c.kind = .tcopy then [(c.src, false), (c.dst, true)] else if fetch then [(c.src, false)] else [(c.dst, true)]
  -- the source element of a destination element that is out of bounds is not read (R265)
  let skipped := if c.kind = .tcopy then ((c.elems c.dst k).filter (fun e => !e.inb)).map (·.at_) else []
  let all := sides.flatMap (fun d => ((c.elems d.1 k).filter (fun e => e.inb && !skipped.contains e.at_)).filterMap (fun e =>
    match (s.elemLeaf e.addr d.1.esize d.2).2 with
    | .ok (l, pa) => some (e, l, pa)
    | .error _ => none))
  let peers := if fetch then (all.filter (fun x => x.2.1.kind == 2)).map (fun x => (x.2.1.unit, x.1, x.2.2)) else []
  let mods := (all.filter (fun x => x.2.1.kind == 3)).foldl (fun (acc : List (Nat × Nat × Nat)) x =>
    if acc.any (fun y => y.1 == x.2.1.unit) then acc else acc ++ [(x.2.1.unit, x.2.2, addrOf x.1.addr)]) []
  (peers, mods)

/-- Packet operation of a command's far requests (R385). -/
def farOp : CmdKind → Nat
  | .tfetch => 11
  | .tgath => 11
  | .tcommit => 13
  | .tredf => 13
  | _ => 14

/-- Send the requests of a chunk (R252, R374). -/
def State.startChunk (s : State) (c : Cmd) (k : Nat) : State :=
  let needs := s.chunkNeeds c k
  let s1 := s.onCmd c.id (fun x => { x with cur := some k, waiting := needs.1.length + needs.2.length })
  let s2 := needs.1.foldl (fun t p =>
    let op : LaneOp := { LaneOp.none with lane := p.2.1.at_, addr := p.2.2, size := c.src.esize }
    t.request (.cmd c.id) (addrOf p.2.1.addr) { t.packet 0 p.1 c.job with ops := [op] }) s1
  needs.2.foldl (fun t m =>
    t.request (.cmd c.id) m.2.2 { t.packet (farOp c.kind) m.1 c.job with dstMod := true, addr := m.2.1 }) s2

/-- May a chunk of the command move (R264: a commit's tile has been read)? -/
def Cmd.movable (c : Cmd) : Bool :=
  match c.kind with
  | .tfetch => true
  | .tgath => true
  | .tcommit => c.read
  | .tredf => c.read
  | .tcopy => true
  | .tfill => true
  | _ => false

/-- A chunk of a command goes on: its requests are sent, or, when they are answered, its elements are moved. Which chunk
goes first is unspecified. -/
def State.moveChunk (s : State) (id : Nat) : State :=
  match s.cmds.find? (fun c => c.id == id) with
  | none => s
  | some c =>
    if !c.movable || c.waiting != 0 then s
    else
      match c.cur with
      | some k => if c.kind = .tfetch || c.kind = .tgath then s.landIn c k else s.landOut c k
      | none =>
        match c.chunks[s.freeNow.toNat % max 1 c.chunks.length]? with
        | none => s
        | some k => s.drawn.startChunk c k

/-- A module or a peer has answered a request of a command (R374): data of a read are kept by image offset. -/
def State.cmdAnswered (s : State) (id : Nat) (pk : Packet) (data : List (Nat × List Byte)) : State :=
  (s.dropTxn pk.tag).onCmd id (fun c =>
    { c with waiting := c.waiting - 1,
             got := data.foldl (fun m d => d.2.zipIdx.foldl (fun m b => sput none m (d.1 + b.2) (some b.1)) m) c.got })

/-- Is a commit or module command complete: every element moved or abandoned, every answer here? -/
def Cmd.finished (c : Cmd) : Bool := c.movable && c.chunks.isEmpty && c.cur.isNone && c.waiting == 0

/-- COMMIT_COMPLETE (R264, R266). -/
def execCommitComplete (id : Nat) (s : State) : Out :=
  .next (match s.cmds.find? (fun c => c.id == id) with
  | some c => if (c.kind == .tcommit || c.kind == .tredf) && c.finished then s.cmdDone c true else s
  | none => s)

/-- MODULE_COMMAND_COMPLETE (R265). -/
def execModuleCommandComplete (id : Nat) (s : State) : Out :=
  .next (match s.cmds.find? (fun c => c.id == id) with
  | some c => if (c.kind == .tcopy || c.kind == .tfill) && c.finished then s.cmdDone c true else s
  | none => s)

/-! ## Reset of the fetch engine (R271) -/

/-- Abandon a command: its tile, its flag and its barrier as R270 and R271 give them, and a report. -/
def State.abandon (s : State) (c : Cmd) : State :=
  let c1 := c.failed 18 (cmdIndex c.kind c.core 0) 0
  let s1 := { s with fabric := { s.fabric with txns := s.fabric.txns.filter (fun t => t.owner != TxnOwner.cmd c.id) } }
  match c.kind with
  | .tfetch => if c.ring.isSome then ((s1.tileLost c1).countArrival c1).cmdDone c1 false else s1.fetchArrived c1
  | .tgath => if c.ring.isSome then ((s1.tileLost c1).countArrival c1).cmdDone c1 false else s1.fetchArrived c1
  | .tcommit => (if c.read then s1 else s1.tileGoes c1 .ready).cmdDone c1 true
  | .tredf => (if c.read then s1 else s1.tileGoes c1 .ready).cmdDone c1 true
  | .tcopy => s1.cmdDone c1 true
  | .tfill => s1.cmdDone c1 true
  | _ => s

/-- Reserved slots not yet published stay unpublished, and res := wr (R271). -/
def Ring.unreserve (r : Ring) : Ring := { r with res := r.wr, complete := [] }

/-- Every local ring of a team after a reset. -/
def Team.unreserve (t : Team) : Team :=
  { t with rings := t.rings.foldl (fun m r => sput Ring.reset m r.1 (if r.2.mode = 0 then r.2.unreserve else r.2)) [] }

/-- Abandon the commands of the engines that satisfy `p` (R271). -/
def State.abandonAll (s : State) (p : Cmd → Bool) (q : Team → Bool) : State :=
  let s1 := (s.cmds.filter p).foldl State.abandon s
  { s1 with teams := s1.teams.map (fun t => if q t then t.unreserve else t) }

end Sys2Proof.Machine
end

