-- ==== Sys2Proof/Machine/Strudel.lean ====
section
/-! DEFINITION. Strudel (R273 to R292): layout records, shards, intervals and boxes, the cursor, the words of major 20 and
the steps of the engine. -/

namespace Sys2Proof.Machine

/-! ## Layouts (R273 to R275) -/

/-- Element size of a layout's format (R273, R41): none for a reserved format. -/
def formatBytes (f : Nat) : Option Nat :=
  match f with
  | 0 => some 4 | 1 => some 2 | 2 => some 2 | 3 => some 1 | 4 => some 1 | 5 => some 1
  | 8 => some 1 | 9 => some 2 | 10 => some 4 | 11 => some 8 | 12 => some 1 | 13 => some 2 | 14 => some 4 | 15 => some 8
  | _ => none

/-- Element size of a layout. -/
def Layout.esize (l : Layout) : Nat := (formatBytes l.fmt).getD 1

/-- Partition word of dimension d: axis, kind, bsize; none when it is malformed (R273). -/
def partAt (bs : List Byte) (naxes d : Nat) : Option (Nat × Nat × Nat) :=
  let w := numAt bs (0x38 + 8 * d) 8
  let axis := field w 34 2
  let kind := field w 32 2
  let bsize := field w 0 32
  if decide (2 ^ 36 ≤ w) || kind == 3 || decide (naxes ≤ axis) || (kind == 0 && axis != 0) || (kind != 2 && bsize != 0)
      || (kind == 2 && bsize == 0) then none
  else some (axis, kind, bsize)

/-- Number of shards (R275). -/
def Layout.count (l : Layout) : Nat := l.mesh.foldl (· * ·) 1

/-- Do two partitioned dimensions name one axis (R274)? -/
def axesClash : List (Nat × Nat × Nat) → Bool
  | [] => false
  | p :: ps => (p.2.1 != 0 && ps.any (fun q => q.2.1 != 0 && q.1 == p.1)) || axesClash ps

/-- The layout that 256 bytes hold; none when it is malformed (R274). -/
def layoutFrom (bs : List Byte) : Option Layout :=
  let w := numAt bs 0 8
  let fmt := field w 16 8
  let naxes := field w 8 3
  let rank := field w 0 3
  let table := numAt bs 8 8
  let sizes := (List.range rank).map (fun d => numAt bs (0x10 + 4 * d) 4)
  let mesh := (List.range naxes).map (fun a => numAt bs (0x30 + 2 * a) 2)
  match (List.range rank).mapM (partAt bs naxes) with
  | none => none
  | some parts =>
    if decide (2 ^ 24 ≤ w) || field w 11 5 != 0 || field w 3 5 != 0 || (formatBytes fmt).isNone || naxes == 0
        || decide (4 < naxes) || rank == 0 || decide (2 ^ 57 ≤ table) || table % 128 != 0 || numAt bs 0x2C 4 != 0
        || sizes.any (· == 0) || mesh.any (· == 0) || decide (65536 < mesh.foldl (· * ·) 1) || axesClash parts
        || ((List.range 7).filter (fun d => decide (rank ≤ d))).any (fun d =>
            numAt bs (0x10 + 4 * d) 4 != 0 || numAt bs (0x38 + 8 * d) 8 != 0)
        || ((List.range 4).filter (fun a => decide (naxes ≤ a))).any (fun a => numAt bs (0x30 + 2 * a) 2 != 0)
        || !((bs.drop 0x70).all (· == 0#8)) then none
    else some { fmt := fmt, naxes := naxes, rank := rank, table := table, sizes := sizes, mesh := mesh, parts := parts }

/-- Is the pair of source and destination well formed (R274)? -/
def pairOk (a b : Layout) : Bool := a.fmt == b.fmt && a.rank == b.rank && a.sizes == b.sizes

/-- Mesh coordinates of a shard, axis 0 fastest (R275). -/
def meshCoords (s : Nat) : List Nat → List Nat
  | [] => []
  | m :: ms => s % m :: meshCoords (s / m) ms

/-- Shard of mesh coordinates (R275). -/
def shardOf : List Nat → List Nat → Nat
  | m :: ms, c :: cs => c + m * shardOf ms cs
  | _, _ => 0

/-- Partition of dimension d. -/
def Layout.part (l : Layout) (d : Nat) : Nat × Nat × Nat := l.parts.getD d (0, 0, 0)

/-- Extent of the axis that carries dimension d. -/
def Layout.axisOf (l : Layout) (d : Nat) : Nat := l.mesh.getD (l.part d).1 1

/-- Distance of the points at which dimension d may change its owner (R275, R278): B, b, or the whole extent. -/
def Layout.stepOf (l : Layout) (d : Nat) : Nat :=
  let n := l.sizes.getD d 1
  match (l.part d).2.1 with
  | 1 => (n + l.axisOf d - 1) / l.axisOf d
  | 2 => (l.part d).2.2
  | _ => n

/-- Owner coordinate of a coordinate (R275, R278): 0xFFFF for kind 0. -/
def Layout.owner (l : Layout) (d c : Nat) : Nat :=
  match (l.part d).2.1 with
  | 1 => c / l.stepOf d
  | 2 => c / l.stepOf d % l.axisOf d
  | _ => 0xFFFF

/-- Local coordinate of a coordinate (R275). -/
def Layout.local_ (l : Layout) (d c : Nat) : Nat :=
  let b := l.stepOf d
  match (l.part d).2.1 with
  | 1 => c % b
  | 2 => c / (b * l.axisOf d) * b + c % b
  | _ => c

/-- Local coordinates that the shard at coordinate m of its axis holds in dimension d (R277). -/
def Layout.held (l : Layout) (d m : Nat) : Nat :=
  let n := l.sizes.getD d 1
  let b := l.stepOf d
  match (l.part d).2.1 with
  | 1 => min b (n - m * b)
  | 2 => n / (b * l.axisOf d) * b + min b (n % (b * l.axisOf d) - m * b)
  | _ => n

/-- Local extents of a shard. -/
def Layout.heldAll (l : Layout) (s : Nat) : List Nat :=
  let cs := meshCoords s l.mesh
  (List.range l.rank).map (fun d => l.held d (cs.getD (l.part d).1 0))

/-! ## Shard tables (R276, R277) -/

/-- The entry that 128 bytes hold; none when it is malformed (R276). -/
def shardFrom (rank esize : Nat) (bs : List Byte) : Option Shard :=
  let base := numAt bs 0 8
  let node := numAt bs 8 8
  let raw (d : Nat) : Nat := numAt bs (0x10 + 8 * d) 8
  let strides := (List.range rank).map (fun d => signedOf (raw d % 2 ^ 56) 56)
  if decide (2 ^ 57 ≤ base) || base % esize != 0 || decide (2304 ≤ node)
      || (List.range 7).any (fun d => decide (2 ^ 56 ≤ raw d) || (decide (rank ≤ d) && raw d != 0))
      || strides.any (fun x => x % (esize : Int) != 0) || !((bs.drop 0x48).all (· == 0#8)) then none
  else some { base := base, node := node, strides := strides }

/-- Read a table entry during planning (R276): the failure is a detail of class 16. -/
def State.readShard (s : State) (l : Layout) (n : Nat) : State × Except (Nat × Nat) Shard :=
  let va := l.table + 128 * n
  if 2 ^ 57 ≤ va then (s, .error (0, va))
  else
    match s.translate va with
    | (s1, .error .translation) => (s1, .error (0, va))
    | (s1, .error .format) => (s1, .error (1, va))
    | (s1, .error .poison) => (s1, .error (2, va))
    | (s1, .ok lf) =>
      if lf.kind ≠ 1 then (s1, .error (6, va))
      else if !lf.read then (s1, .error (3, va))
      else if pkgPoisoned s1.mem (leafPhys lf va) 128 then (s1, .error (10, va))
      else
        match shardFrom l.rank l.esize (readBytes s1.mem.pkg (leafPhys lf va) 128) with
        | some x => (s1, .ok x)
        | none => (s1, .error (14, va))

/-- Read entries `n` on of a table. -/
def State.readShards (s : State) (l : Layout) (n : Nat) : Nat → State × Except (Nat × Nat) (List Shard)
  | 0 => (s, .ok [])
  | k + 1 =>
    match s.readShard l n with
    | (s1, .error e) => (s1, .error e)
    | (s1, .ok x) =>
      match s1.readShards l (n + 1) k with
      | (s2, .error e) => (s2, .error e)
      | (s2, .ok xs) => (s2, .ok (x :: xs))

/-- Address of local coordinates in a shard (R276). -/
def Shard.addr (x : Shard) (ls : List Nat) : Int :=
  (x.strides.zip ls).foldl (fun a y => a + (y.2 : Int) * y.1) (x.base : Int)

/-- Extent of a shard (R277): first byte and end; none when it holds no element. -/
def Layout.extent (l : Layout) (s : Nat) (x : Shard) : Option (Int × Int) :=
  let hs := l.heldAll s
  if hs.any (· == 0) then none
  else
    let spans := (x.strides.zip hs).map (fun y => ((y.2 - 1 : Nat) : Int) * y.1)
    some ((x.base : Int) + spans.foldl (fun a v => a + min v 0) 0,
      (x.base : Int) + spans.foldl (fun a v => a + max v 0) 0 + l.esize)

/-- Do two extents intersect? -/
def extentsMeet (a b : Option (Int × Int)) : Bool :=
  match a, b with
  | some x, some y => decide (x.1 < y.2) && decide (y.1 < x.2)
  | _, _ => false

/-- Extents of every shard. -/
def Layout.extents (l : Layout) (xs : List Shard) : List (Option (Int × Int)) := xs.zipIdx.map (fun x => l.extent x.2 x.1)

/-! ## Intervals and boxes (R278 to R280) -/

/-- Number of intervals of a dimension of extent n whose owners change at multiples of a and of b (R278). -/
def intervalCount (n a b : Nat) : Nat :=
  let up (k : Nat) : Nat := (n + k - 1) / k
  up a + up b - up (Nat.lcm a b)

/-- The intervals of dimension d from `lo` on (R278). -/
def intervalsFrom (p q : Layout) (d n lo : Nat) : Nat → List (Nat × Nat × Nat × Nat)
  | 0 => []
  | k + 1 =>
    if n ≤ lo then []
    else
      let a := p.stepOf d
      let b := q.stepOf d
      let hi := min n (min ((lo / a + 1) * a) ((lo / b + 1) * b))
      (lo, hi, p.owner d lo, q.owner d lo) :: intervalsFrom p q d n hi k

/-- Interval counts of every dimension. -/
def Reshard.counts (r : Reshard) : List Nat :=
  (List.range r.src.rank).map (fun d => intervalCount (r.src.sizes.getD d 1) (r.src.stepOf d) (r.dst.stepOf d))

/-- All tuples of one choice per list, the first list fastest (R279). -/
def tuples : List (List Nat) → List (List Nat)
  | [] => [[]]
  | xs :: rest => (tuples rest).flatMap (fun t => xs.map (fun x => x :: t))

/-- Source shard of a box of destination shard D (R279). -/
def Reshard.sourceOf (r : Reshard) (dstShard : Nat) (ivs : List Nat) : Nat :=
  let iv (d : Nat) : Nat × Nat × Nat × Nat := (r.intervals.getD d []).getD (ivs.getD d 0) (0, 0, 0, 0)
  let cs := (List.range r.src.naxes).map (fun a =>
    match (List.range r.src.rank).find? (fun d => (r.src.part d).2.1 != 0 && (r.src.part d).1 == a) with
    | some d => (iv d).2.2.1
    | none => dstShard % r.src.mesh.getD a 1)
  shardOf r.src.mesh cs

/-- Boxes of a destination shard (R279). -/
def Reshard.boxesOf (r : Reshard) (dstShard : Nat) : List Box :=
  let cs := meshCoords dstShard r.dst.mesh
  let allowed := r.intervals.zipIdx.map (fun x =>
    (List.range x.1.length).filter (fun i =>
      (r.dst.part x.2).2.1 == 0 || (x.1.getD i (0, 0, 0, 0)).2.2.2 == cs.getD (r.dst.part x.2).1 0))
  (tuples allowed).zipIdx.map (fun t => { dst := dstShard, src := r.sourceOf dstShard t.1, idx := t.2, ivs := t.1 })

/-- The boxes of the own shards in pull order (R280). -/
def Reshard.ownBoxes (r : Reshard) (node : Nat) : List Box :=
  ((List.range r.dstShards.length).filter (fun d => ((r.dstShards[d]?).map (·.node)) == some node)).flatMap r.boxesOf

/-- Global coordinates of a box, dimension 0 fastest. -/
def Reshard.boxCoords (r : Reshard) (b : Box) : List (List Nat) :=
  tuples ((r.intervals.zip b.ivs).map (fun x =>
    let iv := x.1.getD x.2 (0, 0, 0, 0)
    (List.range (iv.2.1 - iv.1)).map (iv.1 + ·)))

/-- Address of an element in a shard of a layout. -/
def Layout.addrIn (l : Layout) (x : Shard) (c : List Nat) : Int := x.addr (c.zipIdx.map (fun y => l.local_ y.2 y.1))

def Shard.none_ : Shard := { base := 0, node := 0, strides := [] }

/-- Source and destination address of every element of a box. -/
def Reshard.boxAddrs (r : Reshard) (b : Box) : List (Int × Int) :=
  let x := r.srcShards.getD b.src Shard.none_
  let y := r.dstShards.getD b.dst Shard.none_
  (r.boxCoords b).map (fun c => (r.src.addrIn x c, r.dst.addrIn y c))

/-! ## The cursor (R281 to R283) -/

/-- The fields of the 64 bytes of a cursor. -/
def cursorFrom (bs : List Byte) : CursorAt :=
  let w := numAt bs 0 8
  { status := field w 0 2, dst := field w 16 16, src := field w 32 16, box := numAt bs 8 8, done := numAt bs 0x10 8 }

/-- Check of the cursor at issue (R283). -/
def cursorOk (bs : List Byte) (srcRec dstRec : Nat) : Bool :=
  (cursorFrom bs).status == 0
    || (numAt bs 0x20 8 == srcRec && numAt bs 0x28 8 == dstRec && field (numAt bs 0 8) 48 16 == 0
        && field (numAt bs 0 8) 2 14 == 0 && numAt bs 0x18 8 == 0 && (bs.drop 0x30).all (· == 0#8))

/-- Write bytes into a local page at a job-space address: the failure is a detail of class 16 (R285, R292). -/
def State.engineWrite (s : State) (c : Cmd) (va : Nat) (bs : List Byte) : Except (Nat × Nat) State :=
  if 2 ^ 57 ≤ va then .error (0, va)
  else
    match s.translate va with
    | (_, .error .translation) => .error (0, va)
    | (_, .error .format) => .error (1, va)
    | (_, .error .poison) => .error (2, va)
    | (s1, .ok l) =>
      if l.kind ≠ 1 then .error (6, va)
      else if !l.write then .error (3, va)
      else
        let s2 := { s1 with mem := s1.mem.pkgWrite (leafPhys l va) bs }
        .ok (s2.watchCmd c.id (s.cmdSource c) c.pc.toNat false c.job { tile := [], job := [(va, bs.length)] })

/-- Write bytes piece by piece, so that no piece leaves a page (R285). -/
def State.enginePieces (s : State) (c : Cmd) (va : Nat) : List (List Byte) → Except (Nat × Nat) State
  | [] => .ok s
  | p :: ps =>
    match s.engineWrite c va p with
    | .error e => .error e
    | .ok s1 => s1.enginePieces c (va + p.length) ps

/-- Bytes cut into pieces of 16. -/
def pieces16 : Nat → List Byte → List (List Byte)
  | 0, _ => []
  | n + 1, bs => if bs.isEmpty then [] else bs.take 16 :: pieces16 n (bs.drop 16)

/-- The command of a re-shard. -/
def State.cmdOf (s : State) (id : Nat) : Cmd := (s.cmds.find? (fun c => c.id == id)).getD (s.newCmd .rshard 15)

/-- Bytes 0x00 to 0x0F of the cursor with a status and the position of the next box (R282). -/
def Reshard.position (r : Reshard) (status : Nat) : List Byte :=
  match r.boxes[r.next]? with
  | some b => leBytes 8 (status + b.dst * 2 ^ 16 + b.src * 2 ^ 32) ++ leBytes 8 b.idx
  | none => leBytes 8 status ++ leBytes 8 0

/-- Boxes counted under the cursor (R281). -/
def Reshard.doneCount (r : Reshard) : Nat :=
  (if r.from_.status = 0 then 0 else r.from_.done) + (r.next - r.start)

/-- A cursor write after boxes (R282). -/
def State.writeCursor (s : State) (r : Reshard) (status : Nat) : Except (Nat × Nat) State :=
  let c := s.cmdOf r.id
  match s.engineWrite c r.cursor (r.position status) with
  | .error e => .error e
  | .ok s1 => s1.engineWrite c (r.cursor + 0x10) (leBytes 8 r.doneCount)

/-- The cursor at the start of a re-shard (R282). -/
def State.startCursor (s : State) (r : Reshard) : Except (Nat × Nat) State :=
  let c := s.cmdOf r.id
  match s.enginePieces c (r.cursor + 0x18)
      [leBytes 8 0, leBytes 8 r.srcRec, leBytes 8 r.dstRec, leBytes 8 0, leBytes 8 0] with
  | .error e => .error e
  | .ok s1 => s1.engineWrite c r.cursor (r.position 1)

/-! ## RSHARD and RSPLAN at issue (R284 to R287, R292) -/

/-- A layout record for the engine: its bytes, or why not: true for a poisoned word. -/
def State.layoutBytes (s : State) (va : Nat) : State × Except Bool (List Byte) :=
  match s.recordBytes va 256 with
  | (s1, none) => (s1, .error false)
  | (s1, some (pa, bs)) => if pkgPoisoned s1.mem pa 256 then (s1, .error true) else (s1, .ok bs)

/-- A local page with read and write permission at an address aligned to `n`: its physical address (R281, R285). -/
def State.rwPage (s : State) (va n : Nat) : State × Option Nat :=
  if va % n != 0 || decide (2 ^ 57 ≤ va) then (s, none)
  else
    match s.translate va with
    | (s1, .error _) => (s1, none)
    | (s1, .ok l) => (s1, if l.kind = 1 && l.read && l.write then some (leafPhys l va) else none)

/-- A descriptor fault, or the fault of a poisoned word, at an address (R292, R172). -/
def State.recordFault (s : State) (poison : Bool) (va : Nat) : State :=
  s.trap (if poison then 32 * 12 + 8 else 32 * 15 + 2) { fmask := 0#32, addr := va, aux := 0#64 }

/-- Has the control word of RSHARD a refused field (R284)? -/
def reshardCtlBad (x : DWord) : Bool :=
  x.extractLsb' 48 16 != 0#16 || x.extractLsb' 20 12 != 0#12 || x.extractLsb' 0 16 != 0#16 || x.extractLsb' 32 16 == 0#16
    || (decide (12 ≤ ctlFlag x) && ctlFlag x != 15)

/-- Destination shard of the first box before planning has built the boxes (R289): the cursor names it, or it is the first own
shard of the table as it stands; 0 when there is none. -/
def State.firstDst (s : State) (r : Reshard) : Nat :=
  if r.from_.status ≠ 0 then r.from_.dst
  else
    match (s.readShards r.dst 0 r.dst.count).2 with
    | .ok xs => (xs.findIdx? (fun x => x.node == s.node.toNat)).getD 0
    | .error _ => 0

/-- A re-shard or plan enters the free engine (R286, R289). -/
def State.strudelTakes (s : State) (r : Reshard) (state : Nat) : State :=
  { s with
    mem := { s.mem with tracked := true },
    strudel := { s.strudel with
      work := some r, lastCursor := r.cursor, state := state, boxes := 0, dst := s.firstDst r } }

/-- RSHARD and RSPLAN once the engine is free: the operands, the records, the cursor (R284 to R287). -/
def State.reshard (s : State) (plan : Bool) (a b c : BitVec 6) : State :=
  let x := s.getS a
  if reshardCtlBad x || b == 63#6 || c == 63#6 then s.operandFault
  else
    let srcRec := (s.getS b).toNat
    let dstRec := (s.getS (b + 1#6)).toNat
    let cursor := (s.getS c).toNat
    let area := (s.getS (c + 1#6)).toNat
    let at_ (va : Nat) : TrapArgs := { fmask := 0#32, addr := va, aux := 0#64 }
    match s.layoutBytes srcRec with
    | (s1, .error p) => s1.recordFault p srcRec
    | (s1, .ok sb) =>
      match s1.layoutBytes dstRec with
      | (s2, .error p) => s2.recordFault p dstRec
      | (s2, .ok db) =>
        match (if plan then (s2, some 0) else s2.rwPage cursor 64) with
        | (s3, none) => s3.recordFault false cursor
        | (s3, some cpa) =>
          match s3.rwPage area 4096 with
          | (s4, none) => s4.recordFault false area
          | (s4, some _) =>
            match layoutFrom sb, layoutFrom db with
            | none, _ => s4.trap (32 * 15 + 1) (at_ srcRec)
            | some _, none => s4.trap (32 * 15 + 1) (at_ dstRec)
            | some p, some q =>
              let cb := readBytes s4.mem.pkg cpa 64
              if !pairOk p q then s4.trap (32 * 15 + 1) (at_ dstRec)
              else if !plan && pkgPoisoned s4.mem cpa 64 then s4.recordFault true cursor
              else if !plan && !cursorOk cb srcRec dstRec then s4.trap (32 * 15 + 9) (at_ cursor)
              else
                let from_ : CursorAt := if plan then { status := 0, dst := 0, src := 0, box := 0, done := 0 } else cursorFrom cb
                let issue (u : State) : State :=
                  let r : Reshard :=
                    { id := u.nextId, plan := plan, job := u.cur.id.job, room := (x.extractLsb' 32 16).toNat * 1024,
                      srcRec := srcRec, dstRec := dstRec, cursor := cursor, area := area, src := p, dst := q, from_ := from_,
                      srcShards := [], dstShards := [], intervals := [], boxes := [], start := 0, next := 0, ahead := [],
                      top := 0, lost := [], limit := none, planned := false, stopping := false, hold := false,
                      resumed := false, farSince := u.mem.farLog.length, homeSince := u.mem.homeLog.length }
                  let cmd := u.newCmd (if plan then .rsplan else .rshard) (ctlFlag x)
                  if !plan && from_.status = 2 then
                    let v := u.accepted cmd
                    State.cmdDone
                      { v with strudel := { v.strudel with lastCursor := cursor, state := 5, boxes := 0, dst := 0 } } cmd true
                  else (u.accepted cmd).strudelTakes r 1
                if plan then issue s4 else s4.release false 6 issue

/-- Is the engine busy, or promised to a continuation (R286, R354)? -/
def Strudel.busy (x : Strudel) : Bool := x.work.isSome || x.queue.any (fun r => !r.hold)

/-- RSHARD (R286): it stalls first while the engine is busy. -/
def execRshard (a b c : BitVec 6) (s : State) : Out :=
  .next (if s.strudel.busy then s.waitAt .strudel else s.reshard false a b c)

/-- RSPLAN (R287). -/
def execRsplan (a b c : BitVec 6) (s : State) : Out :=
  .next (if s.strudel.busy then s.waitAt .strudel else s.reshard true a b c)

/-- Stop a re-shard (R288): no further box starts, those in transfer complete. A stop for a save does not end it, unless
RSSTOP has (R291). -/
def Reshard.stop (r : Reshard) (hold : Bool) : Reshard :=
  let cut := if r.planned then r.top else r.start
  { r with limit := some (min cut (r.limit.getD cut)), stopping := true, hold := hold && (r.hold || !r.stopping) }

/-- RSSTOP (R288). -/
def execRsstop (a : BitVec 6) (s : State) : Out :=
  .next (match s.strudel.work with
  | some r =>
    if !r.plan && r.cursor == (s.getS a).toNat && r.job == s.cur.id.job then
      State.advance { s with strudel := { s.strudel with work := some (r.stop false), state := 3 } }
    else s.advance
  | none => s.advance)

/-- The value of RSSTAT (R289). -/
def Strudel.status (x : Strudel) (cursor : Nat) : Nat :=
  if x.lastCursor = cursor && x.state ≠ 0 then
    x.boxes % 2 ^ 32 * 2 ^ 32 + (if x.state = 5 || x.state = 6 then 0 else x.dst * 2 ^ 16) + x.state
  else 0

/-- RSSTAT (R289). -/
def execRsstat (a d : BitVec 6) (s : State) : Out :=
  .next (s.putS d (BitVec.ofNat 64 (s.strudel.status (s.getS a).toNat))).advance

/-! ## The engine's steps (R286, R287, R292) -/

/-- Replace the active work, with what RSSTAT reports of it. -/
def State.putWork (s : State) (r : Reshard) : State :=
  { s with strudel := { s.strudel with
      work := some r, boxes := r.next - r.start + r.ahead.length,
      dst := ((r.boxes[r.next]?).map (·.dst)).getD 0,
      state := if r.stopping then 3 else if r.planned then 2 else 1 } }

/-- The engine takes its next continuation (R354). -/
def State.nextWork (s : State) : State :=
  match s.strudel.queue.find? (fun r => !r.hold) with
  | some r =>
    { s with strudel := { s.strudel with
        work := some r, queue := s.strudel.queue.filter (fun x => x.id != r.id), lastCursor := r.cursor, state := 1,
        boxes := 0, dst := ((r.boxes[r.next]?).map (·.dst)).getD (s.firstDst r) } }
  | none => { s with strudel := { s.strudel with work := none } }

/-- The work ends in a state of R289: the flag completes and the engine is free. -/
def State.endWork (s : State) (r : Reshard) (state : Nat) : State :=
  let s1 := s.cmdDone (s.cmdOf r.id) (!r.plan)
  State.nextWork { s1 with strudel := { s1.strudel with
    state := state, boxes := r.next - r.start + r.ahead.length, dst := ((r.boxes[r.next]?).map (·.dst)).getD 0 } }

/-- A failure of the work (R269, R292). -/
def State.workFault (s : State) (r : Reshard) (f : Nat × Nat) : State :=
  s.onCmd r.id (fun c => c.failed f.1 (cmdIndex c.kind c.core 0) f.2)

/-- A planning fault (R292): nothing is written into the cursor. -/
def State.planFault (s : State) (r : Reshard) (f : Nat × Nat) : State := (s.workFault r f).endWork r 6

/-- The checks of issue made anew on a continuation (R354). -/
def State.recheck (s : State) (r : Reshard) : State × Except (Nat × Nat) Reshard :=
  let detail (t : State) (va : Nat) (write : Bool) : Nat :=
    match (t.elemLeaf (va : Int) 1 write).2 with
    | .error d => d
    | .ok (l, _) => if l.kind ≠ 1 then 6 else 10
  match s.layoutBytes r.srcRec with
  | (s1, .error _) => (s1, .error (detail s1 r.srcRec false, r.srcRec))
  | (s1, .ok sb) =>
    match s1.layoutBytes r.dstRec with
    | (s2, .error _) => (s2, .error (detail s2 r.dstRec false, r.dstRec))
    | (s2, .ok db) =>
      match s2.rwPage r.cursor 64 with
      | (s3, none) => (s3, .error (detail s3 r.cursor true, r.cursor))
      | (s3, some cpa) =>
        match s3.rwPage r.area 4096 with
        | (s4, none) => (s4, .error (detail s4 r.area true, r.area))
        | (s4, some _) =>
          match layoutFrom sb, layoutFrom db with
          | some p, some q =>
            let cb := readBytes s4.mem.pkg cpa 64
            if !pairOk p q then (s4, .error (14, r.dstRec))
            else if pkgPoisoned s4.mem cpa 64 then (s4, .error (10, r.cursor))
            else if !cursorOk cb r.srcRec r.dstRec then (s4, .error (17, r.cursor))
            else (s4, .ok { r with src := p, dst := q, from_ := cursorFrom cb })
          | none, _ => (s4, .error (14, r.srcRec))
          | some _, none => (s4, .error (14, r.dstRec))

/-- Bytes of the plan needed (R285). -/
def Reshard.needed (r : Reshard) : Nat := 64 + 16 * r.counts.foldl (· + ·) 0 + (if r.plan then 32 * r.boxes.length else 0)

/-- The first 64 bytes of the plan area (R285). -/
def Reshard.planHead (r : Reshard) : List Byte :=
  let ns := (List.range 7).flatMap (fun d => leBytes 2 (r.counts.getD d 0))
  leBytes 8 r.needed ++ leBytes 8 r.boxes.length ++ ns ++ List.replicate 34 0#8

/-- The rest of the plan area (R285). -/
def Reshard.planBody (r : Reshard) : List Byte :=
  let iv := r.intervals.flatMap (fun xs => xs.flatMap (fun x =>
    leBytes 4 x.1 ++ leBytes 4 x.2.1 ++ leBytes 2 x.2.2.1 ++ leBytes 2 x.2.2.2 ++ leBytes 4 0))
  let bx := r.boxes.flatMap (fun b =>
    leBytes 8 (b.dst + b.src * 2 ^ 16) ++ leBytes 8 b.idx
      ++ (List.range 7).flatMap (fun d => leBytes 2 (b.ivs.getD d 0)) ++ leBytes 2 0)
  if r.plan then iv ++ bx else iv

/-- The bytes that planning writes into the plan area (R285, R287). -/
def Reshard.planBytes (r : Reshard) : List Byte :=
  if r.plan && decide (r.room < r.needed) then r.planHead else r.planHead ++ r.planBody

/-- Starting point in pull order (R283): none when the check of planning fails. -/
def Reshard.startAt (r : Reshard) : Option Nat :=
  if r.from_.status = 0 then some 0
  else r.boxes.findIdx? (fun b => b.dst == r.from_.dst && b.idx == r.from_.box && b.src == r.from_.src)

/-- Write an element of a box; the engine's own writes are not on record (R286), and watch events see the far bytes (R328). -/
def State.boxPut (s : State) (r : Reshard) (as : List Int) (a : Int) (bs : List Byte) : Except (Nat × Nat) State :=
  match s.elemLeaf a r.dst.esize true with
  | (_, .error d) => .error (d, addrOf a)
  | (s1, .ok (l, pa)) =>
    if l.kind ≠ 3 then .error (6, addrOf a)
    else
      match s1.homeWrite r.job l pa bs (covered as r.dst.esize 256 a) false with
      | .error d => .error (d, addrOf a)
      | .ok s2 =>
        let c := s2.cmdOf r.id
        .ok (State.watchCmd { s2 with mem := { s2.mem with farLog := s.mem.farLog } } c.id (s2.cmdSource c) c.pc.toNat false c.job
          { tile := [], job := [(addrOf a, bs.length)] })

/-- The far key of an element, when it maps a far page. -/
def State.farKeyOf (s : State) (a : Int) (n : Nat) (write : Bool) : Option Nat :=
  match (s.elemLeaf a n write).2 with
  | .ok (l, pa) => if l.kind = 3 then some (farKey l.unit pa) else none
  | .error _ => none

/-- Far bytes of the elements of a work's boxes, of sources or of destinations: the first byte and the length. -/
def State.farRanges (s : State) (r : Reshard) (dst : Bool) : List (Nat × Nat) :=
  (r.boxes.flatMap r.boxAddrs).filterMap (fun e =>
    (s.farKeyOf (if dst then e.2 else e.1) r.dst.esize dst).map (fun k => (k, r.dst.esize)))

/-- Does a range of bytes meet one of a list? -/
def meetsAny (xs : List (Nat × Nat)) (y : Nat × Nat) : Bool :=
  xs.any (fun x => decide (x.1 < y.1 + y.2) && decide (y.1 < x.1 + x.2))

/-- Local ranges of package memory that the plan area of a work takes, page by page (R285). -/
def State.planRanges (s : State) (r : Reshard) : List (Nat × Nat) :=
  (List.range ((r.room + 4095) / 4096)).filterMap (fun i =>
    match (s.translate (r.area + 4096 * i)).2 with
    | .ok l => some (leafPhys l (r.area + 4096 * i), min 4096 (r.room - 4096 * i))
    | .error _ => none)

/-- Are the destination values undefined? Someone has written a source or destination byte since issue (R286), a program has
stored into the plan area (R285), or source and destination share far bytes under different addresses (R277). -/
def State.spoiled (s : State) (r : Reshard) : Bool :=
  let src := s.farRanges r false
  let dst := s.farRanges r true
  (s.mem.farLog.take (s.mem.farLog.length - r.farSince)).any (meetsAny (src ++ dst))
    || (s.mem.homeLog.take (s.mem.homeLog.length - r.homeSince)).any (meetsAny (s.planRanges r))
    || dst.any (meetsAny src)

/-- The values of the boxes that have completed become undefined (R286). -/
def State.blur (s : State) (r : Reshard) : State :=
  let es := ((r.boxes.take r.next).drop r.start).flatMap r.boxAddrs
  let as := es.map (·.2)
  es.zipIdx.foldl (fun (t : State) e =>
    match t.boxPut r as e.1.2 (leBytes r.dst.esize (Config.free (s.fresh + e.2)).toNat) with
    | .ok u => u
    | .error _ => t) (s.drew es.length)

/-- The end of a re-shard's copying (R282, R288, R291, R292): the final cursor write, or none after a failed one. -/
def State.closeWork (s : State) (r : Reshard) (cursorLost : Bool) : State :=
  let failed := (s.cmdOf r.id).fail.isSome
  let complete := decide (r.boxes.length ≤ r.next)
  let status := if failed then 3 else if complete then 2 else 1
  if cursorLost then s.endWork r 6
  else
    let s0 := if s.spoiled r then s.blur r else s
    match s0.writeCursor r status with
    | .error f => (s0.workFault r f).endWork r 6
    | .ok s1 =>
      if r.hold && !failed && !complete then
        let kept := { r with resumed := true, planned := false, stopping := false, limit := none, ahead := [], lost := [] }
        let s2 := { s1 with strudel := { s1.strudel with
          queue := s1.strudel.queue ++ [kept], state := 4, boxes := r.next - r.start + r.ahead.length } }
        s2.nextWork
      else s1.endWork r (if failed then 6 else if complete then 5 else 4)

/-- Is there no box left to wait for? -/
def Reshard.atEnd (r : Reshard) : Bool := decide (r.limit.getD r.boxes.length ≤ r.next) || decide (r.boxes.length ≤ r.next)

/-- The plan of a work whose tables are read (R277, R278, R283, R285): checks, the plan area, the cursor at the start. -/
def State.planWith (s : State) (r0 : Reshard) : State :=
  let r1 := r0
  let meet := (r1.src.extents r1.srcShards).any (fun x => (r1.dst.extents r1.dstShards).any (extentsMeet x))
  let counts := r1.counts
  if meet then s.planFault r1 (15, r1.dstRec)
  else if counts.any (fun n => decide (65535 < n)) then s.planFault r1 (16, r1.area)
  else
    let r2 := { r1 with intervals := (List.range r1.src.rank).map (fun d =>
      intervalsFrom r1.src r1.dst d (r1.src.sizes.getD d 1) 0 (counts.getD d 0)) }
    let r3 := { r2 with boxes := r2.ownBoxes s.node.toNat }
    if !r3.plan && decide (r3.room < r3.needed) then s.planFault r3 (16, r3.area)
    else
      match (if r3.plan then some 0 else r3.startAt) with
      | none => s.planFault r3 (17, r3.cursor)
      | some k =>
        let r4 := { r3 with start := k, next := k, top := k, planned := true, resumed := false,
                            limit := if r3.stopping then some k else r3.limit }
        match s.enginePieces (s.cmdOf r4.id) r4.area (pieces16 r4.planBytes.length r4.planBytes) with
        | .error f => s.planFault r4 f
        | .ok s1 =>
          if r4.plan then s1.endWork r4 5
          else
            match s1.startCursor r4 with
            | .error f => (s1.workFault r4 f).closeWork r4 true
            | .ok s2 => if r4.atEnd then s2.closeWork r4 false else s2.putWork r4

/-- STRUDEL_PLANNING (R276 to R278, R282, R283, R285 to R287). -/
def execStrudelPlanning (s : State) : Out :=
  .next (match s.strudel.work with
  | none => s
  | some w =>
    if w.planned then s
    else
      match (if w.resumed then s.recheck w else (s, .ok w)) with
      | (s1, .error f) => s1.planFault w f
      | (s1, .ok r) =>
        if r.from_.status = 2 && !r.plan then s1.endWork r 5
        else
          match s1.readShards r.src 0 r.src.count with
          | (s2, .error f) => s2.planFault r f
          | (s2, .ok xs) =>
            match s2.readShards r.dst 0 r.dst.count with
            | (s3, .error f) => s3.planFault r f
            | (s3, .ok ys) => s3.planWith { r with srcShards := xs, dstShards := ys })

/-! ## Copying a box (R280, R286, R292) -/

/-- Does byte `a` of an element of destination shard D also lie in an element of another destination shard (R277)? -/
def Reshard.sharedDst (r : Reshard) (dstShard : Nat) (a : Int) : Bool :=
  let holds (b : Int) : Bool := decide (b ≤ a) && decide (a < b + r.dst.esize)
  r.dstShards.zipIdx.any (fun x =>
    x.2 != dstShard
      && (match r.dst.extent x.2 x.1 with
          | some e => decide (e.1 ≤ a) && decide (a < e.2)
          | none => false)
      && (tuples ((r.dst.heldAll x.2).map List.range)).any (fun ls => holds (x.1.addr ls)))

/-- The bytes that an element receives at `a` in destination shard D: undefined ones where another shard shares them (R277). -/
def Reshard.sharedBytes (r : Reshard) (dstShard seed : Nat) (a : Int) (bs : List Byte) : List Byte :=
  bs.zipIdx.map (fun b =>
    if r.sharedDst dstShard (a + b.2) then (Config.free seed).extractLsb' (8 * b.2) 8 else b.1)

/-- An element of a box: the far source bytes, or the failure (R292). -/
def State.boxSource (s : State) (r : Reshard) (a : Int) : Except (Nat × Nat) (List Byte × Nat) :=
  match (s.elemLeaf a r.src.esize false).2 with
  | .error d => .error (d, addrOf a)
  | .ok (l, pa) =>
    if l.kind ≠ 3 then .error (6, addrOf a)
    else
      match s.homeRead r.job l pa r.src.esize with
      | .error d => .error (d, addrOf a)
      | .ok bs => .ok (bs, farKey l.unit pa)

/-- Copy a box (R280): the state with its elements moved, and the first failure. A failing box's other elements have moved
or not, which is unspecified (R270). -/
def State.copyBox (s : State) (r : Reshard) (b : Box) (partial_ : Bool) : State × Option (Nat × Nat) :=
  let es := r.boxAddrs b
  let as := es.map (·.2)
  let results := es.map (fun e =>
    match s.boxSource r e.1 with
    | .error f => (Option.none, some f)
    | .ok (bs, _) =>
      match s.boxPut r as e.2 bs with
      | .error f => (Option.none, some f)
      | .ok _ => (some bs, Option.none))
  let fault := results.findSome? (·.2)
  let some_ := partial_ || fault.isSome
  let undef := s.spoiled r
  let seed := s.fresh
  let s1 := s.drew (2 * es.length)
  let out := (es.zip results).zipIdx.foldl (fun (t : State) x =>
    match x.1.2.1 with
    | none => t
    | some bs =>
      if some_ && !(Config.free (seed + es.length + x.2)).getLsbD 0 then t
      else
        let v := if undef then leBytes r.dst.esize (Config.free (seed + x.2)).toNat
          else r.sharedBytes b.dst (seed + x.2) x.1.1.2 bs
        match t.boxPut r as x.1.1.2 v with
        | .ok u => u
        | .error _ => t) s1
  (out, fault)

/-- Advance `next` over the boxes completed ahead of it. -/
def Reshard.settle : Nat → Reshard → Reshard
  | 0, r => r
  | n + 1, r =>
    if r.ahead.contains r.next then Reshard.settle n { r with ahead := r.ahead.filter (· != r.next), next := r.next + 1 } else r

/-- Boxes in transfer (R280). -/
def Reshard.begun (r : Reshard) : List Nat :=
  (List.range r.top).filter (fun i => decide (r.next ≤ i) && !r.ahead.contains i)

/-- May the next box of the pull order start (R280, R288, R292)? -/
def Reshard.mayStart (r : Reshard) : Bool :=
  decide (r.begun.length < 8) && decide (r.top < min (r.limit.getD r.boxes.length) r.boxes.length)

/-- Box `k` is complete: the cursor names the first box that is not (R282). -/
def State.boxDone (s : State) (r : Reshard) (k : Nat) : State :=
  let r1 := Reshard.settle (r.boxes.length + 1) { r with ahead := k :: r.ahead }
  if r1.atEnd then s.closeWork r1 false
  else if r1.next = r.next then s.putWork r1
  else
    match s.writeCursor r1 1 with
    | .error f => (s.workFault r1 f).closeWork r1 true
    | .ok s1 => s1.putWork r1

/-- Box `k`, the next of the pull order, starts: requests to the modules that own its pages (R241, R280, R374). -/
def State.startBox (s : State) (r : Reshard) (k : Nat) (b : Box) : State :=
  let leaves := ((r.boxAddrs b).flatMap (fun e => [(e.1, false), (e.2, true)])).filterMap (fun x =>
    match (s.elemLeaf x.1 r.src.esize x.2).2 with
    | .ok (l, pa) => if l.kind = 3 then some (l.unit, pa, addrOf x.1) else none
    | .error _ => none)
  let mods := leaves.foldl (fun (acc : List (Nat × Nat × Nat)) x => if acc.any (fun y => y.1 == x.1) then acc else acc ++ [x]) []
  mods.foldl (fun t m =>
    t.request (.box r.id k) m.2.2 { t.packet 14 m.1 r.job with dstMod := true, addr := m.2.1 }) (s.onWork r.id (fun x => { x with top := k + 1 }))

/-- Is an answer to a request of box `k` still to come? -/
def State.boxWaits (s : State) (r : Reshard) (k : Nat) : Bool := s.fabric.txns.any (fun t => t.owner == .box r.id k)

/-- Boxes in transfer whose answers have come. -/
def State.readyBoxes (s : State) (r : Reshard) : List Nat := r.begun.filter (fun k => !s.boxWaits r k)

/-- Requests of boxes from `k` on are given up. -/
def State.dropBoxes (s : State) (r : Reshard) (k : Nat) : State :=
  { s with fabric := { s.fabric with txns := s.fabric.txns.filter (fun t => match t.owner with
      | .box id i => !(id == r.id && decide (k ≤ i))
      | _ => true) } }

/-- Box `k` has failed with a detail of class 16 at an address: it and every started box after it are abandoned, each copied in
part; those before it complete (R292). -/
def State.boxFails (s : State) (r : Reshard) (k : Nat) (x : Nat × Nat) : State :=
  let after := (r.begun.filter (fun i => decide (k < i))).filterMap (fun i => r.boxes[i]?)
  let s1 := ((after.foldl (fun t u => (t.copyBox r u true).1) s).workFault r x).dropBoxes r k
  let r1 := { r with limit := some (min k (r.limit.getD k)), top := min k r.top, ahead := r.ahead.filter (fun i => decide (i < k)),
                     lost := r.lost.filter (fun y => decide (y.1 < k)) }
  if r1.atEnd then s1.closeWork r1 false else s1.putWork r1

/-- A box in transfer ends: it is copied and complete, or it fails (R280, R292). -/
def State.endBox (s : State) (r : Reshard) (k : Nat) : State :=
  match r.boxes[k]? with
  | none => s
  | some b =>
    match r.lost.find? (fun y => y.1 == k) with
    | some y => (s.copyBox r b true).1.boxFails r k y.2
    | none =>
      let o := s.copyBox r b false
      match o.2 with
      | none => o.1.boxDone r k
      | some x => o.1.boxFails r k x

/-- BOX_COMPLETE (R280, R282, R292): the next box starts, or one in transfer whose answers have come is complete; which comes
first is free. -/
def execBoxComplete (s : State) : Out :=
  .next (match s.strudel.work with
  | none => s
  | some r =>
    if !r.planned then s
    else
      let ks := s.readyBoxes r
      let n := ks.length + (if r.mayStart then 1 else 0)
      match ks[s.freeNow.toNat % max 1 n]? with
      | some k => s.drawn.endBox r k
      | none =>
        if !r.mayStart then (if r.atEnd then s.closeWork r false else s)
        else
          match r.boxes[r.top]? with
          | none => s
          | some b => s.drawn.startBox r r.top b)

/-- A reset abandons the boxes in transfer (R291): writes already performed stay, the cursor keeps its value. -/
def State.abandonWork (s : State) (r : Reshard) : State :=
  let started := r.begun.filterMap (fun k => r.boxes[k]?)
  let s1 := (started.foldl (fun t b => (t.copyBox r b true).1) s).dropBoxes r 0
  (s1.workFault r (18, r.cursor)).endWork r 6

/-- FETCH_ENGINE_RESET (R271, R291). -/
def execFetchEngineReset (s : State) : Out :=
  .next (
    let s1 := s.abandonAll (fun _ => true) (fun _ => true)
    match s1.strudel.work with
    | some r => s1.abandonWork r
    | none => s1)

end Sys2Proof.Machine
end

