-- ==== Sys2Proof/Machine/Payloads.lean ====
section
/-! DEFINITION. The published forms in which a group's registers leave its core (R306, R345, R347, R350, R351), and what a stop
inside a run leaves visible (R90). -/

namespace Sys2Proof.Machine

/-! ## Tagged forms (R347) -/

/-- The tag of a register (R347). -/
def tagOf (x : Lanes) : Nat :=
  let l (i : Nat) : Word := laneOf x i
  let all (p : Nat → Bool) : Bool := (List.range 32).all p
  if all (fun i => l i == l 0) then 0
  else if all (fun i => l i == l 0 + BitVec.ofNat 32 i * (l 1 - l 0)) then 1
  else if all (fun i => (((l i).extractLsb' 0 8).signExtend 32) == l i) || all (fun i => (((l i).extractLsb' 0 16).signExtend 32) == l i)
    then 2
  else 3

/-- The bytes of a register under a tag (R347). -/
def taggedBytes (tag : Nat) (x : Lanes) : List Byte :=
  match tag with
  | 0 => leBytes 4 (laneOf x 0).toNat
  | 1 => leBytes 4 (laneOf x 0).toNat ++ leBytes 4 (laneOf x 1 - laneOf x 0).toNat
  | 2 =>
    if (List.range 32).all (fun i => ((laneOf x i).extractLsb' 0 8).signExtend 32 == laneOf x i) then
      leBytes 4 0 ++ (List.range 32).flatMap (fun i => leBytes 1 (laneOf x i).toNat)
    else leBytes 4 1 ++ (List.range 32).flatMap (fun i => leBytes 2 (laneOf x i).toNat)
  | _ => (List.range 32).flatMap (fun i => leBytes 4 (laneOf x i).toNat)

/-- Tag of a register of a save: 3 without compression (R347). -/
def saveTag (compress : Bool) (x : Lanes) : Nat := if compress then tagOf x else 3

/-- The tag array of a kind-3 payload (R350), four tags a byte. -/
def tagBytes : List Nat → List Byte
  | a :: b :: c :: d :: rest => leBytes 1 (a + 4 * b + 16 * c + 64 * d) ++ tagBytes rest
  | [a, b, c] => leBytes 1 (a + 4 * b + 16 * c)
  | [a, b] => leBytes 1 (a + 4 * b)
  | [a] => leBytes 1 a
  | [] => []

/-- Zeros up to a multiple of n bytes. -/
def padTo (n : Nat) (bs : List Byte) : List Byte := bs ++ List.replicate ((n - bs.length % n) % n) 0#8

/-- The digit time at which a run between two units stops (R89): its next unit, of the clock after the latest, has not
issued. -/
def Run.stopTime (r : Run) : Nat := 2 * (r.clock + 1)

/-- Has the word completed when its run stops (R90)? -/
def Run.complete (r : Run) (w : InFlight) : Bool := w.done || decide (w.complete ≤ r.stopTime)

/-- Writes of a register laid over each other, of those words that have completed; `now` is what the last one left. -/
def Run.writesOver (r : Run) (now : Lanes) : Lanes → List (InFlight × Lanes) → Lanes
  | v, [] => v
  | v, (w, _) :: rest =>
    r.writesOver now (if r.complete w then mergeLanes w.active v ((rest.head?.map (·.2)).getD now) else v) rest

/-- Vector register `n` of a stopped group (R90): a word of its run that has not completed has not written it. -/
def Group.visible (g : Group) (n : Nat) : Lanes :=
  let now := sget zeroLanes g.regs.v n
  match g.run with
  | none => now
  | some r =>
    let ws := r.flight.filterMap (fun w => (w.dests.findSome? (fun d => match d with
      | .vec (.reg m) old => if m = n then some old else none
      | _ => none)).map (fun old => (w, old)))
    r.writesOver now ((ws.head?.map (·.2)).getD now) ws

/-- A kind-3 payload (R350). -/
def vectorPayload (compress : Bool) (g : Group) : List Byte :=
  let regs := (List.range g.id.vregs).map g.visible
  let tags := regs.map (saveTag compress)
  leBytes 4 g.id.vregs ++ padTo 4 (tagBytes tags) ++ (tags.zip regs).flatMap (fun x => taggedBytes x.1 x.2)

/-- A kind-4 payload (R351). -/
def accPayload (g : Group) : List Byte :=
  (List.range g.id.accs).flatMap (fun a =>
    (List.range 32).flatMap (fun r => (sget zeroRow g.regs.ac (32 * a + r)).flatMap (fun x => leBytes 8 x.toNat))
      ++ (if rowstatCore g.id.core then
          (List.range 32).flatMap (fun r => leBytes 4 (sget rmaxReset g.regs.rmax (32 * a + r)).toNat)
            ++ (List.range 32).flatMap (fun r => leBytes 8 (sget 0#56 g.regs.rsum (32 * a + r)).toNat)
        else []))

/-- Bytes of a saved group: its published payloads, and the scalar state, whose payload is not published (R431). -/
def Group.savedBytes (compress : Bool) (g : Group) : Nat :=
  (vectorPayload compress g).length + (accPayload g).length + Config.groupBytes.toNat

end Sys2Proof.Machine
end

