-- ==== Sys2Proof/Machine/Scheduler.lean ====
section
/-! DEFINITION. Readiness and waits (R303, R304), residency and placement (R128, R131, R300 to R302), swap-out (R305 to R307)
and the end of a launch (R298, R311). -/

namespace Sys2Proof.Machine

/-! ## When a wait may end (R133, R304) -/

/-- Is a command limit of a team free (R251): 0 commits, 1 module commands? -/
def State.queueFree (s : State) (g : GroupId) (k : Nat) : Bool :=
  if k = 0 then decide ((s.teamCmds g [.tcommit, .tredf]).length < 64)
  else decide ((s.teamCmds g [.tcopy, .tfill]).length < 16)

/-- May the wait of a fragment of a group end? The word then issues and looks again. -/
def State.waitOver (s : State) (g : Group) (f : Frag) : Bool :=
  let id := g.id
  match f.wait with
  | .ready => true
  | .flags m => g.regs.flagsDone m
  | .join => canFuse g.frags g.entries f.entry
  | .gather .. => false
  | .phase k b ph => decide (ph ≤ s.barPhase id k b)
  | .arrivalOut k b => !s.arrivalOutstanding id k b
  | .barw b => !(g.gatheredAt b || s.arrivalOutstanding id barTeam b)
  | .tile n sts => match s.tileOf (s.teamFor id) n with
    | some e => !e.defined || sts.contains (tileStateNum e.st)
    | none => true
  | .abar b => decide (32 ≤ b) || (sget ABar.reset (s.teamFor id).abars b).st != 1
  | .ringData k =>
    let r := sget Ring.reset (s.teamFor id).rings k
    !r.live || r.cl != r.wr
  | .ringSpace k =>
    let r := sget Ring.reset (s.teamFor id).rings k
    !r.live || decide (ringDist r.res r.rd < r.n)
  | .window b => s.windowAdmits id b
  | .queue k => s.queueFree id k
  | .batch b => !g.matrix.words.any (fun w => w.batch == some b)
  | .matrix => decide (s.engineWords id.core < 64)
  | .tileIdle n => !s.tileBusy ((s.teamFor id).entryKey n)
  | .accIdle a => !g.matrix.words.any (fun w => w.names a)
  | .deviceList q _ => decide ((s.queue q).dev.length < 16) && !s.drains id (.release 5 false)
  | .strudel => !s.strudel.busy
  | .peer _ => false
  | .frwait => s.fault.head != s.fault.tail
  | .refill => true
  | .drain d => !s.drains id d
  | .performed => !s.accessesOut

/-- Is the fragment in a wait of R304, R322 or R398, so that its cluster may be swapped out? A barrier word waits also while
its release does (R159); LAUNCH waits while the device list is full, not while its release does. -/
def State.longWait (s : State) (f : Frag) : Bool :=
  match f.wait with
  | .ready => false
  | .peer _ => false
  | .drain (.release _ bar) => bar
  | .drain _ => false
  | .performed => false
  | .refill => false
  | .matrix => false
  | .accIdle _ => false
  | .deviceList q _ => decide (16 ≤ (s.queue q).dev.length)
  | _ => true

/-! ## Residency (R128, R302) -/

/-- Groups that hold a slot and registers of a core. -/
def State.residents (s : State) (core : Nat) : List Group :=
  s.groups.filter (fun g => g.id.core == core && !g.swapped && (g.alive || !g.matrix.words.isEmpty))

/-- Does a cluster hold its tile allotments: a group of it has not ended, or work of it goes on in an engine? -/
def State.clusterHeld (s : State) (grid clu : Nat) : Bool :=
  s.groups.any (fun g => g.id.grid == grid && g.id.clu == clu && (g.alive || !g.matrix.words.isEmpty))
    || s.cmds.any (fun c => c.grid == grid && c.clu == clu)

/-- Teams whose allotments lie on a core. -/
def State.teamsOn (s : State) (core : Nat) : List Team :=
  s.teams.filter (fun t => t.core == core && s.clusterHeld t.grid t.clu)

/-- The lowest run of `n` units, below `top`, that no range meets. -/
def lowestGap (used : List (Nat × Nat)) (n top : Nat) : Option Nat :=
  (List.range (top + 1)).find? (fun a =>
    decide (a + n ≤ top) && (n == 0 || used.all (fun u => u.2 == 0 || decide (u.1 + u.2 ≤ a) || decide (a + n ≤ u.1))))

/-- Place of a team's tile pages and of its entries on a core (R128, R161, R167). -/
def State.teamPlace (s : State) (core : Nat) (r : LaunchRec) : Option (Nat × Nat) :=
  let ts := s.teamsOn core
  match lowestGap (ts.map (fun t => (t.tileBase, t.tilePages))) r.tilePages 384,
      lowestGap (ts.map (fun t => (t.tabBase, t.tabCount))) r.tiles 256 with
  | some a, some b => some (a, b)
  | _, _ => none

/-- Have `n` groups of so many registers and accumulators room on a core (R128)? -/
def State.groupsFit (s : State) (core n vregs accs : Nat) : Bool :=
  let rs := s.residents core
  decide (rs.length + n ≤ 64) && decide ((rs.foldl (fun k g => k + g.id.vregs) 0 + n * vregs) * 128 ≤ 2 ^ 20)
    && decide ((rs.foldl (fun k g => k + g.id.accs) 0 + n * accs) * 3584 ≤ 512 * 1024)

/-- Places (slot, position) that no resident group holds. -/
def freePlaces (rs : List Group) : List (Nat × Nat) :=
  ((List.range 16).flatMap (fun p => (List.range 4).map (fun sl => (sl, p)))).filter (fun x =>
    !rs.any (fun g => g.id.slot == x.1 && g.id.pos == x.2))

/-- Cores of a cluster in TEAM order (R131). -/
def Cluster.cores (c : Cluster) : List Nat := rectangle c.die c.row c.col c.rows c.cols

/-- Partition of a core (R338). -/
def partitionOf (core : Nat) : Nat := 4 * (core / 256) + core % 16 / 4

/-- Partitions that a cluster occupies (R339). -/
def Cluster.parts (c : Cluster) : BitVec 16 := c.cores.foldl (fun m k => m ||| (1#16 <<< partitionOf k)) 0#16

/-- Is a save or a restore at work on the partitions (R339)? -/
def State.partsBusy (s : State) (ps : BitVec 16) : Bool :=
  (!s.ctx.stopping.isEmpty && ps &&& s.ctx.spanned != 0#16)
    || s.ctx.saved.any (fun c => s.ctx.restoring == some c.job && ps &&& c.spanned != 0#16)

/-- Is the cluster of a group being stopped for a save (R342)? -/
def State.clusterStops (s : State) (c : Cluster) (job : BitVec 16) : Bool :=
  s.ctx.stopping.contains job && c.parts &&& s.ctx.stopParts != 0#16

def State.groupStops (s : State) (g : Group) : Bool := s.clusterStops (s.clusterFor g.id) g.id.job

/-! ## Swap-out and return (R305 to R307) -/

/-- Groups of a cluster that have not ended. -/
def State.clusterGroups (s : State) (c : Cluster) : List Group :=
  s.liveGroups.filter (fun g => g.id.grid == c.grid && g.id.clu == c.clu)

/-- The wait threshold that a record names, in clocks (R129). -/
def LaunchRec.waitClocks (r : LaunchRec) : Nat := if r.waitThresh = 0 then 4096 else 16 * r.waitThresh

/-- The wait threshold of a cluster's launch (R129). -/
def State.threshold (s : State) (grid : Nat) : Nat := ((s.launchOf grid).map (·.record.waitClocks)).getD 4096

/-- Bytes of shadow storage that the groups of a swapped-out cluster take: always in compressed form (R306, R345). -/
def shadowBytes (gs : List Group) : Nat := (gs.map (Group.savedBytes true)).sum

/-- Blocks of 1 MiB. -/
def blocksFor (n : Nat) : Nat := (n + 2 ^ 20 - 1) / 2 ^ 20

/-- Shadow blocks of a die in use (R345). -/
def State.shadowUsed (s : State) (die : Nat) : Nat :=
  s.ctx.saved.foldl (fun n c => n + c.shadow.getD die 0) 0
    + (s.ctx.swaps.filter (fun x => x.2.2.1 == die)).foldl (fun n x => n + x.2.2.2) 0

/-- Have all register writes of a group landed (R305, R343)? No matrix word, result of a run or lane access is under way. -/
def State.writesLanded (s : State) (g : Group) : Bool :=
  g.hend.isEmpty && g.matrix.words.isEmpty && g.part.isNone && !s.fabric.peers.any (fun a => a.owner == g.id.key)

/-- May a cluster be swapped out (R305)? Its fragments wait, as those of a stopped group do (R322), its threshold has passed,
its writes have landed. -/
def State.canSwap (s : State) (c : Cluster) : Bool :=
  let gs := s.clusterGroups c
  !c.swapped && !gs.isEmpty && !s.partsBusy c.parts
    && gs.all (fun g => decide (s.threshold c.grid ≤ g.idle) && g.run.isNone && s.writesLanded g
        && (g.stop.isSome || g.frags.all (fun f => s.longWait f && f.hint.isNone)))
    && decide (s.shadowUsed c.die + blocksFor (shadowBytes gs) ≤ 128)

/-- SWAP_OUT (R305, R306) of the cluster at place `i`. -/
def execSwapOut (i : Nat) (s : State) : Out :=
  .next (match s.clusters[i]? with
  | none => s
  | some c =>
    if !s.canSwap c then s
    else
      let n := blocksFor (shadowBytes (s.clusterGroups c))
      let s1 := s.putCluster { c with swapped := true, woken := false }
      let s2 := { s1 with ctx := { s1.ctx with swaps := s1.ctx.swaps ++ [(c.grid, c.clu, c.die, n)] } }
      s2.mapGroups (fun g =>
        if g.alive && g.id.grid == c.grid && g.id.clu == c.clu then { g with swapped := true } else g))

/-- Would a wait of a swapped-out cluster end (R307)? A JOIN has no wake condition; a stopped group wakes by GRESUME. -/
def State.waitEnds (s : State) (c : Cluster) : Bool :=
  (s.clusterGroups c).any (fun g =>
    g.stop.isNone && (!g.cmdFaults.isEmpty || g.frags.any (fun f => f.wait != .join && s.waitOver g f)))

/-- Does the wake condition of a swapped-out cluster hold (R307)? It holds from the first event that ends a wait. -/
def State.wakes (s : State) (c : Cluster) : Bool := c.swapped && (c.woken || s.waitEnds c)

/-- The wake conditions that hold are kept (R307). -/
def State.noteWakes (s : State) : State :=
  if s.clusters.all (fun c => !c.swapped || c.woken) then s
  else { s with clusters := s.clusters.map (fun c => if s.wakes c then { c with woken := true } else c) }

/-- Give places to the groups of a team on a core, in GRP order. -/
def placed (places : List (Nat × Nat)) (gs : List Group) : List Group :=
  gs.zipIdx.map (fun x =>
    let p := places.getD x.2 (0, 0)
    { x.1 with id := { x.1.id with slot := p.1, pos := p.2 } })

/-- Have the groups of a swapped-out cluster room on their cores? -/
def State.returnFits (s : State) (c : Cluster) : Bool :=
  c.cores.all (fun k =>
    let gs := (s.clusterGroups c).filter (fun g => g.id.core == k)
    match gs with
    | [] => true
    | g :: _ => s.groupsFit k gs.length g.id.vregs g.id.accs)

/-- The register values of a group whose saved state has lost a word: undefined (R359). -/
def Regs.spoilt (r : Regs) (seed : Nat) : Regs :=
  { r with
    v := (List.range 256).foldl (fun m i => sput zeroLanes m i (mkLanes (fun l => (Config.free (seed + 32 * i + l)).extractLsb' 0 32))) r.v,
    s := (List.range 64).foldl (fun m i => sput 0#64 m i (Config.free (seed + 8192 + i))) r.s,
    p := (List.range 8).foldl (fun m i => sput 0#32 m i ((Config.free (seed + 8256 + i)).extractLsb' 0 32)) r.p,
    k := (Config.free (seed + 8264)).extractLsb' 0 4,
    ac := (List.range 512).foldl (fun m i => sput zeroRow m i ((List.range 16).map (fun c => (Config.free (seed + 8320 + 16 * i + c)).extractLsb' 0 56)))
      r.ac }

/-- A group whose saved state failed its code comes back stopped, with a record of it (R345, R359; for a swap-out, log 110). -/
def State.comesFlawed (s : State) (g : Group) : State :=
  let r := s.recordOf g (32 * 27 + 5) g.lowest.pc.toNat 0#32 0 0#64
  ((s.drew (2 ^ 15)).onGroup g.id.grid g.id.clu g.id.team g.id.grp (fun h =>
    { h with regs := h.regs.spoilt s.fresh }.stopped (32 * 27 + 5) 0#32 false 0#57 0#32)).report
      { r with source := s.unitSource 8 0 } g.id.privileged

/-- Groups of some clusters that come back with a flaw (R345, R359). -/
def State.showFlaws (s : State) (p : GroupKey → Bool) : State :=
  let bad := s.ctx.flawed.filter p
  let s1 := { s with ctx := { s.ctx with flawed := s.ctx.flawed.filter (fun k => !p k) } }
  (s1.liveGroups.filter (fun g => bad.contains g.id.key)).foldl State.comesFlawed s1

/-- The cluster returns to its cores (R306, R307). -/
def State.return_ (s : State) (c : Cluster) : State :=
  let back (g : Group) : Bool := g.alive && g.id.grid == c.grid && g.id.clu == c.clu
  let mine (k : Nat) : List Group := (s.clusterGroups c).filter (fun g => g.id.core == k)
  let put (g : Group) : Group :=
    if back g then
      let k := g.id.core
      let i := ((mine k).findIdx? (fun h => sameGroup h.id g.id)).getD 0
      let p := (freePlaces (s.residents k)).getD i (0, 0)
      { g with swapped := false, idle := 0, id := { g.id with slot := p.1, pos := p.2 } }
    else g
  let s1 := (s.putCluster { c with swapped := false, woken := false }).mapGroups put
  State.showFlaws { s1 with ctx := { s1.ctx with swaps := s1.ctx.swaps.filter (fun x => x.1 != c.grid || x.2.1 != c.clu) } }
    (fun k => isCluster k.1 k.2.1 c)

/-- Priority of a cluster's launch. -/
def State.priorityOf (s : State) (grid : Nat) : Nat := ((s.launchOf grid).map (·.record.priority)).getD 0

/-- The swapped-out cluster that returns next (R300). -/
def State.returning (s : State) : Option Cluster :=
  let cs := s.clusters.filter (fun c => s.wakes c && s.returnFits c && !s.partsBusy c.parts)
  cs.foldl (fun best c => match best with
    | none => some c
    | some b => if s.priorityOf b.grid < s.priorityOf c.grid then some c else some b) none

/-! ## Placement of records (R298, R300, R301) -/

/-- Are the waits of a record met (R298)? -/
def State.depsMet (s : State) (job : BitVec 16) (r : LaunchRec) : Bool :=
  r.deps.all (fun d =>
    !(d.1 == 1 || d.1 == 3) || decide (d.2.1 ≤ (sget 0#32 s.sched.counters (job.toNat * 4096 + d.2.2)).toNat))

/-- Can a core take a team of the record (R128, R165, R301)? -/
def State.coreTakes (s : State) (r : LaunchRec) (core : Nat) : Bool :=
  !s.coreExcluded core && (s.teamPlace core r).isSome && s.groupsFit core r.groups r.vregs r.accs
    && !(s.clusters.any (fun c => c.cores.contains core && s.wakes c))
    && !s.partsBusy (1#16 <<< partitionOf core)

/-- The first rectangle that takes the record's cluster (R301): die and origin. -/
def State.findPlace (s : State) (r : LaunchRec) : Option (Nat × Nat × Nat) :=
  ((List.range 4).map (fun i => (s.sched.nextDie + i) % 4)).findSome? (fun die =>
    ((origins r).find? (fun o => (rectangle die o.1 o.2 r.rows r.cols).all (s.coreTakes r))).map (fun o => (die, o.1, o.2)))

/-- The head of list 2q + l (R300). -/
def State.listHead (s : State) (n : Nat) : Option Launch :=
  let q := s.queue (n / 2)
  if n % 2 = 0 then q.host.head? else q.dev.head?

/-- Lists of one priority, from the one after the last served (R300). -/
def State.listOrder (s : State) (prio : Nat) : List Nat :=
  let k := sget 0 s.sched.lastList prio
  (List.range 128).map (fun i => (k + i) % 128)

/-- The launch of a record that has begun to start, or its head record. -/
def State.headLaunch (s : State) (n : Nat) : Option Launch := s.listHead n

/-- The next record whose waits are met and that has a place (R300): list, launch, place. -/
def State.nextRecord (s : State) : Option (Nat × Launch × (Nat × Nat × Nat)) :=
  [3, 2, 1, 0].findSome? (fun prio => (s.listOrder prio).findSome? (fun n =>
    match s.headLaunch n with
    | none => none
    | some l =>
      if l.record.priority = prio && (decide (0 < l.started) || s.depsMet l.job l.record) && !l.stopped then
        (s.findPlace l.record).map (fun p => (n, l, p))
      else none))

/-- A new group (R31). -/
def newGroup (l : Launch) (clu team grp core slot pos order : Nat) : Group :=
  let r := l.record
  { Group.reset with
    alive := true,
    id := { grid := l.grid, clu := clu, team := team, grp := grp, job := l.job, core := core, slot := slot, pos := pos,
            order := order, priority := r.priority, privileged := l.privileged, vregs := r.vregs, accs := r.accs },
    regs := { Regs.reset with s := sput 0#64 [] 0 (r.args.zeroExtend 64) },
    frag := { Frag.reset with pc := r.entry } }

/-- Contents of an allotment of `n` pages from page `p` of a core at the start of a team (R32): zeros where the last owner
was another job, undefined where it was the same; poisoned words hold zeros (R164). -/
def State.claimPages (s : State) (job : BitVec 16) (core p : Nat) : Nat → State
  | 0 => s
  | n + 1 =>
    let page := core * 512 + p
    let key := page * 4096
    let same := sget 0 s.mem.tileOwner page == job.toNat + 1
    let bad := (List.range 256).filter (fun w => sget false s.mem.tilePoison (key / 16 + w))
    let m0 := { s.mem with
      tile := writeBytes s.mem.tile key (if same then freeBytes s.fresh 512 else List.replicate 4096 0#8),
      tilePoison := markWords s.mem.tilePoison (key / 16) false 256,
      tileFlaw := if same then s.mem.tileFlaw else markWords s.mem.tileFlaw (key / 16) false 256,
      epi := s.mem.epi.filter (fun e => e.key / 4096 != page),
      tileOwner := sput 0 s.mem.tileOwner page (job.toNat + 1) }
    let m1 := bad.foldl (fun m w => { m with tile := writeBytes m.tile (key + 16 * w) (List.replicate 16 0#8) }) m0
    State.claimPages { (if same then s.drew 512 else s) with mem := m1 } job core (p + 1) n

/-- A team starts on its core (R32, R131). -/
def State.startTeam (s : State) (l : Launch) (clu team core : Nat) : State :=
  let r := l.record
  let at_ := (s.teamPlace core r).getD (0, 0)
  let t : Team :=
    { grid := l.grid, clu := clu, team := team, core := core, job := l.job, groups := r.groups, tileBase := at_.1,
      tilePages := r.tilePages, tabBase := at_.2, tabCount := r.tiles, kibMax := 2048, reqMax := 64, abars := [], rings := [],
      bars := [] }
  let places := freePlaces (s.residents core)
  let gs := (List.range r.groups).map (fun g =>
    let p := places.getD g (0, 0)
    newGroup l clu team g core p.1 p.2 (s.sched.order + g))
  let s1 := s.claimPages l.job core at_.1 r.tilePages
  let table := (List.range r.tiles).foldl (fun m i => sput TileEntry.reset m (core * 256 + at_.2 + i) TileEntry.reset)
    s1.mem.table
  { s1 with mem := { s1.mem with table := table }, teams := s1.teams ++ [t], others := s1.others ++ gs,
            sched := { s1.sched with order := s1.sched.order + r.groups } }

/-- A cluster starts (R131). Records with waits acquire at .sys (R298): the lines of its cores' L1 leave. -/
def State.startCluster (s : State) (l : Launch) (die row col : Nat) : State :=
  let r := l.record
  let c : Cluster :=
    { grid := l.grid, clu := l.started, rows := r.rows, cols := r.cols, die := die, row := row, col := col,
      swapped := false, woken := false, bars := [] }
  let s1 := { s with clusters := s.clusters ++ [c] }
  let s2 := c.cores.zipIdx.foldl (fun (t : State) k => t.startTeam l l.started k.2 k.1) s1
  if r.deps.any (fun d => d.1 == 1 || d.1 == 3) then
    { s2 with mem := c.cores.foldl (fun m k => m.l1DropAll k) s2.mem }
  else s2

/-- The launch has started one more cluster; a whole launch leaves its list (R294, R300). -/
def State.servedList (s : State) (n : Nat) (l : Launch) (die : Nat) : State :=
  let l1 := { l with started := l.started + 1 }
  let known := s.sched.launches.any (fun x => x.grid == l.grid)
  let launches := if known then s.sched.launches.map (fun x => if x.grid == l.grid then { x with started := l1.started } else x)
    else s.sched.launches ++ [l1]
  let q := s.queue (n / 2)
  let whole := decide (l1.record.clusters ≤ l1.started)
  let upd (xs : List Launch) : List Launch := if whole then xs.drop 1 else xs.set 0 l1
  let q1 := if n % 2 = 0 then { q with host := upd q.host } else { q with dev := upd q.dev }
  let s1 := (s.putQueue (n / 2) q1).headChecked (n / 2)
  { s1 with sched := { s1.sched with
      launches := launches, nextDie := (die + 1) % 4, lastList := sput 0 s1.sched.lastList l.record.priority (n + 1) } }

/-- A head record whose grid was stopped before it started leaves its list (R332). -/
def State.dropStopped (s : State) : Option State :=
  (List.range 128).findSome? (fun n =>
    match s.listHead n with
    | none => none
    | some l =>
      if (s.sched.launches.any (fun x => x.grid == l.grid && x.stopped)) || l.stopped then
        let q := s.queue (n / 2)
        let q1 := if n % 2 = 0 then { q with host := q.host.drop 1 } else { q with dev := q.dev.drop 1 }
        let s1 := (s.putQueue (n / 2) q1).headChecked (n / 2)
        some (if s1.sched.launches.any (fun x => x.grid == l.grid) then s1
          else { s1 with sched := { s1.sched with launches := s1.sched.launches ++ [{ l with stopped := true }] } })
      else none)

/-- What the scheduler would place at this clock (R300): none when it can place nothing. -/
def State.placement (s : State) : Option State :=
  match s.dropStopped with
  | some t => some t
  | none =>
    match s.returning with
    | some c => some (s.return_ c)
    | none =>
      (s.nextRecord).map (fun x =>
        (s.startCluster x.2.1 x.2.2.1 x.2.2.2.1 x.2.2.2.2).servedList x.1 x.2.1 x.2.2.1)

/-- PLACE_CLUSTER (R300). -/
def execPlaceCluster (s : State) : Out := .next (s.placement.getD s)

/-! ## The end of a launch (R295, R298, R311) -/

/-- Is a group of the grid still on the package or saved, or is work of it outstanding (R311)? -/
def State.gridBusy (s : State) (grid : Nat) : Bool :=
  s.liveGroups.any (fun g => g.id.grid == grid)
    || s.ctx.saved.any (fun c => c.groups.any (fun g => g.id.grid == grid))
    || s.cmds.any (fun c => c.grid == grid && c.kind != .tfetch && c.kind != .tgath && c.kind != .rsplan)
    || s.fabric.held.any (fun h => h.owner.1 == grid)
    || s.fabric.txns.any (fun t => match t.owner with | .weak owner _ _ => owner.1 == grid | _ => false)
    || s.fabric.peers.any (fun a => a.owner.1 == grid && a.acc != accLoad)
    || s.fabric.bars.any (fun x => x.2.who.any (fun w => w.1 == grid))

/-- Is the launch complete (R311)? -/
def State.launchDone (s : State) (l : Launch) : Bool :=
  (decide (l.record.clusters ≤ l.started) || l.stopped) && !s.gridBusy l.grid

/-- A dependence counter rises by one and saturates (R298). -/
def signalCounter (m : SMap (BitVec 32)) (key : Nat) : SMap (BitVec 32) :=
  let v := sget 0#32 m key
  if v = 0xFFFFFFFF#32 then m else sput 0#32 m key (v + 1#32)

/-- What an ended grid held leaves the package: clusters, teams, groups that wait for nothing. -/
def State.freeGrid (s : State) (grid : Nat) : State :=
  { s with
    clusters := s.clusters.filter (fun c => c.grid != grid || s.clusterHeld c.grid c.clu),
    teams := s.teams.filter (fun t => t.grid != grid || s.clusterHeld t.grid t.clu),
    others := s.others.filter (fun g => g.alive || g.id.grid != grid || !g.matrix.words.isEmpty),
    mem := { s.mem with epi := s.mem.epi.filter (fun e => e.owner.1 != grid) },
    ctx := { s.ctx with swaps := s.ctx.swaps.filter (fun x => x.1 != grid) } }

/-- LAUNCH_COMPLETE (R311): a release at .sys; the dependence signals (R298) and the completion word (R295) follow the end. -/
def execLaunchComplete (grid : BitVec 48) (s : State) : Out :=
  .next (match s.launchOf grid.toNat with
  | none => s
  | some l =>
    if !s.launchDone l then s
    else
      let cores := (s.mem.late.filter (fun x => x.owner.1 == l.grid)).map (·.core)
      let s1 := { s with
        mem := s.mem.performLate (fun x => cores.contains x.core),
        sched := { s.sched with launches := s.sched.launches.filter (fun x => x.grid != l.grid) } }
      let s2 := s1.freeGrid l.grid
      let signals := if l.killed || l.stopped then [] else l.record.deps.filter (fun d => decide (2 ≤ d.1))
      let s3 := { s2 with sched := { s2.sched with
        counters := signals.foldl (fun m d => signalCounter m (l.job.toNat * 4096 + d.2.2)) s2.sched.counters } }
      if l.device then s3 else s3.writeCompletion l.entryAddr l.grid (if l.killed || l.stopped then 3 else 1))

end Sys2Proof.Machine
end

