-- ==== Sys2Proof/Machine/Images.lean ====
section
/-! DEFINITION. Export images (R348 to R354, R422, R431): the sections that a context is written as, and the context that the
sections of an image describe. -/

namespace Sys2Proof.Machine

/-! ## Sections of a context (R348 to R354) -/

/-- Implementation ID (R340). -/
def implId : Nat := 0x0901

/-- Latest writer of temporary `i` in a flight. -/
def tempWriter (flight : List InFlight) (i : Nat) : Option InFlight := writerOf flight (.vec (.temp i))

/-- Digit count of temporary `i` (R90). -/
def digitCount (r : Run) (stopped : Bool) (i : Nat) : Nat :=
  match tempWriter r.flight i with
  | none => if sget 0#32 r.twritten i = 0#32 then 0xFE else 0xFF
  | some w =>
    if stopped || r.complete w then 0xFF
    else if w.len = 0 then 0xFD
    else min (w.len - 1) (r.stopTime - w.first)

/-- A kind-6 payload (R352, R353): the residual is not published. -/
def runPayload (impl : Nat) (g : Group) (r : Run) (seed : Nat) : List Byte :=
  let open_ := (r.flight.filter (fun w => !r.complete w)).length
  let resid := if g.stop.isSome then 0 else 64 + 640 * open_
  leBytes 8 r.base.toNat ++ leBytes 8 (impl * 2 ^ 48 + r.index g.frag.pc * 2 ^ 32 + r.len * 2 ^ 24 + resid)
    ++ (List.range 8).flatMap (fun i => leBytes 1 (digitCount r g.stop.isSome i)) ++ leBytes 8 0
    ++ freeBytes seed (resid / 8)

/-- A kind-7 payload (R354). -/
def reshardPayload (r : Reshard) (flag grp : Nat) : List Byte :=
  leBytes 8 (r.room / 1024 * 2 ^ 32 + flag * 2 ^ 16) ++ leBytes 8 r.srcRec ++ leBytes 8 r.dstRec ++ leBytes 8 r.cursor
    ++ leBytes 8 r.area ++ leBytes 8 grp

/-- A section of an image (R348): what its header names, and its payload. -/
structure Section where
  kind : Nat
  core : Nat
  clu : Nat
  team : Nat
  grp : Nat
  payload : List Byte
  deriving DecidableEq, Repr

/-- The bytes of a section (R348): header, payload, padding. -/
def Section.bytes (x : Section) : List Byte :=
  leBytes 8 (x.kind * 2 ^ 56 + x.payload.length) ++ leBytes 8 (x.core * 2 ^ 54 + x.clu * 2 ^ 16 + x.team * 2 ^ 4 + x.grp)
    ++ padTo 16 x.payload

/-- A section of a group. -/
def groupSection (g : GroupId) (kind : Nat) (payload : List Byte) : Section :=
  { kind := kind, core := g.core, clu := g.clu, team := g.team, grp := g.grp, payload := payload }

/-- Sections of a group of a context: its state, its vector registers, its accumulators, its run (R349). -/
def groupSections (c : Context) (seed : Nat) (g : Group) : List Section :=
  [groupSection g.id 2 (freeBytes seed (64 + (Config.free seed).toNat % 1024)),
    groupSection g.id 3 (vectorPayload c.compress g), groupSection g.id 4 (accPayload g)]
    ++ (match g.run with
        | some r => [groupSection g.id 6 (runPayload c.impl g r (seed + 4096))]
        | none => [])

/-- Does a command leave a remainder of an engine beside the published Strudel continuation (R342)? -/
def CmdKind.remains : CmdKind → Bool
  | .rshard => false
  | .rsplan => false
  | .pbar => false
  | _ => true

/-- Have the engines of a team left something in a context (R342)? -/
def Context.remains (c : Context) (t : Team) : Bool :=
  c.cmds.any (fun x => x.inTeam t && x.kind.remains)
    || c.packets.any (fun h => isTeam h.owner.1 h.owner.2.1 h.owner.2.2.1 t)

/-- Sections of a team: what it holds, and engine remainders (R342, R349, R431). -/
def teamSections (c : Context) (seed : Nat) (t : Team) : List Section :=
  let sec (k : Nat) (p : List Byte) : Section :=
    { kind := k, core := t.core, clu := t.clu, team := t.team, grp := 0, payload := p }
  [sec 1 (freeBytes seed (t.bytes / 8 + (Config.free seed).toNat % 1024))]
    ++ (if c.remains t then [sec 5 (freeBytes (seed + 2 ^ 18) (1 + (Config.free (seed + 2 ^ 18)).toNat % 1024))] else [])

/-- The section of a Strudel continuation (R354): it names the issuer by its index in its core (R318). -/
def reshardSection (c : Context) (r : Reshard) : Section :=
  let cmd := c.cmds.find? (fun x => x.id == r.id)
  let g := (c.groups.find? (fun g => cmd.any (fun x => g.id.key == (x.grid, x.clu, x.team, x.grp)))).map (·.id)
  { kind := 7, core := (g.map (·.core)).getD 0, clu := (g.map (·.clu)).getD 0, team := (g.map (·.team)).getD 0, grp := 0,
    payload := reshardPayload r ((cmd.map (·.flag)).getD 15) ((g.map (fun x => 16 * x.slot + x.pos)).getD 0) }

/-- Every section of a context's image; the payloads that are not published are numbered from `seed`. -/
def Context.sections (c : Context) (seed : Nat) : List Section :=
  c.teams.zipIdx.flatMap (fun t => teamSections c (seed + t.2 * 2 ^ 19) t.1)
    ++ c.groups.zipIdx.flatMap (fun g => groupSections c (seed + 2 ^ 30 + g.2 * 2 ^ 19) g.1)
    ++ c.strudel.map (reshardSection c)

/-- The 64-byte header (R348). -/
def Context.header (c : Context) (len count : Nat) (sealed_ : Bool) : List Byte :=
  leBytes 8 (c.job.toNat * 2 ^ 48 + c.impl * 2 ^ 32 + 2 ^ 16 + c.spanned.toNat) ++ leBytes 8 len
    ++ leBytes 8 (count * 2 ^ 32 + (if sealed_ then 4 else 0) + c.mode) ++ leBytes 8 c.time.toNat ++ List.replicate 32 0#8

/-! ## Sealing (R422) -/

/-- HMAC with SM3, of 64-byte blocks (R404, R422). -/
def hmacSm3 (key msg : List Byte) : List Byte :=
  let k := key ++ List.replicate (64 - key.length) 0#8
  let hash (pad : Byte) (bs : List Byte) : List Byte := digestBytes (Config.sm3 (k.map (· ^^^ pad) ++ bs))
  hash 0x5C#8 (hash 0x36#8 msg)

/-- Key and IV of a sealed image (R422): from the job's tag key and bytes 0x00 to 0x1F of the header. -/
def sealKeys (k : KeySlot) (head : List Byte) : BitVec 128 × Nat :=
  let kt := leBytes 16 ((k.keys.getD 0#384).extractLsb' 256 128).toNat
  let h := hmacSm3 kt ([0x4B#8, 0x51#8, 0x39#8, 0x43#8] ++ head.take 32)
  (BitVec.ofNat 128 (leNat (h.take 16)), leNat ((h.drop 16).take 12))

/-- The body of an image under the key stream of its seal: sealed when it was plain, plain when it was sealed. -/
def sealStream (kv : BitVec 128 × Nat) (body : List Byte) : List Byte :=
  body.zipIdx.map (fun b => b.1 ^^^ Config.sm4Stream kv.1 kv.2 b.2)

/-- The tag over the header and the sealed body (R422). -/
def sealTag (kv : BitVec 128 × Nat) (head cipher : List Byte) : List Byte :=
  leBytes 16 (Config.sm4Tag kv.1 kv.2 (head ++ cipher)).toNat

/-- An export image (R348), sealed under the job's tag key when it holds a key slot (R422). -/
def State.imageOf (s : State) (c : Context) (seed : Nat) : List Byte :=
  let secs := c.sections seed
  let body := secs.flatMap Section.bytes
  match s.keySlot c.job with
  | none => c.header (64 + body.length) secs.length false ++ body
  | some k =>
    let head := c.header (64 + body.length + 16) secs.length true
    let cipher := sealStream (sealKeys k head) body
    head ++ cipher ++ sealTag (sealKeys k head) head cipher

/-! ## Reading the sections of an image (R348, R349, R352, R354) -/

/-- Has a payload whose layout is published a nonzero reserved field (R349, R352, R354)? -/
def Section.reservedSet (x : Section) : Bool :=
  if x.kind = 6 then field (numAt x.payload 0 8) 57 7 != 0 || field (numAt x.payload 8 8) 40 8 != 0 || numAt x.payload 0x18 8 != 0
  else if x.kind = 7 then reshardCtlBad (BitVec.ofNat 64 (numAt x.payload 0 8)) || decide (256 ≤ numAt x.payload 0x28 8)
  else false

/-- The sections of an image body; none when it is malformed (R349). `fuel` bounds their number. -/
def sectionsOf : Nat → List Byte → Option (List Section)
  | 0, bs => if bs.isEmpty then some [] else none
  | n + 1, bs =>
    if bs.isEmpty then some []
    else
      let w := numAt bs 0 8
      let x := numAt bs 8 8
      let len := w % 2 ^ 32
      let padded := (len + 15) / 16 * 16
      let sec : Section :=
        { kind := w / 2 ^ 56, core := field x 54 10, clu := field x 16 32, team := field x 4 4, grp := field x 0 4,
          payload := (bs.drop 16).take len }
      if bs.length < 16 + padded || sec.kind == 0 || decide (7 < sec.kind) || field w 32 24 != 0 || field x 48 6 != 0
          || field x 8 8 != 0 || sec.reservedSet then none
      else (sectionsOf n (bs.drop (16 + padded))).map (sec :: ·)

/-- Does a section belong to the same team, or to the same group, as another? -/
def Section.sameTeam (x y : Section) : Bool := x.clu == y.clu && x.team == y.team
def Section.sameGroup (x y : Section) : Bool := x.sameTeam y && x.grp == y.grp

/-- Is every team and group that an image names described by its section of kind 1 or 2 (R349)? -/
def sectionsComplete (xs : List Section) : Bool :=
  xs.all (fun x =>
    xs.any (fun y => y.kind == 1 && y.sameTeam x)
      && (x.kind == 1 || x.kind == 5 || x.kind == 7 || xs.any (fun y => y.kind == 2 && y.sameGroup x)))

/-- Does the image hold parts that only the same implementation reads (R356)? -/
def needsSameImpl (xs : List Section) : Bool :=
  xs.any (fun x => x.kind == 5 || (x.kind == 6 && numAt x.payload 8 8 % 2 ^ 24 != 0))

/-- A register in the form of a tag (R347): its lanes, and the bytes after it. -/
def untagged (tag : Nat) (bs : List Byte) : Lanes × List Byte :=
  let lanes (f : Nat → Word) : Lanes := mkLanes f
  match tag with
  | 0 => (lanes (fun _ => BitVec.ofNat 32 (numAt bs 0 4)), bs.drop 4)
  | 1 => (lanes (fun l => BitVec.ofNat 32 (numAt bs 0 4 + l * numAt bs 4 4)), bs.drop 8)
  | 2 =>
    if numAt bs 0 4 = 0 then (lanes (fun l => (bs.getD (4 + l) 0#8).signExtend 32), bs.drop 36)
    else (lanes (fun l => (BitVec.ofNat 16 (numAt bs (4 + 2 * l) 2)).signExtend 32), bs.drop 68)
  | _ => (lanes (fun l => BitVec.ofNat 32 (numAt bs (4 * l) 4)), bs.drop 128)

/-- Registers of a kind-3 payload from register `i` on, with the tags of `tags` (R350). -/
def registersOf (tags : List Byte) : Nat → Nat → List Byte → SMap Lanes
  | 0, _, _ => []
  | n + 1, i, bs =>
    let x := untagged ((tags.getD (i / 4) 0#8).toNat / 4 ^ (i % 4) % 4) bs
    sput zeroLanes (registersOf tags n (i + 1) x.2) i x.1

/-- The registers of a kind-3 payload, and their number (R350). -/
def vectorsOf (bs : List Byte) : Nat × SMap Lanes :=
  let n := min 256 (numAt bs 0 4)
  let tags := (n + 3) / 4
  (n, registersOf ((bs.drop 4).take tags) n 0 (bs.drop (4 + (tags + 3) / 4 * 4)))

/-- Bytes of an accumulator in a kind-4 payload (R351). -/
def accSize (core : Nat) : Nat := 4096 + (if rowstatCore core then 384 else 0)

/-- A group with the registers of a kind-4 payload (R351). -/
def Group.withAccs (g : Group) (core : Nat) (bs : List Byte) : Group :=
  let n := min 16 (bs.length / accSize core)
  let at_ (a : Nat) : Nat := a * accSize core
  let rows := (List.range n).flatMap (fun a => (List.range 32).map (fun r => (a, r)))
  let elems (a r : Nat) : AccRow := (List.range 16).map (fun c => BitVec.ofNat 56 (numAt bs (at_ a + 128 * r + 8 * c) 8))
  { g with
    id := { g.id with accs := n },
    regs := { g.regs with
      ac := rows.foldl (fun m x => sput zeroRow m (32 * x.1 + x.2) (elems x.1 x.2)) [],
      rmax := if rowstatCore core then
          rows.foldl (fun m x => sput rmaxReset m (32 * x.1 + x.2) (BitVec.ofNat 32 (numAt bs (at_ x.1 + 4096 + 4 * x.2) 4))) []
        else g.regs.rmax,
      rsum := if rowstatCore core then
          rows.foldl (fun m x => sput 0#56 m (32 * x.1 + x.2) (BitVec.ofNat 56 (numAt bs (at_ x.1 + 4224 + 8 * x.2) 8))) []
        else g.regs.rsum } }

/-- A run from its continuation record (R352): what the residual holds is not published. -/
def Run.fromRecord (r : Run) (bs : List Byte) : Run :=
  { r with base := BitVec.ofNat 57 (numAt bs 0 8), len := field (numAt bs 8 8) 24 8,
           flight := if numAt bs 8 8 % 2 ^ 24 = 0 then [] else r.flight }

/-! ## The context of an image (R349 to R356, R431) -/

/-- What the payloads that are not published hold of a team, of its tile memory and tile table, of a group, of a run, and of
the engines (R431): none of it can be known. -/
opaque imageTeam : List Byte → Team
opaque imageTile : List Byte → Nat → Byte
opaque imageEntry : List Byte → Nat → TileEntry
opaque imageGroup : List Byte → Group
opaque imageRun : List Byte → Run
opaque imageCmds : List Byte → List Cmd

/-- The first section of a kind that belongs to the group of another. -/
def sectionFor (xs : List Section) (kind : Nat) (x : Section) : Option Section :=
  xs.find? (fun y => y.kind == kind && y.sameGroup x)

/-- The team of a kind-1 section for a job. -/
def teamFrom (job : BitVec 16) (x : Section) : Team :=
  { imageTeam x.payload with clu := x.clu, team := x.team, core := x.core, job := job }

/-- The group of a kind-2 section, with its registers and its run from the sections that are published. -/
def groupFrom (job : BitVec 16) (teams : List Team) (xs : List Section) (x : Section) : Group :=
  let g0 := imageGroup x.payload
  let grid := ((teams.find? (fun t => t.clu == x.clu && t.team == x.team)).map (·.grid)).getD 0
  let g1 : Group :=
    { g0 with alive := true, hend := [], cmdFaults := [], part := none, due := [],
              matrix := { g0.matrix with words := [] },
              id := { g0.id with grid := grid, clu := x.clu, team := x.team, grp := x.grp, job := job, core := x.core,
                                 privileged := false } }
  let g2 := match sectionFor xs 3 x with
    | some y => { g1 with id := { g1.id with vregs := (vectorsOf y.payload).1 }, regs := { g1.regs with v := (vectorsOf y.payload).2 } }
    | none => g1
  let g3 := match sectionFor xs 4 x with
    | some y => g2.withAccs x.core y.payload
    | none => g2
  match sectionFor xs 6 x with
  | some y =>
    let r := (imageRun y.payload).fromRecord y.payload
    { g3 with run := some r, frag := { g3.frag with pc := r.base + 4#57 * BitVec.ofNat 57 (field (numAt y.payload 8 8) 32 8) } }
  | none => { g3 with run := none }

/-- The cluster of a team: the rectangle that its teams' cores span. -/
def clusterFrom (teams : List Team) (groups : List Group) (t : Team) : Cluster :=
  let mine := teams.filter (fun u => u.grid == t.grid && u.clu == t.clu)
  let rows := mine.map (fun u => u.core / 16 % 16)
  let cols := mine.map (fun u => u.core % 16)
  let row := rows.foldl min 16
  let col := cols.foldl min 16
  { grid := t.grid, clu := t.clu, rows := rows.foldl max 0 + 1 - row, cols := cols.foldl max 0 + 1 - col, die := t.core / 256,
    row := row, col := col, woken := false, bars := [],
    swapped := groups.any (fun g => g.id.grid == t.grid && g.id.clu == t.clu && g.swapped) }

/-- A command that engines have left, confined to its team (R431): it moves bytes of the team's allotment only. -/
def commandsFrom (job : BitVec 16) (t : Team) (x : Section) : List Cmd :=
  ((imageCmds x.payload).filter (fun c =>
      c.kind.remains && c.cur.isNone && c.waiting == 0 && decide (t.key 0 ≤ c.key)
        && decide (c.key + imageBytes c.src.rows c.pitch c.src.rowBytes ≤ t.key 0 + t.bytes)
        && decide (c.key + imageBytes c.dst.rows c.pitch c.dst.rowBytes ≤ t.key 0 + t.bytes))).map (fun c =>
    { c with grid := t.grid, clu := t.clu, team := t.team, core := t.core, job := job, awaits := [], after := [] })

/-- The re-shard of a kind-7 section (R354): what its checks read again stands empty. -/
def reshardFrom (job : BitVec 16) (x : Section) : Reshard :=
  let n (o : Nat) : Nat := numAt x.payload o 8
  let none_ : Layout := { fmt := 0, naxes := 0, rank := 0, table := 0, sizes := [], mesh := [], parts := [] }
  { id := 0, plan := false, job := job, room := field (n 0) 32 16 * 1024, srcRec := n 8, dstRec := n 0x10, cursor := n 0x18,
    area := n 0x20, src := none_, dst := none_, from_ := { status := 1, dst := 0, src := 0, box := 0, done := 0 },
    srcShards := [], dstShards := [], intervals := [], boxes := [], start := 0, next := 0, ahead := [], top := 0, lost := [],
    limit := none, planned := false, stopping := false, hold := true, resumed := true, farSince := 0, homeSince := 0 }

/-- The command of a re-shard of a kind-7 section: its issuer is the group that the payload names. -/
def reshardCommand (job : BitVec 16) (groups : List Group) (x : Section) : Cmd :=
  let mine := groups.filter (fun g => g.id.core == x.core && g.id.clu == x.clu && g.id.team == x.team)
  let g := ((mine.find? (fun g => 16 * g.id.slot + g.id.pos == numAt x.payload 0x28 8)).getD (mine.headD Group.reset)).id
  { id := 0, kind := .rshard, grid := g.grid, clu := g.clu, team := g.team, grp := g.grp, core := g.core, job := job,
    pc := (imageGroup x.payload).frag.pc, flag := field (numAt x.payload 0 8) 16 4, ab := none, ring := none, tile := none,
    src := Desc.none, dst := Desc.none, origin := [], idx := zeroLanes, exec := 0#32, op := 0, pattern := 0#64, bytes := 0,
    at_ := 0, read := false, image := [], chunks := [], got := [], fail := none, waiting := 0, key := 0, pitch := 0, cur := none,
    left := [], scope := 6, bad := [], awaits := [], after := [], watched := [] }

/-- The context that an image of another package describes, as it stood on its own partitions (R349 to R354, R431). -/
def contextFrom (job : BitVec 16) (head : List Byte) (xs : List Section) : Context :=
  let teams := (xs.filter (·.kind == 1)).map (teamFrom job)
  let groups := (xs.filter (·.kind == 2)).map (groupFrom job teams xs)
  let clusters := (teams.map (clusterFrom teams groups)).eraseDups
  let shards := (xs.filter (·.kind == 7)).zipIdx
  let tiles (m : Memory) (x : Section × Team) : Memory :=
    writeBytes m (x.2.key 0) ((List.range x.2.bytes).map (imageTile x.1.payload))
  let kept (t : Team) (e : TileEntry) : TileEntry := if e.off + e.size ≤ t.bytes then e else TileEntry.reset
  let entries (m : SMap TileEntry) (x : Section × Team) : SMap TileEntry :=
    (List.range x.2.tabCount).foldl (fun m i => sput TileEntry.reset m (x.2.entryKey i) (kept x.2 (imageEntry x.1.payload i))) m
  let owned := (xs.filter (·.kind == 1)).zip teams
  let rest := (xs.filter (·.kind == 5)).flatMap (fun x =>
    match teams.find? (fun t => t.clu == x.clu && t.team == x.team) with
    | some t => commandsFrom job t x
    | none => [])
  let cmds := shards.map (fun x => reshardCommand job groups x.1) ++ rest
  { job := job, spanned := BitVec.ofNat 16 (numAt head 0 2), mode := numAt head 0x10 8 % 4,
    compress := (xs.filter (·.kind == 3)).any (fun x => x.payload != vectorPayload false (groupFrom job teams xs x)),
    time := BitVec.ofNat 64 (numAt head 0x18 8), groups := groups, teams := teams, clusters := clusters,
    tile := owned.foldl tiles [], tilePoison := [], table := owned.foldl entries [], epi := [],
    cmds := cmds.zipIdx.map (fun c => { c.1 with id := c.2 }), packets := [], requests := [],
    strudel := shards.map (fun x => { reshardFrom job x.1 with id := x.2 }), held := [], impl := numAt head 4 2,
    shadow := [0, 0, 0, 0], overflow := [] }

/-! ## Moving a context (R355) -/

/-- Partitions of a mask in ascending order. -/
def partList (m : BitVec 16) : List Nat := (List.range 16).filter (fun i => m.getLsbD i)

/-- The core that takes the place of a core when partitions move (R355). -/
def moveCore (src dst : List Nat) (core : Nat) : Nat :=
  match src.findIdx? (· == partitionOf core) with
  | none => core
  | some i =>
    let p := dst.getD i 0
    256 * (p / 4) + core / 16 % 16 * 16 + 4 * (p % 4) + core % 4

/-- The cores that a cluster's teams hold, by their numbers. -/
def Context.coresOf (c : Context) (k : Cluster) : List (Option Nat) :=
  (List.range (k.rows * k.cols)).map (fun i => (c.teams.find? (isTeam k.grid k.clu i)).map (·.core))

/-- Does every cluster stand on a rectangle of one die within the spanned partitions (R355)? -/
def Context.shaped (c : Context) : Bool :=
  c.clusters.all (fun k =>
    c.coresOf k == k.cores.map some
      && k.cores.all (fun n => decide (n / 16 % 16 < 10) && c.spanned.getLsbD (partitionOf n)))

/-- The context on other partitions (R355): none when they cannot hold its clusters in their shapes. -/
def Context.moved (c : Context) (job parts : BitVec 16) : Option Context :=
  let src := partList c.spanned
  let dst := partList parts
  let mv := moveCore src dst
  let placed (t : Team) : Team := { t with core := mv t.core }
  let clusters := c.clusters.map (fun k =>
    let o := mv (coreAt k.die k.row k.col)
    { k with die := o / 256, row := o / 16 % 16, col := o % 16 })
  let kept := (c.clusters.zip clusters).all (fun x => x.1.cores.map mv == x.2.cores)
  if src.length ≠ dst.length || !kept || !c.shaped then none
  else some
    { c with
      job := job, spanned := parts, clusters := clusters,
      teams := c.teams.map (fun t => { placed t with job := job }),
      groups := c.groups.map (fun g => { g with id := { g.id with core := mv g.id.core, job := job } }),
      tile := c.teams.foldl (fun m t => writeBytes m ((placed t).key 0) (readBytes c.tile (t.key 0) t.bytes)) [],
      tilePoison := c.teams.foldl (fun m t => (List.range (t.bytes / 16)).foldl (fun m w =>
        sput false m ((placed t).key 0 / 16 + w) (sget false c.tilePoison (t.key 0 / 16 + w))) m) [],
      table := c.teams.foldl (fun m t => (List.range t.tabCount).foldl (fun m i =>
        sput TileEntry.reset m ((placed t).entryKey i) (sget TileEntry.reset c.table (t.entryKey i))) m) [],
      epi := [],
      cmds := c.cmds.map (fun x =>
        match c.teams.find? x.inTeam with
        | some t => { x with job := job, core := mv x.core, key := x.key + (placed t).key 0 - t.key 0 }
        | none => { x with job := job, core := mv x.core }),
      packets := c.packets.map (fun h => { h with core := mv h.core, job := job }),
      strudel := c.strudel.map (fun r => { r with job := job }),
      held := [], shadow := [0, 0, 0, 0], overflow := [] }

/-- Give every command and grid of an imported context numbers that no other has: commands from `n` on; a grid of a launch that
the package does not know stands with the job above its 48 bits (log 109). -/
def Context.renumbered (c : Context) (known : Nat → Bool) (n : Nat) : Context :=
  let grid (x : Nat) : Nat := if known x then x else (c.job.toNat + 1) * 2 ^ 48 + x % 2 ^ 48
  let key (k : GroupKey) : GroupKey := (grid k.1, k.2)
  { c with
    groups := c.groups.map (fun g => { g with id := { g.id with grid := grid g.id.grid } }),
    teams := c.teams.map (fun t => { t with grid := grid t.grid }),
    clusters := c.clusters.map (fun k => { k with grid := grid k.grid }),
    cmds := c.cmds.map (fun x => { x with id := x.id + n, grid := grid x.grid, after := x.after.map (· + n), awaits := [] }),
    packets := c.packets.map (fun h => { h with id := h.id + n, owner := key h.owner }),
    requests := c.requests.map (fun t => match t.owner with
      | .cmd id => { t with owner := .cmd (id + n) }
      | _ => t),
    strudel := c.strudel.map (fun r => { r with id := r.id + n }) }

end Sys2Proof.Machine
end

