-- ==== Sys2Proof/Machine/Contexts.lean ====
section
/-! DEFINITION. Pre-emption and contexts (R338 to R360): saves and their stops, restore, export, import, discard, gang
slices. -/

namespace Sys2Proof.Machine

/-! ## Stopping (R339, R342, R343) -/

/-- The job of a cluster. -/
def State.clusterJob (s : State) (c : Cluster) : BitVec 16 :=
  ((s.teams.find? (isTeam c.grid c.clu 0)).map (·.job)).getD 0#16

/-- Clusters of a job that a save stops (R339): those with a group that has not ended, on a named partition. -/
def State.stoppedClusters (s : State) (job : BitVec 16) (parts : BitVec 16) : List Cluster :=
  s.clusters.filter (fun c => s.clusterJob c == job && c.parts &&& parts != 0#16 && !(s.clusterGroups c).isEmpty)

/-- Partitions of a list of clusters. -/
def partsOf (cs : List Cluster) : BitVec 16 := cs.foldl (fun m c => m ||| c.parts) 0#16

/-- Does the cluster of a group's key stop for the save in progress? -/
def State.keyStops (s : State) (o : GroupKey) : Bool :=
  s.clusters.any (fun k => isCluster o.1 o.2.1 k && s.clusterStops k (s.clusterJob k))

/-- Does a command belong to a cluster that stops? -/
def State.cmdStops (s : State) (c : Cmd) : Bool :=
  s.clusters.any (fun k => isCluster c.grid c.clu k && s.clusterStops k c.job)

/-- A queued continuation of a stopped job stays for its context (R354). -/
def Strudel.holdJobs (x : Strudel) (jobs : List (BitVec 16)) : Strudel :=
  { x with queue := x.queue.map (fun r => if jobs.contains r.job then { r with hold := true } else r) }

/-- Begin the stop of some jobs (R342): the engine of a re-shard of a stopped job stops at its box; in the drain mode held
packets leave. -/
def State.beginStop (s : State) (jobs : List (BitVec 16)) (parts spanned : BitVec 16) (gang : Bool) : State :=
  let s1 := { s with ctx := { s.ctx with
    stopping := jobs, stopParts := parts, spanned := spanned, gang := gang, pending := 0x7F#8, sentAt := s.time.toNat,
    slow := false, result := if gang then s.ctx.result else 1#4 } }
  let s2 := if s1.ctx.mode == 2#2 then s1.sendAll (fun h => s1.keyStops h.owner) else s1
  let queue := s2.strudel.holdJobs jobs
  { s2 with strudel := match queue.work with
      | some r => if jobs.contains r.job && !r.plan then { queue with work := some (r.stop true), state := 3 } else queue
      | none => queue }

/-- Has a command finished its chunk (R342)? -/
def Cmd.still (c : Cmd) : Bool := c.cur.isNone && c.waiting == 0 && c.left.isEmpty

/-- Groups of the clusters that stop: those that have not ended, and those of which matrix words still go on. -/
def State.stoppingGroups (s : State) : List Group :=
  s.groups.filter (fun g => (g.alive || !g.matrix.words.isEmpty) && s.groupStops g)

/-- Has the issue of a group stopped, at a unit boundary, where it waits or, in the digit mode, inside its run (R342)? -/
def State.issueStopped (s : State) (g : Group) : Bool :=
  g.stop.isSome || (g.frags.all (fun f => f.hint.isNone) && (g.run.isNone || s.ctx.mode == 1#2))

/-- Is a request of the clusters that stop still to be answered (R342)? A SIGNAL answered busy waits to be sent again, and so is
not sent; it is, in the drain mode. -/
def State.requestsOut (s : State) (mine : List Cmd) : Bool :=
  s.fabric.txns.any (fun t => !(t.busy && s.ctx.mode != 2#2) && match t.owner with
    | .weak o _ _ => s.keyStops o
    | .lanes id => s.fabric.peers.any (fun a => a.word.id == id && s.keyStops a.owner)
    | .cmd id => mine.any (fun c => c.id == id)
    | _ => false)

/-- May class `c` acknowledge its stop (R342, R343)? Its own stop is complete, and every register write of the stopped groups
has landed. -/
def State.classDone (s : State) (c : Nat) : Bool :=
  let gs := s.stoppingGroups
  let mine := s.cmds.filter s.cmdStops
  let drain := s.ctx.mode == 2#2
  let still (ks : List CmdKind) : Bool :=
    (mine.filter (fun x => ks.contains x.kind)).all (fun x => if drain then false else x.still && (x.read || x.kind != .tcommit))
  gs.all s.writesLanded && match c with
  | 0 => gs.all s.issueStopped
  | 1 => gs.all (fun g => g.matrix.words.isEmpty)
  | 2 => still [.tfetch, .tgath]
  | 3 => still [.tcommit, .tredf]
  | 4 => s.strudel.work.all (fun r => !s.ctx.stopping.contains r.job)
  | 5 => (mine.filter (fun x => x.kind == .tcopy || x.kind == .tfill)).all (fun x =>
      !drain && x.cur.isNone && x.waiting == 0 && x.chunks == [0])
  | _ => gs.all s.issueStopped && !s.requestsOut mine
      && (!drain || (s.fabric.held.all (fun h => !s.keyStops h.owner)
        && mine.all (fun x => x.kind != .signal && x.kind != .mcst && x.kind != .fflag)))

/-! ## Saving (R339, R343 to R345) -/

/-- Tile bytes of a team, with poison. -/
def teamBytes (m : Mem) (t : Team) (acc : Memory) : Memory := writeBytes acc (t.key 0) (readBytes m.tile (t.key 0) t.bytes)

/-- The context of a job's clusters (R342 to R344). -/
def State.contextOf (s : State) (job : BitVec 16) (cs : List Cluster) : Context :=
  let mine (grid clu : Nat) : Bool := cs.any (isCluster grid clu)
  let teams := s.teams.filter (fun t => mine t.grid t.clu)
  let hit (core k : Nat) : Bool := teams.any (fun t => t.core == core && decide (t.tabBase ≤ k) && decide (k < t.tabBase + t.tabCount))
  let cmds := s.cmds.filter (fun c => mine c.grid c.clu)
  { job := job, spanned := partsOf cs, mode := s.ctx.mode.toNat, compress := s.ctx.compress, time := s.time,
    groups := s.liveGroups.filter (fun g => mine g.id.grid g.id.clu), teams := teams, clusters := cs,
    tile := teams.foldl (fun m t => teamBytes s.mem t m) [],
    tilePoison := sfilter (fun w => teams.any (fun t => decide (t.key 0 ≤ 16 * w) && decide (16 * w < t.key 0 + t.bytes)))
      s.mem.tilePoison,
    table := sfilter (fun k => hit (k / 256) (k % 256)) s.mem.table,
    epi := s.mem.epi.filter (fun e => mine e.owner.1 e.owner.2.1),
    cmds := cmds, packets := s.fabric.held.filter (fun h => mine h.owner.1 h.owner.2.1),
    requests := s.fabric.txns.filter (fun t => match t.owner with
      | .cmd id => cmds.any (fun c => c.id == id)
      | _ => false),
    strudel := s.strudel.queue.filter (fun r => r.hold && r.job == job),
    held := [], impl := implId, shadow := [0, 0, 0, 0], overflow := [] }

/-- Bytes that a save writes (R345 to R347, R350, R351, R431): the groups, the teams with their tile memory, and an amount for
what engines leave. -/
def Context.size (c : Context) (extra : Nat) : Nat :=
  (c.groups.map (Group.savedBytes c.compress)).sum + (c.teams.map (fun t => t.bytes + Config.teamBytes.toNat)).sum + extra

/-- Blocks of the context area that no saved context holds, the topmost first (R345). -/
def State.overflowFree (s : State) : List Nat :=
  ((List.range s.ctx.mib.toNat).reverse).filter (fun b => !s.ctx.saved.any (fun c => c.overflow.contains b))

/-- `n` blocks from the shadow storage of the dies spanned, in ascending order, then from the context area downward (R345). -/
def takeBlocks (free area : List Nat) (n : Nat) : Option (List Nat × List Nat) :=
  let r := free.foldl (fun (acc : List Nat × Nat) f => (acc.1 ++ [min f acc.2], acc.2 - min f acc.2)) ([], n)
  if r.2 ≤ area.length then some (r.1, area.take r.2) else none

/-- Does a partition mask span a die? -/
def spansDie (parts : BitVec 16) (die : Nat) : Bool := parts.extractLsb' (4 * die) 4 != 0#4

/-- Free shadow blocks of the dies that some partitions span (R345). -/
def State.shadowFree (s : State) (spanned : BitVec 16) : List Nat :=
  (List.range 4).map (fun d => if spansDie spanned d then 128 - s.shadowUsed d else 0)

/-- The placeholder stands in place of the current group when that group leaves. -/
def State.without (s : State) (p : Group → Bool) : State :=
  { s with cur := if p s.cur then Group.reset else s.cur, others := s.others.filter (fun g => !p g) }

/-- A context record of class 27 (R359). -/
def State.ctxRecord (s : State) (detail : Nat) (job : BitVec 16) (aux : BitVec 64) : State :=
  s.accept (s.unitRecord (32 * 27 + detail) 8 0 0 aux job)

/-- Continuations of a re-shard that was held for a save go on (R345, R355). -/
def State.unhold (s : State) (p : Reshard → Bool) : State :=
  let s1 := { s with strudel := { s.strudel with queue := s.strudel.queue.map (fun r => if p r then { r with hold := false } else r) } }
  if s1.strudel.work.isNone then s1.nextWork else s1

/-- What leaves the package with the clusters of a saved context (R339, R343). -/
def State.withoutContext (s : State) (c : Context) : State :=
  let mine (grid clu : Nat) : Bool := c.clusters.any (isCluster grid clu)
  let s1 := s.without (fun g => mine g.id.grid g.id.clu)
  { s1 with
    teams := s1.teams.filter (fun t => !mine t.grid t.clu),
    clusters := s1.clusters.filter (fun k => !mine k.grid k.clu),
    cmds := s1.cmds.filter (fun x => !mine x.grid x.clu),
    mem := { s1.mem with epi := s1.mem.epi.filter (fun e => !mine e.owner.1 e.owner.2.1) },
    fabric := { s1.fabric with
      held := s1.fabric.held.filter (fun h => !mine h.owner.1 h.owner.2.1),
      txns := s1.fabric.txns.filter (fun t => !c.requests.any (fun r => r.pk.tag == t.pk.tag)) },
    strudel := { s1.strudel with queue := s1.strudel.queue.filter (fun r => !(r.hold && r.job == c.job)) },
    sched := { s1.sched with running := s1.sched.running && s1.sched.gjob != c.job } }

/-- Memory as a save of some clusters reads it: the stores of their cores reach their homes, and every word of their teams'
tile memory passes its code (R162, R184). -/
def State.readForSave (s : State) (cs : List Cluster) : State :=
  let cores := cs.flatMap Cluster.cores
  let m := s.mem.performLate (fun x => cores.contains x.core)
  { s with mem := (s.teams.filter (fun t => cs.any (isCluster t.grid t.clu))).foldl (fun m t => m.tileRead true true (t.key 0) t.bytes) m }

/-- Save one job (R339, R345): without room its groups stay in place and run on. -/
def State.saveJob (s : State) (job : BitVec 16) : State :=
  let cs := s.stoppedClusters job s.ctx.stopParts
  if cs.isEmpty then s
  else
    let extra := s.freeNow.toNat % 2 ^ 16
    let s0 := s.drawn.readForSave cs
    let c := s0.contextOf job cs
    let size := c.size extra
    let swaps := s0.ctx.swaps.filter (fun x => !cs.any (isCluster x.1 x.2.1))
    let s1 := { s0 with ctx := { s0.ctx with swaps := swaps } }
    match takeBlocks (s1.shadowFree c.spanned) s.overflowFree (blocksFor size) with
    | none =>
      let s2 := (s0.ctxRecord 3 job 0#64).unhold (fun r => r.job == job)
      { s2 with ctx := { s2.ctx with result := 4#4 } }
    | some b =>
      let s2 := s1.withoutContext c
      { s2 with ctx := { s2.ctx with
          saved := s2.ctx.saved ++ [{ c with shadow := b.1, overflow := b.2 }],
          kib := BitVec.ofNat 24 ((size + 1023) / 1024) } }

/-- The time-service state that holds the schedule still (R309). -/
def State.frozen (s : State) : Bool := s.fabric.halley.frozen

/-- The slice's start is missed (R309): late is set, and a gang-late record is posted once for the slice; a start that passed
during a freeze is not late. -/
def State.gangLate (s : State) : State :=
  if s.sched.told || s.frozen || s.sched.excused then s
  else
    let s1 := { s with sched := { s.sched with late := true, told := true } }
    s1.accept (s1.unitRecord (32 * 25) 6 0 0 s1.sched.gstart s1.sched.gjob)

/-- A freeze of the schedule ends: the start of an armed slice that passed during it is met now, and is not late (R309). -/
def State.freezeOver (s : State) : State :=
  let g := s.sched.gstart.toNat
  let passed := s.sched.arm && decide (s.sched.freezeFrom ≤ g) && decide (g ≤ s.time.toNat)
  { s with sched := { s.sched with excused := s.sched.excused || passed } }

/-- Pre-emption is complete: the jobs are saved (R343, R360). -/
def State.finishStop (s : State) : State :=
  let s1 := { s with ctx := { s.ctx with result := if s.ctx.gang then s.ctx.result else 0#4 } }
  let s2 := s1.ctx.stopping.foldl State.saveJob s1
  let s3 := if s.ctx.gang && s.sched.gstart.toNat < s.time.toNat then s2.gangLate else s2
  { s3 with ctx := { s3.ctx with
      stopping := [], gang := false, start := if s.ctx.gang then s3.ctx.start else false } }

/-- SAVE (R339, R342). -/
def execCtxSave (s : State) : Out :=
  .next (if !s.ctx.start || s.ctx.op != 0#3 || !s.ctx.stopping.isEmpty then s
  else
    let cs := s.stoppedClusters s.ctx.job s.ctx.parts
    if cs.isEmpty then
      { s with ctx := { s.ctx with start := false, result := 0#4, kib := 0#24, spanned := 0#16 } }
    else s.beginStop [s.ctx.job] s.ctx.parts (partsOf cs) false)

/-- CLASS_ACKNOWLEDGE of class `c` (R343): when every class has acknowledged, saving begins. -/
def execClassAcknowledge (c : BitVec 3) (s : State) : Out :=
  .next (if s.ctx.stopping.isEmpty || !s.ctx.pending.getLsbD c.toNat || !s.classDone c.toNat then s
  else
    let p := putBit s.ctx.pending c.toNat false
    let s1 := { s with ctx := { s.ctx with pending := p } }
    if p = 0#8 then s1.finishStop else s1)

/-- Has a class not acknowledged 100 µs after the stop was sent, with no record of it posted (R343)? -/
def State.slowDue (s : State) : Bool :=
  !s.ctx.stopping.isEmpty && s.ctx.pending != 0#8 && !s.ctx.slow && decide (s.ctx.sentAt + 100000 ≤ s.time.toNat)

/-- SLOW_ACKNOWLEDGEMENT (R343): the record names the job that is being stopped, the first of several (log 112). -/
def execSlowAcknowledgement (s : State) : Out :=
  .next (if !s.slowDue then s
  else
    let s1 := s.ctxRecord 4 (s.ctx.stopping.headD s.ctx.job) (s.ctx.pending.zeroExtend 64)
    { s1 with ctx := { s1.ctx with slow := true } })

/-! ## Restore (R355 to R357) -/

/-- The saved context of a job on some partitions (R341). -/
def State.contextAt (s : State) (job parts : BitVec 16) : Option Context :=
  s.ctx.saved.find? (fun c => c.job == job && c.spanned &&& parts != 0#16)

/-- Copy the tile state of a team from its place in the context to its new place (R355). -/
def State.putTile (s : State) (c : Context) (old new : Team) : State :=
  let words := old.bytes / 16
  let m := s.mem.tileWrite (new.key 0) (readBytes c.tile (old.key 0) old.bytes)
  let poison := (List.range words).foldl (fun m w =>
    sput false m (new.key 0 / 16 + w) (sget false c.tilePoison (old.key 0 / 16 + w))) m.tilePoison
  let table := (List.range old.tabCount).foldl (fun m i =>
    sput TileEntry.reset m (new.entryKey i) (sget TileEntry.reset c.table (old.entryKey i))) m.table
  let owner := (List.range old.tilePages).foldl (fun m p =>
    sput 0 m (new.core * 512 + new.tileBase + p) (new.job.toNat + 1)) m.tileOwner
  let mine (e : EpiByte) : Bool := decide (old.key 0 ≤ e.key) && decide (e.key < old.key 0 + old.bytes)
  let epi := (c.epi.filter mine).map (fun e => { e with key := e.key + new.key 0 - old.key 0 })
  { s with mem := { m with tilePoison := poison, table := table, tileOwner := owner, epi := m.epi ++ epi } }

/-- A group as it comes back (R344, R355): its wait count starts again, and what was overwritten in tile memory before is past. -/
def State.comesBack (s : State) (core : Nat) (swapped : Bool) (g : Group) : Group :=
  { g with swapped := swapped, idle := 0, mrdy := s.mem.tileOld.length, id := { g.id with core := core } }

/-- Put a team and its groups back (R355): none when its core lacks room. -/
def State.restoreTeam (s : State) (c : Context) (swapped : Bool) (t : Team) : Option State :=
  let r := { LaunchRec.absent with tilePages := t.tilePages, tiles := t.tabCount }
  let gs := c.groups.filter (fun g => g.id.grid == t.grid && g.id.clu == t.clu && g.id.team == t.team)
  let room := match gs with
    | [] => true
    | g :: _ => swapped || s.groupsFit t.core gs.length g.id.vregs g.id.accs
  match s.teamPlace t.core r with
  | none => none
  | some at_ =>
    if !room || s.coreExcluded t.core then none
    else
      let t1 := { t with tileBase := at_.1, tabBase := at_.2 }
      let back := (placed (freePlaces (s.residents t.core)) gs).map (s.comesBack t.core swapped)
      let cmds := (c.cmds.filter (fun x => x.inTeam t)).map (fun x =>
        { x with core := t.core, key := x.key + t1.key 0 - t.key 0, at_ := s.mem.tileOld.length })
      let s1 := s.putTile c t t1
      some { s1 with teams := s1.teams ++ [t1], others := s1.others ++ back, cmds := s1.cmds ++ cmds }

/-- Put every team of a context back. -/
def State.restoreTeams (s : State) (c : Context) : List Team → Option State
  | [] => some s
  | t :: ts =>
    let swapped := c.clusters.any (fun k => isCluster t.grid t.clu k && k.swapped)
    match s.restoreTeam c swapped t with
    | none => none
    | some s1 => s1.restoreTeams c ts

/-- A word of R329 that was held for a saved group acts on it after the restore, before it issues (R344); a GSTOP comes behind
a trap that the group is to take (R333). -/
def State.meetHeld (s : State) (w : HeldWord) (g : Group) : State :=
  if w.kind == 0 && g.stop.isNone && !g.cmdFaults.isEmpty then
    s.onGroup g.id.grid g.id.clu g.id.team g.id.grp (fun h => { h with due := h.due ++ [w] })
  else s.applyOn w g

/-- The held words of a context act on its groups in the order of receipt (R344). -/
def State.meetAllHeld (s : State) (c : Context) : State :=
  c.held.foldl (fun t w =>
    ((t.liveGroups.filter (fun g => selects c.job w.sel w.member g.id)).filter (fun g => c.groups.any (fun h => sameGroup h.id g.id))).foldl
      (fun u g => u.meetHeld w g) t) s

/-- Restore a context (R355): none when a partition lacks room. -/
def State.restoreContext (s : State) (c : Context) : Option State :=
  let s0 := { s with clusters := s.clusters ++ c.clusters.map (fun (k : Cluster) => { k with woken := false }),
                     ctx := { s.ctx with saved := s.ctx.saved.filter (fun x => x != c) } }
  match s0.restoreTeams c c.teams with
  | none => none
  | some s1 =>
    let swaps := (c.clusters.filter (·.swapped)).map (fun k => (k.grid, k.clu, k.die, blocksFor (shadowBytes (s1.clusterGroups k))))
    let s2 := { s1 with
      fabric := { s1.fabric with held := s1.fabric.held ++ c.packets },
      strudel := { s1.strudel with queue := s1.strudel.queue ++ c.strudel.map (fun (r : Reshard) => { r with hold := false }) },
      ctx := { s1.ctx with swaps := s1.ctx.swaps ++ swaps } }
    let s3 := c.requests.foldl (fun t r => t.request r.owner r.ea r.pk) s2
    let s4 := if s3.strudel.work.isNone then s3.nextWork else s3
    -- a fetch whose chunks are all marked records its arrival now
    let s5 := (c.cmds.map (·.id)).foldl State.arrive s4
    some ((s5.showFlaws (fun k => c.groups.any (fun g => g.id.key == k && !c.clusters.any (fun q => isCluster k.1 k.2.1 q && q.swapped)))).meetAllHeld c)

/-- End an operation of PMCTL with a result. -/
def State.opEnds (s : State) (result : Nat) : State :=
  { s with ctx := { s.ctx with start := false, result := BitVec.ofNat 4 result } }

/-- RESTORE (R355). -/
def execCtxRestore (s : State) : Out :=
  .next (if !s.ctx.start || s.ctx.op != 1#3 || !s.ctx.stopping.isEmpty then s
  else
    match s.contextAt s.ctx.job s.ctx.parts with
    | none => s.opEnds 2
    | some c =>
      match s.restoreContext c with
      | none => s.opEnds 3
      | some s1 =>
        let s2 := s1.opEnds 0
        { s2.drawn with ctx := { s2.ctx with
            spanned := c.spanned, kib := BitVec.ofNat 24 ((c.size (s2.freeNow.toNat % 2 ^ 16) + 1023) / 1024) } })

/-! ## Export, import, discard (R348, R349, R356, R358) -/

/-- Place of the image (R340, R348). -/
def State.imageAt (s : State) : Nat := s.ctx.base.toNat * 2 ^ 20 + s.ctx.off.toNat * 4096

/-- Do `n` bytes of package memory from `a` meet an overflow block of a saved context (R345)? -/
def State.overflowMeets (s : State) (a n : Nat) : Bool :=
  s.ctx.saved.any (fun c => c.overflow.any (fun b =>
    decide (a < s.ctxArea.1 + (b + 1) * 2 ^ 20) && decide (s.ctxArea.1 + b * 2 ^ 20 < a + n)))

/-- Have `n` bytes of an image room in the context area, clear of every overflow block (R341, R345)? -/
def State.imageFits (s : State) (n : Nat) : Bool :=
  decide (s.imageAt + n ≤ s.ctxArea.2) && !s.overflowMeets s.imageAt n

/-- EXPORT (R348). -/
def execCtxExport (s : State) : Out :=
  .next (if !s.ctx.start || s.ctx.op != 2#3 || !s.ctx.stopping.isEmpty then s
  else
    match s.contextAt s.ctx.job s.ctx.parts with
    | none => s.opEnds 2
    | some c =>
      let bs := s.imageOf c (s.fresh + 2)
      if !s.imageFits bs.length then s.opEnds 4
      else
        let s1 := (s.drew (2 ^ 40)).opEnds 0
        { s1 with
          mem := s1.mem.pkgWrite s.imageAt bs,
          ctx := { s1.ctx with
            images := { bytes := bs, context := c } :: s1.ctx.images, spanned := c.spanned,
            kib := BitVec.ofNat 24 ((bs.length + 1023) / 1024) } })

/-- The plain body of an image: a job with a key slot reads sealed images whose tag authenticates, any other job unsealed ones
(R422). -/
def State.imageBody (s : State) (sealed_ : Bool) (bs : List Byte) : Option (List Byte) :=
  match s.keySlot s.ctx.job with
  | none => if sealed_ then none else some (bs.drop 64)
  | some k =>
    let head := bs.take 64
    let cipher := (bs.drop 64).take (bs.length - 80)
    if sealed_ && decide (80 ≤ bs.length) && bs.drop (bs.length - 16) == sealTag (sealKeys k head) head cipher then
      some (sealStream (sealKeys k head) cipher)
    else none

/-- Check an image at import (R348, R349, R356, R422): the context, or the result and the record's detail. An image that this
package has written and nobody has changed holds the context that it was written from. -/
def State.checkImage (s : State) : Except (Nat × Option Nat) Context :=
  let head := readBytes s.mem.pkg s.imageAt 64
  let w := numAt head 0 8
  let len := numAt head 8 8
  let x := numAt head 0x10 8
  if field w 16 16 != 1 || field w 48 16 != s.ctx.job.toNat || field x 3 29 != 0 || x % 4 == 3
      || !((head.drop 0x20).all (· == 0#8)) || decide (len < 64) || decide (s.ctxArea.2 < s.imageAt + len) then .error (5, some 2)
  else if field w 40 8 != implId / 256 then .error (7, some 1)
  else
    let bs := readBytes s.mem.pkg s.imageAt len
    match (s.imageBody (x.testBit 2) bs).bind (fun body => sectionsOf (body.length / 16 + 1) body) with
    | none => .error (5, some 2)
    | some secs =>
      if secs.length != x / 2 ^ 32 || !sectionsComplete secs then .error (5, some 2)
      else if needsSameImpl secs && field w 32 16 != implId then .error (6, some 0)
      else
        let c := match s.ctx.images.find? (fun (i : Image) => i.bytes == bs) with
          | some i => i.context
          | none => contextFrom s.ctx.job head secs
        match { c with spanned := BitVec.ofNat 16 w }.moved s.ctx.job s.ctx.parts with
        | none => .error (8, none)
        | some c => .ok (c.renumbered (fun g => s.sched.launches.any (fun l => l.grid == g && l.job == s.ctx.job)) s.nextId)

/-- IMPORT (R348, R356): the partitions must have room for the context (R341, log 107). -/
def execCtxImport (s : State) : Out :=
  .next (if !s.ctx.start || s.ctx.op != 3#3 || !s.ctx.stopping.isEmpty then s
  else
    match s.checkImage with
    | .error (r, d) =>
      (match d with | some k => s.ctxRecord k s.ctx.job 0#64 | none => s).opEnds r
    | .ok c =>
      if (s.restoreContext c).isNone then s.opEnds 3
      else
        match takeBlocks (s.shadowFree c.spanned) s.overflowFree (blocksFor (c.size 0)) with
        | none => s.opEnds 4
        | some b =>
          let s1 := s.opEnds 0
          { s1 with
            nextId := 2 * s1.nextId + c.cmds.length + 1,
            ctx := { s1.ctx with
              saved := s1.ctx.saved ++ [{ c with shadow := b.1, overflow := b.2 }], spanned := c.spanned,
              kib := BitVec.ofNat 24 ((numAt (readBytes s.mem.pkg s.imageAt 16) 8 8 + 1023) / 1024) } })

/-- DISCARD (R358), refused while a gang slice restores the context (R341). -/
def execCtxDiscard (s : State) : Out :=
  .next (if !s.ctx.start || s.ctx.op != 4#3 || !s.ctx.stopping.isEmpty then s
  else
    match s.contextAt s.ctx.job s.ctx.parts with
    | none => s.opEnds 2
    | some c =>
      if s.ctx.restoring == some c.job then s.opEnds 9
      else
        let s1 := s.opEnds 0
        let mine (k : GroupKey) : Bool := c.groups.any (fun g => g.id.key == k)
        { s1 with
          ctx := { s1.ctx with
            saved := s1.ctx.saved.filter (fun x => x != c), spanned := c.spanned, kib := 0#24,
            flawed := s1.ctx.flawed.filter (fun k => !mine k) },
          fabric := { s1.fabric with
            bars := s1.fabric.bars.map (fun x => (x.1, { x.2 with who := x.2.who.filter (fun k => !mine k) })) },
          fault := c.groups.foldl (fun f g => f.discard g.id) s1.fault,
          sched := { s1.sched with launches := s1.sched.launches.map (fun l =>
            if c.groups.any (fun g => g.id.grid == l.grid) then { l with killed := true } else l) } })

/-! ## Gang slices (R309, R360) -/

/-- Jobs other than the slice's that have work on the partitions it needs (R360). -/
def State.otherJobs (s : State) (parts : BitVec 16) : List (BitVec 16) :=
  ((s.clusters.filter (fun c => c.parts &&& parts != 0#16 && s.clusterJob c != s.sched.gjob && !(s.clusterGroups c).isEmpty)).map
    s.clusterJob).eraseDups

/-- Partitions of the slice's saved contexts. -/
def State.sliceParts (s : State) : BitVec 16 :=
  (s.ctx.saved.filter (fun c => c.job == s.sched.gjob)).foldl (fun m c => m ||| c.spanned) 0#16

/-- Has pod time reached the start (R309)? -/
def State.sliceDue (s : State) : Bool := decide (s.sched.gstart.toNat ≤ s.time.toNat)

/-- Restore every saved context of a job; contexts without room stay saved. -/
def State.restoreAll (s : State) (job : BitVec 16) : State :=
  (s.ctx.saved.filter (fun c => c.job == job)).foldl (fun t c => (t.restoreContext c).getD t) s

/-- GANG_SLICE_START (R309, R360): the pre-emption of the other jobs, the late mark, and the start, at which the restore begins
and then ends. -/
def execGangSliceStart (s : State) : Out :=
  .next (if !s.sched.arm then s
  else if !s.ctx.stopping.isEmpty then (if s.ctx.gang && s.sched.gstart.toNat < s.time.toNat then s.gangLate else s)
  else if s.ctx.start then s
  else
    let parts := s.sliceParts
    let jobs := s.otherJobs parts
    if !jobs.isEmpty then
      s.beginStop jobs parts (partsOf (s.clusters.filter (fun c => c.parts &&& parts != 0#16))) true
    else if s.sliceDue && !s.frozen then
      if s.ctx.restoring != some s.sched.gjob && s.ctx.saved.any (fun c => c.job == s.sched.gjob) then
        { s with ctx := { s.ctx with restoring := some s.sched.gjob } }
      else
        let s1 := s.restoreAll s.sched.gjob
        { s1 with sched := { s1.sched with arm := false, running := true }, ctx := { s1.ctx with restoring := none } }
    else s)

/-- Is a job resident on the package for R310 (R357)? -/
def State.jobResident (s : State) (job : BitVec 16) : Bool :=
  !s.ctx.saved.any (fun c => c.job == job) || s.clusters.any (fun c => s.clusterJob c == job && !(s.clusterGroups c).isEmpty)

end Sys2Proof.Machine
end

