-- ==== Sys2Proof/Machine/CrossLane.lean ====
section
/-! DEFINITION. Cross-lane instructions of major 10 (R141 to R152) and the predicate and mask instructions of major 11
(R153, R154). -/

namespace Sys2Proof.Machine

/-- A copy of 32 bits from lane `src l` of register a into each active lane `l` that has one (R143, R144). -/
def State.permute (s : State) (d a : BitVec 7) (more : List (BitVec 7)) (preds : List Loc)
    (src : Mask → List RegRef → Nat → Option Nat) : State :=
  s.withRefs (d :: a :: more) (fun rs =>
    let m := s.active
    let va := s.getRef (rs.getD 1 (.reg 0))
    let old := s.getRef (rs.getD 0 (.reg 0))
    let new := mkLanes (fun l => match src m rs l with
      | some j => laneOf va j
      | none => laneOf old l)
    (s.putRef m (rs.getD 0 (.reg 0)) new).done 4 ((rs.drop 1).map Loc.vec ++ preds) [Dest.vec (rs.getD 0 (.reg 0)) old])

/-- VSHFL (R143): an index at or beyond WIDTH leaves the lane unchanged. -/
def execVshfl (d a b : BitVec 7) (s : State) : Out :=
  .next (s.permute d a [b] [] (fun _ rs l =>
    let i := (laneOf (s.getRef (rs.getD 2 (.reg 0))) l).toNat
    if i < 32 then some i else none))

/-- Lanes of a segment (R142). -/
def segLanes (g : BitVec 3) : Nat :=
  match g.toNat with
  | 0 => 2
  | 1 => 4
  | 2 => 8
  | 3 => 16
  | 4 => 16
  | _ => 32

/-- VROTW (R144). -/
def execVrotw (d a : BitVec 7) (g : BitVec 3) (n : BitVec 5) (s : State) : Out :=
  let seg := segLanes g
  .next (s.permute d a [] [] (fun _ _ l => some (l - l % seg + (l % seg + n.toNat) % seg)))

/-- VXORW (R144). -/
def execVxorw (d a : BitVec 7) (m : BitVec 5) (s : State) : Out :=
  .next (s.permute d a [] [] (fun _ _ l => some (l ^^^ m.toNat)))

/-- VBCST of a lane (R144). -/
def execVbcst (d a : BitVec 7) (j : BitVec 5) (s : State) : Out :=
  .next (s.permute d a [] [] (fun _ _ _ => some j.toNat))

/-- Lanes of a mask, ascending. -/
def lanesOf (m : Mask) : List Nat := (List.range 32).filter (fun l => m.getLsbD l)

/-- The lowest-numbered lane of a mask. -/
def lowestLane (m : Mask) : Nat := (lanesOf m).headD 0

/-- VBCST.first (R144). -/
def execVbcstFirst (d a : BitVec 7) (s : State) : Out :=
  .next (s.permute d a [] [] (fun m _ _ => some (lowestLane m)))

/-! ## Reductions and scans (R145 to R148) -/

/-- Registers of an operand of an op code (R145). -/
def redRegs (o : BitVec 4) : Nat := if o = 11#4 then 2 else 1

/-- A value of an op code: 32 bits, or 64 for .i64.add. -/
def redValue (xs : List Word) : DWord := xs.getD 1 0#32 ++ xs.getD 0 0#32

/-- The identity of an op code (R145). -/
def redIdentity (o : BitVec 4) : DWord :=
  match o.toNat with
  | 1 => 0x7F800000#64
  | 2 => 0xFF800000#64
  | 4 => 0x7FFFFFFF#64
  | 5 => 0x80000000#64
  | 6 => 0xFFFFFFFF#64
  | 8 => 0xFFFFFFFF#64
  | _ => 0#64

/-- The operation of an op code on two values (R145). -/
def redOp (env : FEnv) (o : BitVec 4) (x y : DWord) : DWord × Flags :=
  let a := x.extractLsb' 0 32
  let b := y.extractLsb' 0 32
  let fp (r : FOut) : DWord × Flags := (BitVec.ofNat 64 r.1, r.2)
  let i32 (r : Word) : DWord × Flags := (r.zeroExtend 64, 0#8)
  match o.toNat with
  | 0 => fp (fAdd .fp32 env a.toNat b.toNat)
  | 1 => fp (fMin .fp32 env a.toNat b.toNat)
  | 2 => fp (fMax .fp32 env a.toNat b.toNat)
  | 3 => i32 (a + b)
  | 4 => i32 (sMin a b)
  | 5 => i32 (sMax a b)
  | 6 => i32 (nMin a b)
  | 7 => i32 (nMax a b)
  | 8 => i32 (a &&& b)
  | 9 => i32 (a ||| b)
  | 10 => i32 (a ^^^ b)
  | _ => (x + y, 0#8)

/-- An op folded over the values of a nonempty list, or the exact rounded sum for .f32.add (R147, R148). A fold of Min or
Max over one value delivers it as Min(x, x) does: DEDUCED, log 8. -/
def redFold (env : FEnv) (o : BitVec 4) : List DWord → DWord × Flags
  | [] => (redIdentity o, 0#8)
  | x :: xs =>
    if o = 0#4 then
      let r := fSum env ((x :: xs).map (fun v => v.toNat % 2 ^ 32))
      (BitVec.ofNat 64 r.1, r.2)
    else
      let start := if o = 1#4 || o = 2#4 then redOp env o x x else (x, 0#8)
      xs.foldl (fun acc y => let r := redOp env o acc.1 y; (r.1, acc.2 ||| r.2)) start

/-- The destination words of a value of an op code. -/
def redWords (x : DWord) : List Word := [x.extractLsb' 0 32, x.extractLsb' 32 32]

/-- The values of register block a in every lane. -/
def State.redValues (s : State) (rs : List RegRef) (l : Nat) : DWord :=
  redValue (rs.map (fun r => laneOf (s.getRef r) l))

/-- VRSTEP (R146): operands in ascending lane order. -/
def execVrstep (d a : BitVec 7) (o : BitVec 4) (st : BitVec 3) (s : State) : Out :=
  let k := redRegs o
  .next (match s.refs d.toNat k, s.refs a.toNat k with
    | some ds, some as =>
      s.vector (.fixed 8) none as ds [] (fun l _ =>
        let q := l ^^^ 2 ^ st.toNat
        let r := redOp s.fenv o (s.redValues as (min l q)) (s.redValues as (max l q))
        (redWords r.1, r.2)) none
    | _, _ => s.trap0 2 (boundDetail k))

/-- The scalar value of a reduction (R147): .i32 sign-extended, other 32-bit ops zero-extended. -/
def redScalar (o : BitVec 4) (x : DWord) : DWord :=
  match o.toNat with
  | 3 => (x.extractLsb' 0 32).signExtend 64
  | 4 => (x.extractLsb' 0 32).signExtend 64
  | 5 => (x.extractLsb' 0 32).signExtend 64
  | _ => x

/-- VRED (R147, R151). -/
def execVred (e : BitVec 6) (a : BitVec 7) (o : BitVec 4) (s : State) : Out :=
  .next (match s.refs a.toNat (redRegs o) with
    | some as =>
      let ls := lanesOf s.active
      let r := redFold s.fenv o (ls.map (s.redValues as))
      let empty := flagIf (ls.isEmpty && s.cur.frag.exec != 0#32) flagEmpty
      (s.putS e (redScalar o r.1)).finish (.fixed 16) none (as.map Loc.vec) [Dest.scalar e.toNat (s.getS e)] [r.2 ||| empty] none
    | none => s.trap0 2 (boundDetail (redRegs o)))

/-- VSCAN (R148, R151). -/
def execVscan (d a : BitVec 7) (o : BitVec 4) (x : BitVec 1) (s : State) : Out :=
  let k := redRegs o
  .next (match s.refs d.toNat k, s.refs a.toNat k with
    | some ds, some as =>
      if s.active = 0#32 then
        s.finish (.fixed 16) none (as.map Loc.vec) [] [flagIf (s.cur.frag.exec != 0#32) flagEmpty] none
      else
        s.vector (.fixed 16) none as ds [] (fun l _ =>
          let ls := (lanesOf s.active).filter (fun j => j < l || (x = 0#1 && j = l))
          let r := redFold s.fenv o (ls.map (s.redValues as))
          (redWords r.1, r.2)) none
    | _, _ => s.trap0 2 (boundDetail k))

/-- Do two keys match (R149)? -/
def keysMatch (k : BitVec 2) (j l : Nat) (x y : DWord) : Bool :=
  if k = 1#2 then
    let a := (x.extractLsb' 0 32).toNat
    let b := (y.extractLsb' 0 32).toNat
    (a % 2 ^ 31 == 0 && b % 2 ^ 31 == 0) || j == l
      || (!numIsNan (unpack .fp32 a) && !numIsNan (unpack .fp32 b) && a == b)
  else x == y

/-- VMATCH (R149). -/
def execVmatch (d a : BitVec 7) (k : BitVec 2) (s : State) : Out :=
  let n := if k = 2#2 then 2 else 1
  .next (match s.ref d.toNat, s.refs a.toNat n with
    | some dr, some as =>
      let m := s.active
      s.vector (.fixed 6) none as [dr] [] (fun l _ =>
        ([mkMask (fun j => m.getLsbD j && keysMatch k j l (s.redValues as j) (s.redValues as l))], 0#8)) none
    | none, _ => s.trap0 2 0
    | _, none => s.trap0 2 (boundDetail n))

/-- VBALL (R150). -/
def execVball (e : BitVec 6) (p : BitVec 3) (s : State) : Out :=
  .next ((s.putS e ((s.getP p &&& s.active).zeroExtend 64)).done 4 [Loc.pred p.toNat] [Dest.scalar e.toNat (s.getS e)])

/-- VCOMP (R150). -/
def execVcomp (d a : BitVec 7) (p : BitVec 3) (s : State) : Out :=
  .next (s.permute d a [] [Loc.pred p.toNat] (fun m _ l =>
    -- the k-th active lane takes its value from the k-th selected lane
    let k := ((lanesOf m).filter (· < l)).length
    (lanesOf (m &&& s.getP p))[k]?))

/-! ## Predicates and EXEC (R153, R154) -/

/-- A predicate result written in active lanes (R15, R153). -/
def State.predOut (s : State) (d : BitVec 3) (srcs : List Loc) (x : Mask) : Out :=
  .next ((s.putP d ((s.getP d &&& ~~~s.active) ||| (x &&& s.active))).done 1 srcs [Dest.pred d.toNat (s.getP d)])

/-- PAND (R153). -/
def execPand (d a b : BitVec 3) (s : State) : Out :=
  s.predOut d [Loc.pred a.toNat, Loc.pred b.toNat] (s.getP a &&& s.getP b)
/-- POR (R153). -/
def execPor (d a b : BitVec 3) (s : State) : Out :=
  s.predOut d [Loc.pred a.toNat, Loc.pred b.toNat] (s.getP a ||| s.getP b)
/-- PXOR (R153). -/
def execPxor (d a b : BitVec 3) (s : State) : Out :=
  s.predOut d [Loc.pred a.toNat, Loc.pred b.toNat] (s.getP a ^^^ s.getP b)
/-- PNOT (R153). -/
def execPnot (d a : BitVec 3) (s : State) : Out := s.predOut d [Loc.pred a.toNat] (~~~s.getP a)
/-- PMOV (R153). -/
def execPmov (d a : BitVec 3) (s : State) : Out := s.predOut d [Loc.pred a.toNat] (s.getP a)
/-- PSET (R153). -/
def execPset (d : BitVec 3) (n : BitVec 6) (s : State) : Out :=
  s.predOut d [Loc.scalar n.toNat] ((s.getS n).extractLsb' 0 32)
/-- PPOP (R153). -/
def execPpop (e : BitVec 6) (p : BitVec 3) (s : State) : Out :=
  .next ((s.putS e (BitVec.ofNat 64 (onesOf (s.getP p &&& s.active)))).done 1 [Loc.pred p.toNat]
    [Dest.scalar e.toNat (s.getS e)])
/-- EXRD (R153). -/
def execExrd (e : BitVec 6) (s : State) : Out :=
  .next ((s.putS e (s.cur.frag.exec.zeroExtend 64)).done 1 [] [Dest.scalar e.toNat (s.getS e)])
/-- EXWR (R154): a lane excluded by a guard keeps its EXEC bit. -/
def execExwr (p : BitVec 3) (s : State) : Out :=
  .next ((s.setFrag { s.cur.frag with exec := s.cur.frag.exec &&& ~~~(s.active &&& ~~~s.getP p) }).advance)

end Sys2Proof.Machine
end

