-- ==== Sys2Proof/Machine/Links.lean ====
section
/-! DEFINITION. Optical links (R361 to R380, R432): flits, replay, lanes lost, training, lasers. -/

namespace Sys2Proof.Machine

/-! ## Registers and records (R378 to R380) -/

def bit1 (b : Bool) : BitVec 1 := if b then 1#1 else 0#1

/-- LKSTAT (R379). -/
def Link.word (k : Link) : BitVec 64 :=
  k.replays ++ k.crcErr ++ 0#2 ++ k.lost ++ k.subst ++ 0#7 ++ bit1 k.changed ++ 0#4 ++ k.state

/-- Position of a laser in its group (R362); 16 is the spare. -/
def laserPos (n : Nat) : Nat := if n < 204 then n % 17 else (n - 204) % 17

/-- Hours lit, saturating, when the links' clock stands at `ran` (R380). -/
def Laser.hoursAt (l : Laser) (ran : Nat) : BitVec 24 :=
  if l.lit then BitVec.ofNat 24 (min (2 ^ 24 - 1) (l.hours.toNat + (ran - l.since) / 3600000000000)) else l.hours

/-- LASAGE of laser `n` (R380). -/
def Laser.word (l : Laser) (n ran : Nat) : BitVec 64 :=
  l.bias ++ l.hoursAt ran ++ l.linesLost ++ 0#4 ++ bit1 (laserPos n == 16) ++ bit1 l.aged ++ bit1 l.lost ++ bit1 l.lit

/-- Link `k` of the group of laser `n` (R362 to R364). -/
def laserLink (n k : Nat) : Nat := if n < 204 then 16 * (n / 17) + k else 192 + 16 * ((n - 204) / 17) + k

/-- The laser that lights position `p` of the group of link `n`. -/
def linkLaser (n p : Nat) : Nat := if n < 192 then 17 * (n / 16) + p else 204 + 17 * ((n - 192) / 16) + p

def State.physical (s : State) (n : Nat) : Link := sget Link.reset s.link.links n

def State.putLink (s : State) (n : Nat) (k : Link) : State :=
  { s with link := { s.link with links := sput Link.reset s.link.links n k } }

def State.laser (s : State) (n : Nat) : Laser := sget Laser.reset s.link.lasers n

def State.putLaser (s : State) (n : Nat) (l : Laser) : State :=
  { s with link := { s.link with lasers := sput Laser.reset s.link.lasers n l } }

def State.logical (s : State) (n : Nat) : Logical := sget Logical.reset s.link.logical n

def State.putLogical (s : State) (n : Nat) (l : Logical) : State :=
  { s with link := { s.link with logical := sput Logical.reset s.link.logical n l } }

/-- A frame leaves by the management port and waits for its reply (R427). -/
def State.sendFrame (s : State) (op : Nat) (num : BitVec 16) (value : BitVec 64) (block : List Byte) : State :=
  let f : Frame := { op := op, seq := s.mgmt.nextSeq, num := num, value := value, block := block }
  { s with mgmt := { s.mgmt with
      nextSeq := s.mgmt.nextSeq + 1#16, unanswered := s.mgmt.unanswered ++ [f], out := s.mgmt.out ++ [f] } }

/-- An event is signalled to the management port; what its value holds is not stated (R427). -/
def State.mgmtEvent (s : State) : State := s.drawn.sendFrame 3 0#16 s.freeNow []

/-- A link or fabric event (R378, R389, R425). -/
def State.linkEvent (s : State) (detail unit index addr : Nat) (aux : BitVec 64) : State :=
  let s1 := s.accept (s.unitRecord (32 * 26 + detail) unit index addr aux s.fault.job)
  State.mgmtEvent { s1 with msi := s1.msi ++ [2] }

/-- The record of a link (R378). -/
def State.linkRecord (s : State) (detail n : Nat) (limit : Bool) : State :=
  let w := (s.physical n).word
  s.linkEvent detail 7 (n % 4 * 2 ^ 14 + n) n (if detail = 2 then putBit w 63 limit else w)

/-- The record of a laser (R378). -/
def State.laserRecord (s : State) (detail n : Nat) : State :=
  s.linkEvent detail 7 (n % 4 * 2 ^ 14 + 512 + n) n ((s.laser n).word n s.link.ran)

/-! ## Links and the logical links they carry (R364, R365) -/

/-- Phase φ (R382). -/
def State.phase (s : State) : Nat := s.time.toNat / 250

/-- Row and column peers at an offset (R364). -/
def State.rowPeer (s : State) (o : Nat) : Nat := 48 * (s.node.toNat / 48) + (s.node.toNat % 48 + o) % 48
def State.colPeer (s : State) (o : Nat) : Nat := 48 * ((s.node.toNat / 48 + o) % 48) + s.node.toNat % 48

/-- Offset of a physical peer link (R364). -/
def offsetOf (n : Nat) : Nat := 16 * ((n - 192) / 16 % 3) + n % 16

/-- Logical links that a physical link carries (R363, R365). -/
def State.riders (s : State) (n : Nat) : List Nat :=
  if n < 192 then [n]
  else if offsetOf n = 0 then []
  else [4096 + s.rowPeer (offsetOf n), 4096 + s.colPeer (offsetOf n)]

/-- The physical link that a logical link rides in the present phase (R365, R382). -/
def State.rides (s : State) (n : Nat) : Option Nat :=
  if n < 4096 then (if n < 192 then some n else none)
  else
    match peerOffset s.node.toNat (n - 4096) with
    | none => none
    | some o =>
      let row := decide (s.node.toNat / 48 = (n - 4096) / 48)
      if o = 0 then none else some (peerLink (if row == (s.phase % 2 == 0) then 0 else 1) o)

/-- Is a logical link down: no physical link that carries it is up? -/
def State.riderDown (s : State) (n : Nat) : Bool :=
  if n < 4096 then s.linkState n == 0#4 else !s.peerUp (n - 4096)

/-- A logical link discards its unacknowledged flits; it numbers anew when it comes up again (R373). -/
def State.discardRider (s : State) (n : Nat) : State :=
  let s1 := s.putLogical n Logical.reset
  { s1 with fabric := { s1.fabric with waiting := s1.fabric.waiting.filter (fun w => w.1 != n) } }

/-- A link goes down (R373, R378, R389). -/
def State.linkDown (s : State) (n : Nat) (limit quiet : Bool) : State :=
  let k := s.physical n
  let up := (s.riders n).filter (fun r => !s.riderDown r)
  let s1 := s.putLink n { k with state := 0#4, subst := 31#5, changed := true, toSpare := false, quiet := false }
  let s2 := if quiet then s1 else s1.linkRecord 2 n limit
  (up.filter s2.riderDown).foldl (fun t r =>
    let t1 := t.discardRider r
    if r < 4096 then t1 else t1.linkEvent 20 5 0 (r - 4096) (t1.physical n).word) s2

/-! ## Replay (R369, R432) -/

def sat12 (x : BitVec 12) : BitVec 12 := if x = 0xFFF#12 then x else x + 1#12

/-- What the link layer sends beside packets goes on record. -/
def State.linkSays (s : State) (o : LinkOut) : State := { s with link := { s.link with control := s.link.control ++ [o] } }

/-- A replay from number `seq` on starts on a logical link that rides link `n`; after eight without an advance of the ack the
link goes down. -/
def State.startReplay (s : State) (r n : Nat) (seq : BitVec 12) : State :=
  let l := s.logical r
  if l.unacked.isEmpty then s
  else if 8 ≤ l.stalled then (s.putLogical r { l with stalled := 0 }).linkDown n true false
  else
    let k := s.physical n
    let s1 := s.putLogical r { l with stalled := l.stalled + 1, since := s.linkClock r }
    (s1.putLink n { k with replays := sat12 k.replays }).linkSays (.replay r seq)

/-- A replay from the oldest unacknowledged flit (R369, R371). -/
def State.replayOldest (s : State) (r n : Nat) : State := s.startReplay r n (((s.logical r).unacked.head?.map (·.1)).getD 0#12)

/-- The number of a logical link. -/
def logicalOf : LinkId → Nat
  | .memory n => n
  | .peer p => 4096 + p.toNat

/-- Have unacknowledged flits waited 2 µs for an advance of the ack (R369)? -/
def State.replayDue (s : State) (r : Nat) : Bool :=
  !(s.logical r).unacked.isEmpty && decide ((s.logical r).since + 2000 ≤ s.linkClock r)

/-- REPLAY_TIMEOUT (R369): the ack has not advanced for 2 µs. -/
def execReplayTimeout (l : LinkId) (s : State) : Out :=
  .next (match s.rides (logicalOf l) with
  | some n => if s.linkState n = 0#4 || !s.replayDue (logicalOf l) then s else s.replayOldest (logicalOf l) n
  | none => s)

/-! ## Flits (R366, R368) -/

/-- One bit of the CRC register. -/
def crcBit (c : BitVec 32) : BitVec 32 := if c.getLsbD 0 then (c >>> 1) ^^^ 0x82F63B78#32 else c >>> 1

/-- One byte of the CRC register. -/
def crcByte (c : BitVec 32) (b : Byte) : BitVec 32 :=
  crcBit (crcBit (crcBit (crcBit (crcBit (crcBit (crcBit (crcBit (c ^^^ b.zeroExtend 32))))))))

/-- CRC-32C (R366). -/
def crc32c (bs : List Byte) : BitVec 32 := ~~~ (bs.foldl crcByte 0xFFFFFFFF#32)

/-- Bytes `a` to `a + n - 1` of a flit. -/
def flitBytes (f : BitVec 1024) (a n : Nat) : List Byte := (List.range n).map (fun i => f.extractLsb' (8 * (a + i)) 8)

/-- A field of the header (R366). -/
def hdr (f : BitVec 1024) (lo w : Nat) : BitVec w := f.extractLsb' lo w

/-- Does the CRC of a flit pass (R366)? -/
def flitSound (f : BitVec 1024) : Bool := crc32c (flitBytes f 0 124) == f.extractLsb' 992 32

/-- Are the kind and the other values of a flit known ones (R366, R368, R385)? -/
def flitKnown (f : BitVec 1024) : Bool :=
  let kind := (hdr f 92 4).toNat
  if kind = 0 then true
  else if kind = 4 then hdr f 96 8 == 0#8
  else decide (kind < 4) && decide ((hdr f 7 7).toNat ≤ 112) && decide ((hdr f 0 6).toNat ≤ 22)

/-- An ack at `now` covers the flits up to the one it names (R368). -/
def Logical.acked (l : Logical) (now : Nat) (ack : BitVec 12) : Logical :=
  match l.unacked.findIdx? (fun u => u.1 == ack) with
  | none => l
  | some i => { l with unacked := l.unacked.drop (i + 1), stalled := 0, since := now }

/-- Header fields that the flits of one packet share (R366). -/
def sameFlit (a b : BitVec 1024) : Bool := hdr a 14 50 == hdr b 14 50 && hdr a 0 6 == hdr b 0 6

/-- The packet whose flits these are (R366). -/
def flitPacket (f : BitVec 1024) (fs : List (BitVec 1024)) : Packet :=
  { Config.packetBody (fs.flatMap (fun x => flitBytes x 12 (hdr x 7 7).toNat)) with
    op := hdr f 0 6, src := hdr f 52 12, dst := hdr f 40 12, srcMod := hdr f 39 1 == 1#1, dstMod := hdr f 38 1 == 1#1,
    attempt := hdr f 36 2, tag := hdr f 14 22 }

/-- What the arrival of a packet sets off (R383, R385, R242). -/
def deliveryOf (node : BitVec 12) (pk : Packet) : Event :=
  let x := pk.args.headD 0
  match pk.op.toNat with
  | 20 => .podBarrierState pk
  | 21 => .timePacket pk.src (BitVec.ofNat 64 x)
  | 22 => .claimReceive (BitVec.ofNat 4 x) pk.src
  | _ =>
    if pk.dstMod || pk.dst != node then .relayForward pk
    else if pk.op = 7#6 && pk.status = 3 then .holdNotice pk.tag
    else arrivalOf pk

/-- Is the op that of an answer (R385)? -/
def isAnswer (op : Nat) : Bool := [5, 6, 7, 8, 10, 12, 16, 19].contains op

/-- Is the flit part of an answer to the transaction (R374, R377)? -/
def State.answers (s : State) (f : BitVec 1024) (t : Txn) : Bool :=
  isAnswer (hdr f 0 6).toNat && hdr f 40 12 == s.node && hdr f 38 1 == 0#1 && hdr f 14 22 == t.pk.tag

/-- Is the flit of another attempt than the one whose answer is being taken (R377)? -/
def State.otherAttempt (s : State) (f : BitVec 1024) : Bool :=
  s.fabric.txns.any (fun t => s.answers f t && t.locked.any (· != hdr f 36 2))

/-- The first flit of an answer locks its attempt (R377). -/
def State.lockAttempt (s : State) (f : BitVec 1024) : State :=
  { s with fabric := { s.fabric with txns := s.fabric.txns.map (fun t =>
      if s.answers f t && t.locked.isNone then { t with locked := some (hdr f 36 2) } else t) } }

/-- A flit accepted is delivered: the last flit of a packet completes it (R366, R368). -/
def State.deliverFlit (s : State) (r : Nat) (f : BitVec 1024) : State :=
  let l := s.logical r
  if hdr f 6 1 = 0#1 then s.putLogical r { l with parts := l.parts ++ [f] }
  else
    let fs := l.parts.filter (sameFlit f) ++ [f]
    let s1 := s.putLogical r { l with parts := l.parts.filter (fun x => !sameFlit f x) }
    { s1 with agenda := s1.agenda ++ [deliveryOf s1.node (flitPacket f fs)] }

/-- A flit is discarded, and a NAK of the expected number is sent, once per number (R368). -/
def State.discardFlit (s : State) (r : Nat) : State :=
  let l := s.logical r
  let s1 := s.putLogical r { l with nakSent := true }
  if l.nakSent then s1 else s1.linkSays (.nak r l.expect)

/-- A good flit: its ack, then what it is (R368, R369). -/
def State.goodFlit (s : State) (r n : Nat) (f : BitVec 1024) : State :=
  let s1 := s.putLogical r ((s.logical r).acked (s.linkClock r) (hdr f 68 12))
  let l := s1.logical r
  match (hdr f 92 4).toNat with
  | 0 => s1
  | 4 => if l.unacked.any (fun u => u.1 == hdr f 112 12) then s1.startReplay r n (hdr f 112 12) else s1
  | _ =>
    if hdr f 80 12 = l.expect then
      let s2 := s1.putLogical r { l with expect := l.expect + 1#12, nakSent := false }
      if s2.otherAttempt f then s2 else (s2.lockAttempt f).deliverFlit r f
    else s1.discardFlit r

/-- FLIT_RECEIVE (R366, R368, R369, R432). -/
def execFlitReceive (l : LinkId) (flit : BitVec 1024) (s : State) : Out :=
  let r := logicalOf l
  .next (match s.rides r with
  | none => s
  | some n =>
    if s.linkState n = 0#4 then s
    else if !flitSound flit then
      let k := s.physical n
      (s.putLink n { k with crcErr := sat12 k.crcErr }).discardFlit r
    else if !flitKnown flit then s.discardFlit r
    else s.goodFlit r n flit)

/-! ## Lanes lost and retraining (R370 to R373) -/

/-- Positions of a link that are healthy, the spare counted (R371). -/
def healthyLanes (lost : BitVec 17) : Nat := ((List.range 17).filter (fun i => !lost.getLsbD i)).length

/-- Are the sixteen working positions healthy? -/
def workingHealthy (lost : BitVec 17) : Bool := lost.extractLsb' 0 16 == 0#16

/-- The lane map of a link (R367): the position of each logical lane; a narrow link has the eight lowest healthy ones. -/
def Link.laneMap (k : Link) : List Nat :=
  if k.state = 4#4 then ((List.range 17).filter (fun i => !k.lost.getLsbD i)).take 8
  else (List.range 16).map (fun i => if i = k.subst.toNat then 16 else i)

/-- Is the spare in use: it replaces a position, or a narrow link's lane map names it (R367)? -/
def Link.spareUsed (k : Link) : Bool := k.subst != 31#5 || k.laneMap.contains 16

/-- A lane of a link is lost (R370, R371); `quiet` for the loss of a laser (R378). -/
def State.loseLane (s : State) (n p : Nat) (quiet : Bool) : State :=
  let k := s.physical n
  if k.lost.getLsbD p then s
  else
    let lost := putBit k.lost p true
    let k1 := { k with lost := lost, changed := true, quiet := quiet && (k.state != 5#4 || k.quiet) }
    if k.state = 0#4 || k.state = 1#4 then s.putLink n { k1 with quiet := false }
    else if healthyLanes lost < 8 then (s.putLink n k1).linkDown n false quiet
    else if p = 16 && !k.spareUsed && k.state != 5#4 then
      let s1 := s.putLink n { k1 with quiet := false }
      if quiet then s1 else s1.linkRecord 3 n false
    else if workingHealthy k.lost && !k.lost.getLsbD 16 then
      s.putLink n { k1 with state := 5#4, toSpare := true, subst := BitVec.ofNat 5 p }
    else s.putLink n { k1 with state := 5#4, toSpare := false, subst := 31#5 }

/-- LANE_LOST (R370 to R373): `line`: the line monitor found the comb line of the laser below threshold. -/
def execLaneLost (n : Nat) (pos : BitVec 5) (line : Bool) (s : State) : Out :=
  let i := linkLaser n pos.toNat
  let l := s.laser i
  let s1 := if line then s.putLaser i { l with linesLost := putBit l.linesLost (n % 16) true } else s
  .next (if 288 ≤ n || 16 < pos.toNat then s else s1.loseLane n pos.toNat false)

/-- LASER_LOST (R362, R370, R378): one lane of each of the sixteen links of the group. -/
def execLaserLost (n : Nat) (s : State) : Out :=
  let l := s.laser n
  .next (if 306 ≤ n || l.lost then s
  else
    let s1 := (s.putLaser n { l with lost := true, lit := false, linesLost := 0xFFFF#16, hours := l.hoursAt s.link.ran }).laserRecord 4 n
    (List.range 16).foldl (fun t k => t.loseLane (laserLink n k) (laserPos n) true) s1)

/-- RETRAINING_END (R371, R373): the link carries traffic again, and replay from the oldest unacknowledged flit starts. -/
def execRetrainingEnd (n : Nat) (s : State) : Out :=
  let k := s.physical n
  .next (if k.state != 5#4 then s
  else
    let s1 := s.putLink n { k with state := if k.toSpare then 3#4 else 4#4, changed := true, toSpare := false, quiet := false }
    let s2 := (s1.riders n).foldl (fun t r => t.replayOldest r n) s1
    if k.quiet then s2 else s2.linkRecord (if k.toSpare then 0 else 1) n false)

/-! ## Training (R370, R373) -/

/-- LINK_TRAINING (R373): the lasers of the group are lit (R380). -/
def execLinkTraining (n : Nat) (s : State) : Out :=
  let k := s.physical n
  .next (if 288 ≤ n || k.state != 0#4 then s
  else
    let s1 := s.putLink n { k with state := 1#4, changed := true, began := s.time.toNat }
    (List.range 17).foldl (fun t p =>
      let i := linkLaser n p
      let l := t.laser i
      if l.lost || l.lit then t else t.putLaser i { l with lit := true, since := t.link.ran }) s1)

/-- TRAINING_END (R370, R373): every lane found dark is lost. -/
def execTrainingEnd (n : Nat) (dark : BitVec 17) (s : State) : Out :=
  let k := s.physical n
  let lost := k.lost ||| dark
  let k1 := { k with lost := lost, changed := true, subst := 31#5 }
  let gone := (List.range 16).filter (fun i => lost.getLsbD i)
  .next (if k.state != 1#4 then s
  else if workingHealthy lost then s.putLink n { k1 with state := 2#4 }
  else if gone.length = 1 && !lost.getLsbD 16 then
    s.putLink n { k1 with state := 3#4, subst := BitVec.ofNat 5 (gone.headD 0) }
  else if 8 ≤ healthyLanes lost then s.putLink n { k1 with state := 4#4 }
  else (s.putLink n k1).linkDown n false false)

/-- Has a link trained for 100 µs (R373)? -/
def Link.overdue (k : Link) (now : Nat) : Bool := k.state == 1#4 && decide (k.began + 100000 ≤ now)

/-- TRAINING_TIMEOUT (R373): no training within 100 µs. -/
def execTrainingTimeout (n : Nat) (s : State) : Out :=
  .next (if (s.physical n).overdue s.time.toNat then s.linkDown n false false else s)

/-! ## Lasers (R380) -/

/-- LASER_AGEING (R380): the laser's bias ratio becomes `ratio`. -/
def execLaserAgeing (n : Nat) (ratio : BitVec 16) (s : State) : Out :=
  let l := s.laser n
  .next (if 306 ≤ n then s
  else if ratio.toNat < 0x180 then s.putLaser n { l with bias := ratio, below := l.below || !l.aged }
  else if l.below && !l.aged then (s.putLaser n { l with bias := ratio, aged := true, below := false }).laserRecord 5 n
  else s.putLaser n { l with bias := ratio })

/-- A write of 1 to LASAGE.aged clears it (R380). -/
def Laser.clearAged (l : Laser) : Laser := { l with aged := false, below := decide (l.bias.toNat < 0x180) }

/-! ## Lit intervals (R364, R385) -/

/-- The end-to-end timer of a request that has waited for the lit interval starts as its first copy leaves (R375). -/
def State.startTimer (s : State) (pk : Packet) : State :=
  { s with fabric := { s.fabric with txns := s.fabric.txns.map (fun t =>
      if t.pk == pk && t.refused.isNone then { t with started := s.time.toNat } else t) } }

/-- LIT_INTERVAL_START (R364): the packets of ops 20 to 22 are carried first. -/
def execLitIntervalStart (s : State) : Out :=
  let f := s.fabric
  let s1 := { s with link := { s.link with lit := true }, fabric := { f with urgent := [], waiting := [] } }
  let s2 := f.urgent.foldl State.send s1
  .next (f.waiting.foldl (fun t w => if t.riderDown w.1 then t else (t.startTimer w.2).handOver w.1 w.2) s2)

end Sys2Proof.Machine
end

