-- ==== Sys2Proof/Machine/Fabric.lean ====
section
/-! DEFINITION. The pod fabric as requester, target and relay (R310, R374 to R389, R418 to R420). -/

namespace Sys2Proof.Machine

/-! ## The requester (R310, R374, R375, R377, R388) -/

/-- Has a request an effect at its target (R376)? -/
def hasEffect (op : BitVec 6) : Bool := op != 0#6 && op != 11#6

/-- Replace a transaction. -/
def State.putTxn (s : State) (t : Txn) : State :=
  { s with fabric := { s.fabric with txns := s.fabric.txns.map (fun u => if u.pk.tag == t.pk.tag then t else u) } }

def State.txn (s : State) (tag : BitVec 22) : Option Txn := s.fabric.txns.find? (fun t => t.pk.tag == tag)

/-- Commands of the fabric words that have sent their requests and wait for no answer are complete (R394, R396, R397). -/
def State.reapFabric (s : State) : State :=
  (s.cmds.filter (fun c => (c.kind == .signal || c.kind == .mcst || c.kind == .fflag) && c.cur.isSome && c.waiting == 0)).foldl
    (fun t c => t.cmdDone c (c.kind == .mcst)) s

/-- The node at which a packet's route ends: the relay of R241 for a module outside the cell. -/
def State.routeEnd (s : State) (pk : Packet) : Nat :=
  if pk.dstMod then 16 * (pk.dst.toNat / 16) + s.node.toNat % 16 else pk.dst.toNat

/-- A relay-onward-loss record (R389). -/
def State.onwardRecord (s : State) (t : Txn) (relay : Nat) : State :=
  s.linkEvent 16 5 0 relay (BitVec.ofNat 64 (t.pk.dst.toNat + (if t.pk.dstMod then 2 ^ 63 else 0)))

/-- The fault with which a transaction ends (R375, R388): reason 0 a peer timeout, 1 a relay onward loss. -/
def State.txnFault (s : State) (t : Txn) (reason relay : Nat) (unknown : Bool) : State :=
  let s1 := if reason = 1 then s.onwardRecord t relay else s
  (s1.failTxn t reason unknown).reapFabric

/-- A transaction that its request cannot complete: a read faults, an effect is cancelled first (R388). -/
def State.endTxn (s : State) (t : Txn) (reason relay : Nat) : State :=
  if hasEffect t.pk.op then
    let s1 := s.putTxn { t with cancel := some (reason, relay, s.time.toNat), busy := false, held := none, locked := none }
    s1.send { s1.packet 9 t.pk.dst.toNat t.pk.job with
      tag := t.pk.tag, dstMod := t.pk.dstMod, addr := t.pk.addr, attempt := t.pk.attempt }
  else s.txnFault t reason relay false

/-- Send the request of a transaction again, or fault at once when no route can be used (R383); no attempt is locked (R377). -/
def State.resend (s : State) (t : Txn) : State :=
  match (s.putTxn { t with locked := none }).transmit t.pk with
  | some s1 => s1
  | none => (s.failTxn t 0 false).reapFabric

/-- E2E_TIMER_EXPIRY (R375): 24 µs without a complete response. -/
def execE2eTimerExpiry (tag : BitVec 22) (s : State) : Out :=
  .next (match s.txn tag with
  | none => s
  | some t =>
    if t.cancel.isSome || t.held.isSome || t.busy || decide (s.time.toNat < t.started + 24000) then s
    else if t.pk.attempt = 3#2 then s.endTxn t 0 0
    else s.resend { t with pk := { t.pk with attempt := t.pk.attempt + 1#2 }, started := s.time.toNat })

/-- CANCEL_TIMEOUT (R388, R313): the outcome is unknown. -/
def execCancelTimeout (tag : BitVec 22) (s : State) : Out :=
  .next (match s.txn tag with
  | none => s
  | some t =>
    match t.cancel with
    | none => s
    | some (reason, relay, at_) => if s.time.toNat < at_ + 24000 then s else s.txnFault t reason relay true)

/-- NOT_RESIDENT_RETRY (R310): every 1 µs; 128 µs after the first refusal the access faults. -/
def execNotResidentRetry (tag : BitVec 22) (s : State) : Out :=
  .next (match s.txn tag with
  | none => s
  | some t =>
    match t.refused, t.held with
    | some first, some at_ =>
      if s.time.toNat < at_ + 1000 then s
      else if first + 128000 ≤ s.time.toNat then (s.failTxn t 2 false).reapFabric
      else s.resend { t with held := none, started := t.started + (s.time.toNat - at_) }
    | _, _ => s)

/-- HOLD_NOTICE (R242, R375): the timer restarts without a new attempt. -/
def execHoldNotice (tag : BitVec 22) (s : State) : Out :=
  .next (match s.txn tag with
  | none => s
  | some t => s.putTxn { t with started := s.time.toNat })

/-- SIGNAL_BUSY_RETRY (R394). -/
def execSignalBusyRetry (tag : BitVec 22) (s : State) : Out :=
  .next (match s.txn tag with
  | none => s
  | some t => if t.busy then s.resend { t with busy := false } else s)

/-- What an answered lane access means to the L1 of its core (R173, R184): a load brings its bytes in, a store replaces the
bytes held, an atomic invalidates the line; answers that are older bring nothing any more. -/
def Mem.answered (m : Mem) (p : PeerAccess) (req : Packet) (vals : List LaneOp) : Mem :=
  let node := req.dst.toNat
  let line := (req.ops.headD LaneOp.none).addr / 128
  if p.acc = accLoad then
    match m.fills.find? (fun f => f.word == p.word.id && f.node == node && f.line == line) with
    | none => m
    | some f => vals.foldl (fun m o => m.peerPut f.allocates p.core node o.addr (leBytes o.size o.data.toNat)) m
  else if p.acc = accStore then
    vals.foldl (fun m o => m.peerPut false p.core node o.addr (leBytes o.size o.data.toNat)) (m.noFill p.core node line)
  else m.peerDrop p.core node line

/-- The answer of a lane access (R106, R187): the values of the lanes of the request, zero-extended, reach the registers; lanes
of `bad` have failed. -/
def State.lanesAnswered (s : State) (id : Nat) (req resp : Packet) (bad : List (Nat × Nat)) : State :=
  match s.fabric.peers.find? (fun p => p.word.id == id) with
  | none => s
  | some p =>
    let good (l : Nat) : Bool := p.open_.getLsbD l && !bad.any (fun b => b.1 == l)
    let got := req.ops.filterMap (fun o =>
      if good o.lane then (resp.ops.find? (fun x => x.lane == o.lane)).map (fun x =>
        { o with data := if p.acc = accStore then o.data else BitVec.ofNat 128 (x.data.toNat % 2 ^ (8 * o.size)) })
      else none)
    let s1 := { s with mem := s.mem.answered p req got }
    let vals := got.map (fun o => (o.lane, o.data))
    let s2 := if p.acc = accStore then s1 else s1.onKey p.owner (fun u => u.putTarget p.target vals)
    s2.peersAnswered id req bad false

/-- Sum of the operands of the first `k` members of a combined set (R387). -/
def sumOps (ms : List Packet) (n : Nat) : Nat :=
  (ms.foldl (fun a m => a + ((m.ops.headD LaneOp.none).data).toNat) 0) % 2 ^ (8 * n)

/-- The relay answers the members of a combined request from the old value `m` (R387 step 3). -/
def State.splitAnswers (s : State) (c : Combine) (m : Nat) : State :=
  c.members.zipIdx.foldl (fun t x =>
    let o := x.1.ops.headD LaneOp.none
    let v := (m + sumOps (c.members.take x.2) o.size) % 2 ^ (8 * o.size)
    t.answer x.1 { t.reply 6 x.1 with ops := [{ o with data := BitVec.ofNat 128 v }] }) s

/-- An answer reaches what the relay has sent for others (R387, R397); a request that failed at the home fails every member's. -/
def State.relayAnswered (s : State) (id : Nat) (pk : Packet) : State :=
  match s.fabric.combines.find? (fun c => c.id == id) with
  | none => s
  | some c =>
    if (c.members.headD default).op = 18#6 then s.copyAnswered c pk.status
    else if pk.status = 1 || pk.status = 2 then
      c.members.foldl (fun t x => t.answer x { t.reply 6 x with status := pk.status }) (s.dropCombine id)
    else (s.dropCombine id).splitAnswers c (pk.ops.headD LaneOp.none).data.toNat

/-- Causes of the operations of a packet that have failed at the home (R179): the answer names each by its place and its
status, 1 a permission failure, 2 an uncorrectable word; an answer of such a status that names none means all of them. -/
def badOps (req resp : Packet) : List (Nat × Nat) :=
  let cause (st : Nat) : Nat := 32 * (if st = 1 then 10 else 12) + 8 + accessOf req.op
  if resp.status != 1 && resp.status != 2 then []
  else if resp.args.isEmpty then (List.range req.ops.length).map (fun i => (i, cause resp.status))
  else resp.args.map (fun x => (x / 4, cause (x % 4)))

/-- A complete answer to a transaction (R374, R377). -/
def State.complete (s : State) (t : Txn) (pk : Packet) : State :=
  let bad := badOps t.pk pk
  let detail := statusDetail pk.status
  match t.owner with
  | .lanes id =>
    (s.dropTxn t.pk.tag).lanesAnswered id t.pk pk (bad.map (fun b => ((t.pk.ops[b.1]?.getD LaneOp.none).lane, b.2)))
  | .weak .. => if bad.isEmpty then s.dropTxn t.pk.tag else s.failOps t bad detail false
  | .cmd id =>
    if pk.status ≠ 0 then s.failOps t bad detail false
    else s.cmdAnswered id t.pk (pk.ops.map (fun o => (o.lane, datumBytes o.data o.size)))
  | .box .. => if pk.status = 1 || pk.status = 2 then s.failOps t bad detail false else s.dropTxn t.pk.tag
  | .relay id => (s.dropTxn t.pk.tag).relayAnswered id pk

/-- The home refuses what the relay has sent as not resident (R310): a combined request is refused to its members, who send it
again; a copy of a multicast packet waits for the relay's own retry. -/
def State.relayRefused (s : State) (t : Txn) (id : Nat) : State :=
  match s.fabric.combines.find? (fun c => c.id == id) with
  | none => s.dropTxn t.pk.tag
  | some c =>
    if (c.members.headD default).op = 18#6 then
      s.putTxn { t with refused := some (t.refused.getD s.time.toNat), held := some s.time.toNat }
    else
      c.members.foldl (fun u x => u.send { u.reply 7 x with status := 0 }) ((s.dropTxn t.pk.tag).dropCombine id)

/-- A refusal or a notice (R310, R394, R419). -/
def State.refusedBy (s : State) (t : Txn) (why : Nat) : State :=
  match why, t.owner with
  | 0, .relay id => s.relayRefused t id
  | 0, _ => s.putTxn { t with refused := some (t.refused.getD s.time.toNat), held := some s.time.toNat }
  | 1, _ => s.putTxn { t with busy := true, started := s.time.toNat }
  | 2, _ => (s.sawIntegrity.failTxn t 3 false).reapFabric
  | _, _ => s.putTxn { t with started := s.time.toNat }

/-- A relay reports onward loss: the route to the destination is marked (R388). -/
def State.onwardLost (s : State) (t : Txn) (relay : Nat) : State :=
  let d := s.routeEnd t.pk
  let bit := if relay = s.rowRelay d then 0 else 1
  let m := sget 0 s.fabric.lost d
  let s1 := { s with fabric := { s.fabric with
      lost := sput 0 s.fabric.lost d (if m.testBit bit then m else m + 2 ^ bit),
      lostAt := sput 0 s.fabric.lostAt (2 * d + bit) s.time.toNat } }
  if t.cancel.isSome then s1 else s1.endTxn t 1 relay

/-- An answer that the requester takes (R377, R388, R394, R419). -/
def State.taken (s : State) (t : Txn) (pk : Packet) : State :=
  match pk.op.toNat with
  | 7 => s.refusedBy t pk.status
  -- a relay's report is about a request, not about an answer of this package under the same tag
  | 8 => if isAnswer (pk.args.getD 1 0) then s else s.onwardLost t (pk.args.headD pk.src.toNat)
  | 10 =>
    match t.cancel with
    | some (reason, relay, _) => if pk.status = 1 then s.txnFault t reason relay false else s
    | none => s
  | _ => (s.complete t pk).reapFabric

/-- RESPONSE_RECEIVE (R377, R388, R394, R419): of a locked transaction only the locked attempt is taken. A packet of op 12 from the package's own engines moves a chunk of the command
that it names. -/
def execResponseReceive (pk : Packet) (s : State) : Out :=
  .next (if pk.op = 12#6 && !pk.srcMod then s.moveChunk (pk.args.headD 0)
  else
    match s.txn pk.tag with
    | none => s
    | some t =>
      if (!pk.srcMod && pk.src != s.node && !pk.authentic && pk.op != 7#6 && pk.op != 8#6)
          || t.locked.any (· != pk.attempt) then s
      else s.taken t pk)

/-- ROUTE_MARK_LAPSE (R388): 100 µs after the mark was set. -/
def execRouteMarkLapse (dst : BitVec 12) (col : Bool) (s : State) : Out :=
  let m := sget 0 s.fabric.lost dst.toNat
  let bit := if col then 1 else 0
  .next (if s.time.toNat < sget 0 s.fabric.lostAt (2 * dst.toNat + bit) + 100000 then s
  else
    { s with fabric := { s.fabric with
        lost := sput 0 s.fabric.lost dst.toNat (if m.testBit bit then m - 2 ^ bit else m),
        lostAt := sdel s.fabric.lostAt (2 * dst.toNat + bit) } })

/-- COALESCE_HOLD_EXPIRY (R386). -/
def execCoalesceHoldExpiry (id : Nat) (s : State) : Out :=
  .next (match s.fabric.held.find? (fun h => h.id == id) with
  | some h => s.sendHeld h
  | none => s)

/-- Have 64 µs passed since a module was first asked by a command (R413)? Each attempt after the first began 24 µs or more after
the one before it (R375). -/
def State.mergeOverdue (s : State) (id : Nat) : Bool :=
  s.fabric.txns.any (fun t => t.owner == .cmd id && t.pk.dstMod
    && decide (t.started + 64000 ≤ s.time.toNat + 24000 * t.pk.attempt.toNat))

/-- MERGE_HOLD_LAPSE (R413): the late write of a part of a far line is refused. -/
def execMergeHoldLapse (id : Nat) (s : State) : Out :=
  .next (match s.cmds.find? (fun c => c.id == id) with
  | none => s
  | some c =>
    match c.cur with
    | none => s
    | some k =>
      if !s.mergeOverdue id || c.kind != .tcommit && c.kind != .tredf && c.kind != .tcopy && c.kind != .tfill then s
      else
        let es := (c.elems c.dst k).filter (·.inb)
        let as := es.map (·.addr)
        let part := es.filterMap (fun e =>
          match (s.elemLeaf e.addr c.dst.esize true).2 with
          | .ok (l, _) => if l.kind = 3 && !covered as c.dst.esize 256 e.addr then some (e, l.unit) else none
          | .error _ => none)
        match part with
        | [] => s
        | (e, m) :: _ =>
          let s1 := { s with fabric := { s.fabric with
              txns := s.fabric.txns.filter (fun t => t.owner != TxnOwner.cmd id) } }
          s1.onCmd id (fun x =>
            { (x.failed 11 (cmdIndex x.kind x.core m) (addrOf e.addr)) with cur := none, waiting := 0, chunks := [] }))

/-! ## The target (R310, R328, R357, R376, R386, R419) -/

/-- Is the pair key of the job with a node held (R418, R419)? Inside the package none is needed. -/
def State.trusts (s : State) (pk : Packet) : Bool :=
  pk.src == s.node || (pk.authentic && (s.keySlot pk.job).any (fun k => k.pairs.contains pk.src))

/-- Job-space ranges of the watched pages that hold physical bytes `pa` to `pa + n - 1` (R328). -/
def State.jobRanges (s : State) (job : BitVec 16) (pa n : Nat) : List (Nat × Nat) :=
  ((s.liveGroups ++ s.ctx.saved.flatMap (·.groups)).filter (fun g => g.id.job == job)).flatMap (fun g =>
    (List.range 4).flatMap (fun i =>
      match sget none g.watch i with
      | none => []
      | some w =>
        if !w.async || w.space != 2 then []
        else
          (List.range (max 1 (2 ^ w.lg / 4096))).filterMap (fun j =>
            let va := w.addr / 4096 * 4096 + 4096 * j
            match walk s.mem s.ctxArea va 0 with
            | .ok l =>
              let pp := leafPhys l va
              if l.kind = 1 && decide (pa < pp + 4096) && decide (pp < pa + n) then
                some (va + (max pa pp - pp), min (pa + n) (pp + 4096) - max pa pp)
              else none
            | .error _ => none)))

/-- Source number of a peer's write: the packet names its node only (R318). -/
def peerSource (pk : Packet) : BitVec 32 := pk.src ++ 5#4 ++ 0#16

/-- Watch events of a peer's write of local memory (R328). -/
def State.peerWrote (s : State) (pk : Packet) (atomic : Bool) (ranges : List (Nat × Nat)) : State :=
  s.watchEvents none (peerSource pk) 0 atomic pk.job
    { tile := [], job := ranges.flatMap (fun r => s.jobRanges pk.job r.1 r.2) }

/-- One operation at the home (R189 to R191, R386): the new value of a datum, none when nothing is stored. -/
def homeNew (op aop : Nat) (o : LaneOp) (m : BitVec 128) : Option (BitVec 128) :=
  match op with
  | 0 => none
  | 3 => some (atomicNew aop (8 * o.size) m o.data)
  | 4 => if m = o.cmp then some o.data else none
  | _ => some o.data

/-- Why an operation on local memory fails (R172, R345): 1 the context area, 2 an uncorrectable word. -/
def State.homeFault (s : State) (op pa n : Nat) : Option Nat :=
  if inArea s.ctxArea pa n then some 1
  else if readsWord (if op = 0 then accLoad else if op = 3 then accAtom else if op = 4 then accCas else accStore) n 8
      && pkgPoisoned s.mem pa n then some 2
  else none

/-- What the operations of a packet have done at the home: the state, the old values, the bytes written, the worst status and
the failed operations, by place × 4 + status. -/
structure Performed where
  st : State
  out : List LaneOp
  wrote : List (Nat × Nat)
  status : Nat
  failed : List Nat

/-- The operations of a request in ascending lane order (R386). -/
def State.performOps (s : State) (pk : Packet) : Performed :=
  pk.ops.zipIdx.foldl (fun r x =>
    let o := x.1
    match r.st.homeFault pk.op.toNat o.addr o.size with
    | some f => { r with status := max r.status f, failed := r.failed ++ [4 * x.2 + f] }
    | none =>
      let m := datum (readBytes r.st.mem.pkg o.addr o.size)
      let out := r.out ++ [{ o with data := m }]
      match homeNew pk.op.toNat pk.aop.toNat o m with
      | some v =>
        { r with st := { r.st with mem := r.st.mem.storeHome o.addr (datumBytes v o.size) }, out := out,
                 wrote := r.wrote ++ [(o.addr, o.size)] }
      | none => { r with out := out }) { st := s, out := [], wrote := [], status := 0, failed := [] }

/-- The target performs a request and answers (R376). -/
def State.perform (s : State) (pk : Packet) : State :=
  let r := s.performOps pk
  let s1 := if r.wrote.isEmpty then r.st else r.st.peerWrote pk (pk.op == 3#6 || pk.op == 4#6) r.wrote
  let resp := { s1.reply (if pk.op = 0#6 then 5 else 6) pk with ops := r.out, status := r.status, args := r.failed }
  s1.answer pk resp

/-- A copy of a request that the target has a record of (R376): none when it has none, and for a read that has been answered,
which is read again. -/
def State.copyOf (s : State) (pk : Packet) : Option State :=
  (s.fabric.targets.find? (fun r => r.src == pk.src.toNat && r.tag == pk.tag.toNat)).bind (fun r =>
    if r.cancelled then some s
    else
      match r.answer with
      | none => some s
      | some a => if pk.op = 0#6 then none else some (s.send { a with attempt := pk.attempt }))

/-- REQUEST_ARRIVAL (R310, R376, R419): lane accesses, engine reads of package memory, FFLAG stores. -/
def execRequestArrival (pk : Packet) (s : State) : Out :=
  .next (if !s.trusts pk then s.send { s.reply 7 pk with status := 2 }
  else
    match s.copyOf pk with
    | some t => t
    | none => if s.jobResident pk.job then s.perform pk else s.send { s.reply 7 pk with status := 0 })

/-- Is a target's record past the 128 µs for which it is kept (R376)? -/
def TargetRecord.expired (r : TargetRecord) (now : Nat) : Bool :=
  (r.answer.isSome || r.cancelled) && decide (r.at_ + 128000 ≤ now)

/-- REQUEST_RECORD_EXPIRY (R376). -/
def execRequestRecordExpiry (src : BitVec 12) (tag : BitVec 22) (s : State) : Out :=
  .next { s with fabric := { s.fabric with
      targets := s.fabric.targets.filter (fun r =>
        !(r.src == src.toNat && r.tag == tag.toNat && r.expired s.time.toNat)) } }

/-- CANCEL (R388): the stored response, or the tag recorded as cancelled. -/
def execCancel (pk : Packet) (s : State) : Out :=
  .next (if !s.trusts pk then s.send { s.reply 7 pk with status := 2 }
  else
    match s.fabric.targets.find? (fun r => r.src == pk.src.toNat && r.tag == pk.tag.toNat) with
    | some r =>
      match r.answer with
      | some a => s.send { a with attempt := pk.attempt }
      | none => if r.cancelled then s.send { s.reply 10 pk with status := 1 } else s
    | none =>
      (s.recordTarget { src := pk.src.toNat, tag := pk.tag.toNat, answer := none, cancelled := true, at_ := s.time.toNat }).send
        { s.reply 10 pk with status := 1 })

/-! ## The relay (R383, R384, R387, R388, R420) -/

/-- Is the request one that a relay may combine (R387, R420)? -/
def State.combinable (s : State) (pk : Packet) : Bool :=
  pk.op == 3#6 && pk.aop == 3#4 && pk.args == [0] && pk.ops.length == 1 && !pk.dstMod
    && (pk.ops.all (fun o => o.size == 4 || o.size == 8))
    && pk.authentic && (s.keySlot pk.job).any (fun k => k.pairs.contains pk.src && k.pairs.contains pk.dst)

/-- Does a request match those that a combined set holds? -/
def Combine.takes (c : Combine) (pk : Packet) : Bool :=
  let f := c.members.headD default
  let a := f.ops.headD LaneOp.none
  let b := pk.ops.headD LaneOp.none
  !c.sent && f.op == 3#6 && decide (c.members.length < 16) && f.dst == pk.dst && f.job == pk.job && a.addr == b.addr
    && a.size == b.size

/-- Is the packet a copy of a member of a set that waits (R387 step 4)? -/
def Combine.holds (c : Combine) (pk : Packet) : Bool := c.members.any (fun m => m.src == pk.src && m.tag == pk.tag)

/-- Forward a packet, or answer that the onward link is down, naming this relay and the op of the packet (R383, R388). -/
def State.forward (s : State) (pk : Packet) : State :=
  let near := pk.dstMod || (peerOffset s.node.toNat pk.dst.toNat).isSome
  match (if near then s.outLink pk else none) with
  | none => s.send { s.reply 8 pk with args := [s.node.toNat, pk.op.toNat] }
  | some n =>
    if 4096 ≤ n && !s.link.lit then { s with fabric := { s.fabric with waiting := s.fabric.waiting ++ [(n, pk)] } }
    else s.handOver n pk

/-- RELAY_FORWARD (R383, R384, R387, R388, R420): whether a relay combines is its own choice. -/
def execRelayForward (pk : Packet) (s : State) : Out :=
  .next (if pk.dst == s.node && !pk.dstMod then s
  else if !s.combinable pk then s.forward pk
  else if s.fabric.combines.any (fun c => c.holds pk) then s
  else
    match s.fabric.targets.find? (fun r => r.src == pk.src.toNat && r.tag == pk.tag.toNat) with
    | some r => (match r.answer with | some a => s.send { a with attempt := pk.attempt } | none => s)
    | none =>
      let t := s.drawn
      if !s.freeNow.getLsbD 0 then t.forward pk
      else if t.fabric.combines.any (fun c => c.takes pk) then
        let join (l : List Combine) : List Combine :=
          match l.findIdx? (fun c => c.takes pk) with
          | some i => l.modify i (fun c => { c with members := c.members ++ [pk] })
          | none => l
        { t with fabric := { t.fabric with combines := join t.fabric.combines } }
      else
        let c : Combine := { id := t.nextId, members := [pk], sent := false, left := 0, status := 0 }
        { t with nextId := t.nextId + 1, fabric := { t.fabric with combines := t.fabric.combines ++ [c] } })

/-- COMBINE_HOLD_EXPIRY (R387 step 2). -/
def execCombineHoldExpiry (id : Nat) (s : State) : Out :=
  .next (match s.fabric.combines.find? (fun c => c.id == id && !c.sent) with
  | none => s
  | some c =>
    let f := c.members.headD default
    let o := f.ops.headD LaneOp.none
    let s1 := { s with fabric := { s.fabric with
        combines := s.fabric.combines.map (fun (x : Combine) => if x.id == id then { x with sent := true } else x) } }
    s1.request (.relay id) o.addr { s1.packet 3 f.dst.toNat f.job with
      aop := 3#4, args := [0], ops := [{ o with lane := 0, data := BitVec.ofNat 128 (sumOps c.members o.size) }] })

end Sys2Proof.Machine
end

