-- ==== Sys2Proof/Machine/FabricWords.lean ====
section
/-! DEFINITION. The words of major 21 with what follows them (R392 to R400), multicast entries (R390, R391), the exchange of
pod barriers (R398, R399), pod time and the election of its master (R401 to R403). -/

namespace Sys2Proof.Machine

/-- The scope .pod (R183). -/
def scopePod : Nat := 6

/-! ## SIGNAL (R392 to R395) -/

/-- The source word of SIGNAL and MCST (R393): length and offset. -/
def srcLen (w : DWord) : Nat := (w.extractLsb' 32 24).toNat
def srcOff (w : DWord) : Nat := (w.extractLsb' 8 24).toNat

/-- Has a source word a refused value (R393)? -/
def srcBad (w : DWord) (unit max : Nat) : Bool :=
  w.extractLsb' 0 8 != 0#8 || srcOff w % unit != 0 || srcLen w % unit != 0 || decide (srcLen w < unit)
    || decide (max < srcLen w)

/-- Accept a command that sends tile bytes (R394, R397); a poisoned source fails it (R164, R166). -/
def State.sendTile (s : State) (c : Cmd) (w : DWord) (go : State → Cmd → State) : State :=
  let key := s.team.key (srcOff w)
  let m := s.mem.tileRead true false key (srcLen w)
  let r := State.tileLoad { s with mem := m } key (srcLen w)
  let c1 := { c with key := key, image := r.2, cur := some 0 }
  if tilePoisoned m key (srcLen w) then
    let s1 := { r.1 with mem := m.tileSeen s.team.core }
    (s1.accepted (c1.failed 9 (cmdIndex c1.kind c1.core 0) 0)).reapFabric
  else (go (r.1.accepted c1) c1).reapFabric

/-- SIGNAL (R392 to R394). -/
def execSignal (a b c : BitVec 6) (f : BitVec 4) (s : State) : Out :=
  let t := s.getS a
  let g := s.getS b
  let w := s.getS c
  let node := (t.extractLsb' 52 12).toNat
  let team := (t.extractLsb' 44 4).toNat
  .next (if decide (12 ≤ f.toNat) && f != 15#4 then s.trap0 0 3
  else if decide (2304 ≤ node) || decide (12 ≤ team) || t.extractLsb' 32 12 != 0#12 || g.extractLsb' 48 16 != 0#16
      || w.extractLsb' 56 8 != 0#8 || srcBad w 16 1572864 then s.operandFault
  else if s.team.bytes < srcOff w + srcLen w then s.trap0 6 0
  else
    s.release false scopePod (fun u =>
      let cmd := { u.newCmd .signal f.toNat with waiting := if tilePoisoned u.mem (u.team.key (srcOff w)) (srcLen w) then 0 else 1 }
      u.sendTile cmd w (fun v c1 =>
        v.request (.cmd c1.id) 0 { v.packet 15 node c1.job with
          bytes := c1.image,
          args := [(g.extractLsb' 0 48).toNat, (t.extractLsb' 0 32).toNat, team, (t.extractLsb' 48 4).toNat] })))

/-- Bytes that a SIGNAL delivers: those of a source that a store has changed since are undefined (R394). -/
def State.signalBytes (s : State) (pk : Packet) : State × List Byte :=
  let cmd := if pk.src == s.node then
      (s.txn pk.tag).bind (fun t => match t.owner with | .cmd id => s.cmds.find? (fun c => c.id == id) | _ => none)
    else none
  match cmd with
  | none => (s, pk.bytes)
  | some c =>
    if s.mem.tileOld.length = c.at_ then (s, pk.bytes)
    else
      (s.drew pk.bytes.length, pk.bytes.zipIdx.map (fun b =>
        if (s.mem.lateValues c.at_ (c.key + b.2)).isEmpty then b.1 else (Config.free (s.fresh + b.2)).extractLsb' 0 8))

/-- SIGNAL_DATA (R357, R376, R394, R419). -/
def execSignalData (pk : Packet) (s : State) : Out :=
  let grid := pk.args.getD 0 0
  let clu := pk.args.getD 1 0
  let team := pk.args.getD 2 0
  let k := pk.args.getD 3 0
  let refuse (why : Nat) : State := s.send { s.reply 7 pk with status := why }
  .next (if !s.trusts pk then refuse 2
  else
    match s.copyOf pk with
    | some t => t
    | none =>
      match s.teams.find? (fun t => isTeam t.grid clu team t && t.grid % 2 ^ 48 == grid && t.job == pk.job) with
      | none => refuse 0
      | some t =>
        let r := sget Ring.reset t.rings k
        if !r.live || r.mode != 1 then refuse 0
        else if r.n ≤ ringDist r.res r.rd then refuse 1
        else
          let d := s.signalBytes pk
          let e := (s.tileOf t (r.tileOf r.res)).getD TileEntry.reset
          let bs := d.2.take e.size
          let key := t.key e.off
          let r1 := Ring.arrived { r with res := ringNext r.res } r.res
          let s1 := { d.1 with mem := d.1.mem.tilePut none key bs }
          let s2 := s1.watchEvents none (peerSource pk) 0 false pk.job { tile := [(key, bs.length)], job := [] }
          let s3 := s2.putTeam { t with rings := sput Ring.reset t.rings k r1 }
          s3.answer pk (s3.reply 16 pk))

/-! ## FFLAG (R396) -/

/-- Transactions of a group's effects at a node that are not yet answered (R396). -/
def State.effectsAt (s : State) (g : GroupId) (node : Nat) : List Nat :=
  (s.fabric.txns.filter (fun t => t.pk.dst.toNat == node && !t.pk.dstMod && hasEffect t.pk.op &&
    (match t.owner with
      | .lanes id => s.fabric.peers.any (fun a => a.word.id == id && a.owner == g.key)
      | .weak owner _ _ => owner == g.key
      | _ => false))).map (fun t => t.pk.tag.toNat)

/-- Commands of the group that come before an FFLAG: MCST words, and FFLAG words to the same address (R396). -/
def State.cmdsBefore (s : State) (g : GroupId) (ea : Nat) : List Nat :=
  (s.cmds.filter (fun c => c.grid == g.grid && c.clu == g.clu && c.team == g.team && c.grp == g.grp
    && (c.kind == .mcst || (c.kind == .fflag && c.dst.base == ea)))).map (·.id)

/-- FFLAG (R392, R396, R400): the command keeps its address in dst.base, its node in op, the physical address in key and its
width in bytes. -/
def execFflag (a b : BitVec 6) (w : BitVec 1) (s : State) : Out :=
  let ea := (s.getS a).toNat
  let size := if w = 1#1 then 8 else 4
  let fail (t : State) (cls : Nat) : State := t.trap (32 * cls + 9) { fmask := 0#32, addr := ea, aux := 0#64 }
  .next (if ea % size != 0 then fail s 5
  else if 2 ^ 57 ≤ ea + size - 1 then fail s 7
  else
    match s.translate ea with
    | (s1, .error x) => fail s1 (walkClass x)
    | (s1, .ok l) =>
      if !l.write then fail s1 10
      else if l.kind = 3 then fail s1 11
      else
        let node := if l.kind = 2 then l.unit else s1.node.toNat
        let s2 := s1.flushGroup s1.cur.id
        let c := { s2.newCmd .fflag 15 with
          dst := { Desc.none with base := ea }, op := node, key := leafPhys l ea, bytes := size, pattern := s2.getS b,
          awaits := s2.effectsAt s2.cur.id node, after := s2.cmdsBefore s2.cur.id ea }
        s2.accepted c)

/-- Has everything that an FFLAG waits for been performed (R396)? -/
def State.flagReady (s : State) (c : Cmd) : Bool :=
  c.kind == .fflag && c.cur.isNone && !s.fabric.txns.any (fun t => c.awaits.contains t.pk.tag.toNat)
    && !s.cmds.any (fun x => c.after.contains x.id)

/-- The flag store of a local FFLAG (R396), a release at .pod: the group's stores on their way to their homes are performed
before it. A store narrower than a poisoned word faults and stores nothing (R172). -/
def State.storeFlag (s : State) (c : Cmd) (bs : List Byte) : State :=
  let m := s.mem.performLate (fun x => x.core == c.core)
  if decide (c.bytes < 8) && pkgPoisoned m c.key c.bytes then
    State.cmdDone { s with mem := m } (c.failed 10 (cmdIndex c.kind c.core 0) c.dst.base) false
  else
    let s1 := { s with mem := (m.storeHome c.key bs).l1Patch c.core 0 c.key bs }
    (s1.watchCmd c.id (s.cmdSource c) c.pc.toNat false c.job { tile := [], job := [(c.dst.base, c.bytes)] }).cmdDone c false

/-- FFLAG_STORE (R396). -/
def execFflagStore (id : Nat) (s : State) : Out :=
  .next (match s.cmds.find? (fun c => c.id == id) with
  | none => s
  | some c =>
    if !s.flagReady c then s
    else
      let bs := leBytes c.bytes c.pattern.toNat
      if c.op = s.node.toNat then s.storeFlag c bs
      else
        let op : LaneOp := { LaneOp.none with addr := c.key, size := c.bytes, data := datum bs }
        let s1 := s.onCmd id (fun x => { x with cur := some 0, waiting := 1 })
        (s1.request (.cmd id) c.dst.base { s1.packet 17 c.op c.job with ops := [op] }).reapFabric)

/-! ## Multicast (R390, R391, R397) -/

/-- The members that an entry of the group table names; none when it is invalid (R390). -/
def entryMembers (bs : List Byte) : Option (List Nat) :=
  let bit (n : Nat) : Bool := (bs.getD (n / 8) 0#8).getLsbD (n % 8)
  if numAt bs 0x120 8 != 1 || !((bs.drop 0x128).all (· == 0#8)) then none
  else some ((List.range 2304).filter bit)

/-- INSTALL_ENTRY (R390, R391): the entry is read once and installed as one step. -/
def execInstallEntry (s : State) : Out :=
  let f := s.fabric
  let at_ := f.mgBase.toNat * 2 ^ 17 + 512 * f.mgGroup.toNat
  .next (if !f.mgBusy then s
  else
    let e := if pkgPoisoned s.mem at_ 512 then none else entryMembers (readBytes s.mem.pkg at_ 512)
    { s with fabric := { f with mcast := sput none f.mcast f.mgGroup.toNat e, mgBusy := false } })

/-- A first hop of a multicast packet (R397): the node, what it does beside writing (0 nothing, 1 forwards in its column, 2 in its
row), and the members that are reached through it. -/
abbrev McastHop := Nat × Nat × List Nat

/-- First hops of a multicast packet (R397). -/
def State.mcastHops (s : State) (members : List Nat) : List McastHop :=
  (members.map (fun d =>
    if d = s.node.toNat || (peerOffset s.node.toNat d).isSome then (d, 0, [])
    else
      match s.firstHop d with
      | some r => (r, if r = s.rowRelay d then 1 else 2, [d])
      | none => (d, 0, []))).foldl (fun (acc : List McastHop) h =>
        if acc.any (fun x => x.1 == h.1) then
          acc.map (fun x => if x.1 == h.1 then (x.1, max x.2.1 h.2.1, x.2.2 ++ h.2.2) else x)
        else acc ++ [h]) []

/-- The member copies that a relay makes (R397): of the members that the packet names, or of all when it names none, so that a
member that another relay serves has one copy (R391). -/
def State.mcastForward (s : State) (members : List Nat) (dir : Nat) (dests : List Nat) : List Nat :=
  let me := s.node.toNat
  members.filter (fun n => n != me && ((dir == 1 && n % 48 == me % 48) || (dir == 2 && n / 48 == me / 48))
    && (dests.isEmpty || dests.contains n))

/-- Send one multicast packet (R397). -/
def State.mcastSend (s : State) (owner : TxnOwner) (ea pa : Nat) (job : BitVec 16) (bs : List Byte) (group : Nat)
    (h : McastHop) : State :=
  s.request owner ea { s.packet 18 h.1 job with bytes := bs, addr := pa, args := group :: h.2.1 :: h.2.2 }

/-- MCST (R392, R393, R397, R400). -/
def execMcst (a b : BitVec 6) (f : BitVec 4) (s : State) : Out :=
  let ea := (s.getS a).toNat
  let w := s.getS b
  let len := srcLen w
  let group := (w.extractLsb' 56 8).toNat
  let fail (t : State) (cls : Nat) : State := t.trap (32 * cls + 9) { fmask := 0#32, addr := ea, aux := 0#64 }
  .next (if decide (12 ≤ f.toNat) && f != 15#4 then s.trap0 0 3
  else if srcBad w 8 1024 then s.operandFault
  else if s.team.bytes < srcOff w + len then s.trap0 6 0
  else if ea % 8 != 0 || ea % 4096 + len > 4096 then fail s 5
  else if 2 ^ 57 ≤ ea + len - 1 then fail s 7
  else
    match s.translate ea with
    | (s1, .error x) => fail s1 (walkClass x)
    | (s1, .ok l) =>
      if !l.write || l.kind = 2 then fail s1 10
      else if l.kind = 3 then fail s1 11
      else
        let members := s1.mcastEntry group
        if members.isEmpty then s1.operandFault
        else
          s1.release false scopePod (fun u =>
            let hops := u.mcastHops members
            let bad := tilePoisoned u.mem (u.team.key (srcOff w)) len
            let cmd := { u.newCmd .mcst f.toNat with waiting := if bad then 0 else hops.length }
            u.sendTile cmd w (fun v c1 =>
              hops.foldl (fun t h => t.mcastSend (.cmd c1.id) ea (leafPhys l ea) c1.job c1.image group h) v)))

/-- MCST_DATA (R376, R391, R397): a member writes, a relay forwards, and the answers come together. -/
def execMcstData (pk : Packet) (s : State) : Out :=
  let members := s.mcastEntry (pk.args.getD 0 0)
  let dir := pk.args.getD 1 0
  .next (if !s.trusts pk then s.send { s.reply 7 pk with status := 2 }
  else
    match s.copyOf pk with
    | some t => t
    | none =>
      let mine := members.contains s.node.toNat
      let absent := mine && !s.jobResident pk.job
      let others := s.mcastForward members dir (pk.args.drop 2)
      if absent && others.isEmpty then s.send { s.reply 7 pk with status := 0 }
      else
        -- a relay forwards whatever is resident on it (R383); its own copy is then refused, and sent again, by itself (R310)
        let onward := (if absent then [s.node.toNat] else []) ++ others
        let refused := mine && !absent && inArea s.ctxArea pk.addr pk.bytes.length
        let s1 := if mine && !absent && !refused then
            ({ s with mem := s.mem.storeHome pk.addr pk.bytes }).peerWrote pk false [(pk.addr, pk.bytes.length)]
          else s
        let status := if refused then 1 else 0
        if onward.isEmpty then s1.answer pk { s1.reply 19 pk with status := status }
        else
          let c : Combine := { id := s1.nextId, members := [pk], sent := true, left := onward.length, status := status }
          let s2 := s1.recordTarget { src := pk.src.toNat, tag := pk.tag.toNat, answer := none, cancelled := false, at_ := s1.time.toNat }
          let s3 := { s2 with nextId := s2.nextId + 1, fabric := { s2.fabric with combines := s2.fabric.combines ++ [c] } }
          onward.foldl (fun t n => t.mcastSend (.relay c.id) 0 pk.addr pk.job pk.bytes (pk.args.getD 0 0) (n, 0, [])) s3)

/-! ## Pod barriers (R398, R399) -/

/-- PBAR (R392, R398): a count operand of the shared barrier words holds count and group. -/
def execPbar (a : BitVec 6) (s : State) : Out :=
  let w := s.getS a
  let count := (w.extractLsb' 16 16).toNat
  let pb := (w.extractLsb' 8 3).toNat
  let group := (w.extractLsb' 0 8).toNat
  .next (if w.extractLsb' 32 32 != 0#32 || w.extractLsb' 11 5 != 0#5 || count == 0
      || !(s.mcastEntry group).contains s.node.toNat then s.operandFault
  else s.barrierWord barPod pb scopePod (some (count * 256 + group)) false)

/-- Row and column peers (R381). -/
def State.rowPeers (s : State) : List Nat := ((List.range 47).map (fun i => s.rowPeer (i + 1)))
def State.colPeers (s : State) : List Nat := ((List.range 47).map (fun i => s.colPeer (i + 1)))

/-- A packet of ops 20 to 22 for the next lit interval (R385). -/
def State.urgentTo (s : State) (op d : Nat) (args : List Nat) : State :=
  { s with fabric := { s.fabric with urgent := s.fabric.urgent ++ [{ s.packet op d 0#16 with args := args }] } }

/-- A peer of the same row or column through which a state goes around a link that is down (R399). -/
def State.detour (s : State) (d : Nat) : Option Nat :=
  let peers := if d / 48 = s.node.toNat / 48 then s.rowPeers else s.colPeers
  peers.find? (fun p => p != d && s.peerUp p)

/-- Send the state of one barrier to one peer (R399): its job, number, phase and the arrivals known. -/
def State.sendBar (s : State) (key : Nat) (x : PodBar) (d : Nat) : State :=
  let args := key :: x.phase :: x.known
  if s.peerUp d then s.urgentTo 20 d args
  else if x.known.isEmpty then s
  else
    match s.detour d with
    | none => s
    | some r =>
      let s1 := s.urgentTo 20 r args
      s1.linkEvent 21 5 0 d (BitVec.ofNat 64 (key % 8))

/-- The exchange of pod-barrier arrivals (R399). -/
def State.exchangeBars (s : State) : State :=
  s.fabric.bars.foldl (fun t b => (t.rowPeers ++ t.colPeers).foldl (fun u d => u.sendBar b.1 b.2 d) t) s

/-- The state of a barrier at another package enters this package's (R399). -/
def PodBar.learn (x : PodBar) (phase : Nat) (nodes : List Nat) : PodBar :=
  let add (l : List Nat) : List Nat := l ++ (nodes.filter (fun n => !l.contains n)).eraseDups
  if phase = x.phase then { x with known := add x.known }
  else if phase = x.phase + 1 then
    -- the sender has completed the phase: every member has arrived
    { x with known := x.known ++ x.members.filter (fun n => !x.known.contains n), later := add x.later }
  else x

/-- POD_BARRIER_STATE (R399, R418). -/
def execPodBarrierState (pk : Packet) (s : State) : Out :=
  .next (match pk.args with
  | key :: phase :: nodes =>
    if !pk.authentic || !s.sec.podPairs.contains pk.src then s
    else
      let x := sget PodBar.reset s.fabric.bars key
      (s.putPod key (x.learn phase nodes)).settlePod key
  | _ => s)

/-! ## Pod time and Halley (R401 to R403) -/

def State.putHalley (s : State) (h : Halley) : State := { s with fabric := { s.fabric with halley := h } }

/-- The node of rank `r` (R402). -/
def Halley.nodeOf (h : Halley) (r : Nat) : Nat :=
  if r = 0 then h.master.toNat
  else if r ≤ 5 then (h.succ0.extractLsb' (12 * (r - 1)) 12).toNat
  else (h.succ1.extractLsb' (12 * (r - 6)) 12).toNat

/-- The lowest rank above the current master's that names a node (R402, R403). -/
def Halley.rankOf (h : Halley) (node : Nat) : Option Nat :=
  ((List.range 9).filter (fun r => decide (h.curRank.toNat < r))).find? (fun r => h.nodeOf r == node)

/-- The schedule is no longer frozen (R309, R403). -/
def State.thaw (s : State) (h : Halley) : State :=
  let s1 := s.putHalley { h with frozen := false, synced := true, claim := none, claimed := false }
  if s.frozen then s1.freezeOver else s1

/-- A new master is installed (R389, R403). -/
def State.installMaster (s : State) (node : BitVec 12) (rank : Nat) : State :=
  let h := s.fabric.halley
  let s1 := s.thaw { h with curMaster := node, curRank := BitVec.ofNat 4 rank }
  s1.linkEvent 18 5 0 node.toNat s1.time

/-- TIME follows a time packet (R401): it is never stepped back. -/
def State.follow (s : State) (t : BitVec 64) : State :=
  let h := s.fabric.halley
  if s.time.toNat ≤ t.toNat then { s.putHalley { h with slow := false } with time := t }
  else s.putHalley { h with slow := true }

/-- Pass a packet of ops 21 and 22 on to the column peers when it came along the row (R403). -/
def State.passDown (s : State) (op : Nat) (src : BitVec 12) (args : List Nat) : State :=
  if src.toNat / 48 = s.node.toNat / 48 && src != s.node then
    s.colPeers.foldl (fun t d =>
      { t with fabric := { t.fabric with urgent := t.fabric.urgent ++ [{ t.packet op d 0#16 with src := src, args := args }] } }) s
  else s

/-- A time packet of the master has been received (R403). -/
def State.hears (s : State) : State := s.putHalley { s.fabric.halley with heard := s.time.toNat }

/-- TIME_PACKET (R401, R403). -/
def execTimePacket (master : BitVec 12) (time : BitVec 64) (s : State) : Out :=
  let h := s.fabric.halley
  let pass (t : State) : State := t.hears.passDown 21 master [time.toNat]
  .next (if !h.enable || master == s.node then s
  else if master == h.curMaster then pass ((s.follow time).thaw (s.follow time).fabric.halley)
  else
    match h.rankOf master.toNat with
    | some r => if h.frozen then pass ((s.installMaster master r).follow time) else s
    | none => s)

/-- Does the package follow another package's time (R401, R403)? -/
def State.follows (s : State) : Bool :=
  let h := s.fabric.halley
  h.enable && h.curRank != 15#4 && h.curMaster != s.node

/-- Has no time packet come for 4 µs (R403)? -/
def State.silent (s : State) : Bool :=
  s.follows && !s.fabric.halley.frozen && decide (s.fabric.halley.heard + 4000 ≤ s.time.toNat)

/-- Has the last successor failed: rank 8 is silent as master, or has claimed and sent no time packet for 4 µs (R403)? -/
def State.masterless (s : State) : Bool :=
  let h := s.fabric.halley
  h.enable && h.curRank != 15#4 && h.frozen
    && (h.curRank == 8#4 || (h.claim == some 8 && decide (h.claimAt + 4000 ≤ s.time.toNat)))

/-- TIME_SILENCE (R389, R403): no time packet for 4 µs; when rank 8 has claimed and failed no master is left. -/
def execTimeSilence (s : State) : Out :=
  let h := s.fabric.halley
  .next (if s.silent then
    let s0 := s.putHalley { h with frozen := true, synced := false, claimed := false, detected := s.time.toNat }
    let s1 := { s0 with sched := { s0.sched with freezeFrom := s0.time.toNat } }
    s1.linkEvent 17 5 0 h.curMaster.toNat s1.time
  else if s.masterless then
    let s1 := s.putHalley { h with curRank := 15#4, claim := none, claimed := false }
    s1.linkEvent 19 5 0 0 s1.time
  else s)

/-- The rank with which the package is to claim now (R403): its rank's time after the detection has come, and no claim of a lower
rank has been received. -/
def State.claimNow (s : State) : Option Nat :=
  let h := s.fabric.halley
  if !h.enable || !h.frozen || h.claimed || h.curRank == 15#4 then none
  else (h.rankOf s.node.toNat).filter (fun r =>
    !h.claim.any (fun c => decide (c < r)) && decide (h.detected + 4000 * (r - 1) ≤ s.time.toNat))

/-- ELECTION_CLAIM (R403): the successor's own time has come. -/
def execElectionClaim (s : State) : Out :=
  .next (match s.claimNow with
  | none => s
  | some r =>
    let s1 := s.putHalley { s.fabric.halley with claimed := true, claim := some r, claimAt := s.time.toNat }
    (s1.rowPeers ++ s1.colPeers).foldl (fun t d => t.urgentTo 22 d [r]) s1)

/-- CLAIM_RECEIVE (R403): the lowest rank is accepted. -/
def execClaimReceive (rank : BitVec 4) (node : BitVec 12) (s : State) : Out :=
  let h := s.fabric.halley
  .next (if !h.enable || h.claim.any (fun c => decide (c ≤ rank.toNat)) then s
  else (s.putHalley { h with claim := some rank.toNat, claimAt := s.time.toNat }).passDown 22 node [rank.toNat])

/-- The rank with which the package becomes master now (R403): no lower claim has come within 2 µs of its own. -/
def State.masterNow (s : State) : Option Nat :=
  let h := s.fabric.halley
  if !h.enable || !h.frozen || !h.claimed || decide (s.time.toNat < h.claimAt + 2000) then none
  else (h.rankOf s.node.toNat).filter (fun r => h.claim == some r)

/-- MASTER_INSTALL (R389, R403): no lower claim has come within 2 µs of the package's own. -/
def execMasterInstall (s : State) : Out :=
  .next (match s.masterNow with
  | some r => s.installMaster s.node r
  | none => s)

/-- PHASE_BOUNDARY (R364, R382, R399, R401): the guard begins, the planes change their phases, the master sends its time and
every package what it knows of pod barriers. -/
def execPhaseBoundary (s : State) : Out :=
  let h := s.fabric.halley
  let s1 := { s with link := { s.link with lit := false, phase := s.phase } }
  let s2 := if h.enable && !h.frozen && h.curMaster == s.node then
      (s1.rowPeers ++ s1.colPeers).foldl (fun t d => t.urgentTo 21 d [s1.time.toNat]) s1
    else s1
  .next s2.exchangeBars

end Sys2Proof.Machine
end

