-- ==== Sys2Proof/Machine/Security.lean ====
section
/-! DEFINITION. Boot and measurement, security commands, sealed regions and checkpoints (R405 to R418). -/

namespace Sys2Proof.Machine

/-- A big-endian number (R406). -/
def beNat (bs : List Byte) : Nat := leNat bs.reverse

/-- The `n` bytes of a number, big-endian (R406, R408). -/
def beBytes (n x : Nat) : List Byte := (leBytes n x).reverse

/-- Are bytes `a` to `b - 1` zero? -/
def zeroFrom (bs : List Byte) (a b : Nat) : Bool := ((bs.take b).drop a).all (· == 0#8)

/-! ## Boot (R405 to R407) -/

/-- Is the header of a firmware image at address `at_` well formed (R406)? -/
def headerOk (h : List Byte) (at_ : Nat) : Bool :=
  let len := numAt h 8 8
  let entry := numAt h 0x10 8
  h.take 4 == ascii "KQ9F" && numAt h 4 2 == 1 && decide (numAt h 6 1 < 16) && zeroFrom h 7 8 && len % 4096 == 0
    && decide (4096 ≤ len) && decide (len ≤ 268435456) && entry % 4 == 0 && decide (entry < len) && zeroFrom h 0x18 0x40
    && zeroFrom h 0xC0 0x1000 && decide (at_ + 4096 + len ≤ 2 ^ 31)

/-- BOOT_GO (R405, R406): the image is checked; on success its measurement stands until package reset. -/
def execBootGo (s : State) : Out :=
  let at_ := s.sec.image.toNat * 4096
  let h := readBytes s.mem.pkg at_ 4096
  .next (if s.sec.stage != 1#3 then s
  else
    let refuse : State := { s with sec := { s.sec with stage := 7#3 } }
    if !headerOk h at_ then refuse
    else
      let msg := h.take 0x80 ++ readBytes s.mem.pkg (at_ + 4096) (numAt h 8 8)
      let key := (h.drop 0x40).take 64
      if Config.sm3 key != s.sec.keyDigest
          || !Config.sm2Verify (BitVec.ofNat 512 (beNat key)) msg (BitVec.ofNat 512 (beNat ((h.drop 0x80).take 64)))
          || decide (numAt h 6 1 < s.sec.svnMin.toNat) then refuse
      else { s with sec := { s.sec with stage := 2#3, meas := Config.sm3 msg } })

/-! ## Commands (R409, R410) -/

/-- What a command leaves: the state, the block with its outputs, the result; none while it waits for its peer. -/
structure SecOut where
  st : State
  block : List Byte
  result : Option Nat

/-- A command that fails changes nothing (R410). -/
def secFails (s : State) (b : List Byte) (r : Nat) : SecOut := { st := s, block := b, result := some r }

/-- A command that is done. -/
def secDone (s : State) (b : List Byte) : SecOut := { st := s, block := b, result := some 0 }

/-- Job of a command block (R409). -/
def blockJob (b : List Byte) : BitVec 16 := BitVec.ofNat 16 (numAt b 2 2)

/-- Is any key slot occupied (R410)? -/
def State.anySlot (s : State) : Bool := s.sec.slots.any (·.isSome)

/-- Replace the slot of a job. -/
def State.putSlot (s : State) (k : KeySlot) : State :=
  { s with sec := { s.sec with slots := s.sec.slots.map (fun x => if x.any (fun y => y.job == k.job) then some k else x) } }

/-- BIND (R410). -/
def State.bindJob (s : State) (b : List Byte) : SecOut :=
  let job := blockJob b
  let role := numAt b 8 1
  let windows := (List.range 4).map (fun i => (numAt b (80 + 16 * i) 8, numAt b (88 + 16 * i) 8))
  if decide (1 < role) || !zeroFrom b 9 16 || !zeroFrom b 144 256
      || windows.any (fun w => w.1 % 2 ^ 21 != 0 || w.2 % 2 ^ 21 != 0) then secFails s b 1
  else
    match s.sec.slots.findIdx? (·.isNone) with
    | none => secFails s b 2
    | some i =>
      if (s.keySlot job).isSome then secFails s b 3
      else
        let rnd := (List.range 6).foldl (fun (x : BitVec 384) j => (x <<< 64) ||| (Config.free (s.fresh + j)).zeroExtend 384) 0#384
        let k : KeySlot :=
          { job := job, join := role == 1, owner := BitVec.ofNat 512 (beNat ((b.drop 16).take 64)),
            keys := if role = 0 then some rnd else none, windows := windows.filter (fun w => w.2 != 0), pairs := [],
            sealed_ := [], versions := [] }
        let qs := s.sched.queues.map (fun q => (q.1, { q.2 with signed := true }))
        let s1 := s.drew 6
        secDone
          { s1 with
            sec := { s1.sec with slots := s1.sec.slots.set i (some k) },
            sched := { s1.sched with queues := qs.filter (fun q => q.2 != Queue.reset) } } b

/-- PAIR (R410, R418): its message leaves and the command waits for the peer's; job 0 agrees the pod key. -/
def State.pairWith (s : State) (b : List Byte) : SecOut :=
  let job := blockJob b
  if !zeroFrom b 10 16 || !zeroFrom b 49 256 then secFails s b 1
  else if job != 0#16 && (s.keySlot job).isNone then secFails s b 3
  else
    let w : PairWait :=
      { node := numAt b 8 2, job := job, measurement := BitVec.ofNat 256 (leNat ((b.drop 16).take 32)),
        svn := BitVec.ofNat 8 (numAt b 48 1), at_ := s.time.toNat, frame := none }
    let s1 := s.sendFrame 2 0#16 0#64 b
    { st := { s1 with sec := { s1.sec with pair := some w } }, block := b, result := none }

/-- The bytes that a quote signs (R408). -/
def State.quoteBytes (s : State) (b : List Byte) : List Byte :=
  ascii "KQ9Q" ++ (b.drop 8).take 32 ++ leBytes 2 s.node.toNat ++ leBytes 2 implId ++ digestBytes s.sec.meas
    ++ leBytes 2 (blockJob b).toNat

/-- QUOTE (R408, R410). -/
def State.quote (s : State) (b : List Byte) : SecOut :=
  if !zeroFrom b 40 64 || !zeroFrom b 192 256 then secFails s b 1
  else
    let sig := Config.sm2Sign (digestBytes (Config.sm3 (s.quoteBytes b)))
    secDone s (b.take 64 ++ beBytes 64 s.sec.device.toNat ++ beBytes 64 sig.toNat ++ b.drop 192)

/-! ## Sealed regions (R415) -/

/-- The leaf of a job-space page by a walk of the tables. -/
def State.leafAt (s : State) (va : Nat) : Option Leaf :=
  if 2 ^ 57 ≤ va then none else (walk s.mem s.ctxArea va 0).toOption

/-- Do a base and a size name far pages only? -/
def State.allFar (s : State) (base size : Nat) : Bool :=
  decide (base + size ≤ 2 ^ 57) && (List.range (size / 4096)).all (fun i => (s.leafAt (base + 4096 * i)).any (fun l => l.kind == 3))

/-- Line numbers of far memory that a region maps (R415). -/
def State.regionLines (s : State) (base size : Nat) : List Nat :=
  (List.range (size / 256)).filterMap (fun i =>
    (s.leafAt (base + 256 * i)).bind (fun l =>
      if l.kind = 3 then some (farKey l.unit (leafPhys l (base + 256 * i)) / 256) else none))

/-- Do two ranges share a byte? -/
def rangesMeet (a n b m : Nat) : Bool := decide (a < b + m) && decide (b < a + n)

/-- Re-tag lines at a version (R410, R415). -/
def State.retagAt (s : State) (k : KeySlot) (lines : List Nat) (v : Nat) : State :=
  match k.keys with
  | none => s
  | some keys =>
    let k1 := { k with versions := lines.foldl (fun m l => sput 0 m l v) k.versions }
    let s1 := s.putSlot k1
    { s1 with sec := { s1.sec with tags := lines.foldl (fun m l => sput none m l (some (keys, v))) s1.sec.tags } }

/-- Are the limits of R415 kept? -/
def State.sealOk (s : State) (k : KeySlot) (base size area : Nat) : Bool :=
  let total := k.sealed_.foldl (fun n r => n + r.size) size
  base % 2 ^ 21 == 0 && size % 2 ^ 21 == 0 && size != 0 && decide (total ≤ 2 ^ 36) && decide (k.sealed_.length < 8)
    && s.allFar base size && s.allFar (area - area % 4096) (size / 16 + area % 4096)
    && !rangesMeet area (size / 16) base size && !(k.sealed_.any (fun r => rangesMeet area (size / 16) r.base r.size))
    && k.keys.isSome

/-- The version area holds the tree over the versions, whose nodes are not laid out by the manual (R415). -/
def State.writeTree (s : State) (area n : Nat) : State :=
  (List.range (n / 8)).foldl (fun t i =>
    match t.leafAt (area + 8 * i) with
    | some l =>
      let key := farKey l.unit (leafPhys l (area + 8 * i))
      { t with mem := { (t.mem.farNoted key 8) with
          far := writeBytes t.mem.far key (leBytes 8 (Config.free (s.fresh + i)).toNat) } }
    | none => t) (s.drew (n / 8))

/-- SEAL (R410, R415): every line of the region is tagged at version 1. -/
def State.sealRegion (s : State) (b : List Byte) : SecOut :=
  let base := numAt b 8 8
  let size := numAt b 16 8
  let area := numAt b 24 8
  if !zeroFrom b 32 256 then secFails s b 1
  else
    match s.keySlot (blockJob b) with
    | none => secFails s b 3
    | some k =>
      if !s.sealOk k base size area then secFails s b 6
      else
        let k1 := { k with sealed_ := k.sealed_ ++ [{ base := base, size := size, area := area }] }
        secDone (((s.putSlot k1).retagAt k1 (s.regionLines base size) 1).writeTree area (size / 16)) b

/-- UNSEAL (R410). -/
def State.unsealRegion (s : State) (b : List Byte) : SecOut :=
  let base := numAt b 8 8
  if !zeroFrom b 16 256 then secFails s b 1
  else
    match s.keySlot (blockJob b) with
    | none => secFails s b 3
    | some k =>
      match k.sealed_.find? (fun r => r.base == base) with
      | none => secFails s b 3
      | some r =>
        let k1 := { k with sealed_ := k.sealed_.filter (fun x => x.base != base) }
        secDone ((s.putSlot k1).retagAt k1 (s.regionLines base r.size) 0) b

/-! ## Checkpoints (R417) -/

/-- Modules of a checkpoint command. -/
def blockModules (b : List Byte) : List Nat := (List.range (numAt b 10 2)).map (fun i => numAt b 8 2 + i)

/-- Lines of a module that are tagged with some keys. -/
def State.jobLines (s : State) (keys : BitVec 384) (m : Nat) : SMap (Option (BitVec 384 × Nat)) :=
  s.sec.tags.filter (fun t => t.1 / 2 ^ 33 == m && t.2.any (fun x => x.1 == keys))

/-- CKSAVE (R417): the job's far lines and tags go to the safe tier, with the roots of its sealed regions. -/
def State.ckSave (s : State) (b : List Byte) (failed : Bool) : SecOut :=
  let slot := numAt b 12 4
  if !zeroFrom b 16 256 then secFails s b 1
  else
    match s.keySlot (blockJob b) with
    | none => secFails s b 3
    | some k =>
      if failed then secFails s b 5
      else
        let new := (blockModules b).map (fun m =>
          let tags := s.jobLines (k.keys.getD 0#384) m
          ({ slot := slot, job := k.job, module := m,
             lines := tags.foldl (fun w t => writeBytes w (256 * t.1) (readBytes s.mem.far (256 * t.1) 256)) [],
             tags := tags, key := if k.sealed_.isEmpty then none else k.keys, versions := k.versions } : Checkpoint))
        let old := s.sec.safe.filter (fun c => !(c.slot == slot && c.job == k.job && new.any (fun n => n.module == c.module)))
        secDone { s with sec := { s.sec with safe := old ++ new } } b

/-- The lines of one checkpoint go back (R417). -/
def State.putCheckpoint (s : State) (c : Checkpoint) : State :=
  c.tags.foldl (fun (t : State) x =>
    { t with
      mem := { (t.mem.farNoted (256 * x.1) 256) with
                          far := writeBytes t.mem.far (256 * x.1) (readBytes c.lines (256 * x.1) 256),
                          farPoison := sput false t.mem.farPoison x.1 false },
      sec := { t.sec with tags := sput none t.sec.tags x.1 x.2 } }) s

/-- CKREST (R417): the roots come back only when their blob authenticates under the job's present keys. -/
def State.ckRestore (s : State) (b : List Byte) (failed : Bool) : SecOut :=
  let slot := numAt b 12 4
  if !zeroFrom b 16 256 then secFails s b 1
  else
    match s.keySlot (blockJob b) with
    | none => secFails s b 3
    | some k =>
      let cs := (blockModules b).map (fun m => s.sec.safe.find? (fun c => c.slot == slot && c.job == k.job && c.module == m))
      if failed || cs.any (·.isNone) then secFails s b 5
      else
        let found := cs.filterMap id
        let s1 := found.foldl State.putCheckpoint s
        match found.find? (fun c => c.key.isSome) with
        | none => secDone s1 b
        | some c => if c.key = k.keys then secDone (s1.putSlot { k with versions := c.versions }) b else secFails s1 b 4

/-- UNBIND (R410). -/
def State.unbindJob (s : State) (b : List Byte) : SecOut :=
  let job := blockJob b
  if !zeroFrom b 8 256 then secFails s b 1
  else if (s.keySlot job).isNone then secFails s b 3
  else if s.ctx.saved.any (fun c => c.job == job)
      || s.clusters.any (fun c => s.clusterJob c == job && !(s.clusterGroups c).isEmpty) then secFails s b 6
  else
    secDone { s with sec := { s.sec with
      slots := s.sec.slots.map (fun x => if x.any (fun y => y.job == job) then none else x) } } b

/-- Run the command of a block (R410). -/
def State.runCommand (s : State) (b : List Byte) (failed : Bool) : SecOut :=
  match numAt b 0 1 with
  | 0 => s.bindJob b
  | 1 => s.pairWith b
  | 2 => s.quote b
  | 3 => s.sealRegion b
  | 4 => s.unsealRegion b
  | 5 => s.ckSave b failed
  | 6 => s.ckRestore b failed
  | 7 => s.unbindJob b
  | _ => secFails s b 1

/-- The management port answers a frame, and remembers the answer (R427). -/
def State.answerFrame (s : State) (seq num : BitVec 16) (value : BitVec 64) (block : List Byte) : State :=
  let f : Frame := { op := 4, seq := seq, num := num, value := value, block := block }
  { s with mgmt := { s.mgmt with out := s.mgmt.out ++ [f], seen := s.mgmt.seen ++ [(seq, f)] } }

/-- A command has ended (R409, R425); a management frame that asked for a PAIR is answered now (R427). -/
def State.secEnds (s : State) (result : Nat) : State :=
  let s1 := { s with sec := { s.sec with start := false, result := BitVec.ofNat 4 result, pair := none }, msi := s.msi ++ [3] }
  match s.sec.pair.bind (·.frame) with
  | some seq => s1.answerFrame seq 0#16 (BitVec.ofNat 64 result) []
  | none => s1

/-- The command block that SECCMD names (R409). -/
def State.secBlock (s : State) : List Byte := readBytes s.mem.pkg (s.sec.block.toNat * 256) 256

/-- Run SECCMD's command when its code is one of `codes`: outputs are written back before start is cleared (R409). -/
def State.secCommand (s : State) (codes : Nat → Bool) (failed : Bool) : State :=
  let b := s.secBlock
  if !s.sec.start || s.sec.pair.isSome || !codes (numAt b 0 1) then s
  else
    let r := s.runCommand b failed
    let s1 := if r.block = b then r.st
      else { r.st with mem := r.st.mem.pkgWrite (r.st.sec.block.toNat * 256) r.block }
    match r.result with
    | some x => s1.secEnds x
    | none => s1

/-- BIND (R410); a reserved code ends here too, with result 1. -/
def execSecBind (s : State) : Out := .next (s.secCommand (fun c => c == 0 || decide (8 ≤ c)) false)

/-- PAIR (R410, R418). -/
def execSecPair (s : State) : Out := .next (s.secCommand (· == 1) false)

/-- QUOTE (R408). -/
def execSecQuote (s : State) : Out := .next (s.secCommand (· == 2) false)

/-- SEAL (R415). -/
def execSecSeal (s : State) : Out := .next (s.secCommand (· == 3) false)

/-- UNSEAL (R410). -/
def execSecUnseal (s : State) : Out := .next (s.secCommand (· == 4) false)

/-- CKSAVE (R417): `failed`: a module failed. -/
def execCksave (failed : Bool) (s : State) : Out := .next (s.secCommand (· == 5) failed)

/-- CKREST (R417). -/
def execCkrest (failed : Bool) (s : State) : Out := .next (s.secCommand (· == 6) failed)

/-- UNBIND (R410). -/
def execSecUnbind (s : State) : Out := .next (s.secCommand (· == 7) false)

/-- Has PAIR waited 1 s for its peer (R410)? -/
def State.pairOverdue (s : State) : Bool := s.sec.pair.any (fun w => decide (w.at_ + 1000000000 ≤ s.time.toNat))

/-- PAIR_TIMEOUT (R410): no matching peer within 1 s. -/
def execPairTimeout (s : State) : Out := .next (if s.pairOverdue then s.secEnds 5 else s)

/-- A PAIR message of the peer arrives while the command waits for it (R410, R418). -/
def State.paired (s : State) (node : BitVec 12) (job : BitVec 16) (measurement : BitVec 256) (svn : BitVec 4)
    (quoteOk holdsKeys : Bool) (keys : BitVec 384) : State :=
  match s.sec.pair with
  | none => s
  | some w =>
    if w.node != node.toNat || w.job != job then s
    else if !quoteOk || measurement != w.measurement || decide (svn.toNat < w.svn.toNat) then s.secEnds 4
    else if job = 0#16 then
      State.secEnds { s with sec := { s.sec with
        podPairs := if s.sec.podPairs.contains node then s.sec.podPairs else node :: s.sec.podPairs } } 0
    else
      match s.keySlot job with
      | none => s.secEnds 3
      | some k =>
        let k1 := { k with
          pairs := if k.pairs.contains node then k.pairs else node :: k.pairs,
          keys := if k.keys.isNone && k.join && holdsKeys then some keys else k.keys }
        (s.putSlot k1).secEnds 0

end Sys2Proof.Machine
end

