-- ==== Sys2Proof/Machine/Power.lean ====
section
/-! DEFINITION. Power and cooling (R424), the host port (R425, R426) and package reset (R8, R405, R428). -/

namespace Sys2Proof.Machine

/-! ## Power (R424) -/

def State.powerOf (s : State) (d : Nat) : Power := sget Power.reset s.power d

def State.putPower (s : State) (d : Nat) (p : Power) : State := { s with power := sput Power.reset s.power d p }

/-- A thermal or power event reaches the host (R425). -/
def State.powerEvent (s : State) : State := { s with msi := s.msi ++ [4] }

/-- PWRSTAT (R424). -/
def Power.word (p : Power) : BitVec 64 := 0#16 ++ p.temp ++ p.minN ++ p.n ++ p.sags

/-- The clock step becomes `n`; min_n follows it down. -/
def Power.stepTo (p : Power) (n : BitVec 4) : Power := { p with n := n, minN := if n.toNat < p.minN.toNat then n else p.minN }

/-- Highest clock step that the temperature lets a die run at (R424). -/
def Power.limit (p : Power) : Nat := if 100 ≤ p.temp.toNat then 6 else 8

/-- min_n becomes n (R424). -/
def Power.restart (p : Power) : Power := { p with minN := p.n }

/-- MIN_RST (R424). -/
def execMinRst (die : BitVec 2) (s : State) : Out := .next (s.putPower die.toNat (s.powerOf die.toNat).restart)

/-- SUPPLY_SAG (R424). -/
def execSupplySag (die : BitVec 2) (s : State) : Out :=
  let p := s.powerOf die.toNat
  .next (if p.n.toNat ≤ 4 then s
  else
    let p1 := { p.stepTo (p.n - 1#4) with sags := if p.sags = 0xFFFFFFFF#32 then p.sags else p.sags + 1#32 }
    (s.putPower die.toNat p1).powerEvent)

/-- CLOCK_STEP_UP (R424). -/
def execClockStepUp (die : BitVec 2) (s : State) : Out :=
  let p := s.powerOf die.toNat
  .next (if p.n.toNat < p.limit then s.putPower die.toNat { p with n := p.n + 1#4 } else s)

/-- THERMAL_LIMIT (R424): the die's temperature becomes `temp`. -/
def execThermalLimit (die : BitVec 2) (temp : BitVec 8) (s : State) : Out :=
  let p := s.powerOf die.toNat
  let p1 := { p with temp := temp }
  let p2 := if p1.limit < p1.n.toNat then p1.stepTo (BitVec.ofNat 4 p1.limit) else p1
  .next (if 110 ≤ temp.toNat && !p.stopped then
      ((s.putPower die.toNat { p2 with stopped := true }).powerEvent).mgmtEvent
    else
      let s1 := s.putPower die.toNat (if temp.toNat ≤ 100 then { p2 with stopped := false } else p2)
      if p2.n = p.n then s1 else s1.powerEvent)

/-- Do the core clocks of a die run (R424)? -/
def State.clocked (s : State) (core : Nat) : Bool := !(s.powerOf (core / 256)).stopped

/-! ## BAR2 (R426) -/

/-- May the host reach a byte of package memory (R426)? -/
def State.hostReaches (s : State) (a : Nat) : Bool :=
  decide (a < 2 ^ 31) &&
    (!s.anySlot ||
      (s.sec.slots.any (fun x => x.any (fun k => k.windows.any (fun w => decide (w.1 ≤ a) && decide (a < w.1 + w.2))))
        && !s.overflowMeets a 1))

/-- HOST_MEMORY_ACCESS (R425, R426): a read leaves the bytes that the host sees in hostRead. -/
def execHostMemoryAccess (write : Bool) (addr : Nat) (bytes : List Byte) (s : State) : Out :=
  let n := bytes.length
  let all := (List.range n).all (fun i => s.hostReaches (addr + i))
  .next (if write then
    (if all then { s with mem := s.mem.pkgWrite addr bytes }
    else
      { s with mem := bytes.zipIdx.foldl (fun m b => if s.hostReaches (addr + b.2) then m.pkgWrite (addr + b.2) [b.1] else m) s.mem })
  else
    { s with hostRead := (List.range n).map (fun i =>
        if s.hostReaches (addr + i) then sget 0#8 s.mem.pkg (addr + i) else 0#8) })

/-! ## Package reset (R8, R405, R428) -/

/-- What a laser keeps (R380), as it stands when the reset comes (log 77). -/
def Laser.kept (l : Laser) (ran : Nat) : Laser := { Laser.reset with bias := l.bias, hours := l.hoursAt ran }

/-- PACKAGE_RESET (R8, R405): fuses, what non-volatile storage keeps, and the Borura modules stay; the package starts again
with the boot ROM. -/
def execPackageReset (s : State) : Out :=
  let r := State.reset
  let lasers := s.link.lasers.foldl (fun m l => sput Laser.reset m l.1 (l.2.kept s.link.ran)) []
  .next { r with
    node := s.node,
    mem := { r.mem with far := s.mem.far, farPoison := s.mem.farPoison },
    link := { r.link with lasers := lasers },
    sec := { r.sec with
      keyDigest := s.sec.keyDigest, svnMin := s.sec.svnMin, device := s.sec.device, tags := s.sec.tags, safe := s.sec.safe },
    agenda := s.agenda, fresh := s.fresh, nextId := s.nextId }

end Sys2Proof.Machine
end

