-- ==== Sys2Proof/Machine/Csr.lean ====
section
/-! DEFINITION. The CSR map (R7, R166, R174, R293, R296, R308, R320, R340, R379, R380, R390, R402, R407, R409, R423, R424), the
words CSRRD and CSRWR (R322, R335), and the accesses of the host and management ports (R410, R425, R427). -/

namespace Sys2Proof.Machine

/-! ## Reading -/

/-- TMES (R166). -/
def TileErrors.word (e : TileErrors) : BitVec 64 :=
  BitVec.ofNat 16 (min e.corrected 0xFFFF) ++ 0#8 ++ bit1 e.uncorrectable ++ 0#3 ++ e.failedParity ++ e.failedData

def State.tileErrorsOf (s : State) (core : Nat) : TileErrors := sget TileErrors.reset s.mem.tileErrors core

/-- Register i of a launch queue (R293). -/
def Queue.word (x : Queue) (i : Nat) : BitVec 64 :=
  match i with
  | 0 => 0#7 ++ x.base
  | 1 => x.job ++ 0#12 ++ x.logEntries ++ 0#30 ++ bit1 x.signed ++ bit1 x.enable
  | 2 => 0#32 ++ x.tail
  | _ => bit1 x.stalled ++ 0#31 ++ x.head

/-- FRCFG (R320). -/
def FaultUnit.word (f : FaultUnit) : BitVec 64 :=
  f.job ++ 0#8 ++ BitVec.ofNat 8 f.lost ++ 0#18 ++ bit1 f.supFault ++ bit1 f.held
    ++ f.logEntries ++ 0#7 ++ bit1 f.enable

/-- PMCTL and PMSTAT (R340). -/
def CtxCtl.control (c : CtxCtl) : BitVec 64 :=
  c.job ++ c.parts ++ 0#20 ++ c.op ++ bit1 c.compress ++ 0#2 ++ c.mode ++ 0#3 ++ bit1 c.start
def CtxCtl.statusWord (c : CtxCtl) : BitVec 64 := 0#8 ++ c.pending ++ c.spanned ++ c.kib ++ 0#4 ++ c.result

/-- Registers with one number each; none names no CSR. -/
def State.csrFixed (s : State) (own : Option Nat) (num : Nat) : Option (BitVec 64) :=
  let h := s.fabric.halley
  match num with
  | 0x120 => own.map (fun c => (s.tileErrorsOf c).word)
  | 0x121 => some s.mem.jptb
  | 0x130 => some s.sched.gstart
  | 0x131 => some (s.sched.gjob ++ 0#45 ++ bit1 s.sched.late ++ bit1 s.sched.running ++ bit1 s.sched.arm)
  | 0x132 => some (0#56 ++ bit1 s.fault.supEnable ++ 0#1 ++ s.fault.supQueue)
  | 0x140 => some (0#7 ++ s.fault.base)
  | 0x141 => some s.fault.word
  | 0x142 => some (0#32 ++ s.fault.tail)
  | 0x143 => some (0#32 ++ s.fault.head)
  | 0x144 => some (0#32 ++ s.fault.tail)
  | 0x150 => some s.ctx.control
  | 0x151 => some s.ctx.statusWord
  | 0x152 => some (0#33 ++ s.ctx.base ++ 0#20)
  | 0x153 => some (0#52 ++ s.ctx.mib)
  | 0x154 => some (0#33 ++ s.ctx.off ++ 0#12)
  | 0x155 => some (BitVec.ofNat 64 implId)
  | 0x161 => some (0#33 ++ s.fabric.mgBase ++ 0#17)
  | 0x162 => some (0#55 ++ bit1 s.fabric.mgBusy ++ 0#8)
  | 0x163 => some (0#32 ++ h.master ++ 0#19 ++ bit1 h.enable)
  | 0x164 => some (0#4 ++ h.succ0)
  | 0x165 => some (0#28 ++ h.succ1)
  | 0x166 => some (h.curMaster ++ h.curRank ++ 0#46 ++ bit1 h.frozen ++ bit1 h.synced)
  | 0x170 => some (0#33 ++ s.sec.block ++ 0#7 ++ bit1 s.sec.start)
  | 0x171 =>
    let slots : BitVec 16 := s.sec.slots.zipIdx.foldl (fun m k => if k.1.isSome then m ||| (1#16 <<< k.2) else m) 0#16
    some (slots ++ s.sec.integrity ++ 0#28 ++ s.sec.result)
  | 0x172 => some (s.sec.meas.extractLsb' 0 64)
  | 0x173 => some (s.sec.meas.extractLsb' 64 64)
  | 0x174 => some (s.sec.meas.extractLsb' 128 64)
  | 0x175 => some (s.sec.meas.extractLsb' 192 64)
  | 0x176 => some (0#33 ++ s.sec.image ++ 0#4 ++ s.sec.svnMin ++ s.sec.stage ++ 0#1)
  | 0x177 => some (s.sec.errRegs ++ s.sec.errCorrected)
  | _ => none

/-- The value of a CSR; none when the number names none. `own`: the issuing group's core, `job`: whose dependence counters
are meant (R296). -/
def State.csrRead (s : State) (own : Option Nat) (job : BitVec 16) (num : Nat) : Option (BitVec 64) :=
  if num < 0x180 then s.csrFixed own num
  else if num < 0x184 then some (s.powerOf (num - 0x180)).word
  else if num < 0x800 then none
  else if num < 0x900 then some ((s.queue ((num - 0x800) / 4)).word (num % 4))
  else if num < 0x1000 then none
  else if num < 0x2000 then some (0#32 ++ sget 0#32 s.sched.counters (job.toNat * 4096 + (num - 0x1000)))
  else if num < 0x2132 then some ((s.laser (num - 0x2000)).word (num - 0x2000) s.link.ran)
  else if num < 0x2200 then none
  else if num < 0x2320 then some (s.physical (num - 0x2200)).word
  else if num < 0x3000 then none
  else if num < 0x3400 && coreExists (num - 0x3000) then some (s.tileErrorsOf (num - 0x3000)).word
  else none

/-! ## Writing -/

/-- A write of a launch queue's register (R293, R294, R410). -/
def Queue.written (x : Queue) (i : Nat) (v : BitVec 64) (forceSigned : Bool) : Queue :=
  let y := if i = 3 then x else { x with retry := x.stalled }
  match i with
  | 0 => if x.enable || v.extractLsb' 0 7 != 0#7 then y else { y with base := v.extractLsb' 0 57 }
  | 1 =>
    let log := v.extractLsb' 32 4
    { y with job := v.extractLsb' 48 16, signed := forceSigned || v.getLsbD 1, enable := v.getLsbD 0,
             logEntries := if x.enable then x.logEntries else if log.toNat < 4 then 4#4 else log }
  | 2 => { y with tail := v.extractLsb' 0 32 }
  | _ => y

/-- A write of FRCFG (R320). -/
def FaultUnit.written (f : FaultUnit) (v : BitVec 64) : FaultUnit :=
  { f with job := v.extractLsb' 48 16, supFault := f.supFault && !v.getLsbD 13, enable := v.getLsbD 0,
           logEntries := if f.enable then f.logEntries else v.extractLsb' 8 4 }

/-- A write of PMCTL (R340). -/
def CtxCtl.written (c : CtxCtl) (v : BitVec 64) : CtxCtl :=
  if c.start then c
  else if decide (5 ≤ (v.extractLsb' 9 3).toNat) || v.extractLsb' 4 2 == 3#2 then { c with result := 5#4, start := false }
  else
    { c with job := v.extractLsb' 48 16, parts := v.extractLsb' 32 16, op := v.extractLsb' 9 3, compress := v.getLsbD 8,
             mode := v.extractLsb' 4 2, start := v.getLsbD 0, result := if v.getLsbD 0 then 1#4 else c.result }

/-- Does a saved context use the context area (R340)? -/
def CtxCtl.areaUsed (c : CtxCtl) : Bool := c.saved.any (fun x => !x.overflow.isEmpty)

/-- A write of HALCFG (R402, R403): taking part begins with rank 0 as master. -/
def State.writeHalcfg (s : State) (v : BitVec 64) : State :=
  let h := s.fabric.halley
  if h.enable then s.putHalley { h with enable := v.getLsbD 0 }
  else
    let m := v.extractLsb' 20 12
    if v.getLsbD 0 then
      let h1 := { h with master := m, enable := true, curMaster := m, curRank := 0#4, frozen := false, claim := none,
                         claimed := false, synced := m == s.node, heard := s.time.toNat }
      let s1 := s.putHalley h1
      if h.frozen then s1.freezeOver else s1
    else s.putHalley { h with master := m }

/-- A write of GCTL (R308, R309): a slice armed after its start is late. -/
def State.writeGctl (s : State) (v : BitVec 64) : State :=
  let s1 := { s with sched := { s.sched with
      gjob := v.extractLsb' 48 16, late := s.sched.late && !v.getLsbD 2, arm := v.getLsbD 0,
      excused := s.sched.excused && s.sched.arm, told := s.sched.told && s.sched.arm } }
  if v.getLsbD 0 && !s.sched.arm && decide (s.sched.gstart.toNat < s.time.toNat) then s1.gangLate else s1

/-- Is a register one that the host ports may not write while a key slot is occupied (R410)? -/
def hostBarred (num : Nat) : Bool :=
  num == 0x121 || num == 0x161 || num == 0x140 || num == 0x141 || num == 0x152 || num == 0x153 || num == 0x176

/-- A write to a register with one number (R7 and the maps); registers that are read-only keep their values. -/
def State.csrPut (s : State) (own : Option Nat) (num : Nat) (v : BitVec 64) : State :=
  let h := s.fabric.halley
  match num with
  | 0x120 =>
    match own with
    | some c => if v.getLsbD 39 then
        { s with mem := { s.mem with
            tileErrors := sput TileErrors.reset s.mem.tileErrors c { s.tileErrorsOf c with uncorrectable := false } } } else s
    | none => s
  | 0x121 => { s with mem := { s.mem with jptb := v &&& 0x7FFFF000#64 } }
  | 0x130 => { s with sched := { s.sched with gstart := v } }
  | 0x131 => s.writeGctl v
  | 0x132 => { s with fault := { s.fault with supEnable := v.getLsbD 7, supQueue := v.extractLsb' 0 6 } }
  | 0x140 =>
    if s.fault.enable || v.extractLsb' 0 12 != 0#12 then s else { s with fault := { s.fault with base := v.extractLsb' 0 57 } }
  | 0x141 => { s with fault := s.fault.written v }
  | 0x143 => { s with fault := { s.fault with head := v.extractLsb' 0 32 } }
  | 0x150 => { s with ctx := s.ctx.written v }
  | 0x152 => if s.ctx.areaUsed then s else { s with ctx := { s.ctx with base := v.extractLsb' 20 11 } }
  | 0x153 =>
    if s.ctx.areaUsed || decide (2048 < (v.extractLsb' 0 12).toNat) then s
    else { s with ctx := { s.ctx with mib := v.extractLsb' 0 12 } }
  | 0x154 => { s with ctx := { s.ctx with off := v.extractLsb' 12 19 } }
  | 0x161 => if s.fabric.mgBusy then s else { s with fabric := { s.fabric with mgBase := v.extractLsb' 17 14 } }
  | 0x162 =>
    if s.fabric.mgBusy then s else { s with fabric := { s.fabric with mgGroup := v.extractLsb' 0 8, mgBusy := true } }
  | 0x163 => s.writeHalcfg v
  | 0x164 => if h.enable then s else s.putHalley { h with succ0 := v.extractLsb' 0 60 }
  | 0x165 => if h.enable then s else s.putHalley { h with succ1 := v.extractLsb' 0 36 }
  | 0x170 =>
    if s.sec.start then s else { s with sec := { s.sec with block := v.extractLsb' 8 23, start := v.getLsbD 0 } }
  | 0x176 =>
    { s with sec := { s.sec with
        image := v.extractLsb' 12 19, stage := if v.getLsbD 0 && s.sec.stage == 0#3 then 1#3 else s.sec.stage } }
  | _ => s

/-- A write to a CSR (R7): `who` decides what R410 forbids. -/
def State.csrWrite (s : State) (who : Writer) (own : Option Nat) (job : BitVec 16) (num : Nat) (v : BitVec 64) : State :=
  let port := who != .group && s.anySlot
  if port && hostBarred num then s
  else if num < 0x180 then s.csrPut own num v
  else if num < 0x184 then
    (if v.getLsbD 48 then s.putPower (num - 0x180) (s.powerOf (num - 0x180)).restart else s)
  else if num < 0x800 then s
  else if num < 0x900 then
    let q := (num - 0x800) / 4
    s.putQueue q ((s.queue q).written (num % 4) v port)
  else if num < 0x1000 then s
  else if num < 0x2000 then
    { s with sched := { s.sched with
        counters := sput 0#32 s.sched.counters (job.toNat * 4096 + (num - 0x1000)) (v.extractLsb' 0 32) } }
  else if num < 0x2132 then
    (if v.getLsbD 2 then s.putLaser (num - 0x2000) (s.laser (num - 0x2000)).clearAged else s)
  else if num < 0x2200 then s
  else if num < 0x2320 then
    (if v.getLsbD 8 then s.putLink (num - 0x2200) { s.physical (num - 0x2200) with changed := false } else s)
  else if num < 0x3000 then s
  else if num < 0x3400 && coreExists (num - 0x3000) then s.csrPut (some (num - 0x3000)) 0x120 v
  else s

/-- CSR_WRITE (R7, R410, R425): a write by the host port (BAR0), the management port, or a privileged group. -/
def execCsrWrite (who : Writer) (num : BitVec 16) (value : BitVec 64) (s : State) : Out :=
  let own := if who = .group then some s.cur.id.core else none
  .next (s.csrWrite who own (if who = .group then s.cur.id.job else s.fault.job) num.toNat value)

/-! ## CSRRD, CSRWR, FRWAIT (R322, R335) -/

/-- A CSR fault (R335). -/
def State.csrFault (s : State) : State := s.trap0 4 10

/-- CSRRD (R322, R334, R335): FRTAIL and FRWAIT are acquires at .pkg (R321). -/
def execCsrrd (a d : BitVec 6) (s : State) : Out :=
  let x := s.getS a
  let num := (x.extractLsb' 0 16).toNat
  .next (s.privileged (
    if x.extractLsb' 16 48 != 0#48 then s.csrFault
    else
      match s.csrRead (some s.cur.id.core) s.cur.id.job num with
      | none => s.csrFault
      | some v =>
        if num = 0x144 && s.fault.head == s.fault.tail then s.waitAt .frwait
        else
          let s1 := s.putS d v
          (if num = 0x142 || num = 0x144 then s1.acquire 5 else s1).advance))

/-- CSRWR (R334, R335): it holds issue until the group's earlier accesses are performed. -/
def execCsrwr (a b : BitVec 6) (s : State) : Out :=
  let x := s.getS a
  let num := (x.extractLsb' 0 16).toNat
  .next (s.privileged (
    if x.extractLsb' 16 48 != 0#48 || (s.csrRead (some s.cur.id.core) s.cur.id.job num).isNone then s.csrFault
    else
      s.release false 5 (fun t => (t.csrWrite .group (some t.cur.id.core) t.cur.id.job num (s.getS b)).advance)))

/-- A fragment held at FRWAIT is ready. -/
def Frag.frwaited (f : Frag) : Frag := if f.wait = .frwait then { f with wait := .ready } else f

/-- FRWAIT (R322): the hold ends once head differs from tail; the CSRRD then returns tail. -/
def execFrwait (s : State) : Out :=
  .next (if s.fault.head == s.fault.tail then s
  else s.mapGroups (fun g => { g with frag := g.frag.frwaited, sibs := g.sibs.map Frag.frwaited }))

/-! ## The management port (R410, R427) -/

/-- Answer a frame, once for each sequence number (R427). -/
def State.replyFrame (s : State) (seq num : BitVec 16) (run : State → State × BitVec 64 × List Byte) : State :=
  match s.mgmt.seen.find? (fun x => x.1 == seq) with
  | some (_, f) => { s with mgmt := { s.mgmt with out := s.mgmt.out ++ [f] } }
  | none =>
    let r := run s
    r.1.answerFrame seq num r.2.1 r.2.2

/-- MGMT_CSR_READ (R427): a number that names no CSR reads 0. -/
def execMgmtCsrRead (seq num : BitVec 16) (s : State) : Out :=
  .next (s.replyFrame seq num (fun t => (t, (t.csrRead none t.fault.job num.toNat).getD 0#64, [])))

/-- MGMT_CSR_WRITE (R410, R427). -/
def execMgmtCsrWrite (seq num : BitVec 16) (value : BitVec 64) (s : State) : Out :=
  .next (s.replyFrame seq num (fun t => (t.csrWrite .mgmt none t.fault.job num.toNat value, 0#64, [])))

/-- MGMT_SECURITY_COMMAND (R409, R427): the block comes with the frame; whether a module fails in CKSAVE or CKREST is not the
package's choice. A PAIR is answered when it ends. -/
def execMgmtSecurityCommand (seq : BitVec 16) (block : List Byte) (s : State) : Out :=
  .next (if s.sec.start then s
  else
    match s.mgmt.seen.find? (fun x => x.1 == seq) with
    | some (_, f) => { s with mgmt := { s.mgmt with out := s.mgmt.out ++ [f] } }
    | none =>
      let b := (List.range 256).map (fun i => block.getD i 0#8)
      let r := s.drawn.runCommand b (s.freeNow.getLsbD 0)
      match r.result with
      | some x => (r.st.secEnds x).answerFrame seq 0#16 (BitVec.ofNat 64 x) r.block
      | none =>
        { r.st with sec := { r.st.sec with
            start := true, pair := r.st.sec.pair.map (fun (w : PairWait) => { w with frame := some seq }) } })

/-- MGMT_REPLY (R410, R427). -/
def execMgmtReply (msg : MgmtMessage) (s : State) : Out :=
  .next (match msg with
  | .reply seq => { s with mgmt := { s.mgmt with unanswered := s.mgmt.unanswered.filter (fun f => f.seq != seq) } }
  | .pair node job measurement svn quoteOk holdsKeys keys => s.paired node job measurement svn quoteOk holdsKeys keys)

/-- MGMT_FRAME_RETRY (R427). -/
def execMgmtFrameRetry (seq : BitVec 16) (s : State) : Out :=
  .next (match s.mgmt.unanswered.find? (fun f => f.seq == seq) with
  | some f => { s with mgmt := { s.mgmt with out := s.mgmt.out ++ [f] } }
  | none => s)

end Sys2Proof.Machine
end

