-- ==== Sys2Proof/Machine/Dispatch.lean ====
section
/-! DEFINITION. The one dispatch over the instructions: one arm for each constructor, each a direct call of its meaning. -/

namespace Sys2Proof.Machine

/-- Execute an instruction: one arm for each constructor. -/
def exec (i : Instr) (s : State) : Host.Outcome State Fault Refusal :=
  match i with
  | .nop => Sys2Proof.Machine.execNop s
  | .yield => Sys2Proof.Machine.execYield s
  | .waitf m => Sys2Proof.Machine.execWaitf m s
  | .bra o => Sys2Proof.Machine.execBra o s
  | .call o => Sys2Proof.Machine.execCall o s
  | .bk k o => Sys2Proof.Machine.execBk k o s
  | .bkNot k o => Sys2Proof.Machine.execBkNot k o s
  | .bpAny p o => Sys2Proof.Machine.execBpAny p o s
  | .bpAll p o => Sys2Proof.Machine.execBpAll p o s
  | .ret sr => Sys2Proof.Machine.execRet sr s
  | .jmpr sr => Sys2Proof.Machine.execJmpr sr s
  | .join => Sys2Proof.Machine.execJoin s
  | .exit => Sys2Proof.Machine.execExit s
  | .bdv p t j => Sys2Proof.Machine.execBdv p t j s
  | .splitRefill => Sys2Proof.Machine.execSplitRefill s
  | .sadd d a b => Sys2Proof.Machine.execSadd d a b s
  | .ssub d a b => Sys2Proof.Machine.execSsub d a b s
  | .smul d a b => Sys2Proof.Machine.execSmul d a b s
  | .smulh d a b => Sys2Proof.Machine.execSmulh d a b s
  | .sdiv d a b => Sys2Proof.Machine.execSdiv d a b s
  | .srem d a b => Sys2Proof.Machine.execSrem d a b s
  | .sand d a b => Sys2Proof.Machine.execSand d a b s
  | .sor d a b => Sys2Proof.Machine.execSor d a b s
  | .sxor d a b => Sys2Proof.Machine.execSxor d a b s
  | .sandn d a b => Sys2Proof.Machine.execSandn d a b s
  | .sshl d a b => Sys2Proof.Machine.execSshl d a b s
  | .sshr d a b => Sys2Proof.Machine.execSshr d a b s
  | .ssra d a b => Sys2Proof.Machine.execSsra d a b s
  | .srot d a b => Sys2Proof.Machine.execSrot d a b s
  | .smin d a b => Sys2Proof.Machine.execSmin d a b s
  | .smax d a b => Sys2Proof.Machine.execSmax d a b s
  | .sminn d a b => Sys2Proof.Machine.execSminn d a b s
  | .smaxn d a b => Sys2Proof.Machine.execSmaxn d a b s
  | .sclz d a => Sys2Proof.Machine.execSclz d a s
  | .spop d a => Sys2Proof.Machine.execSpop d a s
  | .sbrev d a => Sys2Proof.Machine.execSbrev d a s
  | .ssextB8 d a => Sys2Proof.Machine.execSsextB8 d a s
  | .ssextB16 d a => Sys2Proof.Machine.execSsextB16 d a s
  | .ssextB32 d a => Sys2Proof.Machine.execSsextB32 d a s
  | .szextB8 d a => Sys2Proof.Machine.execSzextB8 d a s
  | .szextB16 d a => Sys2Proof.Machine.execSzextB16 d a s
  | .szextB32 d a => Sys2Proof.Machine.execSzextB32 d a s
  | .ssel d a b k => Sys2Proof.Machine.execSsel d a b k s
  | .smov d a => Sys2Proof.Machine.execSmov d a s
  | .scmp k a b c => Sys2Proof.Machine.execScmp k a b c s
  | .slea d a b h => Sys2Proof.Machine.execSlea d a b h s
  | .launch d a => Sys2Proof.Machine.execLaunch d a s
  | .saddi d im => Sys2Proof.Machine.execSaddi d im s
  | .sandi d im => Sys2Proof.Machine.execSandi d im s
  | .sori d im => Sys2Proof.Machine.execSori d im s
  | .sxori d im => Sys2Proof.Machine.execSxori d im s
  | .sshli d im => Sys2Proof.Machine.execSshli d im s
  | .sshri d im => Sys2Proof.Machine.execSshri d im s
  | .ssrai d im => Sys2Proof.Machine.execSsrai d im s
  | .scmpi n c im => Sys2Proof.Machine.execScmpi n c im s
  | .sli d im => Sys2Proof.Machine.execSli d im s
  | .slih d im => Sys2Proof.Machine.execSlih d im s
  | .srd d e => Sys2Proof.Machine.execSrd d e s
  | .swr d e => Sys2Proof.Machine.execSwr d e s
  | .lds d a w sr => Sys2Proof.Machine.execLds d a w sr s
  | .sts d a w sr => Sys2Proof.Machine.execSts d a w sr s
  | .vadd d a b => Sys2Proof.Machine.execVadd d a b s
  | .vsub d a b => Sys2Proof.Machine.execVsub d a b s
  | .vmul d a b => Sys2Proof.Machine.execVmul d a b s
  | .vfma d a b => Sys2Proof.Machine.execVfma d a b s
  | .vfms d a b => Sys2Proof.Machine.execVfms d a b s
  | .vfnma d a b => Sys2Proof.Machine.execVfnma d a b s
  | .vfnms d a b => Sys2Proof.Machine.execVfnms d a b s
  | .vdiv d a b => Sys2Proof.Machine.execVdiv d a b s
  | .vmin d a b => Sys2Proof.Machine.execVmin d a b s
  | .vmax d a b => Sys2Proof.Machine.execVmax d a b s
  | .vclamp d a b => Sys2Proof.Machine.execVclamp d a b s
  | .vscale d a b => Sys2Proof.Machine.execVscale d a b s
  | .vcmp p a b c => Sys2Proof.Machine.execVcmp p a b c s
  | .vcmpc p a b c => Sys2Proof.Machine.execVcmpc p a b c s
  | .vsel d a b n => Sys2Proof.Machine.execVsel d a b n s
  | .vaddPair d a b t => Sys2Proof.Machine.execVaddPair d a b t s
  | .vsubPair d a b t => Sys2Proof.Machine.execVsubPair d a b t s
  | .vmulPair d a b t => Sys2Proof.Machine.execVmulPair d a b t s
  | .vfmaPair d a b t => Sys2Proof.Machine.execVfmaPair d a b t s
  | .vfmsPair d a b t => Sys2Proof.Machine.execVfmsPair d a b t s
  | .vfnmaPair d a b t => Sys2Proof.Machine.execVfnmaPair d a b t s
  | .vfnmsPair d a b t => Sys2Proof.Machine.execVfnmsPair d a b t s
  | .vminPair d a b t => Sys2Proof.Machine.execVminPair d a b t s
  | .vmaxPair d a b t => Sys2Proof.Machine.execVmaxPair d a b t s
  | .vclampPair d a b t => Sys2Proof.Machine.execVclampPair d a b t s
  | .vdot2 d a b t => Sys2Proof.Machine.execVdot2 d a b t s
  | .vdot4 d a b t => Sys2Proof.Machine.execVdot4 d a b t s
  | .viadd d a b => Sys2Proof.Machine.execViadd d a b s
  | .visub d a b => Sys2Proof.Machine.execVisub d a b s
  | .vimul d a b => Sys2Proof.Machine.execVimul d a b s
  | .vimulhI32 d a b => Sys2Proof.Machine.execVimulhI32 d a b s
  | .vimulhN32 d a b => Sys2Proof.Machine.execVimulhN32 d a b s
  | .vimad d a b => Sys2Proof.Machine.execVimad d a b s
  | .vimin d a b => Sys2Proof.Machine.execVimin d a b s
  | .vimax d a b => Sys2Proof.Machine.execVimax d a b s
  | .viminn d a b => Sys2Proof.Machine.execViminn d a b s
  | .vimaxn d a b => Sys2Proof.Machine.execVimaxn d a b s
  | .viabs d a => Sys2Proof.Machine.execViabs d a s
  | .viand d a b => Sys2Proof.Machine.execViand d a b s
  | .vior d a b => Sys2Proof.Machine.execVior d a b s
  | .vixor d a b => Sys2Proof.Machine.execVixor d a b s
  | .viandn d a b => Sys2Proof.Machine.execViandn d a b s
  | .vishl d a b => Sys2Proof.Machine.execVishl d a b s
  | .vishr d a b => Sys2Proof.Machine.execVishr d a b s
  | .visra d a b => Sys2Proof.Machine.execVisra d a b s
  | .vpop d a => Sys2Proof.Machine.execVpop d a s
  | .vclz d a => Sys2Proof.Machine.execVclz d a s
  | .vbfe d a b => Sys2Proof.Machine.execVbfe d a b s
  | .vbfi d a b => Sys2Proof.Machine.execVbfi d a b s
  | .vprm d a b => Sys2Proof.Machine.execVprm d a b s
  | .vicmp p a b c => Sys2Proof.Machine.execVicmp p a b c s
  | .vaddImm d im => Sys2Proof.Machine.execVaddImm d im s
  | .vmulImm d im => Sys2Proof.Machine.execVmulImm d im s
  | .vminImm d im => Sys2Proof.Machine.execVminImm d im s
  | .vmaxImm d im => Sys2Proof.Machine.execVmaxImm d im s
  | .viaddImm d im => Sys2Proof.Machine.execViaddImm d im s
  | .viandImm d im => Sys2Proof.Machine.execViandImm d im s
  | .viorImm d im => Sys2Proof.Machine.execViorImm d im s
  | .vixorImm d im => Sys2Proof.Machine.execVixorImm d im s
  | .vishlImm d im => Sys2Proof.Machine.execVishlImm d im s
  | .vishrImm d im => Sys2Proof.Machine.execVishrImm d im s
  | .visraImm d im => Sys2Proof.Machine.execVisraImm d im s
  | .vmoviF32 d im => Sys2Proof.Machine.execVmoviF32 d im s
  | .vmoviB32 d im => Sys2Proof.Machine.execVmoviB32 d im s
  | .vmoviF16x2 d im => Sys2Proof.Machine.execVmoviF16x2 d im s
  | .vmoviF8e4x2 d im => Sys2Proof.Machine.execVmoviF8e4x2 d im s
  | .vmoviF8e5x2 d im => Sys2Proof.Machine.execVmoviF8e5x2 d im s
  | .vsqrt d a => Sys2Proof.Machine.execVsqrt d a s
  | .vrsq d a => Sys2Proof.Machine.execVrsq d a s
  | .vrcp d a => Sys2Proof.Machine.execVrcp d a s
  | .vabs d a => Sys2Proof.Machine.execVabs d a s
  | .vneg d a => Sys2Proof.Machine.execVneg d a s
  | .vexp2 d a => Sys2Proof.Machine.execVexp2 d a s
  | .vlog2 d a => Sys2Proof.Machine.execVlog2 d a s
  | .vsinp d a => Sys2Proof.Machine.execVsinp d a s
  | .vcosp d a => Sys2Proof.Machine.execVcosp d a s
  | .vtanh d a => Sys2Proof.Machine.execVtanh d a s
  | .vrnd d a => Sys2Proof.Machine.execVrnd d a s
  | .vgetexp d a => Sys2Proof.Machine.execVgetexp d a s
  | .vgetman d a => Sys2Proof.Machine.execVgetman d a s
  | .vcvt d a y x => Sys2Proof.Machine.execVcvt d a y x s
  | .vmov d a => Sys2Proof.Machine.execVmov d a s
  | .vmovLane d => Sys2Proof.Machine.execVmovLane d s
  | .vmovs d sr => Sys2Proof.Machine.execVmovs d sr s
  | .vshfl d a b => Sys2Proof.Machine.execVshfl d a b s
  | .vrotw d a g n => Sys2Proof.Machine.execVrotw d a g n s
  | .vxorw d a m => Sys2Proof.Machine.execVxorw d a m s
  | .vbcst d a j => Sys2Proof.Machine.execVbcst d a j s
  | .vbcstFirst d a => Sys2Proof.Machine.execVbcstFirst d a s
  | .vrstep d a o sr => Sys2Proof.Machine.execVrstep d a o sr s
  | .vred e a o => Sys2Proof.Machine.execVred e a o s
  | .vscan d a o x => Sys2Proof.Machine.execVscan d a o x s
  | .vmatch d a k => Sys2Proof.Machine.execVmatch d a k s
  | .vball e p => Sys2Proof.Machine.execVball e p s
  | .vcomp d a p => Sys2Proof.Machine.execVcomp d a p s
  | .pand d a b => Sys2Proof.Machine.execPand d a b s
  | .por d a b => Sys2Proof.Machine.execPor d a b s
  | .pxor d a b => Sys2Proof.Machine.execPxor d a b s
  | .pnot d a => Sys2Proof.Machine.execPnot d a s
  | .pmov d a => Sys2Proof.Machine.execPmov d a s
  | .pset d sr => Sys2Proof.Machine.execPset d sr s
  | .ppop sr p => Sys2Proof.Machine.execPpop sr p s
  | .exrd sr => Sys2Proof.Machine.execExrd sr s
  | .exwr p => Sys2Proof.Machine.execExwr p s
  | .ld d sr v w x => Sys2Proof.Machine.execLd d sr v w x s
  | .st d sr v w x => Sys2Proof.Machine.execSt d sr v w x s
  | .scopedLd d sr v c => Sys2Proof.Machine.execScopedLd d sr v c s
  | .scopedSt d sr v c => Sys2Proof.Machine.execScopedSt d sr v c s
  | .cas d sr v c => Sys2Proof.Machine.execCas d sr v c s
  | .atomAdd d sr v c => Sys2Proof.Machine.execAtomAdd d sr v c s
  | .atomAnd d sr v c => Sys2Proof.Machine.execAtomAnd d sr v c s
  | .atomOr d sr v c => Sys2Proof.Machine.execAtomOr d sr v c s
  | .atomXor d sr v c => Sys2Proof.Machine.execAtomXor d sr v c s
  | .atomMin d sr v c => Sys2Proof.Machine.execAtomMin d sr v c s
  | .atomMax d sr v c => Sys2Proof.Machine.execAtomMax d sr v c s
  | .atomMinn d sr v c => Sys2Proof.Machine.execAtomMinn d sr v c s
  | .atomMaxn d sr v c => Sys2Proof.Machine.execAtomMaxn d sr v c s
  | .atomExch d sr v c => Sys2Proof.Machine.execAtomExch d sr v c s
  | .atomFadd d sr v c => Sys2Proof.Machine.execAtomFadd d sr v c s
  | .fence o c => Sys2Proof.Machine.execFence o c s
  | .cflush l sr => Sys2Proof.Machine.execCflush l sr s
  | .cinv l sr => Sys2Proof.Machine.execCinv l sr s
  | .cinvI l sr => Sys2Proof.Machine.execCinvI l sr s
  | .tbar n b sr c => Sys2Proof.Machine.execTbar n b sr c s
  | .tbara n b sr c => Sys2Proof.Machine.execTbara n b sr c s
  | .tbarw b c => Sys2Proof.Machine.execTbarw b c s
  | .cbar n b sr c => Sys2Proof.Machine.execCbar n b sr c s
  | .mma a b r => Sys2Proof.Machine.execMma a b r s
  | .mmas a b r => Sys2Proof.Machine.execMmas a b r s
  | .mmao a b r => Sys2Proof.Machine.execMmao a b r s
  | .mzero n => Sys2Proof.Machine.execMzero n s
  | .mrd a b c l => Sys2Proof.Machine.execMrd a b c l s
  | .mwr a r l => Sys2Proof.Machine.execMwr a r l s
  | .mepi a b c l => Sys2Proof.Machine.execMepi a b c l s
  | .mrdy => Sys2Proof.Machine.execMrdy s
  | .mfen a b => Sys2Proof.Machine.execMfen a b s
  | .mwait b => Sys2Proof.Machine.execMwait b s
  | .mstatReset a => Sys2Proof.Machine.execMstatReset a s
  | .mstatMax a => Sys2Proof.Machine.execMstatMax a s
  | .mstatRead a => Sys2Proof.Machine.execMstatRead a s
  | .matrixWordComplete => Sys2Proof.Machine.execMatrixWordComplete s
  | .tdef a b r => Sys2Proof.Machine.execTdef a b r s
  | .trel a => Sys2Proof.Machine.execTrel a s
  | .tstate a d => Sys2Proof.Machine.execTstate a d s
  | .tfetch a b c r => Sys2Proof.Machine.execTfetch a b c r s
  | .tgath a b c r => Sys2Proof.Machine.execTgath a b c r s
  | .tcommit a b c => Sys2Proof.Machine.execTcommit a b c s
  | .twin a => Sys2Proof.Machine.execTwin a s
  | .twinRd a => Sys2Proof.Machine.execTwinRd a s
  | .abar a => Sys2Proof.Machine.execAbar a s
  | .abwait a => Sys2Proof.Machine.execAbwait a s
  | .rginit a => Sys2Proof.Machine.execRginit a s
  | .rgawait a d => Sys2Proof.Machine.execRgawait a d s
  | .rgrel a => Sys2Proof.Machine.execRgrel a s
  | .vdecode a => Sys2Proof.Machine.execVdecode a s
  | .rshard a b c => Sys2Proof.Machine.execRshard a b c s
  | .rsstop a => Sys2Proof.Machine.execRsstop a s
  | .rsstat a d => Sys2Proof.Machine.execRsstat a d s
  | .rsplan a b c => Sys2Proof.Machine.execRsplan a b c s
  | .tcopy a b c => Sys2Proof.Machine.execTcopy a b c s
  | .tfill a b c => Sys2Proof.Machine.execTfill a b c s
  | .tredf a b c o => Sys2Proof.Machine.execTredf a b c o s
  | .signal a b c f => Sys2Proof.Machine.execSignal a b c f s
  | .fflag a b w => Sys2Proof.Machine.execFflag a b w s
  | .pbar a => Sys2Proof.Machine.execPbar a s
  | .mcst a b f => Sys2Proof.Machine.execMcst a b f s
  | .trap n b g => Sys2Proof.Machine.execTrap n b g s
  | .bkpt n => Sys2Proof.Machine.execBkpt n s
  | .watch a b => Sys2Proof.Machine.execWatch a b s
  | .gstop a b => Sys2Proof.Machine.execGstop a b s
  | .gresumeRetry a b w => Sys2Proof.Machine.execGresumeRetry a b w s
  | .gresumeFmask a b w => Sys2Proof.Machine.execGresumeFmask a b w s
  | .gresumeSkip a b w => Sys2Proof.Machine.execGresumeSkip a b w s
  | .gkill a b => Sys2Proof.Machine.execGkill a b s
  | .csrrd a d => Sys2Proof.Machine.execCsrrd a d s
  | .csrwr a b => Sys2Proof.Machine.execCsrwr a b s
  | .tlbinv a r => Sys2Proof.Machine.execTlbinv a r s
  | .hrun l w a b => Sys2Proof.Machine.execHrun l w a b s
  | .hend f x y z => Sys2Proof.Machine.execHend f x y z s
  | .himm p => Sys2Proof.Machine.execHimm p s
  | .hmod g n p r m c o w sr => Sys2Proof.Machine.execHmod g n p r m c o w sr s
  | .runStart => Sys2Proof.Machine.execRunStart s
  | .resultCommit im => Sys2Proof.Machine.execResultCommit im s
  | .earlyDecision im => Sys2Proof.Machine.execEarlyDecision im s
  | .queueTakeRecord q => Sys2Proof.Machine.execQueueTakeRecord q s
  | .placeCluster => Sys2Proof.Machine.execPlaceCluster s
  | .swapOut c => Sys2Proof.Machine.execSwapOut c s
  | .launchComplete grid => Sys2Proof.Machine.execLaunchComplete grid s
  | .gangSliceStart => Sys2Proof.Machine.execGangSliceStart s
  | .fetchArrival id => Sys2Proof.Machine.execFetchArrival id s
  | .commitComplete id => Sys2Proof.Machine.execCommitComplete id s
  | .moduleCommandComplete id => Sys2Proof.Machine.execModuleCommandComplete id s
  | .fetchEngineReset => Sys2Proof.Machine.execFetchEngineReset s
  | .strudelPlanning => Sys2Proof.Machine.execStrudelPlanning s
  | .boxComplete => Sys2Proof.Machine.execBoxComplete s
  | .faultRecordPost => Sys2Proof.Machine.execFaultRecordPost s
  | .frwait => Sys2Proof.Machine.execFrwait s
  | .csrWrite who num value => Sys2Proof.Machine.execCsrWrite who num value s
  | .ctxSave => Sys2Proof.Machine.execCtxSave s
  | .ctxRestore => Sys2Proof.Machine.execCtxRestore s
  | .ctxExport => Sys2Proof.Machine.execCtxExport s
  | .ctxImport => Sys2Proof.Machine.execCtxImport s
  | .ctxDiscard => Sys2Proof.Machine.execCtxDiscard s
  | .classAcknowledge c => Sys2Proof.Machine.execClassAcknowledge c s
  | .slowAcknowledgement => Sys2Proof.Machine.execSlowAcknowledgement s
  | .flitReceive l flit => Sys2Proof.Machine.execFlitReceive l flit s
  | .replayTimeout l => Sys2Proof.Machine.execReplayTimeout l s
  | .laneLost n pos line => Sys2Proof.Machine.execLaneLost n pos line s
  | .laserLost n => Sys2Proof.Machine.execLaserLost n s
  | .retrainingEnd n => Sys2Proof.Machine.execRetrainingEnd n s
  | .linkTraining n => Sys2Proof.Machine.execLinkTraining n s
  | .trainingEnd n dark => Sys2Proof.Machine.execTrainingEnd n dark s
  | .trainingTimeout n => Sys2Proof.Machine.execTrainingTimeout n s
  | .laserAgeing n ratio => Sys2Proof.Machine.execLaserAgeing n ratio s
  | .e2eTimerExpiry tag => Sys2Proof.Machine.execE2eTimerExpiry tag s
  | .responseReceive pk => Sys2Proof.Machine.execResponseReceive pk s
  | .requestArrival pk => Sys2Proof.Machine.execRequestArrival pk s
  | .requestRecordExpiry src tag => Sys2Proof.Machine.execRequestRecordExpiry src tag s
  | .notResidentRetry tag => Sys2Proof.Machine.execNotResidentRetry tag s
  | .holdNotice tag => Sys2Proof.Machine.execHoldNotice tag s
  | .mergeHoldLapse id => Sys2Proof.Machine.execMergeHoldLapse id s
  | .relayForward pk => Sys2Proof.Machine.execRelayForward pk s
  | .combineHoldExpiry id => Sys2Proof.Machine.execCombineHoldExpiry id s
  | .routeMarkLapse dst col => Sys2Proof.Machine.execRouteMarkLapse dst col s
  | .cancel pk => Sys2Proof.Machine.execCancel pk s
  | .cancelTimeout tag => Sys2Proof.Machine.execCancelTimeout tag s
  | .coalesceHoldExpiry id => Sys2Proof.Machine.execCoalesceHoldExpiry id s
  | .signalData pk => Sys2Proof.Machine.execSignalData pk s
  | .signalBusyRetry tag => Sys2Proof.Machine.execSignalBusyRetry tag s
  | .fflagStore id => Sys2Proof.Machine.execFflagStore id s
  | .mcstData pk => Sys2Proof.Machine.execMcstData pk s
  | .phaseBoundary => Sys2Proof.Machine.execPhaseBoundary s
  | .podBarrierState pk => Sys2Proof.Machine.execPodBarrierState pk s
  | .timePacket master time => Sys2Proof.Machine.execTimePacket master time s
  | .timeSilence => Sys2Proof.Machine.execTimeSilence s
  | .electionClaim => Sys2Proof.Machine.execElectionClaim s
  | .claimReceive rank node => Sys2Proof.Machine.execClaimReceive rank node s
  | .masterInstall => Sys2Proof.Machine.execMasterInstall s
  | .secBind => Sys2Proof.Machine.execSecBind s
  | .secPair => Sys2Proof.Machine.execSecPair s
  | .secQuote => Sys2Proof.Machine.execSecQuote s
  | .secSeal => Sys2Proof.Machine.execSecSeal s
  | .secUnseal => Sys2Proof.Machine.execSecUnseal s
  | .cksave failed => Sys2Proof.Machine.execCksave failed s
  | .ckrest failed => Sys2Proof.Machine.execCkrest failed s
  | .secUnbind => Sys2Proof.Machine.execSecUnbind s
  | .bootGo => Sys2Proof.Machine.execBootGo s
  | .installEntry => Sys2Proof.Machine.execInstallEntry s
  | .minRst die => Sys2Proof.Machine.execMinRst die s
  | .supplySag die => Sys2Proof.Machine.execSupplySag die s
  | .clockStepUp die => Sys2Proof.Machine.execClockStepUp die s
  | .thermalLimit die temp => Sys2Proof.Machine.execThermalLimit die temp s
  | .hostMemoryAccess write addr bytes => Sys2Proof.Machine.execHostMemoryAccess write addr bytes s
  | .mgmtCsrRead seq num => Sys2Proof.Machine.execMgmtCsrRead seq num s
  | .mgmtCsrWrite seq num value => Sys2Proof.Machine.execMgmtCsrWrite seq num value s
  | .mgmtSecurityCommand seq block => Sys2Proof.Machine.execMgmtSecurityCommand seq block s
  | .mgmtReply msg => Sys2Proof.Machine.execMgmtReply msg s
  | .packageReset => Sys2Proof.Machine.execPackageReset s
  | .commitTileReadDone id => Sys2Proof.Machine.execCommitTileReadDone id s
  | .pairTimeout => Sys2Proof.Machine.execPairTimeout s
  | .mgmtFrameRetry seq => Sys2Proof.Machine.execMgmtFrameRetry seq s
  | .litIntervalStart => Sys2Proof.Machine.execLitIntervalStart s

end Sys2Proof.Machine
end

