-- ==== Sys2Proof/Machine/BitErrors.lean ====
section
/-! DEFINITION. Bit errors of the stores of the package (R162, R165, R172, R345, R423): what the environment does to them, and
what their checks make of it. -/

namespace Sys2Proof.Machine

/-- A counter of ERRCNT, which saturates (R423). -/
def countUp (x : BitVec 32) : BitVec 32 := if x = 0xFFFFFFFF#32 then x else x + 1#32

/-- An error of ERRCNT.corrected has been corrected (R423). -/
def State.errorCorrected (s : State) : State := { s with sec := { s.sec with errCorrected := countUp s.sec.errCorrected } }

/-- A cell of a group's register files reads as an undefined value (R423). -/
def Regs.struck (r : Regs) (c : RegCell) (x : BitVec 64) : Regs :=
  match c with
  | .vector n l =>
    { r with v := sput zeroLanes r.v n ((sget zeroLanes r.v n).set l (x.extractLsb' 0 32)) }
  | .scalar n => { r with s := sput 0#64 r.s n x }
  | .acc row col => { r with ac := sput zeroRow r.ac row ((sget zeroRow r.ac row).set col (x.extractLsb' 0 56)) }

/-- An error of a word of tile memory (R162): its code shows it, or, rarely, does not. -/
def Mem.tileStruck (m : Mem) (core bank row : Nat) (shown : Bool) (seed : Nat) : Mem :=
  let w := core * 2 ^ 17 + row * 32 + bank
  if 32 ≤ bank then
    (if shown then { m with tileFlaw := sput false m.tileFlaw (2 ^ 40 + (core * 4 + (bank - 32)) * 4096 + row) true } else m)
  else if shown then { m with tileFlaw := sput false m.tileFlaw w true }
  else { m with tile := writeBytes m.tile (16 * w) (freeBytes seed 2) }

/-- A bit error strikes (R162, R172, R345, R423), or a module returns another pair of bytes and tag (R416: whether the tag passes
is decided where the line is read). A single error of a SECDED word is corrected when it strikes (log 110). -/
def State.struck (s : State) (e : BitError) : State :=
  match e with
  | .tile core bank row shown => { (if shown then s else s.drew 2) with mem := s.mem.tileStruck core bank row shown s.fresh }
  | .package w double =>
    if double then { s with mem := { s.mem with pkgPoison := sput false s.mem.pkgPoison w true } }
    else { s with mem := { s.mem with corrections := s.mem.corrections + 1 } }
  | .register owner c double =>
    if double then
      let s1 := { s with sec := { s.sec with errRegs := countUp s.sec.errRegs } }
      s1.drawn.onGroup owner.1 owner.2.1 owner.2.2.1 owner.2.2.2 (fun g => { g with regs := g.regs.struck c s.freeNow })
    else s.errorCorrected
  | .l1 core line => { s with mem := s.mem.l1Drop core 0 line }.errorCorrected
  | .far line => { s with mem := { s.mem with farPoison := sput false s.mem.farPoison line true } }
  | .returns line bs tag =>
    { s with mem := { s.mem with far := writeBytes s.mem.far (256 * line) (bs.take 256) },
             sec := { s.sec with tags := sput none s.sec.tags line tag } }
  | .shadow owner double =>
    if double then { s with ctx := { s.ctx with flawed := owner :: s.ctx.flawed } }
    else { s with mem := { s.mem with corrections := s.mem.corrections + 1 } }

end Sys2Proof.Machine
end

