-- ==== Sys2Proof/Machine/Events.lean ====
section
/-! DEFINITION. The event of the agenda or of a unit, run by its meaning. -/

namespace Sys2Proof.Machine

/-- Run an event by the meaning of its Instr constructor; a bit error strikes. -/
def runEvent (e : Event) (s : State) : Out :=
  match e with
  | .splitRefill => execSplitRefill s
  | .matrixWordComplete => execMatrixWordComplete s
  | .runStart => execRunStart s
  | .resultCommit i => execResultCommit i s
  | .earlyDecision i => execEarlyDecision i s
  | .queueTakeRecord q => execQueueTakeRecord q s
  | .placeCluster => execPlaceCluster s
  | .swapOut c => execSwapOut c s
  | .launchComplete grid => execLaunchComplete grid s
  | .gangSliceStart => execGangSliceStart s
  | .fetchArrival id => execFetchArrival id s
  | .commitComplete id => execCommitComplete id s
  | .moduleCommandComplete id => execModuleCommandComplete id s
  | .fetchEngineReset => execFetchEngineReset s
  | .strudelPlanning => execStrudelPlanning s
  | .boxComplete => execBoxComplete s
  | .faultRecordPost => execFaultRecordPost s
  | .frwait => execFrwait s
  | .csrWrite who num value => execCsrWrite who num value s
  | .ctxSave => execCtxSave s
  | .ctxRestore => execCtxRestore s
  | .ctxExport => execCtxExport s
  | .ctxImport => execCtxImport s
  | .ctxDiscard => execCtxDiscard s
  | .classAcknowledge c => execClassAcknowledge c s
  | .slowAcknowledgement => execSlowAcknowledgement s
  | .flitReceive l flit => execFlitReceive l flit s
  | .replayTimeout l => execReplayTimeout l s
  | .laneLost n pos line => execLaneLost n pos line s
  | .laserLost n => execLaserLost n s
  | .retrainingEnd n => execRetrainingEnd n s
  | .linkTraining n => execLinkTraining n s
  | .trainingEnd n dark => execTrainingEnd n dark s
  | .trainingTimeout n => execTrainingTimeout n s
  | .laserAgeing n ratio => execLaserAgeing n ratio s
  | .e2eTimerExpiry tag => execE2eTimerExpiry tag s
  | .responseReceive pk => execResponseReceive pk s
  | .requestArrival pk => execRequestArrival pk s
  | .requestRecordExpiry src tag => execRequestRecordExpiry src tag s
  | .notResidentRetry tag => execNotResidentRetry tag s
  | .holdNotice tag => execHoldNotice tag s
  | .mergeHoldLapse id => execMergeHoldLapse id s
  | .relayForward pk => execRelayForward pk s
  | .combineHoldExpiry id => execCombineHoldExpiry id s
  | .routeMarkLapse dst col => execRouteMarkLapse dst col s
  | .cancel pk => execCancel pk s
  | .cancelTimeout tag => execCancelTimeout tag s
  | .coalesceHoldExpiry id => execCoalesceHoldExpiry id s
  | .signalData pk => execSignalData pk s
  | .signalBusyRetry tag => execSignalBusyRetry tag s
  | .fflagStore id => execFflagStore id s
  | .mcstData pk => execMcstData pk s
  | .phaseBoundary => execPhaseBoundary s
  | .podBarrierState pk => execPodBarrierState pk s
  | .timePacket master time => execTimePacket master time s
  | .timeSilence => execTimeSilence s
  | .electionClaim => execElectionClaim s
  | .claimReceive rank node => execClaimReceive rank node s
  | .masterInstall => execMasterInstall s
  | .secBind => execSecBind s
  | .secPair => execSecPair s
  | .secQuote => execSecQuote s
  | .secSeal => execSecSeal s
  | .secUnseal => execSecUnseal s
  | .cksave failed => execCksave failed s
  | .ckrest failed => execCkrest failed s
  | .secUnbind => execSecUnbind s
  | .bootGo => execBootGo s
  | .installEntry => execInstallEntry s
  | .minRst die => execMinRst die s
  | .supplySag die => execSupplySag die s
  | .clockStepUp die => execClockStepUp die s
  | .thermalLimit die temp => execThermalLimit die temp s
  | .hostMemoryAccess write addr bytes => execHostMemoryAccess write addr bytes s
  | .mgmtCsrRead seq num => execMgmtCsrRead seq num s
  | .mgmtCsrWrite seq num value => execMgmtCsrWrite seq num value s
  | .mgmtSecurityCommand seq block => execMgmtSecurityCommand seq block s
  | .mgmtReply msg => execMgmtReply msg s
  | .packageReset => execPackageReset s
  | .commitTileReadDone id => execCommitTileReadDone id s
  | .pairTimeout => execPairTimeout s
  | .mgmtFrameRetry seq => execMgmtFrameRetry seq s
  | .litIntervalStart => execLitIntervalStart s
  | .bitError e => .next (s.struck e)

end Sys2Proof.Machine
end

