-- ==== Sys2Proof/Machine/Cycle.lean ====
section
/-! DEFINITION. What may happen next and how it happens: the issue of a unit (R25, R48, R87, R88, R303, R314), the events that
the units of the package offer, the choice among them, and the passing of time. -/

namespace Sys2Proof.Machine

/-! ## Fused sequences (R87) -/

/-- Does the word continue the fused sequence that has begun? The immediate forms of VMUL and VADD take no part (log 104). -/
def fuseGoesOn : Fuse → Instr → Bool
  | .mul 0 d, .vadd _ a b => d == a || d == b
  | .mul 0 d, .vsub _ a b => d == a || d == b
  | .mul (t + 1) d, .vaddPair _ a b u => u.toNat == t && (d == a || d == b)
  | .mul (t + 1) d, .vsubPair _ a b u => u.toNat == t && (d == a || d == b)
  | .mulAdd d, .vmaxImm e i => d == e && i == 0#16
  | .cmp p, .vsel _ _ _ q => p == q
  | .lea n, .ld _ b _ _ _ => n == b
  | .lea n, .lds _ a _ _ => n == a
  | _, _ => false

/-- The word of the open run at the current fragment's PC. -/
def State.runWord (s : State) : Option Instr := s.cur.run.bind (fun r => r.words[r.index s.cur.frag.pc - 1]?)

/-- The instruction at the current fragment's PC, when one can be read there. -/
def State.peekInstr (s : State) : Option Instr :=
  match s.runWord with
  | some i => some i
  | none =>
    match (s.fetchWord s.cur.frag.pc).2 with
    | .ok w => match decode w with
      | .ok i => some i
      | .error _ => none
    | .error _ => none

/-- Is the selected fragment inside a unit (R48, R88)? A latched hint waits for its word, or the next word goes on with a
fused sequence. -/
def State.inUnit (s : State) : Bool :=
  s.cur.alive && s.cur.stop.isNone &&
    (s.cur.frag.hint.isSome ||
      (s.cur.frag.fuse != .none && (match s.peekInstr with | some i => fuseGoesOn s.cur.frag.fuse i | none => false)))

/-! ## One word -/

/-- Addresses of the unit at the current PC: its hints, at most two, and its word (R48). -/
def State.unitAddrs (s : State) (a : Addr) : Nat → List Addr
  | 0 => [a]
  | n + 1 =>
    match (s.setFrag { s.cur.frag with pc := a }).peekInstr with
    | some (.himm _) => a :: s.unitAddrs (a + 4#57) n
    | some (.hmod ..) => a :: s.unitAddrs (a + 4#57) n
    | _ => [a]

/-- An execute watch hit of the unit (R327): the lowest slot that hits and the address it watches. -/
def State.execWatch (s : State) : Option (Nat × Nat) :=
  if s.cur.frag.nowatch || s.cur.frag.hint.isSome || s.cur.watch.isEmpty then none
  else
    let as := s.unitAddrs s.cur.frag.pc 2
    (List.range 4).findSome? (fun i =>
      (sget none s.cur.watch i).bind (fun w =>
        if w.exec then (as.find? (fun a => w.touches a.toNat 4)).map (fun a => (i, a.toNat)) else none))

/-- Fetch and decode the word at the PC: the state after the fetch with the instruction, or the state after the trap of a
fetch fault, of an illegal opcode or of a misplaced hint (R25, R26, R314). -/
def State.fetchInstr (s : State) : Except State (State × Instr) :=
  match s.fetchWord s.cur.frag.pc with
  | (s1, .error d) => .error (s1.trap0 3 d)
  | (s1, .ok w) =>
    match decode w with
    | .error e => .error (s1.trap0 0 (illegalDetail e))
    | .ok i =>
      match hintFault s1.himm s1.hmod w i with
      | some d => .error (s1.trap0 0 d)
      | none => .ok (s1, i)

/-- Is the split entry of the selected fragment off the chip (R137)? -/
def State.needsRefill (s : State) : Bool :=
  s.cur.entries.any (fun e => e.id == s.cur.frag.entry && e.spilled.isSome)

/-- A fragment that a late fault had put back to a storing word has come past it: it goes on where it stood (R312, log 99). -/
def Frag.back? (f : Frag) : Option Frag :=
  match f.back with
  | [] => none
  | b :: rest => if f.pc == b.next && f.hint.isNone then some { f with pc := b.pc, wait := b.wait, back := rest } else none

/-- The selected fragment issues one word: a refill goes first (R137), then the execute watch, the fetch, the decoding, and
the word's own meaning (R314). A watch hit stops a fused sequence between its words (log 105); after one, .skip goes on after
the unit (R331). -/
def State.issue (s : State) : Out :=
  if s.needsRefill then runEvent .splitRefill s
  else
    match s.cur.frag.back? with
    | some f => .next (s.setFrag f)
    | none =>
      match s.execWatch with
      | some (slot, a) =>
        .next (s.trapSkip (32 * 24 + slot) { fmask := 0#32, addr := a, aux := 0#64 } (s.pastUnit s.cur.frag.pc 2))
      | none =>
        match s.runWord with
        | some i => exec i s
        | none =>
          match s.fetchInstr with
          | .error t => .next t
          | .ok (t, i) => exec i t

/-! ## Time -/

/-- Pod time passes by a free amount, at half rate while the package follows its master down (R401). -/
def State.passTime (s : State) : State :=
  let dt := (s.freeNow.extractLsb' 0 32).zeroExtend 64
  { s.drawn with time := s.time + (if s.fabric.halley.slow then dt >>> 1 else dt), link := { s.link with ran := s.link.ran + dt.toNat } }

/-- A clock passes for a group that does not issue: it comes nearer its wait threshold (R305). -/
def Group.idled (n : Nat) (g : Group) : Group := { g with idle := g.idle + n }

/-- An idle clock: nothing issues. -/
def State.idleStep (s : State) : State :=
  let n := 1 + (s.freeNow.extractLsb' 32 16).toNat
  s.passTime.mapGroups (Group.idled n)

/-! ## The choice of a slot (R303) -/

/-- A ready fragment: its group's place in the list of groups, its place in the group, and what R303 compares. -/
structure Ready where
  group : Nat
  frag : Nat
  core : Nat
  slot : Nat
  order : Nat
  priority : Nat
  starve : Nat
  passed : Nat
  lane : Nat
  inRun : Bool
  yield : List Nat
  deriving DecidableEq, Repr

/-- Lowest lane of a mask. -/
def lowLane (m : Mask) : Nat := ((List.range 32).find? (fun l => m.getLsbD l)).getD 32

/-- May the group issue: it has not ended or stopped, stands on a core whose clock runs, reports no fault, and no save
stops it before its next unit (R312, R342, R424)? A run goes on to HEND but in the digit-stop mode (R89), and so does an
atomic word that has served some of its lanes (R189). -/
def State.mayIssue (s : State) (g : Group) : Bool :=
  g.alive && !g.swapped && g.stop.isNone && (g.run.isSome || g.part.isSome || (g.cmdFaults.isEmpty && g.due.isEmpty))
    && s.clocked g.id.core && (!s.groupStops g || g.part.isSome || (g.run.isSome && s.ctx.mode != 1#2))

/-- Does an acquiring access of the group wait for peers? No access of the group comes before it (R185). -/
def State.acquiring (s : State) (g : Group) : Bool :=
  s.fabric.peers.any (fun a => a.owner == g.id.key && a.ends.acq.isSome)

/-- A ready fragment as R303 compares it. -/
def readyOf (g : Group) (i : Nat) (f : Frag) (j : Nat) : Ready :=
  { group := i, frag := j, core := g.id.core, slot := g.id.slot, order := g.id.order, priority := g.id.priority,
    starve := f.starve, passed := f.passed, lane := lowLane f.member, inRun := g.run.isSome, yield := g.yield }

/-- May this fragment of its group issue now? With an open run only the one that runs (R80), and inside an atomic word only
the one that issued it (R189). -/
def Group.turnOf (g : Group) (f : Frag) (j : Nat) : Bool :=
  match g.part with
  | some p => f.member == p.frag
  | none => g.run.isNone || j == 0

/-- The ready fragments of a group. -/
def State.readyIn (s : State) (g : Group) (i : Nat) : List Ready :=
  if !s.mayIssue g || s.acquiring g then []
  else g.frags.zipIdx.filterMap (fun x =>
    if g.turnOf x.1 x.2 && s.waitOver g x.1 then some (readyOf g i x.1 x.2) else none)

/-- Every ready fragment of the package (R303). -/
def State.ready (s : State) : List Ready := s.groups.zipIdx.flatMap (fun x => s.readyIn x.1 x.2)

/-- Does `a` go before `b` in one slot (R303)? -/
def Ready.before (a b : Ready) : Bool :=
  if a.inRun != b.inRun then a.inRun
  else if 64 ≤ a.starve || 64 ≤ b.starve then
    if a.starve != b.starve then decide (b.starve < a.starve)
    else if a.order != b.order then decide (a.order < b.order) else decide (a.lane < b.lane)
  else if a.priority != b.priority then decide (b.priority < a.priority)
  else if a.order != b.order then decide (a.order < b.order)
  else if a.starve != b.starve then decide (b.starve < a.starve)
  else decide (a.lane < b.lane)

/-- Is the fragment held back by a YIELD of its group (R103)? -/
def Ready.yields (all : List Ready) (a : Ready) : Bool :=
  all.any (fun b => b.core == a.core && b.slot == a.slot && a.yield.contains b.order)

/-- The fragments that the slots have chosen, one for each slot with a ready fragment. -/
def State.chosen (s : State) : List Ready :=
  let all := s.ready
  let may := all.filter (fun a => a.inRun || !a.yields all)
  may.filter (fun a => !may.any (fun b => b.core == a.core && b.slot == a.slot && b.before a))

/-- Slots issue independently of each other (R140, R303): a slot's choice that others have passed 64 times issues before any that
has been passed less often. -/
def pressing (xs : List Ready) : List Ready :=
  let most := xs.foldl (fun n r => max n r.passed) 0
  if most < 64 then xs else xs.filter (fun r => r.passed == most)

/-! ## What the units of the package offer -/

/-- Events of the scheduler (R294, R300, R305, R311). -/
def State.schedOffers (s : State) : List Event :=
  (if s.placement.isSome then [.placeCluster] else [])
    ++ ((List.range 64).filter (fun q => (s.queue q).canTake)).map (fun q => .queueTakeRecord (BitVec.ofNat 6 q))
    ++ (s.sched.launches.filter s.launchDone).map (fun l => .launchComplete (BitVec.ofNat 48 l.grid))
    ++ (s.clusters.zipIdx.filter (fun c => s.canSwap c.1)).map (fun c => .swapOut c.2)

/-- Results of runs that may commit or decide (R76, R83), and matrix words that may complete (R226). -/
def State.resultOffers (s : State) : List Event :=
  (List.range (s.groups.map (fun g => g.pending.length)).sum).map Event.resultCommit
    ++ (List.range (s.groups.map (fun g => g.deciding.length)).sum).map Event.earlyDecision
    ++ (if s.completable.isEmpty then [] else [.matrixWordComplete])

/-- A packet of the package's own engines that moves a chunk of a command. -/
def State.chunkPacket (s : State) (id : Nat) : Packet := { s.packet 12 s.node.toNat 0#16 with args := [id] }

/-- May a chunk of the command move now? A stopped cluster's commands finish the chunk under way, and all of them in the
drain mode (R342). -/
def State.chunkMoves (s : State) (c : Cmd) : Bool :=
  c.movable && c.waiting == 0
    && (c.cur.isSome || (!c.chunks.isEmpty && (!s.cmdStops c || s.ctx.mode == 2#2)))

/-- Events of an engine command (R251, R264, R265, R396). -/
def State.cmdOffers (s : State) (c : Cmd) : List Event :=
  (if s.chunkMoves c then [.responseReceive (s.chunkPacket c.id)] else [])
    ++ (if (c.kind == .tcommit || c.kind == .tredf) && !c.read then [.commitTileReadDone c.id] else [])
    ++ (if (c.kind == .tfetch || c.kind == .tgath) && c.chunks.isEmpty && c.waiting == 0 && c.cur.isNone then
          [.fetchArrival c.id] else [])
    ++ (if (c.kind == .tcommit || c.kind == .tredf) && c.finished then [.commitComplete c.id] else [])
    ++ (if (c.kind == .tcopy || c.kind == .tfill) && c.finished then [.moduleCommandComplete c.id] else [])
    ++ (if s.flagReady c then [.fflagStore c.id] else [])

/-- The answer of a Borura module to a request of a command (R363, R374). -/
def State.moduleOffers (s : State) : List Event :=
  (s.fabric.txns.filter (fun t => t.pk.dstMod && (s.outLink t.pk).isSome)).map (fun t =>
    .responseReceive { s.packet 12 s.node.toNat t.pk.job with src := t.pk.dst, srcMod := true, tag := t.pk.tag })

/-- Events of the context controller and of a gang slice (R309, R342, R343). -/
def State.ctxOffers (s : State) : List Event :=
  (if s.ctx.start && s.ctx.stopping.isEmpty then
    (match s.ctx.op.toNat with
      | 0 => [.ctxSave]
      | 1 => [.ctxRestore]
      | 2 => [.ctxExport]
      | 3 => [.ctxImport]
      | 4 => [.ctxDiscard]
      | _ => []) else [])
    ++ (if s.ctx.stopping.isEmpty then [] else
      ((List.range 7).filter (fun c => s.ctx.pending.getLsbD c && s.classDone c)).map
        (fun c => .classAcknowledge (BitVec.ofNat 3 c)))
    ++ (if s.slowDue then [.slowAcknowledgement] else [])
    ++ (if s.sched.arm && ((s.ctx.stopping.isEmpty && !s.ctx.start
            && (!(s.otherJobs s.sliceParts).isEmpty || (s.sliceDue && !s.frozen)))
          || (s.ctx.gang && !s.sched.told && !s.sched.excused && !s.frozen
            && decide (s.sched.gstart.toNat < s.time.toNat))) then [.gangSliceStart] else [])

/-- Events of the security block (R405, R410); a module write of a checkpoint may fail (R417). -/
def State.secOffers (s : State) : List Event :=
  (if s.sec.start && s.sec.pair.isNone then
    (match numAt s.secBlock 0 1 with
      | 1 => [.secPair]
      | 2 => [.secQuote]
      | 3 => [.secSeal]
      | 4 => [.secUnseal]
      | 5 => [.cksave false, .cksave true]
      | 6 => [.ckrest false, .ckrest true]
      | 7 => [.secUnbind]
      | _ => [.secBind]) else [])
    ++ (if s.sec.stage = 1#3 then [.bootGo] else [])

/-- Events that the other units offer. -/
def State.unitOffers (s : State) : List Event :=
  (if s.postReady then [.faultRecordPost] else [])
    ++ (match s.strudel.work with
        | some r =>
          if !r.planned then [.strudelPlanning]
          else if r.mayStart || r.atEnd || !(s.readyBoxes r).isEmpty then [.boxComplete] else []
        | none => [])
    ++ (s.fabric.held.filter (fun h => s.ctx.mode == 2#2 || !s.keyStops h.owner)).map (fun h => .coalesceHoldExpiry h.id)
    ++ (if s.fabric.mgBusy then [.installEntry] else [])

/-- Timers of a transaction that have run out (R310, R375, R388, R394). -/
def State.txnOffers (s : State) (t : Txn) : List Event :=
  let now := s.time.toNat
  let due (at_ n : Nat) : Bool := decide (at_ + n ≤ now)
  (if t.cancel.isNone && t.held.isNone && !t.busy && due t.started 24000 then [.e2eTimerExpiry t.pk.tag] else [])
    ++ (if t.cancel.any (fun c => due c.2.2 24000) then [.cancelTimeout t.pk.tag] else [])
    ++ (if t.held.any (fun a => due a 1000) then [.notResidentRetry t.pk.tag] else [])
    ++ (if t.busy then [.signalBusyRetry t.pk.tag] else [])

/-- Timers of the fabric interface as target and relay that have run out (R376, R387, R388). -/
def State.fabricOffers (s : State) : List Event :=
  s.fabric.txns.flatMap s.txnOffers
    ++ (s.fabric.targets.filter (fun r => r.expired s.time.toNat)).map
        (fun r => .requestRecordExpiry (BitVec.ofNat 12 r.src) (BitVec.ofNat 22 r.tag))
    ++ (s.fabric.combines.filter (fun c => !c.sent)).map (fun c => .combineHoldExpiry c.id)
    ++ (s.fabric.lostAt.filter (fun x => decide (x.2 + 100000 ≤ s.time.toNat))).map
        (fun x => .routeMarkLapse (BitVec.ofNat 12 (x.1 / 2)) (x.1 % 2 == 1))

/-- Timers of the links that have run out, and the ends of their retrainings (R364, R369, R371, R373, R382). -/
def State.linkOffers (s : State) : List Event :=
  let now := s.time.toNat
  (if s.link.phase < s.phase then [.phaseBoundary] else [])
    ++ (if !s.link.lit && s.link.phase == s.phase && decide (20 ≤ now % 250) then [.litIntervalStart] else [])
    ++ (s.link.links.filter (fun k => k.2.state == 5#4)).map (fun k => .retrainingEnd k.1)
    ++ (s.link.links.filter (fun k => k.2.overdue now)).map (fun k => .trainingTimeout k.1)
    ++ (s.link.logical.filter (fun l => s.replayDue l.1 && (s.rides l.1).any (fun n => s.linkState n != 0#4))).map (fun l =>
        .replayTimeout (if l.1 < 4096 then .memory l.1 else .peer (BitVec.ofNat 12 (l.1 - 4096))))

/-- Timers of the time service, of merges at modules, and of the management port (R403, R410, R413, R427). -/
def State.serviceOffers (s : State) : List Event :=
  (if s.silent || s.masterless then [.timeSilence] else [])
    ++ (if s.claimNow.isSome then [.electionClaim] else [])
    ++ (if s.masterNow.isSome then [.masterInstall] else [])
    ++ (s.cmds.filter (fun c => c.cur.isSome && s.mergeOverdue c.id)).map (fun c => .mergeHoldLapse c.id)
    ++ (if s.pairOverdue then [.pairTimeout] else [])
    ++ s.mgmt.unanswered.map (fun f => .mgmtFrameRetry f.seq)

/-- Everything the package's own units offer at this moment. -/
def State.offers (s : State) : List Event :=
  s.schedOffers ++ s.resultOffers ++ s.cmds.flatMap s.cmdOffers ++ s.moduleOffers ++ s.ctxOffers ++ s.secOffers
    ++ s.unitOffers ++ s.fabricOffers ++ s.linkOffers ++ s.serviceOffers

/-! ## What may happen next -/

/-- One thing that may happen next: a unit of a slot's chosen fragment, the report of a fault found after issue (R269, R313), the
words of R329 that waited for the end of a run, a store of the L1 that reaches its home (R183), an event. -/
inductive Choice where
  | unit (r : Ready)
  | report (group : Nat)
  | meet (group : Nat)
  | perform (i : Nat)
  | event (e : Event)
  deriving DecidableEq, Repr

/-- Is all known that a fault found after issue has to tell (R313)? Weak stores of its word may still be under way; and a fragment
that waits for peers stands where it is. -/
def State.tellable (s : State) (g : Group) : CmdFault → Bool
  | .command .. => true
  | .lanes w _ =>
    !s.fabric.held.any (fun h => h.words.any (fun x => x.1.id == w.id))
      && !s.fabric.txns.any (fun t => match t.owner with | .weak _ _ ws => ws.any (fun x => x.1.id == w.id) | _ => false)
      && !g.frags.any (fun f => f.member == w.frag && (match f.wait with | .peer _ => true | _ => false))

/-- Does the group report a fault at this boundary, before any word of R329 acts on it (R269, R333)? -/
def State.reports (s : State) (g : Group) : Bool :=
  !g.swapped && g.stop.isNone && g.run.isNone && g.part.isNone && g.cmdFaults.any (s.tellable g)

/-- Groups that have a fault to report at a unit boundary (R269) or words to meet (R329). -/
def State.boundaries (s : State) : List Choice :=
  s.groups.zipIdx.flatMap (fun x =>
    let g := x.1
    if !g.alive then []
    else if s.reports g then [.report x.2]
    else if !g.due.isEmpty && !g.inRun then [.meet x.2] else [])

/-- Stores of the L1 that may reach their homes: those of one core to one line go in order (R202). -/
def State.lateChoices (s : State) : List Choice :=
  (s.mem.late.zipIdx.filter (fun x =>
    !(s.mem.late.take x.2).any (fun y => y.core == x.1.core && y.line == x.1.line))).map (fun x => Choice.perform x.2)

/-- Everything that may happen next. -/
def State.choices (s : State) : List Choice :=
  (pressing s.chosen).map Choice.unit ++ s.boundaries ++ s.lateChoices ++ s.offers.map Choice.event

/-- A fragment that was ready in the slot and did not issue starves by one more clock (R303). -/
def starved (slot : List Ready) (g : Group) (i : Nat) : Group :=
  let up (f : Frag) (j : Nat) : Frag :=
    if slot.any (fun r => r.group == i && r.frag == j) then { f with starve := f.starve + 1 } else f
  { g with frag := up g.frag 0, sibs := g.sibs.zipIdx.map (fun x => up x.1 (x.2 + 1)) }

/-- The choice of another slot has been passed (R140). -/
def passedBy (xs : List Ready) (g : Group) (i : Nat) : Group :=
  let up (f : Frag) (j : Nat) : Frag :=
    if xs.any (fun r => r.group == i && r.frag == j) then { f with passed := f.passed + 1 } else f
  { g with frag := up g.frag 0, sibs := g.sibs.zipIdx.map (fun x => up x.1 (x.2 + 1)) }

/-- The fragment issues (R303): its starve count and its group's idle clocks return to 0, the other ready fragments of the
slot starve on, and its group's YIELD is over while others have waited for this issue (R103). Whether its stores stay in the
L1 for a while, and after how many lanes an atomic lets others come between, is free (R183, R189). -/
def State.took (s : State) (r : Ready) : State :=
  let slot := s.ready.filter (fun x => x.core == r.core && x.slot == r.slot)
  let rest := s.chosen.filter (fun x => x.core != r.core || x.slot != r.slot)
  let n := 1 + (s.freeNow.extractLsb' 32 16).toNat
  let told (g : Group) : Group :=
    if g.id.core == r.core && g.id.slot == r.slot then { g with yield := g.yield.filter (· != r.order) } else g
  let gs := s.groups.zipIdx.map (fun x => told (Group.idled n (passedBy rest (starved slot x.1 x.2) x.2)))
  let m := { s.mem with delay := s.freeNow.getLsbD 48, cut := (s.freeNow.extractLsb' 49 5).toNat }
  let t := (({ s.passTime with mem := m }.withGroups gs).selectGroup r.group).selectFrag r.frag
  { t with cur := { t.cur with idle := 0, yield := [], frag := { t.cur.frag with starve := 0, passed := 0 } } }

/-- The fragment of a late fault stands at the storing word again, unless it does already; where it stood is kept. A word at
which it gathers issues anew (R312, R313, log 99). -/
def Frag.putBack (f : Frag) (w : WordAt) : Frag :=
  if f.pc == w.unit && f.wait == .ready then f
  else
    let wait := match f.wait with
      | .gather .. => .ready
      | x => x
    { f with pc := w.unit, hint := none, wait := .ready, fuse := .none,
             back := { next := w.next, pc := f.pc, wait := wait } :: f.back }

/-- The group stops for a fault found after issue: of an engine command (R269, R312), or of the lanes of a weak store, whose
fragment, when it still exists, stops at the storing word (R313). -/
def State.reportWith (s : State) (f : CmdFault) : State :=
  let g := { s.cur with cmdFaults := s.cur.cmdFaults.erase f }
  match f with
  | .command cause unit index addr pc =>
    let r := s.recordOf g cause g.lowest.pc.toNat 0#32 addr (pc.zeroExtend 64)
    { s with cur := g.stopped cause 0#32 false 0#57 0#32 }.report { r with source := s.unitSource unit index } g.id.privileged
  | .lanes w faults =>
    let low := (lowestFault faults).getD (0, 0, 0, false)
    let fmask := faultMask faults false
    let here := g.frags.any (fun x => x.member == w.frag)
    let put (x : Frag) : Frag := if x.member == w.frag then x.putBack w else x
    let g1 := { g with frag := put g.frag, sibs := g.sibs.map put }
    { s with cur := g1.stopped low.2.1 fmask here w.next (if here then w.frag else 0#32) }.report
      (s.recordOf g low.2.1 w.unit.toNat fmask low.2.2.1 (faultAux faults)) g.id.privileged

/-- The first fault of the selected group that can be told. -/
def State.reportFault (s : State) : State :=
  match s.cur.cmdFaults.find? (s.tellable s.cur) with
  | none => s
  | some f => s.reportWith f

/-- The store at place `i` of the L1's list reaches its home (R183). -/
def State.performAt (s : State) (i : Nat) : State :=
  match s.mem.late[i]? with
  | none => s
  | some x => { s with mem := { s.mem with late := s.mem.late.eraseIdx i }.lands x }

/-- What has been chosen happens. -/
def State.happen (s : State) : Choice → Out
  | .unit r => (s.took r).issue
  | .report i => .next (s.selectGroup i).reportFault
  | .meet i => .next (s.selectGroup i).meetDue
  | .perform i => .next (s.performAt i)
  | .event e => runEvent e s

/-- One of the choices happens; which one is free (R134, R303). -/
def State.choose (s : State) : List Choice → Out
  | [] => .next s.idleStep
  | [c] => s.happen c
  | c :: d :: cs => s.drawn.happen ((c :: d :: cs).getD (s.freeNow.toNat % (cs.length + 2)) c)

/-- The next thing that happens: a unit goes on; else the oldest event of the agenda; else one of the choices. -/
def State.cycleFrom (s : State) : Out :=
  if s.inUnit then s.issue
  else
    match s.agenda with
    | e :: rest => runEvent e { s with agenda := rest }
    | [] => s.choose s.choices

/-- A step of the package: what has woken swapped-out clusters is kept (R307), then the next thing happens. -/
def State.cycle (s : State) : Out := s.noteWakes.cycleFrom

/-! ## A first instruction -/

/-- The launch of the group that `withGroup` places. -/
def probeLaunch : Launch :=
  { grid := 1, job := 0#16,
    record := { LaunchRec.absent with clusters := 1, vregs := 128, accs := 2, tilePages := 4, tiles := 8, spillEntries := 8,
                                      spillBase := 0x10000#57 },
    privileged := true, queue := 0, device := false, entryAddr := 0, started := 1, killed := false, stopped := false }

/-- The bytes of a table entry at `a` (R175). -/
def putEntry (m : Memory) (a e : Nat) : Memory := writeBytes m a (leBytes 8 e)

/-- Tables that map the 2 MiB page at 0 of the job space to package memory at 0x200000, with every permission (R174). -/
def probeTables (m : Memory) : Memory :=
  putEntry (putEntry (putEntry (putEntry m 0x1000 (2 ^ 63 + 0x2000)) 0x2000 (2 ^ 63 + 0x3000)) 0x3000 (2 ^ 63 + 0x4000))
    0x4000 (2 ^ 63 + 2 ^ 61 + 2 ^ 60 + 2 ^ 59 + 2 ^ 58 + 0x200000)

/-- A group at job-space address 0, its team and its cluster on core 0, as a launch with one team of one group places them
(R31, R131): what stands for the load of a program from outside the machine (log 25). -/
def State.withGroup (s : State) : State :=
  let g := newGroup probeLaunch 0 0 0 0 0 0 0
  { s with
    cur := g,
    teams := [{ Team.absent g.id with tilePages := 4, tabCount := 8 }],
    clusters := [{ Cluster.absent g.id with die := 0, row := 0, col := 0 }],
    sched := { s.sched with launches := [probeLaunch] },
    mem := { s.mem with pkg := probeTables s.mem.pkg, jptb := 0x1000#64 } }

/-- The word stored where the current fragment fetches next, with nothing before it in the agenda. -/
def State.placeWord (s : State) (w : Word) : State :=
  let t := { (if s.cur.alive then s else s.withGroup) with agenda := [] }
  match (t.translate t.cur.frag.pc.toNat).2 with
  | .error _ => t
  | .ok l =>
    let pa := leafPhys l t.cur.frag.pc.toNat
    { t with mem := { t.mem.pkgWrite pa (leBytes 4 w.toNat) with
        icache := sput none t.mem.icache (icKey t.cur.id.core (pa / 128)) none,
        older := sput none t.mem.older (pa / 128) none } }

end Sys2Proof.Machine
end

