-- ==== Sys2Proof/Machine/Step.lean ====
section
/-! DEFINITION. One step of the package, and a word placed where the next step fetches. -/

namespace Sys2Proof.Machine

/-- One step: what State.cycle does. -/
def step (s : State) : Host.Outcome State Fault Refusal := s.cycle

/-- `s` with the word `w` stored where the next step fetches its instruction (State.placeWord). Every instruction is one
word (R33), so nothing stands above `nbits`. -/
def State.withFetchWord (s : State) (nbits w : Nat) : State := s.placeWord (BitVec.ofNat 32 (w % 2 ^ nbits))

end Sys2Proof.Machine
end

