-- ==== Sys2Proof/Laws/PerInstr.lean ====
section
/-! SUPPORT. The round trip of encode and decode, instruction by instruction: every operand at every value that the
encoding admits. -/

set_option linter.unusedSimpArgs false
set_option linter.unnecessarySeqFocus false

namespace Sys2Proof.Laws.RoundTrip

/-- What the round trip says of an instruction: its word, when it has one, decodes to it. -/
def Statement (i : Instr) : Prop := i.wellFormed = true → ∀ w, encode i = some w → decode w = .ok i

/-! ## Cutting fields out of a word -/

theorem cutHigh {v w i l : Nat} (x : BitVec v) (y : BitVec w) (h : w ≤ i) :
    (x ++ y).extractLsb' i l = x.extractLsb' (i - w) l := BitVec.extractLsb'_append_eq_of_le h

theorem cutLow {v w i l : Nat} (x : BitVec v) (y : BitVec w) (h : i + l ≤ w) :
    (x ++ y).extractLsb' i l = y.extractLsb' i l := BitVec.extractLsb'_append_eq_of_add_le h

theorem cut63 {v : Nat} (x : BitVec v) (y : BitVec 6) (z : BitVec 3) :
    (x ++ y ++ z).extractLsb' 0 9 = (y ++ z : BitVec 9) := by
  rw [BitVec.append_assoc, BitVec.cast_eq]
  exact BitVec.extractLsb'_append_eq_right (a := x) (b := (y ++ z : BitVec 9))

theorem cut33 {v : Nat} (x : BitVec v) (y z : BitVec 3) : (x ++ y ++ z).extractLsb' 0 6 = (y ++ z : BitVec 6) := by
  rw [BitVec.append_assoc, BitVec.cast_eq]
  exact BitVec.extractLsb'_append_eq_right (a := x) (b := (y ++ z : BitVec 6))

/-- The word whose ones are the `n` bits from bit `lo`. -/
def fieldMask (lo n : Nat) : Word := ((BitVec.allOnes n).setWidth 32) <<< lo

theorem and_fieldMask {w : Word} {lo n : Nat} (h : bits w lo n = 0#n) : w &&& fieldMask lo n = 0#32 := by
  apply BitVec.eq_of_getLsbD_eq
  intro k _
  by_cases h1 : lo ≤ k ∧ k - lo < n
  · have h2 := congrArg (fun x => x.getLsbD (k - lo)) h
    simp only [bits, BitVec.getLsbD_extractLsb', h1.2, decide_true, Bool.true_and, BitVec.getLsbD_zero] at h2
    rw [show lo + (k - lo) = k by omega] at h2
    simp [h2]
  · simp [fieldMask]; omega

theorem and_or {w a b : Word} (ha : w &&& a = 0#32) (hb : w &&& b = 0#32) : w &&& (a ||| b) = 0#32 := by
  rw [BitVec.and_or_distrib_left, ha, hb]; rfl

theorem zero_ok {w a b : Word} (hab : a = b) (h : w &&& b = 0#32) (i : Instr) : zero w a i = .ok i := by
  subst hab; simp [zero, h]

theorem cases1 (k : BitVec 1) : k = 0#1 ∨ k = 1#1 := by revert k; decide

theorem cases2 (k : BitVec 2) : k = 0#2 ∨ k = 1#2 ∨ k = 2#2 ∨ k = 3#2 := by revert k; decide

theorem cases3 (k : BitVec 3) :
    k = 0#3 ∨ k = 1#3 ∨ k = 2#3 ∨ k = 3#3 ∨ k = 4#3 ∨ k = 5#3 ∨ k = 6#3 ∨ k = 7#3 := by revert k; decide

/-! ## From the fields to the round trip -/

theorem statement_of {i : Instr} {w : Word} (he : encode i = some w) (h : decodeRaw w = .ok i) : Statement i := by
  intro hw v hv
  obtain rfl : w = v := Option.some.inj (he.symm.trans hv)
  simp only [Instr.wellFormed, Bool.and_eq_true, Bool.not_eq_true'] at hw
  simp [decode, h, hw]

theorem statement_if {i : Instr} {w : Word} (he : encode i = some w)
    (h : i.codeUnassigned = false → decodeRaw w = .ok i) : Statement i := by
  intro hw
  have hc := hw
  simp only [Instr.wellFormed, Bool.and_eq_true, Bool.not_eq_true'] at hc
  exact statement_of he (h hc.1.2) hw

theorem statement_of_ill {i : Instr} (h : i.wellFormed = false) : Statement i := by
  intro hw
  rw [h] at hw
  cases hw

theorem statement_of_event {i : Instr} (h : encode i = none) : Statement i := by
  intro _ w hw
  rw [h] at hw
  cases hw

theorem decodeRaw_major0 {w : Word} (h : bits w 27 5 = 0#5) : decodeRaw w = decodeMajor0 w := by
  rw [decodeRaw, h]; rfl

theorem decodeRaw_major1 {w : Word} (h : bits w 27 5 = 1#5) : decodeRaw w = decodeMajor1 w := by
  rw [decodeRaw, h]; rfl

theorem decodeRaw_major2 {w : Word} (h : bits w 27 5 = 2#5) : decodeRaw w = decodeMajor2 w := by
  rw [decodeRaw, h]; rfl

theorem decodeRaw_major3 {w : Word} (h : bits w 27 5 = 3#5) : decodeRaw w = decodeMajor3 w := by
  rw [decodeRaw, h]; rfl

theorem decodeRaw_major4 {w : Word} (h : bits w 27 5 = 4#5) : decodeRaw w = decodeMajor4 w := by
  rw [decodeRaw, h]; rfl

theorem decodeRaw_major5 {w : Word} (h : bits w 27 5 = 5#5) : decodeRaw w = decodeMajor5 w := by
  rw [decodeRaw, h]; rfl

theorem decodeRaw_major6 {w : Word} (h : bits w 27 5 = 6#5) : decodeRaw w = decodeMajor6 w := by
  rw [decodeRaw, h]; rfl

theorem decodeRaw_major7 {w : Word} (h : bits w 27 5 = 7#5) : decodeRaw w = decodeMajor7 w := by
  rw [decodeRaw, h]; rfl

theorem decodeRaw_major8 {w : Word} (h : bits w 27 5 = 8#5) : decodeRaw w = decodeMajor8 w := by
  rw [decodeRaw, h]; rfl

theorem decodeRaw_major9 {w : Word} (h : bits w 27 5 = 9#5) : decodeRaw w = decodeMajor9 w := by
  rw [decodeRaw, h]; rfl

theorem decodeRaw_major10 {w : Word} (h : bits w 27 5 = 10#5) : decodeRaw w = decodeMajor10 w := by
  rw [decodeRaw, h]; rfl

theorem decodeRaw_major11 {w : Word} (h : bits w 27 5 = 11#5) : decodeRaw w = decodeMajor11 w := by
  rw [decodeRaw, h]; rfl

theorem decodeRaw_major12 {w : Word} (h : bits w 27 5 = 12#5) : decodeRaw w = decodeMajor12 w := by
  rw [decodeRaw, h]; rfl

theorem decodeRaw_major13 {w : Word} (h : bits w 27 5 = 13#5) : decodeRaw w = decodeMajor13 w := by
  rw [decodeRaw, h]; rfl

theorem decodeRaw_major14 {w : Word} (h : bits w 27 5 = 14#5) : decodeRaw w = decodeMajor14 w := by
  rw [decodeRaw, h]; rfl

theorem decodeRaw_major15 {w : Word} (h : bits w 27 5 = 15#5) : decodeRaw w = decodeMajor15 w := by
  rw [decodeRaw, h]; rfl

theorem decodeRaw_major16 {w : Word} (h : bits w 27 5 = 16#5) : decodeRaw w = decodeMajor16 w := by
  rw [decodeRaw, h]; rfl

theorem decodeRaw_major17 {w : Word} (h : bits w 27 5 = 17#5) : decodeRaw w = decodeMajor17 w := by
  rw [decodeRaw, h]; rfl

theorem decodeRaw_major18 {w : Word} (h : bits w 27 5 = 18#5) : decodeRaw w = decodeMajor18 w := by
  rw [decodeRaw, h]; rfl

theorem decodeRaw_major19 {w : Word} (h : bits w 27 5 = 19#5) : decodeRaw w = decodeMajor19 w := by
  rw [decodeRaw, h]; rfl

theorem decodeRaw_major20 {w : Word} (h : bits w 27 5 = 20#5) : decodeRaw w = decodeMajor20 w := by
  rw [decodeRaw, h]; rfl

theorem decodeRaw_major21 {w : Word} (h : bits w 27 5 = 21#5) : decodeRaw w = decodeMajor21 w := by
  rw [decodeRaw, h]; rfl

theorem decodeRaw_major22 {w : Word} (h : bits w 27 5 = 22#5) : decodeRaw w = decodeMajor22 w := by
  rw [decodeRaw, h]; rfl

theorem decodeRaw_major31 {w : Word} (h : bits w 27 5 = 31#5) : decodeRaw w = decodeMajor31 w := by
  rw [decodeRaw, h]; rfl

/-! ## One lemma for each instruction -/

theorem nop : Statement .nop := by
  refine statement_of rfl ((decodeRaw_major0 ?_).trans ?_) <;>
    simp (disch := omega) only [decodeMajor0, bits, cutHigh, cutLow, cut63, cut33, if_true, BitVec.reduceAppend, Nat.reduceSub, BitVec.extractLsb'_eq_self, BitVec.toNat_ofNat, BitVec.reduceExtractLsb', Nat.reducePow, Nat.reduceMod, BitVec.zeroExtend_eq_setWidth, BitVec.reduceSetWidth, BitVec.reduceAdd]
  refine zero_ok (show _ = fieldMask 0 18 from rfl) (and_fieldMask ?_) _ <;>
    simp (disch := omega) only [bits, cutHigh, cutLow, cut63, cut33, if_true, BitVec.reduceAppend, Nat.reduceSub, BitVec.extractLsb'_eq_self, BitVec.toNat_ofNat, BitVec.reduceExtractLsb', Nat.reducePow, Nat.reduceMod, BitVec.zeroExtend_eq_setWidth, BitVec.reduceSetWidth, BitVec.reduceAdd]

theorem yield : Statement .yield := by
  refine statement_of rfl ((decodeRaw_major0 ?_).trans ?_) <;>
    simp (disch := omega) only [decodeMajor0, bits, cutHigh, cutLow, cut63, cut33, if_true, BitVec.reduceAppend, Nat.reduceSub, BitVec.extractLsb'_eq_self, BitVec.toNat_ofNat, BitVec.reduceExtractLsb', Nat.reducePow, Nat.reduceMod, BitVec.zeroExtend_eq_setWidth, BitVec.reduceSetWidth, BitVec.reduceAdd]
  refine zero_ok (show _ = fieldMask 0 18 from rfl) (and_fieldMask ?_) _ <;>
    simp (disch := omega) only [bits, cutHigh, cutLow, cut63, cut33, if_true, BitVec.reduceAppend, Nat.reduceSub, BitVec.extractLsb'_eq_self, BitVec.toNat_ofNat, BitVec.reduceExtractLsb', Nat.reducePow, Nat.reduceMod, BitVec.zeroExtend_eq_setWidth, BitVec.reduceSetWidth, BitVec.reduceAdd]

theorem waitf (m : BitVec 12) : Statement (.waitf m) := by
  refine statement_of rfl ((decodeRaw_major0 ?_).trans ?_) <;>
    simp (disch := omega) only [decodeMajor0, bits, cutHigh, cutLow, cut63, cut33, if_true, BitVec.reduceAppend, Nat.reduceSub, BitVec.extractLsb'_eq_self, BitVec.toNat_ofNat, BitVec.reduceExtractLsb', Nat.reducePow, Nat.reduceMod, BitVec.zeroExtend_eq_setWidth, BitVec.reduceSetWidth, BitVec.reduceAdd]
  refine zero_ok (show _ = fieldMask 12 6 from rfl) (and_fieldMask ?_) _ <;>
    simp (disch := omega) only [bits, cutHigh, cutLow, cut63, cut33, if_true, BitVec.reduceAppend, Nat.reduceSub, BitVec.extractLsb'_eq_self, BitVec.toNat_ofNat, BitVec.reduceExtractLsb', Nat.reducePow, Nat.reduceMod, BitVec.zeroExtend_eq_setWidth, BitVec.reduceSetWidth, BitVec.reduceAdd]

theorem bra (o : BitVec 22) : Statement (.bra o) := by
  refine statement_of rfl ((decodeRaw_major0 ?_).trans ?_) <;>
    simp (disch := omega) only [decodeMajor0, bits, cutHigh, cutLow, cut63, cut33, if_true, BitVec.reduceAppend, Nat.reduceSub, BitVec.extractLsb'_eq_self, BitVec.toNat_ofNat, BitVec.reduceExtractLsb', Nat.reducePow, Nat.reduceMod, BitVec.zeroExtend_eq_setWidth, BitVec.reduceSetWidth, BitVec.reduceAdd]

theorem call (o : BitVec 22) : Statement (.call o) := by
  refine statement_of rfl ((decodeRaw_major0 ?_).trans ?_) <;>
    simp (disch := omega) only [decodeMajor0, bits, cutHigh, cutLow, cut63, cut33, if_true, BitVec.reduceAppend, Nat.reduceSub, BitVec.extractLsb'_eq_self, BitVec.toNat_ofNat, BitVec.reduceExtractLsb', Nat.reducePow, Nat.reduceMod, BitVec.zeroExtend_eq_setWidth, BitVec.reduceSetWidth, BitVec.reduceAdd]

theorem bk (k : BitVec 2) (o : BitVec 22) : Statement (.bk k o) := by
  rcases cases2 k with rfl | rfl | rfl | rfl
  · refine statement_of rfl ((decodeRaw_major0 ?_).trans ?_) <;>
      simp (disch := omega) only [decodeMajor0, bits, cutHigh, cutLow, cut63, cut33, if_true, BitVec.reduceAppend, Nat.reduceSub, BitVec.extractLsb'_eq_self, BitVec.toNat_ofNat, BitVec.reduceExtractLsb', Nat.reducePow, Nat.reduceMod, BitVec.zeroExtend_eq_setWidth, BitVec.reduceSetWidth, BitVec.reduceAdd]
  · refine statement_of rfl ((decodeRaw_major0 ?_).trans ?_) <;>
      simp (disch := omega) only [decodeMajor0, bits, cutHigh, cutLow, cut63, cut33, if_true, BitVec.reduceAppend, Nat.reduceSub, BitVec.extractLsb'_eq_self, BitVec.toNat_ofNat, BitVec.reduceExtractLsb', Nat.reducePow, Nat.reduceMod, BitVec.zeroExtend_eq_setWidth, BitVec.reduceSetWidth, BitVec.reduceAdd]
  · refine statement_of rfl ((decodeRaw_major0 ?_).trans ?_) <;>
      simp (disch := omega) only [decodeMajor0, bits, cutHigh, cutLow, cut63, cut33, if_true, BitVec.reduceAppend, Nat.reduceSub, BitVec.extractLsb'_eq_self, BitVec.toNat_ofNat, BitVec.reduceExtractLsb', Nat.reducePow, Nat.reduceMod, BitVec.zeroExtend_eq_setWidth, BitVec.reduceSetWidth, BitVec.reduceAdd]
  · refine statement_of rfl ((decodeRaw_major0 ?_).trans ?_) <;>
      simp (disch := omega) only [decodeMajor0, bits, cutHigh, cutLow, cut63, cut33, if_true, BitVec.reduceAppend, Nat.reduceSub, BitVec.extractLsb'_eq_self, BitVec.toNat_ofNat, BitVec.reduceExtractLsb', Nat.reducePow, Nat.reduceMod, BitVec.zeroExtend_eq_setWidth, BitVec.reduceSetWidth, BitVec.reduceAdd]

theorem bkNot (k : BitVec 2) (o : BitVec 22) : Statement (.bkNot k o) := by
  rcases cases2 k with rfl | rfl | rfl | rfl
  · refine statement_of rfl ((decodeRaw_major0 ?_).trans ?_) <;>
      simp (disch := omega) only [decodeMajor0, bits, cutHigh, cutLow, cut63, cut33, if_true, BitVec.reduceAppend, Nat.reduceSub, BitVec.extractLsb'_eq_self, BitVec.toNat_ofNat, BitVec.reduceExtractLsb', Nat.reducePow, Nat.reduceMod, BitVec.zeroExtend_eq_setWidth, BitVec.reduceSetWidth, BitVec.reduceAdd]
  · refine statement_of rfl ((decodeRaw_major0 ?_).trans ?_) <;>
      simp (disch := omega) only [decodeMajor0, bits, cutHigh, cutLow, cut63, cut33, if_true, BitVec.reduceAppend, Nat.reduceSub, BitVec.extractLsb'_eq_self, BitVec.toNat_ofNat, BitVec.reduceExtractLsb', Nat.reducePow, Nat.reduceMod, BitVec.zeroExtend_eq_setWidth, BitVec.reduceSetWidth, BitVec.reduceAdd]
  · refine statement_of rfl ((decodeRaw_major0 ?_).trans ?_) <;>
      simp (disch := omega) only [decodeMajor0, bits, cutHigh, cutLow, cut63, cut33, if_true, BitVec.reduceAppend, Nat.reduceSub, BitVec.extractLsb'_eq_self, BitVec.toNat_ofNat, BitVec.reduceExtractLsb', Nat.reducePow, Nat.reduceMod, BitVec.zeroExtend_eq_setWidth, BitVec.reduceSetWidth, BitVec.reduceAdd]
  · refine statement_of rfl ((decodeRaw_major0 ?_).trans ?_) <;>
      simp (disch := omega) only [decodeMajor0, bits, cutHigh, cutLow, cut63, cut33, if_true, BitVec.reduceAppend, Nat.reduceSub, BitVec.extractLsb'_eq_self, BitVec.toNat_ofNat, BitVec.reduceExtractLsb', Nat.reducePow, Nat.reduceMod, BitVec.zeroExtend_eq_setWidth, BitVec.reduceSetWidth, BitVec.reduceAdd]

theorem bpAny (p : BitVec 3) (o : BitVec 22) : Statement (.bpAny p o) := by
  rcases cases3 p with rfl | rfl | rfl | rfl | rfl | rfl | rfl | rfl
  · refine statement_of rfl ((decodeRaw_major0 ?_).trans ?_) <;>
      simp (disch := omega) only [decodeMajor0, bits, cutHigh, cutLow, cut63, cut33, if_true, BitVec.reduceAppend, Nat.reduceSub, BitVec.extractLsb'_eq_self, BitVec.toNat_ofNat, BitVec.reduceExtractLsb', Nat.reducePow, Nat.reduceMod, BitVec.zeroExtend_eq_setWidth, BitVec.reduceSetWidth, BitVec.reduceAdd]
  · refine statement_of rfl ((decodeRaw_major0 ?_).trans ?_) <;>
      simp (disch := omega) only [decodeMajor0, bits, cutHigh, cutLow, cut63, cut33, if_true, BitVec.reduceAppend, Nat.reduceSub, BitVec.extractLsb'_eq_self, BitVec.toNat_ofNat, BitVec.reduceExtractLsb', Nat.reducePow, Nat.reduceMod, BitVec.zeroExtend_eq_setWidth, BitVec.reduceSetWidth, BitVec.reduceAdd]
  · refine statement_of rfl ((decodeRaw_major0 ?_).trans ?_) <;>
      simp (disch := omega) only [decodeMajor0, bits, cutHigh, cutLow, cut63, cut33, if_true, BitVec.reduceAppend, Nat.reduceSub, BitVec.extractLsb'_eq_self, BitVec.toNat_ofNat, BitVec.reduceExtractLsb', Nat.reducePow, Nat.reduceMod, BitVec.zeroExtend_eq_setWidth, BitVec.reduceSetWidth, BitVec.reduceAdd]
  · refine statement_of rfl ((decodeRaw_major0 ?_).trans ?_) <;>
      simp (disch := omega) only [decodeMajor0, bits, cutHigh, cutLow, cut63, cut33, if_true, BitVec.reduceAppend, Nat.reduceSub, BitVec.extractLsb'_eq_self, BitVec.toNat_ofNat, BitVec.reduceExtractLsb', Nat.reducePow, Nat.reduceMod, BitVec.zeroExtend_eq_setWidth, BitVec.reduceSetWidth, BitVec.reduceAdd]
  · refine statement_of rfl ((decodeRaw_major0 ?_).trans ?_) <;>
      simp (disch := omega) only [decodeMajor0, bits, cutHigh, cutLow, cut63, cut33, if_true, BitVec.reduceAppend, Nat.reduceSub, BitVec.extractLsb'_eq_self, BitVec.toNat_ofNat, BitVec.reduceExtractLsb', Nat.reducePow, Nat.reduceMod, BitVec.zeroExtend_eq_setWidth, BitVec.reduceSetWidth, BitVec.reduceAdd]
  · refine statement_of rfl ((decodeRaw_major0 ?_).trans ?_) <;>
      simp (disch := omega) only [decodeMajor0, bits, cutHigh, cutLow, cut63, cut33, if_true, BitVec.reduceAppend, Nat.reduceSub, BitVec.extractLsb'_eq_self, BitVec.toNat_ofNat, BitVec.reduceExtractLsb', Nat.reducePow, Nat.reduceMod, BitVec.zeroExtend_eq_setWidth, BitVec.reduceSetWidth, BitVec.reduceAdd]
  · refine statement_of rfl ((decodeRaw_major0 ?_).trans ?_) <;>
      simp (disch := omega) only [decodeMajor0, bits, cutHigh, cutLow, cut63, cut33, if_true, BitVec.reduceAppend, Nat.reduceSub, BitVec.extractLsb'_eq_self, BitVec.toNat_ofNat, BitVec.reduceExtractLsb', Nat.reducePow, Nat.reduceMod, BitVec.zeroExtend_eq_setWidth, BitVec.reduceSetWidth, BitVec.reduceAdd]
  · refine statement_of rfl ((decodeRaw_major0 ?_).trans ?_) <;>
      simp (disch := omega) only [decodeMajor0, bits, cutHigh, cutLow, cut63, cut33, if_true, BitVec.reduceAppend, Nat.reduceSub, BitVec.extractLsb'_eq_self, BitVec.toNat_ofNat, BitVec.reduceExtractLsb', Nat.reducePow, Nat.reduceMod, BitVec.zeroExtend_eq_setWidth, BitVec.reduceSetWidth, BitVec.reduceAdd]

theorem bpAll (p : BitVec 3) (o : BitVec 22) : Statement (.bpAll p o) := by
  rcases cases3 p with rfl | rfl | rfl | rfl | rfl | rfl | rfl | rfl
  · refine statement_of rfl ((decodeRaw_major0 ?_).trans ?_) <;>
      simp (disch := omega) only [decodeMajor0, bits, cutHigh, cutLow, cut63, cut33, if_true, BitVec.reduceAppend, Nat.reduceSub, BitVec.extractLsb'_eq_self, BitVec.toNat_ofNat, BitVec.reduceExtractLsb', Nat.reducePow, Nat.reduceMod, BitVec.zeroExtend_eq_setWidth, BitVec.reduceSetWidth, BitVec.reduceAdd]
  · refine statement_of rfl ((decodeRaw_major0 ?_).trans ?_) <;>
      simp (disch := omega) only [decodeMajor0, bits, cutHigh, cutLow, cut63, cut33, if_true, BitVec.reduceAppend, Nat.reduceSub, BitVec.extractLsb'_eq_self, BitVec.toNat_ofNat, BitVec.reduceExtractLsb', Nat.reducePow, Nat.reduceMod, BitVec.zeroExtend_eq_setWidth, BitVec.reduceSetWidth, BitVec.reduceAdd]
  · refine statement_of rfl ((decodeRaw_major0 ?_).trans ?_) <;>
      simp (disch := omega) only [decodeMajor0, bits, cutHigh, cutLow, cut63, cut33, if_true, BitVec.reduceAppend, Nat.reduceSub, BitVec.extractLsb'_eq_self, BitVec.toNat_ofNat, BitVec.reduceExtractLsb', Nat.reducePow, Nat.reduceMod, BitVec.zeroExtend_eq_setWidth, BitVec.reduceSetWidth, BitVec.reduceAdd]
  · refine statement_of rfl ((decodeRaw_major0 ?_).trans ?_) <;>
      simp (disch := omega) only [decodeMajor0, bits, cutHigh, cutLow, cut63, cut33, if_true, BitVec.reduceAppend, Nat.reduceSub, BitVec.extractLsb'_eq_self, BitVec.toNat_ofNat, BitVec.reduceExtractLsb', Nat.reducePow, Nat.reduceMod, BitVec.zeroExtend_eq_setWidth, BitVec.reduceSetWidth, BitVec.reduceAdd]
  · refine statement_of rfl ((decodeRaw_major0 ?_).trans ?_) <;>
      simp (disch := omega) only [decodeMajor0, bits, cutHigh, cutLow, cut63, cut33, if_true, BitVec.reduceAppend, Nat.reduceSub, BitVec.extractLsb'_eq_self, BitVec.toNat_ofNat, BitVec.reduceExtractLsb', Nat.reducePow, Nat.reduceMod, BitVec.zeroExtend_eq_setWidth, BitVec.reduceSetWidth, BitVec.reduceAdd]
  · refine statement_of rfl ((decodeRaw_major0 ?_).trans ?_) <;>
      simp (disch := omega) only [decodeMajor0, bits, cutHigh, cutLow, cut63, cut33, if_true, BitVec.reduceAppend, Nat.reduceSub, BitVec.extractLsb'_eq_self, BitVec.toNat_ofNat, BitVec.reduceExtractLsb', Nat.reducePow, Nat.reduceMod, BitVec.zeroExtend_eq_setWidth, BitVec.reduceSetWidth, BitVec.reduceAdd]
  · refine statement_of rfl ((decodeRaw_major0 ?_).trans ?_) <;>
      simp (disch := omega) only [decodeMajor0, bits, cutHigh, cutLow, cut63, cut33, if_true, BitVec.reduceAppend, Nat.reduceSub, BitVec.extractLsb'_eq_self, BitVec.toNat_ofNat, BitVec.reduceExtractLsb', Nat.reducePow, Nat.reduceMod, BitVec.zeroExtend_eq_setWidth, BitVec.reduceSetWidth, BitVec.reduceAdd]
  · refine statement_of rfl ((decodeRaw_major0 ?_).trans ?_) <;>
      simp (disch := omega) only [decodeMajor0, bits, cutHigh, cutLow, cut63, cut33, if_true, BitVec.reduceAppend, Nat.reduceSub, BitVec.extractLsb'_eq_self, BitVec.toNat_ofNat, BitVec.reduceExtractLsb', Nat.reducePow, Nat.reduceMod, BitVec.zeroExtend_eq_setWidth, BitVec.reduceSetWidth, BitVec.reduceAdd]

theorem ret (s : BitVec 6) : Statement (.ret s) := by
  refine statement_of rfl ((decodeRaw_major0 ?_).trans ?_) <;>
    simp (disch := omega) only [decodeMajor0, bits, cutHigh, cutLow, cut63, cut33, if_true, BitVec.reduceAppend, Nat.reduceSub, BitVec.extractLsb'_eq_self, BitVec.toNat_ofNat, BitVec.reduceExtractLsb', Nat.reducePow, Nat.reduceMod, BitVec.zeroExtend_eq_setWidth, BitVec.reduceSetWidth, BitVec.reduceAdd]
  refine zero_ok (show _ = fieldMask 0 16 from rfl) (and_fieldMask ?_) _ <;>
    simp (disch := omega) only [bits, cutHigh, cutLow, cut63, cut33, if_true, BitVec.reduceAppend, Nat.reduceSub, BitVec.extractLsb'_eq_self, BitVec.toNat_ofNat, BitVec.reduceExtractLsb', Nat.reducePow, Nat.reduceMod, BitVec.zeroExtend_eq_setWidth, BitVec.reduceSetWidth, BitVec.reduceAdd]

theorem jmpr (s : BitVec 6) : Statement (.jmpr s) := by
  refine statement_of rfl ((decodeRaw_major0 ?_).trans ?_) <;>
    simp (disch := omega) only [decodeMajor0, bits, cutHigh, cutLow, cut63, cut33, if_true, BitVec.reduceAppend, Nat.reduceSub, BitVec.extractLsb'_eq_self, BitVec.toNat_ofNat, BitVec.reduceExtractLsb', Nat.reducePow, Nat.reduceMod, BitVec.zeroExtend_eq_setWidth, BitVec.reduceSetWidth, BitVec.reduceAdd]
  refine zero_ok (show _ = fieldMask 0 16 from rfl) (and_fieldMask ?_) _ <;>
    simp (disch := omega) only [bits, cutHigh, cutLow, cut63, cut33, if_true, BitVec.reduceAppend, Nat.reduceSub, BitVec.extractLsb'_eq_self, BitVec.toNat_ofNat, BitVec.reduceExtractLsb', Nat.reducePow, Nat.reduceMod, BitVec.zeroExtend_eq_setWidth, BitVec.reduceSetWidth, BitVec.reduceAdd]

theorem join : Statement .join := by
  refine statement_of rfl ((decodeRaw_major0 ?_).trans ?_) <;>
    simp (disch := omega) only [decodeMajor0, bits, cutHigh, cutLow, cut63, cut33, if_true, BitVec.reduceAppend, Nat.reduceSub, BitVec.extractLsb'_eq_self, BitVec.toNat_ofNat, BitVec.reduceExtractLsb', Nat.reducePow, Nat.reduceMod, BitVec.zeroExtend_eq_setWidth, BitVec.reduceSetWidth, BitVec.reduceAdd]
  refine zero_ok (show _ = fieldMask 0 22 from rfl) (and_fieldMask ?_) _ <;>
    simp (disch := omega) only [bits, cutHigh, cutLow, cut63, cut33, if_true, BitVec.reduceAppend, Nat.reduceSub, BitVec.extractLsb'_eq_self, BitVec.toNat_ofNat, BitVec.reduceExtractLsb', Nat.reducePow, Nat.reduceMod, BitVec.zeroExtend_eq_setWidth, BitVec.reduceSetWidth, BitVec.reduceAdd]

theorem exit : Statement .exit := by
  refine statement_of rfl ((decodeRaw_major0 ?_).trans ?_) <;>
    simp (disch := omega) only [decodeMajor0, bits, cutHigh, cutLow, cut63, cut33, if_true, BitVec.reduceAppend, Nat.reduceSub, BitVec.extractLsb'_eq_self, BitVec.toNat_ofNat, BitVec.reduceExtractLsb', Nat.reducePow, Nat.reduceMod, BitVec.zeroExtend_eq_setWidth, BitVec.reduceSetWidth, BitVec.reduceAdd]
  refine zero_ok (show _ = fieldMask 0 22 from rfl) (and_fieldMask ?_) _ <;>
    simp (disch := omega) only [bits, cutHigh, cutLow, cut63, cut33, if_true, BitVec.reduceAppend, Nat.reduceSub, BitVec.extractLsb'_eq_self, BitVec.toNat_ofNat, BitVec.reduceExtractLsb', Nat.reducePow, Nat.reduceMod, BitVec.zeroExtend_eq_setWidth, BitVec.reduceSetWidth, BitVec.reduceAdd]

theorem bdv (p : BitVec 3) (t : BitVec 12) (j : BitVec 12) : Statement (.bdv p t j) := by
  refine statement_of rfl ((decodeRaw_major1 ?_).trans ?_) <;>
    simp (disch := omega) only [decodeMajor1, bits, cutHigh, cutLow, cut63, cut33, if_true, BitVec.reduceAppend, Nat.reduceSub, BitVec.extractLsb'_eq_self, BitVec.toNat_ofNat, BitVec.reduceExtractLsb', Nat.reducePow, Nat.reduceMod, BitVec.zeroExtend_eq_setWidth, BitVec.reduceSetWidth, BitVec.reduceAdd]

theorem splitRefill : Statement .splitRefill := statement_of_event rfl

theorem sadd (d : BitVec 6) (a : BitVec 6) (b : BitVec 6) : Statement (.sadd d a b) := by
  refine statement_of rfl ((decodeRaw_major2 ?_).trans ?_) <;>
    simp (disch := omega) only [decodeMajor2, bits, cutHigh, cutLow, cut63, cut33, if_true, BitVec.reduceAppend, Nat.reduceSub, BitVec.extractLsb'_eq_self, BitVec.toNat_ofNat, BitVec.reduceExtractLsb', Nat.reducePow, Nat.reduceMod, BitVec.zeroExtend_eq_setWidth, BitVec.reduceSetWidth, BitVec.reduceAdd]

theorem ssub (d : BitVec 6) (a : BitVec 6) (b : BitVec 6) : Statement (.ssub d a b) := by
  refine statement_of rfl ((decodeRaw_major2 ?_).trans ?_) <;>
    simp (disch := omega) only [decodeMajor2, bits, cutHigh, cutLow, cut63, cut33, if_true, BitVec.reduceAppend, Nat.reduceSub, BitVec.extractLsb'_eq_self, BitVec.toNat_ofNat, BitVec.reduceExtractLsb', Nat.reducePow, Nat.reduceMod, BitVec.zeroExtend_eq_setWidth, BitVec.reduceSetWidth, BitVec.reduceAdd]

theorem smul (d : BitVec 6) (a : BitVec 6) (b : BitVec 6) : Statement (.smul d a b) := by
  refine statement_of rfl ((decodeRaw_major2 ?_).trans ?_) <;>
    simp (disch := omega) only [decodeMajor2, bits, cutHigh, cutLow, cut63, cut33, if_true, BitVec.reduceAppend, Nat.reduceSub, BitVec.extractLsb'_eq_self, BitVec.toNat_ofNat, BitVec.reduceExtractLsb', Nat.reducePow, Nat.reduceMod, BitVec.zeroExtend_eq_setWidth, BitVec.reduceSetWidth, BitVec.reduceAdd]

theorem smulh (d : BitVec 6) (a : BitVec 6) (b : BitVec 6) : Statement (.smulh d a b) := by
  refine statement_of rfl ((decodeRaw_major2 ?_).trans ?_) <;>
    simp (disch := omega) only [decodeMajor2, bits, cutHigh, cutLow, cut63, cut33, if_true, BitVec.reduceAppend, Nat.reduceSub, BitVec.extractLsb'_eq_self, BitVec.toNat_ofNat, BitVec.reduceExtractLsb', Nat.reducePow, Nat.reduceMod, BitVec.zeroExtend_eq_setWidth, BitVec.reduceSetWidth, BitVec.reduceAdd]

theorem sdiv (d : BitVec 6) (a : BitVec 6) (b : BitVec 6) : Statement (.sdiv d a b) := by
  refine statement_of rfl ((decodeRaw_major2 ?_).trans ?_) <;>
    simp (disch := omega) only [decodeMajor2, bits, cutHigh, cutLow, cut63, cut33, if_true, BitVec.reduceAppend, Nat.reduceSub, BitVec.extractLsb'_eq_self, BitVec.toNat_ofNat, BitVec.reduceExtractLsb', Nat.reducePow, Nat.reduceMod, BitVec.zeroExtend_eq_setWidth, BitVec.reduceSetWidth, BitVec.reduceAdd]

theorem srem (d : BitVec 6) (a : BitVec 6) (b : BitVec 6) : Statement (.srem d a b) := by
  refine statement_of rfl ((decodeRaw_major2 ?_).trans ?_) <;>
    simp (disch := omega) only [decodeMajor2, bits, cutHigh, cutLow, cut63, cut33, if_true, BitVec.reduceAppend, Nat.reduceSub, BitVec.extractLsb'_eq_self, BitVec.toNat_ofNat, BitVec.reduceExtractLsb', Nat.reducePow, Nat.reduceMod, BitVec.zeroExtend_eq_setWidth, BitVec.reduceSetWidth, BitVec.reduceAdd]

theorem sand (d : BitVec 6) (a : BitVec 6) (b : BitVec 6) : Statement (.sand d a b) := by
  refine statement_of rfl ((decodeRaw_major2 ?_).trans ?_) <;>
    simp (disch := omega) only [decodeMajor2, bits, cutHigh, cutLow, cut63, cut33, if_true, BitVec.reduceAppend, Nat.reduceSub, BitVec.extractLsb'_eq_self, BitVec.toNat_ofNat, BitVec.reduceExtractLsb', Nat.reducePow, Nat.reduceMod, BitVec.zeroExtend_eq_setWidth, BitVec.reduceSetWidth, BitVec.reduceAdd]

theorem sor (d : BitVec 6) (a : BitVec 6) (b : BitVec 6) : Statement (.sor d a b) := by
  refine statement_of rfl ((decodeRaw_major2 ?_).trans ?_) <;>
    simp (disch := omega) only [decodeMajor2, bits, cutHigh, cutLow, cut63, cut33, if_true, BitVec.reduceAppend, Nat.reduceSub, BitVec.extractLsb'_eq_self, BitVec.toNat_ofNat, BitVec.reduceExtractLsb', Nat.reducePow, Nat.reduceMod, BitVec.zeroExtend_eq_setWidth, BitVec.reduceSetWidth, BitVec.reduceAdd]

theorem sxor (d : BitVec 6) (a : BitVec 6) (b : BitVec 6) : Statement (.sxor d a b) := by
  refine statement_of rfl ((decodeRaw_major2 ?_).trans ?_) <;>
    simp (disch := omega) only [decodeMajor2, bits, cutHigh, cutLow, cut63, cut33, if_true, BitVec.reduceAppend, Nat.reduceSub, BitVec.extractLsb'_eq_self, BitVec.toNat_ofNat, BitVec.reduceExtractLsb', Nat.reducePow, Nat.reduceMod, BitVec.zeroExtend_eq_setWidth, BitVec.reduceSetWidth, BitVec.reduceAdd]

theorem sandn (d : BitVec 6) (a : BitVec 6) (b : BitVec 6) : Statement (.sandn d a b) := by
  refine statement_of rfl ((decodeRaw_major2 ?_).trans ?_) <;>
    simp (disch := omega) only [decodeMajor2, bits, cutHigh, cutLow, cut63, cut33, if_true, BitVec.reduceAppend, Nat.reduceSub, BitVec.extractLsb'_eq_self, BitVec.toNat_ofNat, BitVec.reduceExtractLsb', Nat.reducePow, Nat.reduceMod, BitVec.zeroExtend_eq_setWidth, BitVec.reduceSetWidth, BitVec.reduceAdd]

theorem sshl (d : BitVec 6) (a : BitVec 6) (b : BitVec 6) : Statement (.sshl d a b) := by
  refine statement_of rfl ((decodeRaw_major2 ?_).trans ?_) <;>
    simp (disch := omega) only [decodeMajor2, bits, cutHigh, cutLow, cut63, cut33, if_true, BitVec.reduceAppend, Nat.reduceSub, BitVec.extractLsb'_eq_self, BitVec.toNat_ofNat, BitVec.reduceExtractLsb', Nat.reducePow, Nat.reduceMod, BitVec.zeroExtend_eq_setWidth, BitVec.reduceSetWidth, BitVec.reduceAdd]

theorem sshr (d : BitVec 6) (a : BitVec 6) (b : BitVec 6) : Statement (.sshr d a b) := by
  refine statement_of rfl ((decodeRaw_major2 ?_).trans ?_) <;>
    simp (disch := omega) only [decodeMajor2, bits, cutHigh, cutLow, cut63, cut33, if_true, BitVec.reduceAppend, Nat.reduceSub, BitVec.extractLsb'_eq_self, BitVec.toNat_ofNat, BitVec.reduceExtractLsb', Nat.reducePow, Nat.reduceMod, BitVec.zeroExtend_eq_setWidth, BitVec.reduceSetWidth, BitVec.reduceAdd]

theorem ssra (d : BitVec 6) (a : BitVec 6) (b : BitVec 6) : Statement (.ssra d a b) := by
  refine statement_of rfl ((decodeRaw_major2 ?_).trans ?_) <;>
    simp (disch := omega) only [decodeMajor2, bits, cutHigh, cutLow, cut63, cut33, if_true, BitVec.reduceAppend, Nat.reduceSub, BitVec.extractLsb'_eq_self, BitVec.toNat_ofNat, BitVec.reduceExtractLsb', Nat.reducePow, Nat.reduceMod, BitVec.zeroExtend_eq_setWidth, BitVec.reduceSetWidth, BitVec.reduceAdd]

theorem srot (d : BitVec 6) (a : BitVec 6) (b : BitVec 6) : Statement (.srot d a b) := by
  refine statement_of rfl ((decodeRaw_major2 ?_).trans ?_) <;>
    simp (disch := omega) only [decodeMajor2, bits, cutHigh, cutLow, cut63, cut33, if_true, BitVec.reduceAppend, Nat.reduceSub, BitVec.extractLsb'_eq_self, BitVec.toNat_ofNat, BitVec.reduceExtractLsb', Nat.reducePow, Nat.reduceMod, BitVec.zeroExtend_eq_setWidth, BitVec.reduceSetWidth, BitVec.reduceAdd]

theorem smin (d : BitVec 6) (a : BitVec 6) (b : BitVec 6) : Statement (.smin d a b) := by
  refine statement_of rfl ((decodeRaw_major2 ?_).trans ?_) <;>
    simp (disch := omega) only [decodeMajor2, bits, cutHigh, cutLow, cut63, cut33, if_true, BitVec.reduceAppend, Nat.reduceSub, BitVec.extractLsb'_eq_self, BitVec.toNat_ofNat, BitVec.reduceExtractLsb', Nat.reducePow, Nat.reduceMod, BitVec.zeroExtend_eq_setWidth, BitVec.reduceSetWidth, BitVec.reduceAdd]

theorem smax (d : BitVec 6) (a : BitVec 6) (b : BitVec 6) : Statement (.smax d a b) := by
  refine statement_of rfl ((decodeRaw_major2 ?_).trans ?_) <;>
    simp (disch := omega) only [decodeMajor2, bits, cutHigh, cutLow, cut63, cut33, if_true, BitVec.reduceAppend, Nat.reduceSub, BitVec.extractLsb'_eq_self, BitVec.toNat_ofNat, BitVec.reduceExtractLsb', Nat.reducePow, Nat.reduceMod, BitVec.zeroExtend_eq_setWidth, BitVec.reduceSetWidth, BitVec.reduceAdd]

theorem sminn (d : BitVec 6) (a : BitVec 6) (b : BitVec 6) : Statement (.sminn d a b) := by
  refine statement_of rfl ((decodeRaw_major2 ?_).trans ?_) <;>
    simp (disch := omega) only [decodeMajor2, bits, cutHigh, cutLow, cut63, cut33, if_true, BitVec.reduceAppend, Nat.reduceSub, BitVec.extractLsb'_eq_self, BitVec.toNat_ofNat, BitVec.reduceExtractLsb', Nat.reducePow, Nat.reduceMod, BitVec.zeroExtend_eq_setWidth, BitVec.reduceSetWidth, BitVec.reduceAdd]

theorem smaxn (d : BitVec 6) (a : BitVec 6) (b : BitVec 6) : Statement (.smaxn d a b) := by
  refine statement_of rfl ((decodeRaw_major2 ?_).trans ?_) <;>
    simp (disch := omega) only [decodeMajor2, bits, cutHigh, cutLow, cut63, cut33, if_true, BitVec.reduceAppend, Nat.reduceSub, BitVec.extractLsb'_eq_self, BitVec.toNat_ofNat, BitVec.reduceExtractLsb', Nat.reducePow, Nat.reduceMod, BitVec.zeroExtend_eq_setWidth, BitVec.reduceSetWidth, BitVec.reduceAdd]

theorem sclz (d : BitVec 6) (a : BitVec 6) : Statement (.sclz d a) := by
  refine statement_of rfl ((decodeRaw_major2 ?_).trans ?_) <;>
    simp (disch := omega) only [decodeMajor2, bits, cutHigh, cutLow, cut63, cut33, if_true, BitVec.reduceAppend, Nat.reduceSub, BitVec.extractLsb'_eq_self, BitVec.toNat_ofNat, BitVec.reduceExtractLsb', Nat.reducePow, Nat.reduceMod, BitVec.zeroExtend_eq_setWidth, BitVec.reduceSetWidth, BitVec.reduceAdd]
  refine zero_ok (show _ = fieldMask 9 6 from rfl) (and_fieldMask ?_) _ <;>
    simp (disch := omega) only [bits, cutHigh, cutLow, cut63, cut33, if_true, BitVec.reduceAppend, Nat.reduceSub, BitVec.extractLsb'_eq_self, BitVec.toNat_ofNat, BitVec.reduceExtractLsb', Nat.reducePow, Nat.reduceMod, BitVec.zeroExtend_eq_setWidth, BitVec.reduceSetWidth, BitVec.reduceAdd]

theorem spop (d : BitVec 6) (a : BitVec 6) : Statement (.spop d a) := by
  refine statement_of rfl ((decodeRaw_major2 ?_).trans ?_) <;>
    simp (disch := omega) only [decodeMajor2, bits, cutHigh, cutLow, cut63, cut33, if_true, BitVec.reduceAppend, Nat.reduceSub, BitVec.extractLsb'_eq_self, BitVec.toNat_ofNat, BitVec.reduceExtractLsb', Nat.reducePow, Nat.reduceMod, BitVec.zeroExtend_eq_setWidth, BitVec.reduceSetWidth, BitVec.reduceAdd]
  refine zero_ok (show _ = fieldMask 9 6 from rfl) (and_fieldMask ?_) _ <;>
    simp (disch := omega) only [bits, cutHigh, cutLow, cut63, cut33, if_true, BitVec.reduceAppend, Nat.reduceSub, BitVec.extractLsb'_eq_self, BitVec.toNat_ofNat, BitVec.reduceExtractLsb', Nat.reducePow, Nat.reduceMod, BitVec.zeroExtend_eq_setWidth, BitVec.reduceSetWidth, BitVec.reduceAdd]

theorem sbrev (d : BitVec 6) (a : BitVec 6) : Statement (.sbrev d a) := by
  refine statement_of rfl ((decodeRaw_major2 ?_).trans ?_) <;>
    simp (disch := omega) only [decodeMajor2, bits, cutHigh, cutLow, cut63, cut33, if_true, BitVec.reduceAppend, Nat.reduceSub, BitVec.extractLsb'_eq_self, BitVec.toNat_ofNat, BitVec.reduceExtractLsb', Nat.reducePow, Nat.reduceMod, BitVec.zeroExtend_eq_setWidth, BitVec.reduceSetWidth, BitVec.reduceAdd]
  refine zero_ok (show _ = fieldMask 9 6 from rfl) (and_fieldMask ?_) _ <;>
    simp (disch := omega) only [bits, cutHigh, cutLow, cut63, cut33, if_true, BitVec.reduceAppend, Nat.reduceSub, BitVec.extractLsb'_eq_self, BitVec.toNat_ofNat, BitVec.reduceExtractLsb', Nat.reducePow, Nat.reduceMod, BitVec.zeroExtend_eq_setWidth, BitVec.reduceSetWidth, BitVec.reduceAdd]

theorem ssextB8 (d : BitVec 6) (a : BitVec 6) : Statement (.ssextB8 d a) := by
  refine statement_of rfl ((decodeRaw_major2 ?_).trans ?_) <;>
    simp (disch := omega) only [decodeMajor2, bits, cutHigh, cutLow, cut63, cut33, if_true, BitVec.reduceAppend, Nat.reduceSub, BitVec.extractLsb'_eq_self, BitVec.toNat_ofNat, BitVec.reduceExtractLsb', Nat.reducePow, Nat.reduceMod, BitVec.zeroExtend_eq_setWidth, BitVec.reduceSetWidth, BitVec.reduceAdd]
  refine zero_ok (show _ = fieldMask 9 6 from rfl) (and_fieldMask ?_) _ <;>
    simp (disch := omega) only [bits, cutHigh, cutLow, cut63, cut33, if_true, BitVec.reduceAppend, Nat.reduceSub, BitVec.extractLsb'_eq_self, BitVec.toNat_ofNat, BitVec.reduceExtractLsb', Nat.reducePow, Nat.reduceMod, BitVec.zeroExtend_eq_setWidth, BitVec.reduceSetWidth, BitVec.reduceAdd]

theorem ssextB16 (d : BitVec 6) (a : BitVec 6) : Statement (.ssextB16 d a) := by
  refine statement_of rfl ((decodeRaw_major2 ?_).trans ?_) <;>
    simp (disch := omega) only [decodeMajor2, bits, cutHigh, cutLow, cut63, cut33, if_true, BitVec.reduceAppend, Nat.reduceSub, BitVec.extractLsb'_eq_self, BitVec.toNat_ofNat, BitVec.reduceExtractLsb', Nat.reducePow, Nat.reduceMod, BitVec.zeroExtend_eq_setWidth, BitVec.reduceSetWidth, BitVec.reduceAdd]
  refine zero_ok (show _ = fieldMask 9 6 from rfl) (and_fieldMask ?_) _ <;>
    simp (disch := omega) only [bits, cutHigh, cutLow, cut63, cut33, if_true, BitVec.reduceAppend, Nat.reduceSub, BitVec.extractLsb'_eq_self, BitVec.toNat_ofNat, BitVec.reduceExtractLsb', Nat.reducePow, Nat.reduceMod, BitVec.zeroExtend_eq_setWidth, BitVec.reduceSetWidth, BitVec.reduceAdd]

theorem ssextB32 (d : BitVec 6) (a : BitVec 6) : Statement (.ssextB32 d a) := by
  refine statement_of rfl ((decodeRaw_major2 ?_).trans ?_) <;>
    simp (disch := omega) only [decodeMajor2, bits, cutHigh, cutLow, cut63, cut33, if_true, BitVec.reduceAppend, Nat.reduceSub, BitVec.extractLsb'_eq_self, BitVec.toNat_ofNat, BitVec.reduceExtractLsb', Nat.reducePow, Nat.reduceMod, BitVec.zeroExtend_eq_setWidth, BitVec.reduceSetWidth, BitVec.reduceAdd]
  refine zero_ok (show _ = fieldMask 9 6 from rfl) (and_fieldMask ?_) _ <;>
    simp (disch := omega) only [bits, cutHigh, cutLow, cut63, cut33, if_true, BitVec.reduceAppend, Nat.reduceSub, BitVec.extractLsb'_eq_self, BitVec.toNat_ofNat, BitVec.reduceExtractLsb', Nat.reducePow, Nat.reduceMod, BitVec.zeroExtend_eq_setWidth, BitVec.reduceSetWidth, BitVec.reduceAdd]

theorem szextB8 (d : BitVec 6) (a : BitVec 6) : Statement (.szextB8 d a) := by
  refine statement_of rfl ((decodeRaw_major2 ?_).trans ?_) <;>
    simp (disch := omega) only [decodeMajor2, bits, cutHigh, cutLow, cut63, cut33, if_true, BitVec.reduceAppend, Nat.reduceSub, BitVec.extractLsb'_eq_self, BitVec.toNat_ofNat, BitVec.reduceExtractLsb', Nat.reducePow, Nat.reduceMod, BitVec.zeroExtend_eq_setWidth, BitVec.reduceSetWidth, BitVec.reduceAdd]
  refine zero_ok (show _ = fieldMask 9 6 from rfl) (and_fieldMask ?_) _ <;>
    simp (disch := omega) only [bits, cutHigh, cutLow, cut63, cut33, if_true, BitVec.reduceAppend, Nat.reduceSub, BitVec.extractLsb'_eq_self, BitVec.toNat_ofNat, BitVec.reduceExtractLsb', Nat.reducePow, Nat.reduceMod, BitVec.zeroExtend_eq_setWidth, BitVec.reduceSetWidth, BitVec.reduceAdd]

theorem szextB16 (d : BitVec 6) (a : BitVec 6) : Statement (.szextB16 d a) := by
  refine statement_of rfl ((decodeRaw_major2 ?_).trans ?_) <;>
    simp (disch := omega) only [decodeMajor2, bits, cutHigh, cutLow, cut63, cut33, if_true, BitVec.reduceAppend, Nat.reduceSub, BitVec.extractLsb'_eq_self, BitVec.toNat_ofNat, BitVec.reduceExtractLsb', Nat.reducePow, Nat.reduceMod, BitVec.zeroExtend_eq_setWidth, BitVec.reduceSetWidth, BitVec.reduceAdd]
  refine zero_ok (show _ = fieldMask 9 6 from rfl) (and_fieldMask ?_) _ <;>
    simp (disch := omega) only [bits, cutHigh, cutLow, cut63, cut33, if_true, BitVec.reduceAppend, Nat.reduceSub, BitVec.extractLsb'_eq_self, BitVec.toNat_ofNat, BitVec.reduceExtractLsb', Nat.reducePow, Nat.reduceMod, BitVec.zeroExtend_eq_setWidth, BitVec.reduceSetWidth, BitVec.reduceAdd]

theorem szextB32 (d : BitVec 6) (a : BitVec 6) : Statement (.szextB32 d a) := by
  refine statement_of rfl ((decodeRaw_major2 ?_).trans ?_) <;>
    simp (disch := omega) only [decodeMajor2, bits, cutHigh, cutLow, cut63, cut33, if_true, BitVec.reduceAppend, Nat.reduceSub, BitVec.extractLsb'_eq_self, BitVec.toNat_ofNat, BitVec.reduceExtractLsb', Nat.reducePow, Nat.reduceMod, BitVec.zeroExtend_eq_setWidth, BitVec.reduceSetWidth, BitVec.reduceAdd]
  refine zero_ok (show _ = fieldMask 9 6 from rfl) (and_fieldMask ?_) _ <;>
    simp (disch := omega) only [bits, cutHigh, cutLow, cut63, cut33, if_true, BitVec.reduceAppend, Nat.reduceSub, BitVec.extractLsb'_eq_self, BitVec.toNat_ofNat, BitVec.reduceExtractLsb', Nat.reducePow, Nat.reduceMod, BitVec.zeroExtend_eq_setWidth, BitVec.reduceSetWidth, BitVec.reduceAdd]

theorem ssel (d : BitVec 6) (a : BitVec 6) (b : BitVec 6) (k : BitVec 2) : Statement (.ssel d a b k) := by
  rcases cases2 k with rfl | rfl | rfl | rfl
  · refine statement_of rfl ((decodeRaw_major2 ?_).trans ?_) <;>
      simp (disch := omega) only [decodeMajor2, bits, cutHigh, cutLow, cut63, cut33, if_true, BitVec.reduceAppend, Nat.reduceSub, BitVec.extractLsb'_eq_self, BitVec.toNat_ofNat, BitVec.reduceExtractLsb', Nat.reducePow, Nat.reduceMod, BitVec.zeroExtend_eq_setWidth, BitVec.reduceSetWidth, BitVec.reduceAdd]
  · refine statement_of rfl ((decodeRaw_major2 ?_).trans ?_) <;>
      simp (disch := omega) only [decodeMajor2, bits, cutHigh, cutLow, cut63, cut33, if_true, BitVec.reduceAppend, Nat.reduceSub, BitVec.extractLsb'_eq_self, BitVec.toNat_ofNat, BitVec.reduceExtractLsb', Nat.reducePow, Nat.reduceMod, BitVec.zeroExtend_eq_setWidth, BitVec.reduceSetWidth, BitVec.reduceAdd]
  · refine statement_of rfl ((decodeRaw_major2 ?_).trans ?_) <;>
      simp (disch := omega) only [decodeMajor2, bits, cutHigh, cutLow, cut63, cut33, if_true, BitVec.reduceAppend, Nat.reduceSub, BitVec.extractLsb'_eq_self, BitVec.toNat_ofNat, BitVec.reduceExtractLsb', Nat.reducePow, Nat.reduceMod, BitVec.zeroExtend_eq_setWidth, BitVec.reduceSetWidth, BitVec.reduceAdd]
  · refine statement_of rfl ((decodeRaw_major2 ?_).trans ?_) <;>
      simp (disch := omega) only [decodeMajor2, bits, cutHigh, cutLow, cut63, cut33, if_true, BitVec.reduceAppend, Nat.reduceSub, BitVec.extractLsb'_eq_self, BitVec.toNat_ofNat, BitVec.reduceExtractLsb', Nat.reducePow, Nat.reduceMod, BitVec.zeroExtend_eq_setWidth, BitVec.reduceSetWidth, BitVec.reduceAdd]

theorem smov (d : BitVec 6) (a : BitVec 6) : Statement (.smov d a) := by
  refine statement_of rfl ((decodeRaw_major2 ?_).trans ?_) <;>
    simp (disch := omega) only [decodeMajor2, bits, cutHigh, cutLow, cut63, cut33, if_true, BitVec.reduceAppend, Nat.reduceSub, BitVec.extractLsb'_eq_self, BitVec.toNat_ofNat, BitVec.reduceExtractLsb', Nat.reducePow, Nat.reduceMod, BitVec.zeroExtend_eq_setWidth, BitVec.reduceSetWidth, BitVec.reduceAdd]
  refine zero_ok (show _ = fieldMask 9 6 from rfl) (and_fieldMask ?_) _ <;>
    simp (disch := omega) only [bits, cutHigh, cutLow, cut63, cut33, if_true, BitVec.reduceAppend, Nat.reduceSub, BitVec.extractLsb'_eq_self, BitVec.toNat_ofNat, BitVec.reduceExtractLsb', Nat.reducePow, Nat.reduceMod, BitVec.zeroExtend_eq_setWidth, BitVec.reduceSetWidth, BitVec.reduceAdd]

theorem scmp (k : BitVec 2) (a : BitVec 6) (b : BitVec 6) (c : BitVec 3) : Statement (.scmp k a b c) := by
  rcases cases3 c with rfl | rfl | rfl | rfl | rfl | rfl | rfl | rfl
  · refine statement_of rfl ((decodeRaw_major2 ?_).trans ?_) <;>
      simp (disch := omega) only [decodeMajor2, bits, cutHigh, cutLow, cut63, cut33, if_true, BitVec.reduceAppend, Nat.reduceSub, BitVec.extractLsb'_eq_self, BitVec.toNat_ofNat, BitVec.reduceExtractLsb', Nat.reducePow, Nat.reduceMod, BitVec.zeroExtend_eq_setWidth, BitVec.reduceSetWidth, BitVec.reduceAdd]
    refine zero_ok (show _ = fieldMask 23 4 from rfl) (and_fieldMask ?_) _ <;>
        simp (disch := omega) only [bits, cutHigh, cutLow, cut63, cut33, if_true, BitVec.reduceAppend, Nat.reduceSub, BitVec.extractLsb'_eq_self, BitVec.toNat_ofNat, BitVec.reduceExtractLsb', Nat.reducePow, Nat.reduceMod, BitVec.zeroExtend_eq_setWidth, BitVec.reduceSetWidth, BitVec.reduceAdd]
  · refine statement_of rfl ((decodeRaw_major2 ?_).trans ?_) <;>
      simp (disch := omega) only [decodeMajor2, bits, cutHigh, cutLow, cut63, cut33, if_true, BitVec.reduceAppend, Nat.reduceSub, BitVec.extractLsb'_eq_self, BitVec.toNat_ofNat, BitVec.reduceExtractLsb', Nat.reducePow, Nat.reduceMod, BitVec.zeroExtend_eq_setWidth, BitVec.reduceSetWidth, BitVec.reduceAdd]
    refine zero_ok (show _ = fieldMask 23 4 from rfl) (and_fieldMask ?_) _ <;>
        simp (disch := omega) only [bits, cutHigh, cutLow, cut63, cut33, if_true, BitVec.reduceAppend, Nat.reduceSub, BitVec.extractLsb'_eq_self, BitVec.toNat_ofNat, BitVec.reduceExtractLsb', Nat.reducePow, Nat.reduceMod, BitVec.zeroExtend_eq_setWidth, BitVec.reduceSetWidth, BitVec.reduceAdd]
  · refine statement_of rfl ((decodeRaw_major2 ?_).trans ?_) <;>
      simp (disch := omega) only [decodeMajor2, bits, cutHigh, cutLow, cut63, cut33, if_true, BitVec.reduceAppend, Nat.reduceSub, BitVec.extractLsb'_eq_self, BitVec.toNat_ofNat, BitVec.reduceExtractLsb', Nat.reducePow, Nat.reduceMod, BitVec.zeroExtend_eq_setWidth, BitVec.reduceSetWidth, BitVec.reduceAdd]
    refine zero_ok (show _ = fieldMask 23 4 from rfl) (and_fieldMask ?_) _ <;>
        simp (disch := omega) only [bits, cutHigh, cutLow, cut63, cut33, if_true, BitVec.reduceAppend, Nat.reduceSub, BitVec.extractLsb'_eq_self, BitVec.toNat_ofNat, BitVec.reduceExtractLsb', Nat.reducePow, Nat.reduceMod, BitVec.zeroExtend_eq_setWidth, BitVec.reduceSetWidth, BitVec.reduceAdd]
  · refine statement_of rfl ((decodeRaw_major2 ?_).trans ?_) <;>
      simp (disch := omega) only [decodeMajor2, bits, cutHigh, cutLow, cut63, cut33, if_true, BitVec.reduceAppend, Nat.reduceSub, BitVec.extractLsb'_eq_self, BitVec.toNat_ofNat, BitVec.reduceExtractLsb', Nat.reducePow, Nat.reduceMod, BitVec.zeroExtend_eq_setWidth, BitVec.reduceSetWidth, BitVec.reduceAdd]
    refine zero_ok (show _ = fieldMask 23 4 from rfl) (and_fieldMask ?_) _ <;>
        simp (disch := omega) only [bits, cutHigh, cutLow, cut63, cut33, if_true, BitVec.reduceAppend, Nat.reduceSub, BitVec.extractLsb'_eq_self, BitVec.toNat_ofNat, BitVec.reduceExtractLsb', Nat.reducePow, Nat.reduceMod, BitVec.zeroExtend_eq_setWidth, BitVec.reduceSetWidth, BitVec.reduceAdd]
  · refine statement_of rfl ((decodeRaw_major2 ?_).trans ?_) <;>
      simp (disch := omega) only [decodeMajor2, bits, cutHigh, cutLow, cut63, cut33, if_true, BitVec.reduceAppend, Nat.reduceSub, BitVec.extractLsb'_eq_self, BitVec.toNat_ofNat, BitVec.reduceExtractLsb', Nat.reducePow, Nat.reduceMod, BitVec.zeroExtend_eq_setWidth, BitVec.reduceSetWidth, BitVec.reduceAdd]
    refine zero_ok (show _ = fieldMask 23 4 from rfl) (and_fieldMask ?_) _ <;>
        simp (disch := omega) only [bits, cutHigh, cutLow, cut63, cut33, if_true, BitVec.reduceAppend, Nat.reduceSub, BitVec.extractLsb'_eq_self, BitVec.toNat_ofNat, BitVec.reduceExtractLsb', Nat.reducePow, Nat.reduceMod, BitVec.zeroExtend_eq_setWidth, BitVec.reduceSetWidth, BitVec.reduceAdd]
  · refine statement_of rfl ((decodeRaw_major2 ?_).trans ?_) <;>
      simp (disch := omega) only [decodeMajor2, bits, cutHigh, cutLow, cut63, cut33, if_true, BitVec.reduceAppend, Nat.reduceSub, BitVec.extractLsb'_eq_self, BitVec.toNat_ofNat, BitVec.reduceExtractLsb', Nat.reducePow, Nat.reduceMod, BitVec.zeroExtend_eq_setWidth, BitVec.reduceSetWidth, BitVec.reduceAdd]
    refine zero_ok (show _ = fieldMask 23 4 from rfl) (and_fieldMask ?_) _ <;>
        simp (disch := omega) only [bits, cutHigh, cutLow, cut63, cut33, if_true, BitVec.reduceAppend, Nat.reduceSub, BitVec.extractLsb'_eq_self, BitVec.toNat_ofNat, BitVec.reduceExtractLsb', Nat.reducePow, Nat.reduceMod, BitVec.zeroExtend_eq_setWidth, BitVec.reduceSetWidth, BitVec.reduceAdd]
  · exact statement_of_ill rfl
  · exact statement_of_ill rfl

theorem slea (d : BitVec 6) (a : BitVec 6) (b : BitVec 6) (h : BitVec 3) : Statement (.slea d a b h) := by
  rcases cases3 h with rfl | rfl | rfl | rfl | rfl | rfl | rfl | rfl
  · refine statement_of rfl ((decodeRaw_major2 ?_).trans ?_) <;>
      simp (disch := omega) only [decodeMajor2, bits, cutHigh, cutLow, cut63, cut33, if_true, BitVec.reduceAppend, Nat.reduceSub, BitVec.extractLsb'_eq_self, BitVec.toNat_ofNat, BitVec.reduceExtractLsb', Nat.reducePow, Nat.reduceMod, BitVec.zeroExtend_eq_setWidth, BitVec.reduceSetWidth, BitVec.reduceAdd]
  · refine statement_of rfl ((decodeRaw_major2 ?_).trans ?_) <;>
      simp (disch := omega) only [decodeMajor2, bits, cutHigh, cutLow, cut63, cut33, if_true, BitVec.reduceAppend, Nat.reduceSub, BitVec.extractLsb'_eq_self, BitVec.toNat_ofNat, BitVec.reduceExtractLsb', Nat.reducePow, Nat.reduceMod, BitVec.zeroExtend_eq_setWidth, BitVec.reduceSetWidth, BitVec.reduceAdd]
  · refine statement_of rfl ((decodeRaw_major2 ?_).trans ?_) <;>
      simp (disch := omega) only [decodeMajor2, bits, cutHigh, cutLow, cut63, cut33, if_true, BitVec.reduceAppend, Nat.reduceSub, BitVec.extractLsb'_eq_self, BitVec.toNat_ofNat, BitVec.reduceExtractLsb', Nat.reducePow, Nat.reduceMod, BitVec.zeroExtend_eq_setWidth, BitVec.reduceSetWidth, BitVec.reduceAdd]
  · refine statement_of rfl ((decodeRaw_major2 ?_).trans ?_) <;>
      simp (disch := omega) only [decodeMajor2, bits, cutHigh, cutLow, cut63, cut33, if_true, BitVec.reduceAppend, Nat.reduceSub, BitVec.extractLsb'_eq_self, BitVec.toNat_ofNat, BitVec.reduceExtractLsb', Nat.reducePow, Nat.reduceMod, BitVec.zeroExtend_eq_setWidth, BitVec.reduceSetWidth, BitVec.reduceAdd]
  · refine statement_of rfl ((decodeRaw_major2 ?_).trans ?_) <;>
      simp (disch := omega) only [decodeMajor2, bits, cutHigh, cutLow, cut63, cut33, if_true, BitVec.reduceAppend, Nat.reduceSub, BitVec.extractLsb'_eq_self, BitVec.toNat_ofNat, BitVec.reduceExtractLsb', Nat.reducePow, Nat.reduceMod, BitVec.zeroExtend_eq_setWidth, BitVec.reduceSetWidth, BitVec.reduceAdd]
  · refine statement_of rfl ((decodeRaw_major2 ?_).trans ?_) <;>
      simp (disch := omega) only [decodeMajor2, bits, cutHigh, cutLow, cut63, cut33, if_true, BitVec.reduceAppend, Nat.reduceSub, BitVec.extractLsb'_eq_self, BitVec.toNat_ofNat, BitVec.reduceExtractLsb', Nat.reducePow, Nat.reduceMod, BitVec.zeroExtend_eq_setWidth, BitVec.reduceSetWidth, BitVec.reduceAdd]
  · refine statement_of rfl ((decodeRaw_major2 ?_).trans ?_) <;>
      simp (disch := omega) only [decodeMajor2, bits, cutHigh, cutLow, cut63, cut33, if_true, BitVec.reduceAppend, Nat.reduceSub, BitVec.extractLsb'_eq_self, BitVec.toNat_ofNat, BitVec.reduceExtractLsb', Nat.reducePow, Nat.reduceMod, BitVec.zeroExtend_eq_setWidth, BitVec.reduceSetWidth, BitVec.reduceAdd]
  · refine statement_of rfl ((decodeRaw_major2 ?_).trans ?_) <;>
      simp (disch := omega) only [decodeMajor2, bits, cutHigh, cutLow, cut63, cut33, if_true, BitVec.reduceAppend, Nat.reduceSub, BitVec.extractLsb'_eq_self, BitVec.toNat_ofNat, BitVec.reduceExtractLsb', Nat.reducePow, Nat.reduceMod, BitVec.zeroExtend_eq_setWidth, BitVec.reduceSetWidth, BitVec.reduceAdd]

theorem launch (d : BitVec 6) (a : BitVec 6) : Statement (.launch d a) := by
  refine statement_of rfl ((decodeRaw_major2 ?_).trans ?_) <;>
    simp (disch := omega) only [decodeMajor2, bits, cutHigh, cutLow, cut63, cut33, if_true, BitVec.reduceAppend, Nat.reduceSub, BitVec.extractLsb'_eq_self, BitVec.toNat_ofNat, BitVec.reduceExtractLsb', Nat.reducePow, Nat.reduceMod, BitVec.zeroExtend_eq_setWidth, BitVec.reduceSetWidth, BitVec.reduceAdd]
  refine zero_ok (show _ = fieldMask 9 6 from rfl) (and_fieldMask ?_) _ <;>
    simp (disch := omega) only [bits, cutHigh, cutLow, cut63, cut33, if_true, BitVec.reduceAppend, Nat.reduceSub, BitVec.extractLsb'_eq_self, BitVec.toNat_ofNat, BitVec.reduceExtractLsb', Nat.reducePow, Nat.reduceMod, BitVec.zeroExtend_eq_setWidth, BitVec.reduceSetWidth, BitVec.reduceAdd]

theorem saddi (d : BitVec 6) (i : BitVec 16) : Statement (.saddi d i) := by
  refine statement_of rfl ((decodeRaw_major3 ?_).trans ?_) <;>
    simp (disch := omega) only [decodeMajor3, bits, cutHigh, cutLow, cut63, cut33, if_true, BitVec.reduceAppend, Nat.reduceSub, BitVec.extractLsb'_eq_self, BitVec.toNat_ofNat, BitVec.reduceExtractLsb', Nat.reducePow, Nat.reduceMod, BitVec.zeroExtend_eq_setWidth, BitVec.reduceSetWidth, BitVec.reduceAdd]

theorem sandi (d : BitVec 6) (i : BitVec 16) : Statement (.sandi d i) := by
  refine statement_of rfl ((decodeRaw_major3 ?_).trans ?_) <;>
    simp (disch := omega) only [decodeMajor3, bits, cutHigh, cutLow, cut63, cut33, if_true, BitVec.reduceAppend, Nat.reduceSub, BitVec.extractLsb'_eq_self, BitVec.toNat_ofNat, BitVec.reduceExtractLsb', Nat.reducePow, Nat.reduceMod, BitVec.zeroExtend_eq_setWidth, BitVec.reduceSetWidth, BitVec.reduceAdd]

theorem sori (d : BitVec 6) (i : BitVec 16) : Statement (.sori d i) := by
  refine statement_of rfl ((decodeRaw_major3 ?_).trans ?_) <;>
    simp (disch := omega) only [decodeMajor3, bits, cutHigh, cutLow, cut63, cut33, if_true, BitVec.reduceAppend, Nat.reduceSub, BitVec.extractLsb'_eq_self, BitVec.toNat_ofNat, BitVec.reduceExtractLsb', Nat.reducePow, Nat.reduceMod, BitVec.zeroExtend_eq_setWidth, BitVec.reduceSetWidth, BitVec.reduceAdd]

theorem sxori (d : BitVec 6) (i : BitVec 16) : Statement (.sxori d i) := by
  refine statement_of rfl ((decodeRaw_major3 ?_).trans ?_) <;>
    simp (disch := omega) only [decodeMajor3, bits, cutHigh, cutLow, cut63, cut33, if_true, BitVec.reduceAppend, Nat.reduceSub, BitVec.extractLsb'_eq_self, BitVec.toNat_ofNat, BitVec.reduceExtractLsb', Nat.reducePow, Nat.reduceMod, BitVec.zeroExtend_eq_setWidth, BitVec.reduceSetWidth, BitVec.reduceAdd]

theorem sshli (d : BitVec 6) (i : BitVec 16) : Statement (.sshli d i) := by
  refine statement_of rfl ((decodeRaw_major3 ?_).trans ?_) <;>
    simp (disch := omega) only [decodeMajor3, bits, cutHigh, cutLow, cut63, cut33, if_true, BitVec.reduceAppend, Nat.reduceSub, BitVec.extractLsb'_eq_self, BitVec.toNat_ofNat, BitVec.reduceExtractLsb', Nat.reducePow, Nat.reduceMod, BitVec.zeroExtend_eq_setWidth, BitVec.reduceSetWidth, BitVec.reduceAdd]

theorem sshri (d : BitVec 6) (i : BitVec 16) : Statement (.sshri d i) := by
  refine statement_of rfl ((decodeRaw_major3 ?_).trans ?_) <;>
    simp (disch := omega) only [decodeMajor3, bits, cutHigh, cutLow, cut63, cut33, if_true, BitVec.reduceAppend, Nat.reduceSub, BitVec.extractLsb'_eq_self, BitVec.toNat_ofNat, BitVec.reduceExtractLsb', Nat.reducePow, Nat.reduceMod, BitVec.zeroExtend_eq_setWidth, BitVec.reduceSetWidth, BitVec.reduceAdd]

theorem ssrai (d : BitVec 6) (i : BitVec 16) : Statement (.ssrai d i) := by
  refine statement_of rfl ((decodeRaw_major3 ?_).trans ?_) <;>
    simp (disch := omega) only [decodeMajor3, bits, cutHigh, cutLow, cut63, cut33, if_true, BitVec.reduceAppend, Nat.reduceSub, BitVec.extractLsb'_eq_self, BitVec.toNat_ofNat, BitVec.reduceExtractLsb', Nat.reducePow, Nat.reduceMod, BitVec.zeroExtend_eq_setWidth, BitVec.reduceSetWidth, BitVec.reduceAdd]

theorem scmpi (n : BitVec 2) (c : BitVec 3) (i : BitVec 16) : Statement (.scmpi n c i) := by
  rcases cases3 c with rfl | rfl | rfl | rfl | rfl | rfl | rfl | rfl
  · refine statement_of rfl ((decodeRaw_major3 ?_).trans ?_) <;>
      simp (disch := omega) only [decodeMajor3, bits, cutHigh, cutLow, cut63, cut33, if_true, BitVec.reduceAppend, Nat.reduceSub, BitVec.extractLsb'_eq_self, BitVec.toNat_ofNat, BitVec.reduceExtractLsb', Nat.reducePow, Nat.reduceMod, BitVec.zeroExtend_eq_setWidth, BitVec.reduceSetWidth, BitVec.reduceAdd]
    refine zero_ok (show _ = fieldMask 23 4 from rfl) (and_fieldMask ?_) _ <;>
        simp (disch := omega) only [bits, cutHigh, cutLow, cut63, cut33, if_true, BitVec.reduceAppend, Nat.reduceSub, BitVec.extractLsb'_eq_self, BitVec.toNat_ofNat, BitVec.reduceExtractLsb', Nat.reducePow, Nat.reduceMod, BitVec.zeroExtend_eq_setWidth, BitVec.reduceSetWidth, BitVec.reduceAdd]
  · refine statement_of rfl ((decodeRaw_major3 ?_).trans ?_) <;>
      simp (disch := omega) only [decodeMajor3, bits, cutHigh, cutLow, cut63, cut33, if_true, BitVec.reduceAppend, Nat.reduceSub, BitVec.extractLsb'_eq_self, BitVec.toNat_ofNat, BitVec.reduceExtractLsb', Nat.reducePow, Nat.reduceMod, BitVec.zeroExtend_eq_setWidth, BitVec.reduceSetWidth, BitVec.reduceAdd]
    refine zero_ok (show _ = fieldMask 23 4 from rfl) (and_fieldMask ?_) _ <;>
        simp (disch := omega) only [bits, cutHigh, cutLow, cut63, cut33, if_true, BitVec.reduceAppend, Nat.reduceSub, BitVec.extractLsb'_eq_self, BitVec.toNat_ofNat, BitVec.reduceExtractLsb', Nat.reducePow, Nat.reduceMod, BitVec.zeroExtend_eq_setWidth, BitVec.reduceSetWidth, BitVec.reduceAdd]
  · refine statement_of rfl ((decodeRaw_major3 ?_).trans ?_) <;>
      simp (disch := omega) only [decodeMajor3, bits, cutHigh, cutLow, cut63, cut33, if_true, BitVec.reduceAppend, Nat.reduceSub, BitVec.extractLsb'_eq_self, BitVec.toNat_ofNat, BitVec.reduceExtractLsb', Nat.reducePow, Nat.reduceMod, BitVec.zeroExtend_eq_setWidth, BitVec.reduceSetWidth, BitVec.reduceAdd]
    refine zero_ok (show _ = fieldMask 23 4 from rfl) (and_fieldMask ?_) _ <;>
        simp (disch := omega) only [bits, cutHigh, cutLow, cut63, cut33, if_true, BitVec.reduceAppend, Nat.reduceSub, BitVec.extractLsb'_eq_self, BitVec.toNat_ofNat, BitVec.reduceExtractLsb', Nat.reducePow, Nat.reduceMod, BitVec.zeroExtend_eq_setWidth, BitVec.reduceSetWidth, BitVec.reduceAdd]
  · refine statement_of rfl ((decodeRaw_major3 ?_).trans ?_) <;>
      simp (disch := omega) only [decodeMajor3, bits, cutHigh, cutLow, cut63, cut33, if_true, BitVec.reduceAppend, Nat.reduceSub, BitVec.extractLsb'_eq_self, BitVec.toNat_ofNat, BitVec.reduceExtractLsb', Nat.reducePow, Nat.reduceMod, BitVec.zeroExtend_eq_setWidth, BitVec.reduceSetWidth, BitVec.reduceAdd]
    refine zero_ok (show _ = fieldMask 23 4 from rfl) (and_fieldMask ?_) _ <;>
        simp (disch := omega) only [bits, cutHigh, cutLow, cut63, cut33, if_true, BitVec.reduceAppend, Nat.reduceSub, BitVec.extractLsb'_eq_self, BitVec.toNat_ofNat, BitVec.reduceExtractLsb', Nat.reducePow, Nat.reduceMod, BitVec.zeroExtend_eq_setWidth, BitVec.reduceSetWidth, BitVec.reduceAdd]
  · refine statement_of rfl ((decodeRaw_major3 ?_).trans ?_) <;>
      simp (disch := omega) only [decodeMajor3, bits, cutHigh, cutLow, cut63, cut33, if_true, BitVec.reduceAppend, Nat.reduceSub, BitVec.extractLsb'_eq_self, BitVec.toNat_ofNat, BitVec.reduceExtractLsb', Nat.reducePow, Nat.reduceMod, BitVec.zeroExtend_eq_setWidth, BitVec.reduceSetWidth, BitVec.reduceAdd]
    refine zero_ok (show _ = fieldMask 23 4 from rfl) (and_fieldMask ?_) _ <;>
        simp (disch := omega) only [bits, cutHigh, cutLow, cut63, cut33, if_true, BitVec.reduceAppend, Nat.reduceSub, BitVec.extractLsb'_eq_self, BitVec.toNat_ofNat, BitVec.reduceExtractLsb', Nat.reducePow, Nat.reduceMod, BitVec.zeroExtend_eq_setWidth, BitVec.reduceSetWidth, BitVec.reduceAdd]
  · refine statement_of rfl ((decodeRaw_major3 ?_).trans ?_) <;>
      simp (disch := omega) only [decodeMajor3, bits, cutHigh, cutLow, cut63, cut33, if_true, BitVec.reduceAppend, Nat.reduceSub, BitVec.extractLsb'_eq_self, BitVec.toNat_ofNat, BitVec.reduceExtractLsb', Nat.reducePow, Nat.reduceMod, BitVec.zeroExtend_eq_setWidth, BitVec.reduceSetWidth, BitVec.reduceAdd]
    refine zero_ok (show _ = fieldMask 23 4 from rfl) (and_fieldMask ?_) _ <;>
        simp (disch := omega) only [bits, cutHigh, cutLow, cut63, cut33, if_true, BitVec.reduceAppend, Nat.reduceSub, BitVec.extractLsb'_eq_self, BitVec.toNat_ofNat, BitVec.reduceExtractLsb', Nat.reducePow, Nat.reduceMod, BitVec.zeroExtend_eq_setWidth, BitVec.reduceSetWidth, BitVec.reduceAdd]
  · exact statement_of_ill rfl
  · exact statement_of_ill rfl

theorem sli (d : BitVec 6) (i : BitVec 16) : Statement (.sli d i) := by
  refine statement_of rfl ((decodeRaw_major3 ?_).trans ?_) <;>
    simp (disch := omega) only [decodeMajor3, bits, cutHigh, cutLow, cut63, cut33, if_true, BitVec.reduceAppend, Nat.reduceSub, BitVec.extractLsb'_eq_self, BitVec.toNat_ofNat, BitVec.reduceExtractLsb', Nat.reducePow, Nat.reduceMod, BitVec.zeroExtend_eq_setWidth, BitVec.reduceSetWidth, BitVec.reduceAdd]

theorem slih (d : BitVec 6) (i : BitVec 16) : Statement (.slih d i) := by
  refine statement_of rfl ((decodeRaw_major3 ?_).trans ?_) <;>
    simp (disch := omega) only [decodeMajor3, bits, cutHigh, cutLow, cut63, cut33, if_true, BitVec.reduceAppend, Nat.reduceSub, BitVec.extractLsb'_eq_self, BitVec.toNat_ofNat, BitVec.reduceExtractLsb', Nat.reducePow, Nat.reduceMod, BitVec.zeroExtend_eq_setWidth, BitVec.reduceSetWidth, BitVec.reduceAdd]

theorem srd (d : BitVec 6) (e : BitVec 8) : Statement (.srd d e) := by
  refine statement_of rfl ((decodeRaw_major3 ?_).trans ?_) <;>
    simp (disch := omega) only [decodeMajor3, bits, cutHigh, cutLow, cut63, cut33, if_true, BitVec.reduceAppend, Nat.reduceSub, BitVec.extractLsb'_eq_self, BitVec.toNat_ofNat, BitVec.reduceExtractLsb', Nat.reducePow, Nat.reduceMod, BitVec.zeroExtend_eq_setWidth, BitVec.reduceSetWidth, BitVec.reduceAdd]
  refine zero_ok (show _ = fieldMask 8 8 from rfl) (and_fieldMask ?_) _ <;>
    simp (disch := omega) only [bits, cutHigh, cutLow, cut63, cut33, if_true, BitVec.reduceAppend, Nat.reduceSub, BitVec.extractLsb'_eq_self, BitVec.toNat_ofNat, BitVec.reduceExtractLsb', Nat.reducePow, Nat.reduceMod, BitVec.zeroExtend_eq_setWidth, BitVec.reduceSetWidth, BitVec.reduceAdd]

theorem swr (d : BitVec 6) (e : BitVec 8) : Statement (.swr d e) := by
  refine statement_of rfl ((decodeRaw_major3 ?_).trans ?_) <;>
    simp (disch := omega) only [decodeMajor3, bits, cutHigh, cutLow, cut63, cut33, if_true, BitVec.reduceAppend, Nat.reduceSub, BitVec.extractLsb'_eq_self, BitVec.toNat_ofNat, BitVec.reduceExtractLsb', Nat.reducePow, Nat.reduceMod, BitVec.zeroExtend_eq_setWidth, BitVec.reduceSetWidth, BitVec.reduceAdd]
  refine zero_ok (show _ = fieldMask 8 8 from rfl) (and_fieldMask ?_) _ <;>
    simp (disch := omega) only [bits, cutHigh, cutLow, cut63, cut33, if_true, BitVec.reduceAppend, Nat.reduceSub, BitVec.extractLsb'_eq_self, BitVec.toNat_ofNat, BitVec.reduceExtractLsb', Nat.reducePow, Nat.reduceMod, BitVec.zeroExtend_eq_setWidth, BitVec.reduceSetWidth, BitVec.reduceAdd]

theorem lds (d : BitVec 6) (a : BitVec 6) (w : BitVec 2) (s : BitVec 3) : Statement (.lds d a w s) := by
  refine statement_of rfl ((decodeRaw_major4 ?_).trans ?_)
  · simp (disch := omega) only [bits, cutHigh, cutLow, Nat.reduceSub, BitVec.extractLsb'_eq_self, BitVec.toNat_ofNat, BitVec.reduceExtractLsb', Nat.reducePow, Nat.reduceMod]
  simp (disch := omega) only [decodeMajor4, bits, cutHigh, cutLow, Nat.reduceSub, BitVec.extractLsb'_eq_self, BitVec.toNat_ofNat, BitVec.reduceExtractLsb', Nat.reducePow, Nat.reduceMod]
  rw [zero_ok (show (0x00007E08#32) = fieldMask 3 1 ||| fieldMask 9 6 from rfl) (and_or (and_fieldMask ?_) (and_fieldMask ?_))]
  · rfl
  all_goals simp (disch := omega) only [bits, cutHigh, cutLow, Nat.reduceSub, BitVec.extractLsb'_eq_self, BitVec.toNat_ofNat, BitVec.reduceExtractLsb', Nat.reducePow, Nat.reduceMod]

theorem sts (d : BitVec 6) (a : BitVec 6) (w : BitVec 2) (s : BitVec 3) : Statement (.sts d a w s) := by
  refine statement_of rfl ((decodeRaw_major4 ?_).trans ?_)
  · simp (disch := omega) only [bits, cutHigh, cutLow, Nat.reduceSub, BitVec.extractLsb'_eq_self, BitVec.toNat_ofNat, BitVec.reduceExtractLsb', Nat.reducePow, Nat.reduceMod]
  simp (disch := omega) only [decodeMajor4, bits, cutHigh, cutLow, Nat.reduceSub, BitVec.extractLsb'_eq_self, BitVec.toNat_ofNat, BitVec.reduceExtractLsb', Nat.reducePow, Nat.reduceMod]
  rw [zero_ok (show (0x00007E08#32) = fieldMask 3 1 ||| fieldMask 9 6 from rfl) (and_or (and_fieldMask ?_) (and_fieldMask ?_))]
  · rfl
  all_goals simp (disch := omega) only [bits, cutHigh, cutLow, Nat.reduceSub, BitVec.extractLsb'_eq_self, BitVec.toNat_ofNat, BitVec.reduceExtractLsb', Nat.reducePow, Nat.reduceMod]

theorem vadd (d : BitVec 7) (a : BitVec 7) (b : BitVec 7) : Statement (.vadd d a b) := by
  refine statement_of rfl ((decodeRaw_major5 ?_).trans ?_) <;>
    simp (disch := omega) only [decodeMajor5, bits, cutHigh, cutLow, cut63, cut33, if_true, BitVec.reduceAppend, Nat.reduceSub, BitVec.extractLsb'_eq_self, BitVec.toNat_ofNat, BitVec.reduceExtractLsb', Nat.reducePow, Nat.reduceMod, BitVec.zeroExtend_eq_setWidth, BitVec.reduceSetWidth, BitVec.reduceAdd]

theorem vsub (d : BitVec 7) (a : BitVec 7) (b : BitVec 7) : Statement (.vsub d a b) := by
  refine statement_of rfl ((decodeRaw_major5 ?_).trans ?_) <;>
    simp (disch := omega) only [decodeMajor5, bits, cutHigh, cutLow, cut63, cut33, if_true, BitVec.reduceAppend, Nat.reduceSub, BitVec.extractLsb'_eq_self, BitVec.toNat_ofNat, BitVec.reduceExtractLsb', Nat.reducePow, Nat.reduceMod, BitVec.zeroExtend_eq_setWidth, BitVec.reduceSetWidth, BitVec.reduceAdd]

theorem vmul (d : BitVec 7) (a : BitVec 7) (b : BitVec 7) : Statement (.vmul d a b) := by
  refine statement_of rfl ((decodeRaw_major5 ?_).trans ?_) <;>
    simp (disch := omega) only [decodeMajor5, bits, cutHigh, cutLow, cut63, cut33, if_true, BitVec.reduceAppend, Nat.reduceSub, BitVec.extractLsb'_eq_self, BitVec.toNat_ofNat, BitVec.reduceExtractLsb', Nat.reducePow, Nat.reduceMod, BitVec.zeroExtend_eq_setWidth, BitVec.reduceSetWidth, BitVec.reduceAdd]

theorem vfma (d : BitVec 7) (a : BitVec 7) (b : BitVec 7) : Statement (.vfma d a b) := by
  refine statement_of rfl ((decodeRaw_major5 ?_).trans ?_) <;>
    simp (disch := omega) only [decodeMajor5, bits, cutHigh, cutLow, cut63, cut33, if_true, BitVec.reduceAppend, Nat.reduceSub, BitVec.extractLsb'_eq_self, BitVec.toNat_ofNat, BitVec.reduceExtractLsb', Nat.reducePow, Nat.reduceMod, BitVec.zeroExtend_eq_setWidth, BitVec.reduceSetWidth, BitVec.reduceAdd]

theorem vfms (d : BitVec 7) (a : BitVec 7) (b : BitVec 7) : Statement (.vfms d a b) := by
  refine statement_of rfl ((decodeRaw_major5 ?_).trans ?_) <;>
    simp (disch := omega) only [decodeMajor5, bits, cutHigh, cutLow, cut63, cut33, if_true, BitVec.reduceAppend, Nat.reduceSub, BitVec.extractLsb'_eq_self, BitVec.toNat_ofNat, BitVec.reduceExtractLsb', Nat.reducePow, Nat.reduceMod, BitVec.zeroExtend_eq_setWidth, BitVec.reduceSetWidth, BitVec.reduceAdd]

theorem vfnma (d : BitVec 7) (a : BitVec 7) (b : BitVec 7) : Statement (.vfnma d a b) := by
  refine statement_of rfl ((decodeRaw_major5 ?_).trans ?_) <;>
    simp (disch := omega) only [decodeMajor5, bits, cutHigh, cutLow, cut63, cut33, if_true, BitVec.reduceAppend, Nat.reduceSub, BitVec.extractLsb'_eq_self, BitVec.toNat_ofNat, BitVec.reduceExtractLsb', Nat.reducePow, Nat.reduceMod, BitVec.zeroExtend_eq_setWidth, BitVec.reduceSetWidth, BitVec.reduceAdd]

theorem vfnms (d : BitVec 7) (a : BitVec 7) (b : BitVec 7) : Statement (.vfnms d a b) := by
  refine statement_of rfl ((decodeRaw_major5 ?_).trans ?_) <;>
    simp (disch := omega) only [decodeMajor5, bits, cutHigh, cutLow, cut63, cut33, if_true, BitVec.reduceAppend, Nat.reduceSub, BitVec.extractLsb'_eq_self, BitVec.toNat_ofNat, BitVec.reduceExtractLsb', Nat.reducePow, Nat.reduceMod, BitVec.zeroExtend_eq_setWidth, BitVec.reduceSetWidth, BitVec.reduceAdd]

theorem vdiv (d : BitVec 7) (a : BitVec 7) (b : BitVec 7) : Statement (.vdiv d a b) := by
  refine statement_of rfl ((decodeRaw_major5 ?_).trans ?_) <;>
    simp (disch := omega) only [decodeMajor5, bits, cutHigh, cutLow, cut63, cut33, if_true, BitVec.reduceAppend, Nat.reduceSub, BitVec.extractLsb'_eq_self, BitVec.toNat_ofNat, BitVec.reduceExtractLsb', Nat.reducePow, Nat.reduceMod, BitVec.zeroExtend_eq_setWidth, BitVec.reduceSetWidth, BitVec.reduceAdd]

theorem vmin (d : BitVec 7) (a : BitVec 7) (b : BitVec 7) : Statement (.vmin d a b) := by
  refine statement_of rfl ((decodeRaw_major5 ?_).trans ?_) <;>
    simp (disch := omega) only [decodeMajor5, bits, cutHigh, cutLow, cut63, cut33, if_true, BitVec.reduceAppend, Nat.reduceSub, BitVec.extractLsb'_eq_self, BitVec.toNat_ofNat, BitVec.reduceExtractLsb', Nat.reducePow, Nat.reduceMod, BitVec.zeroExtend_eq_setWidth, BitVec.reduceSetWidth, BitVec.reduceAdd]

theorem vmax (d : BitVec 7) (a : BitVec 7) (b : BitVec 7) : Statement (.vmax d a b) := by
  refine statement_of rfl ((decodeRaw_major5 ?_).trans ?_) <;>
    simp (disch := omega) only [decodeMajor5, bits, cutHigh, cutLow, cut63, cut33, if_true, BitVec.reduceAppend, Nat.reduceSub, BitVec.extractLsb'_eq_self, BitVec.toNat_ofNat, BitVec.reduceExtractLsb', Nat.reducePow, Nat.reduceMod, BitVec.zeroExtend_eq_setWidth, BitVec.reduceSetWidth, BitVec.reduceAdd]

theorem vclamp (d : BitVec 7) (a : BitVec 7) (b : BitVec 7) : Statement (.vclamp d a b) := by
  refine statement_of rfl ((decodeRaw_major5 ?_).trans ?_) <;>
    simp (disch := omega) only [decodeMajor5, bits, cutHigh, cutLow, cut63, cut33, if_true, BitVec.reduceAppend, Nat.reduceSub, BitVec.extractLsb'_eq_self, BitVec.toNat_ofNat, BitVec.reduceExtractLsb', Nat.reducePow, Nat.reduceMod, BitVec.zeroExtend_eq_setWidth, BitVec.reduceSetWidth, BitVec.reduceAdd]

theorem vscale (d : BitVec 7) (a : BitVec 7) (b : BitVec 7) : Statement (.vscale d a b) := by
  refine statement_of rfl ((decodeRaw_major5 ?_).trans ?_) <;>
    simp (disch := omega) only [decodeMajor5, bits, cutHigh, cutLow, cut63, cut33, if_true, BitVec.reduceAppend, Nat.reduceSub, BitVec.extractLsb'_eq_self, BitVec.toNat_ofNat, BitVec.reduceExtractLsb', Nat.reducePow, Nat.reduceMod, BitVec.zeroExtend_eq_setWidth, BitVec.reduceSetWidth, BitVec.reduceAdd]

theorem vcmp (p : BitVec 3) (a : BitVec 7) (b : BitVec 7) (c : BitVec 3) : Statement (.vcmp p a b c) := by
  rcases cases3 c with rfl | rfl | rfl | rfl | rfl | rfl | rfl | rfl
  · refine statement_of rfl ((decodeRaw_major5 ?_).trans ?_) <;>
      simp (disch := omega) only [decodeMajor5, bits, cutHigh, cutLow, cut63, cut33, if_true, BitVec.reduceAppend, Nat.reduceSub, BitVec.extractLsb'_eq_self, BitVec.toNat_ofNat, BitVec.reduceExtractLsb', Nat.reducePow, Nat.reduceMod, BitVec.zeroExtend_eq_setWidth, BitVec.reduceSetWidth, BitVec.reduceAdd]
    refine zero_ok (show _ = fieldMask 23 4 from rfl) (and_fieldMask ?_) _ <;>
        simp (disch := omega) only [bits, cutHigh, cutLow, cut63, cut33, if_true, BitVec.reduceAppend, Nat.reduceSub, BitVec.extractLsb'_eq_self, BitVec.toNat_ofNat, BitVec.reduceExtractLsb', Nat.reducePow, Nat.reduceMod, BitVec.zeroExtend_eq_setWidth, BitVec.reduceSetWidth, BitVec.reduceAdd]
  · refine statement_of rfl ((decodeRaw_major5 ?_).trans ?_) <;>
      simp (disch := omega) only [decodeMajor5, bits, cutHigh, cutLow, cut63, cut33, if_true, BitVec.reduceAppend, Nat.reduceSub, BitVec.extractLsb'_eq_self, BitVec.toNat_ofNat, BitVec.reduceExtractLsb', Nat.reducePow, Nat.reduceMod, BitVec.zeroExtend_eq_setWidth, BitVec.reduceSetWidth, BitVec.reduceAdd]
    refine zero_ok (show _ = fieldMask 23 4 from rfl) (and_fieldMask ?_) _ <;>
        simp (disch := omega) only [bits, cutHigh, cutLow, cut63, cut33, if_true, BitVec.reduceAppend, Nat.reduceSub, BitVec.extractLsb'_eq_self, BitVec.toNat_ofNat, BitVec.reduceExtractLsb', Nat.reducePow, Nat.reduceMod, BitVec.zeroExtend_eq_setWidth, BitVec.reduceSetWidth, BitVec.reduceAdd]
  · refine statement_of rfl ((decodeRaw_major5 ?_).trans ?_) <;>
      simp (disch := omega) only [decodeMajor5, bits, cutHigh, cutLow, cut63, cut33, if_true, BitVec.reduceAppend, Nat.reduceSub, BitVec.extractLsb'_eq_self, BitVec.toNat_ofNat, BitVec.reduceExtractLsb', Nat.reducePow, Nat.reduceMod, BitVec.zeroExtend_eq_setWidth, BitVec.reduceSetWidth, BitVec.reduceAdd]
    refine zero_ok (show _ = fieldMask 23 4 from rfl) (and_fieldMask ?_) _ <;>
        simp (disch := omega) only [bits, cutHigh, cutLow, cut63, cut33, if_true, BitVec.reduceAppend, Nat.reduceSub, BitVec.extractLsb'_eq_self, BitVec.toNat_ofNat, BitVec.reduceExtractLsb', Nat.reducePow, Nat.reduceMod, BitVec.zeroExtend_eq_setWidth, BitVec.reduceSetWidth, BitVec.reduceAdd]
  · refine statement_of rfl ((decodeRaw_major5 ?_).trans ?_) <;>
      simp (disch := omega) only [decodeMajor5, bits, cutHigh, cutLow, cut63, cut33, if_true, BitVec.reduceAppend, Nat.reduceSub, BitVec.extractLsb'_eq_self, BitVec.toNat_ofNat, BitVec.reduceExtractLsb', Nat.reducePow, Nat.reduceMod, BitVec.zeroExtend_eq_setWidth, BitVec.reduceSetWidth, BitVec.reduceAdd]
    refine zero_ok (show _ = fieldMask 23 4 from rfl) (and_fieldMask ?_) _ <;>
        simp (disch := omega) only [bits, cutHigh, cutLow, cut63, cut33, if_true, BitVec.reduceAppend, Nat.reduceSub, BitVec.extractLsb'_eq_self, BitVec.toNat_ofNat, BitVec.reduceExtractLsb', Nat.reducePow, Nat.reduceMod, BitVec.zeroExtend_eq_setWidth, BitVec.reduceSetWidth, BitVec.reduceAdd]
  · refine statement_of rfl ((decodeRaw_major5 ?_).trans ?_) <;>
      simp (disch := omega) only [decodeMajor5, bits, cutHigh, cutLow, cut63, cut33, if_true, BitVec.reduceAppend, Nat.reduceSub, BitVec.extractLsb'_eq_self, BitVec.toNat_ofNat, BitVec.reduceExtractLsb', Nat.reducePow, Nat.reduceMod, BitVec.zeroExtend_eq_setWidth, BitVec.reduceSetWidth, BitVec.reduceAdd]
    refine zero_ok (show _ = fieldMask 23 4 from rfl) (and_fieldMask ?_) _ <;>
        simp (disch := omega) only [bits, cutHigh, cutLow, cut63, cut33, if_true, BitVec.reduceAppend, Nat.reduceSub, BitVec.extractLsb'_eq_self, BitVec.toNat_ofNat, BitVec.reduceExtractLsb', Nat.reducePow, Nat.reduceMod, BitVec.zeroExtend_eq_setWidth, BitVec.reduceSetWidth, BitVec.reduceAdd]
  · refine statement_of rfl ((decodeRaw_major5 ?_).trans ?_) <;>
      simp (disch := omega) only [decodeMajor5, bits, cutHigh, cutLow, cut63, cut33, if_true, BitVec.reduceAppend, Nat.reduceSub, BitVec.extractLsb'_eq_self, BitVec.toNat_ofNat, BitVec.reduceExtractLsb', Nat.reducePow, Nat.reduceMod, BitVec.zeroExtend_eq_setWidth, BitVec.reduceSetWidth, BitVec.reduceAdd]
    refine zero_ok (show _ = fieldMask 23 4 from rfl) (and_fieldMask ?_) _ <;>
        simp (disch := omega) only [bits, cutHigh, cutLow, cut63, cut33, if_true, BitVec.reduceAppend, Nat.reduceSub, BitVec.extractLsb'_eq_self, BitVec.toNat_ofNat, BitVec.reduceExtractLsb', Nat.reducePow, Nat.reduceMod, BitVec.zeroExtend_eq_setWidth, BitVec.reduceSetWidth, BitVec.reduceAdd]
  · refine statement_of rfl ((decodeRaw_major5 ?_).trans ?_) <;>
      simp (disch := omega) only [decodeMajor5, bits, cutHigh, cutLow, cut63, cut33, if_true, BitVec.reduceAppend, Nat.reduceSub, BitVec.extractLsb'_eq_self, BitVec.toNat_ofNat, BitVec.reduceExtractLsb', Nat.reducePow, Nat.reduceMod, BitVec.zeroExtend_eq_setWidth, BitVec.reduceSetWidth, BitVec.reduceAdd]
    refine zero_ok (show _ = fieldMask 23 4 from rfl) (and_fieldMask ?_) _ <;>
        simp (disch := omega) only [bits, cutHigh, cutLow, cut63, cut33, if_true, BitVec.reduceAppend, Nat.reduceSub, BitVec.extractLsb'_eq_self, BitVec.toNat_ofNat, BitVec.reduceExtractLsb', Nat.reducePow, Nat.reduceMod, BitVec.zeroExtend_eq_setWidth, BitVec.reduceSetWidth, BitVec.reduceAdd]
  · refine statement_of rfl ((decodeRaw_major5 ?_).trans ?_) <;>
      simp (disch := omega) only [decodeMajor5, bits, cutHigh, cutLow, cut63, cut33, if_true, BitVec.reduceAppend, Nat.reduceSub, BitVec.extractLsb'_eq_self, BitVec.toNat_ofNat, BitVec.reduceExtractLsb', Nat.reducePow, Nat.reduceMod, BitVec.zeroExtend_eq_setWidth, BitVec.reduceSetWidth, BitVec.reduceAdd]
    refine zero_ok (show _ = fieldMask 23 4 from rfl) (and_fieldMask ?_) _ <;>
        simp (disch := omega) only [bits, cutHigh, cutLow, cut63, cut33, if_true, BitVec.reduceAppend, Nat.reduceSub, BitVec.extractLsb'_eq_self, BitVec.toNat_ofNat, BitVec.reduceExtractLsb', Nat.reducePow, Nat.reduceMod, BitVec.zeroExtend_eq_setWidth, BitVec.reduceSetWidth, BitVec.reduceAdd]

theorem vcmpc (p : BitVec 3) (a : BitVec 7) (b : BitVec 7) (c : BitVec 3) : Statement (.vcmpc p a b c) := by
  rcases cases3 c with rfl | rfl | rfl | rfl | rfl | rfl | rfl | rfl
  · refine statement_of rfl ((decodeRaw_major5 ?_).trans ?_) <;>
      simp (disch := omega) only [decodeMajor5, bits, cutHigh, cutLow, cut63, cut33, if_true, BitVec.reduceAppend, Nat.reduceSub, BitVec.extractLsb'_eq_self, BitVec.toNat_ofNat, BitVec.reduceExtractLsb', Nat.reducePow, Nat.reduceMod, BitVec.zeroExtend_eq_setWidth, BitVec.reduceSetWidth, BitVec.reduceAdd]
    refine zero_ok (show _ = fieldMask 23 4 from rfl) (and_fieldMask ?_) _ <;>
        simp (disch := omega) only [bits, cutHigh, cutLow, cut63, cut33, if_true, BitVec.reduceAppend, Nat.reduceSub, BitVec.extractLsb'_eq_self, BitVec.toNat_ofNat, BitVec.reduceExtractLsb', Nat.reducePow, Nat.reduceMod, BitVec.zeroExtend_eq_setWidth, BitVec.reduceSetWidth, BitVec.reduceAdd]
  · refine statement_of rfl ((decodeRaw_major5 ?_).trans ?_) <;>
      simp (disch := omega) only [decodeMajor5, bits, cutHigh, cutLow, cut63, cut33, if_true, BitVec.reduceAppend, Nat.reduceSub, BitVec.extractLsb'_eq_self, BitVec.toNat_ofNat, BitVec.reduceExtractLsb', Nat.reducePow, Nat.reduceMod, BitVec.zeroExtend_eq_setWidth, BitVec.reduceSetWidth, BitVec.reduceAdd]
    refine zero_ok (show _ = fieldMask 23 4 from rfl) (and_fieldMask ?_) _ <;>
        simp (disch := omega) only [bits, cutHigh, cutLow, cut63, cut33, if_true, BitVec.reduceAppend, Nat.reduceSub, BitVec.extractLsb'_eq_self, BitVec.toNat_ofNat, BitVec.reduceExtractLsb', Nat.reducePow, Nat.reduceMod, BitVec.zeroExtend_eq_setWidth, BitVec.reduceSetWidth, BitVec.reduceAdd]
  · refine statement_of rfl ((decodeRaw_major5 ?_).trans ?_) <;>
      simp (disch := omega) only [decodeMajor5, bits, cutHigh, cutLow, cut63, cut33, if_true, BitVec.reduceAppend, Nat.reduceSub, BitVec.extractLsb'_eq_self, BitVec.toNat_ofNat, BitVec.reduceExtractLsb', Nat.reducePow, Nat.reduceMod, BitVec.zeroExtend_eq_setWidth, BitVec.reduceSetWidth, BitVec.reduceAdd]
    refine zero_ok (show _ = fieldMask 23 4 from rfl) (and_fieldMask ?_) _ <;>
        simp (disch := omega) only [bits, cutHigh, cutLow, cut63, cut33, if_true, BitVec.reduceAppend, Nat.reduceSub, BitVec.extractLsb'_eq_self, BitVec.toNat_ofNat, BitVec.reduceExtractLsb', Nat.reducePow, Nat.reduceMod, BitVec.zeroExtend_eq_setWidth, BitVec.reduceSetWidth, BitVec.reduceAdd]
  · refine statement_of rfl ((decodeRaw_major5 ?_).trans ?_) <;>
      simp (disch := omega) only [decodeMajor5, bits, cutHigh, cutLow, cut63, cut33, if_true, BitVec.reduceAppend, Nat.reduceSub, BitVec.extractLsb'_eq_self, BitVec.toNat_ofNat, BitVec.reduceExtractLsb', Nat.reducePow, Nat.reduceMod, BitVec.zeroExtend_eq_setWidth, BitVec.reduceSetWidth, BitVec.reduceAdd]
    refine zero_ok (show _ = fieldMask 23 4 from rfl) (and_fieldMask ?_) _ <;>
        simp (disch := omega) only [bits, cutHigh, cutLow, cut63, cut33, if_true, BitVec.reduceAppend, Nat.reduceSub, BitVec.extractLsb'_eq_self, BitVec.toNat_ofNat, BitVec.reduceExtractLsb', Nat.reducePow, Nat.reduceMod, BitVec.zeroExtend_eq_setWidth, BitVec.reduceSetWidth, BitVec.reduceAdd]
  · refine statement_of rfl ((decodeRaw_major5 ?_).trans ?_) <;>
      simp (disch := omega) only [decodeMajor5, bits, cutHigh, cutLow, cut63, cut33, if_true, BitVec.reduceAppend, Nat.reduceSub, BitVec.extractLsb'_eq_self, BitVec.toNat_ofNat, BitVec.reduceExtractLsb', Nat.reducePow, Nat.reduceMod, BitVec.zeroExtend_eq_setWidth, BitVec.reduceSetWidth, BitVec.reduceAdd]
    refine zero_ok (show _ = fieldMask 23 4 from rfl) (and_fieldMask ?_) _ <;>
        simp (disch := omega) only [bits, cutHigh, cutLow, cut63, cut33, if_true, BitVec.reduceAppend, Nat.reduceSub, BitVec.extractLsb'_eq_self, BitVec.toNat_ofNat, BitVec.reduceExtractLsb', Nat.reducePow, Nat.reduceMod, BitVec.zeroExtend_eq_setWidth, BitVec.reduceSetWidth, BitVec.reduceAdd]
  · refine statement_of rfl ((decodeRaw_major5 ?_).trans ?_) <;>
      simp (disch := omega) only [decodeMajor5, bits, cutHigh, cutLow, cut63, cut33, if_true, BitVec.reduceAppend, Nat.reduceSub, BitVec.extractLsb'_eq_self, BitVec.toNat_ofNat, BitVec.reduceExtractLsb', Nat.reducePow, Nat.reduceMod, BitVec.zeroExtend_eq_setWidth, BitVec.reduceSetWidth, BitVec.reduceAdd]
    refine zero_ok (show _ = fieldMask 23 4 from rfl) (and_fieldMask ?_) _ <;>
        simp (disch := omega) only [bits, cutHigh, cutLow, cut63, cut33, if_true, BitVec.reduceAppend, Nat.reduceSub, BitVec.extractLsb'_eq_self, BitVec.toNat_ofNat, BitVec.reduceExtractLsb', Nat.reducePow, Nat.reduceMod, BitVec.zeroExtend_eq_setWidth, BitVec.reduceSetWidth, BitVec.reduceAdd]
  · refine statement_of rfl ((decodeRaw_major5 ?_).trans ?_) <;>
      simp (disch := omega) only [decodeMajor5, bits, cutHigh, cutLow, cut63, cut33, if_true, BitVec.reduceAppend, Nat.reduceSub, BitVec.extractLsb'_eq_self, BitVec.toNat_ofNat, BitVec.reduceExtractLsb', Nat.reducePow, Nat.reduceMod, BitVec.zeroExtend_eq_setWidth, BitVec.reduceSetWidth, BitVec.reduceAdd]
    refine zero_ok (show _ = fieldMask 23 4 from rfl) (and_fieldMask ?_) _ <;>
        simp (disch := omega) only [bits, cutHigh, cutLow, cut63, cut33, if_true, BitVec.reduceAppend, Nat.reduceSub, BitVec.extractLsb'_eq_self, BitVec.toNat_ofNat, BitVec.reduceExtractLsb', Nat.reducePow, Nat.reduceMod, BitVec.zeroExtend_eq_setWidth, BitVec.reduceSetWidth, BitVec.reduceAdd]
  · refine statement_of rfl ((decodeRaw_major5 ?_).trans ?_) <;>
      simp (disch := omega) only [decodeMajor5, bits, cutHigh, cutLow, cut63, cut33, if_true, BitVec.reduceAppend, Nat.reduceSub, BitVec.extractLsb'_eq_self, BitVec.toNat_ofNat, BitVec.reduceExtractLsb', Nat.reducePow, Nat.reduceMod, BitVec.zeroExtend_eq_setWidth, BitVec.reduceSetWidth, BitVec.reduceAdd]
    refine zero_ok (show _ = fieldMask 23 4 from rfl) (and_fieldMask ?_) _ <;>
        simp (disch := omega) only [bits, cutHigh, cutLow, cut63, cut33, if_true, BitVec.reduceAppend, Nat.reduceSub, BitVec.extractLsb'_eq_self, BitVec.toNat_ofNat, BitVec.reduceExtractLsb', Nat.reducePow, Nat.reduceMod, BitVec.zeroExtend_eq_setWidth, BitVec.reduceSetWidth, BitVec.reduceAdd]

theorem vsel (d : BitVec 7) (a : BitVec 7) (b : BitVec 7) (n : BitVec 3) : Statement (.vsel d a b n) := by
  rcases cases3 n with rfl | rfl | rfl | rfl | rfl | rfl | rfl | rfl
  · refine statement_of rfl ((decodeRaw_major5 ?_).trans ?_) <;>
      simp (disch := omega) only [decodeMajor5, bits, cutHigh, cutLow, cut63, cut33, if_true, BitVec.reduceAppend, Nat.reduceSub, BitVec.extractLsb'_eq_self, BitVec.toNat_ofNat, BitVec.reduceExtractLsb', Nat.reducePow, Nat.reduceMod, BitVec.zeroExtend_eq_setWidth, BitVec.reduceSetWidth, BitVec.reduceAdd]
  · refine statement_of rfl ((decodeRaw_major5 ?_).trans ?_) <;>
      simp (disch := omega) only [decodeMajor5, bits, cutHigh, cutLow, cut63, cut33, if_true, BitVec.reduceAppend, Nat.reduceSub, BitVec.extractLsb'_eq_self, BitVec.toNat_ofNat, BitVec.reduceExtractLsb', Nat.reducePow, Nat.reduceMod, BitVec.zeroExtend_eq_setWidth, BitVec.reduceSetWidth, BitVec.reduceAdd]
  · refine statement_of rfl ((decodeRaw_major5 ?_).trans ?_) <;>
      simp (disch := omega) only [decodeMajor5, bits, cutHigh, cutLow, cut63, cut33, if_true, BitVec.reduceAppend, Nat.reduceSub, BitVec.extractLsb'_eq_self, BitVec.toNat_ofNat, BitVec.reduceExtractLsb', Nat.reducePow, Nat.reduceMod, BitVec.zeroExtend_eq_setWidth, BitVec.reduceSetWidth, BitVec.reduceAdd]
  · refine statement_of rfl ((decodeRaw_major5 ?_).trans ?_) <;>
      simp (disch := omega) only [decodeMajor5, bits, cutHigh, cutLow, cut63, cut33, if_true, BitVec.reduceAppend, Nat.reduceSub, BitVec.extractLsb'_eq_self, BitVec.toNat_ofNat, BitVec.reduceExtractLsb', Nat.reducePow, Nat.reduceMod, BitVec.zeroExtend_eq_setWidth, BitVec.reduceSetWidth, BitVec.reduceAdd]
  · refine statement_of rfl ((decodeRaw_major5 ?_).trans ?_) <;>
      simp (disch := omega) only [decodeMajor5, bits, cutHigh, cutLow, cut63, cut33, if_true, BitVec.reduceAppend, Nat.reduceSub, BitVec.extractLsb'_eq_self, BitVec.toNat_ofNat, BitVec.reduceExtractLsb', Nat.reducePow, Nat.reduceMod, BitVec.zeroExtend_eq_setWidth, BitVec.reduceSetWidth, BitVec.reduceAdd]
  · refine statement_of rfl ((decodeRaw_major5 ?_).trans ?_) <;>
      simp (disch := omega) only [decodeMajor5, bits, cutHigh, cutLow, cut63, cut33, if_true, BitVec.reduceAppend, Nat.reduceSub, BitVec.extractLsb'_eq_self, BitVec.toNat_ofNat, BitVec.reduceExtractLsb', Nat.reducePow, Nat.reduceMod, BitVec.zeroExtend_eq_setWidth, BitVec.reduceSetWidth, BitVec.reduceAdd]
  · refine statement_of rfl ((decodeRaw_major5 ?_).trans ?_) <;>
      simp (disch := omega) only [decodeMajor5, bits, cutHigh, cutLow, cut63, cut33, if_true, BitVec.reduceAppend, Nat.reduceSub, BitVec.extractLsb'_eq_self, BitVec.toNat_ofNat, BitVec.reduceExtractLsb', Nat.reducePow, Nat.reduceMod, BitVec.zeroExtend_eq_setWidth, BitVec.reduceSetWidth, BitVec.reduceAdd]
  · refine statement_of rfl ((decodeRaw_major5 ?_).trans ?_) <;>
      simp (disch := omega) only [decodeMajor5, bits, cutHigh, cutLow, cut63, cut33, if_true, BitVec.reduceAppend, Nat.reduceSub, BitVec.extractLsb'_eq_self, BitVec.toNat_ofNat, BitVec.reduceExtractLsb', Nat.reducePow, Nat.reduceMod, BitVec.zeroExtend_eq_setWidth, BitVec.reduceSetWidth, BitVec.reduceAdd]

theorem vaddPair (d : BitVec 7) (a : BitVec 7) (b : BitVec 7) (t : BitVec 2) : Statement (.vaddPair d a b t) := by
  refine statement_of rfl ((decodeRaw_major6 ?_).trans ?_) <;>
    simp (disch := omega) only [decodeMajor6, bits, cutHigh, cutLow, cut63, cut33, if_true, BitVec.reduceAppend, Nat.reduceSub, BitVec.extractLsb'_eq_self, BitVec.toNat_ofNat, BitVec.reduceExtractLsb', Nat.reducePow, Nat.reduceMod, BitVec.zeroExtend_eq_setWidth, BitVec.reduceSetWidth, BitVec.reduceAdd]

theorem vsubPair (d : BitVec 7) (a : BitVec 7) (b : BitVec 7) (t : BitVec 2) : Statement (.vsubPair d a b t) := by
  refine statement_of rfl ((decodeRaw_major6 ?_).trans ?_) <;>
    simp (disch := omega) only [decodeMajor6, bits, cutHigh, cutLow, cut63, cut33, if_true, BitVec.reduceAppend, Nat.reduceSub, BitVec.extractLsb'_eq_self, BitVec.toNat_ofNat, BitVec.reduceExtractLsb', Nat.reducePow, Nat.reduceMod, BitVec.zeroExtend_eq_setWidth, BitVec.reduceSetWidth, BitVec.reduceAdd]

theorem vmulPair (d : BitVec 7) (a : BitVec 7) (b : BitVec 7) (t : BitVec 2) : Statement (.vmulPair d a b t) := by
  refine statement_of rfl ((decodeRaw_major6 ?_).trans ?_) <;>
    simp (disch := omega) only [decodeMajor6, bits, cutHigh, cutLow, cut63, cut33, if_true, BitVec.reduceAppend, Nat.reduceSub, BitVec.extractLsb'_eq_self, BitVec.toNat_ofNat, BitVec.reduceExtractLsb', Nat.reducePow, Nat.reduceMod, BitVec.zeroExtend_eq_setWidth, BitVec.reduceSetWidth, BitVec.reduceAdd]

theorem vfmaPair (d : BitVec 7) (a : BitVec 7) (b : BitVec 7) (t : BitVec 2) : Statement (.vfmaPair d a b t) := by
  refine statement_of rfl ((decodeRaw_major6 ?_).trans ?_) <;>
    simp (disch := omega) only [decodeMajor6, bits, cutHigh, cutLow, cut63, cut33, if_true, BitVec.reduceAppend, Nat.reduceSub, BitVec.extractLsb'_eq_self, BitVec.toNat_ofNat, BitVec.reduceExtractLsb', Nat.reducePow, Nat.reduceMod, BitVec.zeroExtend_eq_setWidth, BitVec.reduceSetWidth, BitVec.reduceAdd]

theorem vfmsPair (d : BitVec 7) (a : BitVec 7) (b : BitVec 7) (t : BitVec 2) : Statement (.vfmsPair d a b t) := by
  refine statement_of rfl ((decodeRaw_major6 ?_).trans ?_) <;>
    simp (disch := omega) only [decodeMajor6, bits, cutHigh, cutLow, cut63, cut33, if_true, BitVec.reduceAppend, Nat.reduceSub, BitVec.extractLsb'_eq_self, BitVec.toNat_ofNat, BitVec.reduceExtractLsb', Nat.reducePow, Nat.reduceMod, BitVec.zeroExtend_eq_setWidth, BitVec.reduceSetWidth, BitVec.reduceAdd]

theorem vfnmaPair (d : BitVec 7) (a : BitVec 7) (b : BitVec 7) (t : BitVec 2) : Statement (.vfnmaPair d a b t) := by
  refine statement_of rfl ((decodeRaw_major6 ?_).trans ?_) <;>
    simp (disch := omega) only [decodeMajor6, bits, cutHigh, cutLow, cut63, cut33, if_true, BitVec.reduceAppend, Nat.reduceSub, BitVec.extractLsb'_eq_self, BitVec.toNat_ofNat, BitVec.reduceExtractLsb', Nat.reducePow, Nat.reduceMod, BitVec.zeroExtend_eq_setWidth, BitVec.reduceSetWidth, BitVec.reduceAdd]

theorem vfnmsPair (d : BitVec 7) (a : BitVec 7) (b : BitVec 7) (t : BitVec 2) : Statement (.vfnmsPair d a b t) := by
  refine statement_of rfl ((decodeRaw_major6 ?_).trans ?_) <;>
    simp (disch := omega) only [decodeMajor6, bits, cutHigh, cutLow, cut63, cut33, if_true, BitVec.reduceAppend, Nat.reduceSub, BitVec.extractLsb'_eq_self, BitVec.toNat_ofNat, BitVec.reduceExtractLsb', Nat.reducePow, Nat.reduceMod, BitVec.zeroExtend_eq_setWidth, BitVec.reduceSetWidth, BitVec.reduceAdd]

theorem vminPair (d : BitVec 7) (a : BitVec 7) (b : BitVec 7) (t : BitVec 2) : Statement (.vminPair d a b t) := by
  refine statement_of rfl ((decodeRaw_major6 ?_).trans ?_) <;>
    simp (disch := omega) only [decodeMajor6, bits, cutHigh, cutLow, cut63, cut33, if_true, BitVec.reduceAppend, Nat.reduceSub, BitVec.extractLsb'_eq_self, BitVec.toNat_ofNat, BitVec.reduceExtractLsb', Nat.reducePow, Nat.reduceMod, BitVec.zeroExtend_eq_setWidth, BitVec.reduceSetWidth, BitVec.reduceAdd]

theorem vmaxPair (d : BitVec 7) (a : BitVec 7) (b : BitVec 7) (t : BitVec 2) : Statement (.vmaxPair d a b t) := by
  refine statement_of rfl ((decodeRaw_major6 ?_).trans ?_) <;>
    simp (disch := omega) only [decodeMajor6, bits, cutHigh, cutLow, cut63, cut33, if_true, BitVec.reduceAppend, Nat.reduceSub, BitVec.extractLsb'_eq_self, BitVec.toNat_ofNat, BitVec.reduceExtractLsb', Nat.reducePow, Nat.reduceMod, BitVec.zeroExtend_eq_setWidth, BitVec.reduceSetWidth, BitVec.reduceAdd]

theorem vclampPair (d : BitVec 7) (a : BitVec 7) (b : BitVec 7) (t : BitVec 2) : Statement (.vclampPair d a b t) := by
  refine statement_of rfl ((decodeRaw_major6 ?_).trans ?_) <;>
    simp (disch := omega) only [decodeMajor6, bits, cutHigh, cutLow, cut63, cut33, if_true, BitVec.reduceAppend, Nat.reduceSub, BitVec.extractLsb'_eq_self, BitVec.toNat_ofNat, BitVec.reduceExtractLsb', Nat.reducePow, Nat.reduceMod, BitVec.zeroExtend_eq_setWidth, BitVec.reduceSetWidth, BitVec.reduceAdd]

theorem vdot2 (d : BitVec 7) (a : BitVec 7) (b : BitVec 7) (t : BitVec 2) : Statement (.vdot2 d a b t) := by
  refine statement_of rfl ((decodeRaw_major6 ?_).trans ?_) <;>
    simp (disch := omega) only [decodeMajor6, bits, cutHigh, cutLow, cut63, cut33, if_true, BitVec.reduceAppend, Nat.reduceSub, BitVec.extractLsb'_eq_self, BitVec.toNat_ofNat, BitVec.reduceExtractLsb', Nat.reducePow, Nat.reduceMod, BitVec.zeroExtend_eq_setWidth, BitVec.reduceSetWidth, BitVec.reduceAdd]

theorem vdot4 (d : BitVec 7) (a : BitVec 7) (b : BitVec 7) (t : BitVec 1) : Statement (.vdot4 d a b t) := by
  refine statement_of rfl ((decodeRaw_major6 ?_).trans ?_) <;>
    simp (disch := omega) only [decodeMajor6, bits, cutHigh, cutLow, cut63, cut33, if_true, BitVec.reduceAppend, Nat.reduceSub, BitVec.extractLsb'_eq_self, BitVec.toNat_ofNat, BitVec.reduceExtractLsb', Nat.reducePow, Nat.reduceMod, BitVec.zeroExtend_eq_setWidth, BitVec.reduceSetWidth, BitVec.reduceAdd]

theorem viadd (d : BitVec 7) (a : BitVec 7) (b : BitVec 7) : Statement (.viadd d a b) := by
  refine statement_of rfl ((decodeRaw_major7 ?_).trans ?_) <;>
    simp (disch := omega) only [decodeMajor7, bits, cutHigh, cutLow, cut63, cut33, if_true, BitVec.reduceAppend, Nat.reduceSub, BitVec.extractLsb'_eq_self, BitVec.toNat_ofNat, BitVec.reduceExtractLsb', Nat.reducePow, Nat.reduceMod, BitVec.zeroExtend_eq_setWidth, BitVec.reduceSetWidth, BitVec.reduceAdd]

theorem visub (d : BitVec 7) (a : BitVec 7) (b : BitVec 7) : Statement (.visub d a b) := by
  refine statement_of rfl ((decodeRaw_major7 ?_).trans ?_) <;>
    simp (disch := omega) only [decodeMajor7, bits, cutHigh, cutLow, cut63, cut33, if_true, BitVec.reduceAppend, Nat.reduceSub, BitVec.extractLsb'_eq_self, BitVec.toNat_ofNat, BitVec.reduceExtractLsb', Nat.reducePow, Nat.reduceMod, BitVec.zeroExtend_eq_setWidth, BitVec.reduceSetWidth, BitVec.reduceAdd]

theorem vimul (d : BitVec 7) (a : BitVec 7) (b : BitVec 7) : Statement (.vimul d a b) := by
  refine statement_of rfl ((decodeRaw_major7 ?_).trans ?_) <;>
    simp (disch := omega) only [decodeMajor7, bits, cutHigh, cutLow, cut63, cut33, if_true, BitVec.reduceAppend, Nat.reduceSub, BitVec.extractLsb'_eq_self, BitVec.toNat_ofNat, BitVec.reduceExtractLsb', Nat.reducePow, Nat.reduceMod, BitVec.zeroExtend_eq_setWidth, BitVec.reduceSetWidth, BitVec.reduceAdd]

theorem vimulhI32 (d : BitVec 7) (a : BitVec 7) (b : BitVec 7) : Statement (.vimulhI32 d a b) := by
  refine statement_of rfl ((decodeRaw_major7 ?_).trans ?_) <;>
    simp (disch := omega) only [decodeMajor7, bits, cutHigh, cutLow, cut63, cut33, if_true, BitVec.reduceAppend, Nat.reduceSub, BitVec.extractLsb'_eq_self, BitVec.toNat_ofNat, BitVec.reduceExtractLsb', Nat.reducePow, Nat.reduceMod, BitVec.zeroExtend_eq_setWidth, BitVec.reduceSetWidth, BitVec.reduceAdd]

theorem vimulhN32 (d : BitVec 7) (a : BitVec 7) (b : BitVec 7) : Statement (.vimulhN32 d a b) := by
  refine statement_of rfl ((decodeRaw_major7 ?_).trans ?_) <;>
    simp (disch := omega) only [decodeMajor7, bits, cutHigh, cutLow, cut63, cut33, if_true, BitVec.reduceAppend, Nat.reduceSub, BitVec.extractLsb'_eq_self, BitVec.toNat_ofNat, BitVec.reduceExtractLsb', Nat.reducePow, Nat.reduceMod, BitVec.zeroExtend_eq_setWidth, BitVec.reduceSetWidth, BitVec.reduceAdd]

theorem vimad (d : BitVec 7) (a : BitVec 7) (b : BitVec 7) : Statement (.vimad d a b) := by
  refine statement_of rfl ((decodeRaw_major7 ?_).trans ?_) <;>
    simp (disch := omega) only [decodeMajor7, bits, cutHigh, cutLow, cut63, cut33, if_true, BitVec.reduceAppend, Nat.reduceSub, BitVec.extractLsb'_eq_self, BitVec.toNat_ofNat, BitVec.reduceExtractLsb', Nat.reducePow, Nat.reduceMod, BitVec.zeroExtend_eq_setWidth, BitVec.reduceSetWidth, BitVec.reduceAdd]

theorem vimin (d : BitVec 7) (a : BitVec 7) (b : BitVec 7) : Statement (.vimin d a b) := by
  refine statement_of rfl ((decodeRaw_major7 ?_).trans ?_) <;>
    simp (disch := omega) only [decodeMajor7, bits, cutHigh, cutLow, cut63, cut33, if_true, BitVec.reduceAppend, Nat.reduceSub, BitVec.extractLsb'_eq_self, BitVec.toNat_ofNat, BitVec.reduceExtractLsb', Nat.reducePow, Nat.reduceMod, BitVec.zeroExtend_eq_setWidth, BitVec.reduceSetWidth, BitVec.reduceAdd]

theorem vimax (d : BitVec 7) (a : BitVec 7) (b : BitVec 7) : Statement (.vimax d a b) := by
  refine statement_of rfl ((decodeRaw_major7 ?_).trans ?_) <;>
    simp (disch := omega) only [decodeMajor7, bits, cutHigh, cutLow, cut63, cut33, if_true, BitVec.reduceAppend, Nat.reduceSub, BitVec.extractLsb'_eq_self, BitVec.toNat_ofNat, BitVec.reduceExtractLsb', Nat.reducePow, Nat.reduceMod, BitVec.zeroExtend_eq_setWidth, BitVec.reduceSetWidth, BitVec.reduceAdd]

theorem viminn (d : BitVec 7) (a : BitVec 7) (b : BitVec 7) : Statement (.viminn d a b) := by
  refine statement_of rfl ((decodeRaw_major7 ?_).trans ?_) <;>
    simp (disch := omega) only [decodeMajor7, bits, cutHigh, cutLow, cut63, cut33, if_true, BitVec.reduceAppend, Nat.reduceSub, BitVec.extractLsb'_eq_self, BitVec.toNat_ofNat, BitVec.reduceExtractLsb', Nat.reducePow, Nat.reduceMod, BitVec.zeroExtend_eq_setWidth, BitVec.reduceSetWidth, BitVec.reduceAdd]

theorem vimaxn (d : BitVec 7) (a : BitVec 7) (b : BitVec 7) : Statement (.vimaxn d a b) := by
  refine statement_of rfl ((decodeRaw_major7 ?_).trans ?_) <;>
    simp (disch := omega) only [decodeMajor7, bits, cutHigh, cutLow, cut63, cut33, if_true, BitVec.reduceAppend, Nat.reduceSub, BitVec.extractLsb'_eq_self, BitVec.toNat_ofNat, BitVec.reduceExtractLsb', Nat.reducePow, Nat.reduceMod, BitVec.zeroExtend_eq_setWidth, BitVec.reduceSetWidth, BitVec.reduceAdd]

theorem viabs (d : BitVec 7) (a : BitVec 7) : Statement (.viabs d a) := by
  refine statement_of rfl ((decodeRaw_major7 ?_).trans ?_) <;>
    simp (disch := omega) only [decodeMajor7, bits, cutHigh, cutLow, cut63, cut33, if_true, BitVec.reduceAppend, Nat.reduceSub, BitVec.extractLsb'_eq_self, BitVec.toNat_ofNat, BitVec.reduceExtractLsb', Nat.reducePow, Nat.reduceMod, BitVec.zeroExtend_eq_setWidth, BitVec.reduceSetWidth, BitVec.reduceAdd]
  refine zero_ok (show _ = fieldMask 6 7 from rfl) (and_fieldMask ?_) _ <;>
    simp (disch := omega) only [bits, cutHigh, cutLow, cut63, cut33, if_true, BitVec.reduceAppend, Nat.reduceSub, BitVec.extractLsb'_eq_self, BitVec.toNat_ofNat, BitVec.reduceExtractLsb', Nat.reducePow, Nat.reduceMod, BitVec.zeroExtend_eq_setWidth, BitVec.reduceSetWidth, BitVec.reduceAdd]

theorem viand (d : BitVec 7) (a : BitVec 7) (b : BitVec 7) : Statement (.viand d a b) := by
  refine statement_of rfl ((decodeRaw_major7 ?_).trans ?_) <;>
    simp (disch := omega) only [decodeMajor7, bits, cutHigh, cutLow, cut63, cut33, if_true, BitVec.reduceAppend, Nat.reduceSub, BitVec.extractLsb'_eq_self, BitVec.toNat_ofNat, BitVec.reduceExtractLsb', Nat.reducePow, Nat.reduceMod, BitVec.zeroExtend_eq_setWidth, BitVec.reduceSetWidth, BitVec.reduceAdd]

theorem vior (d : BitVec 7) (a : BitVec 7) (b : BitVec 7) : Statement (.vior d a b) := by
  refine statement_of rfl ((decodeRaw_major7 ?_).trans ?_) <;>
    simp (disch := omega) only [decodeMajor7, bits, cutHigh, cutLow, cut63, cut33, if_true, BitVec.reduceAppend, Nat.reduceSub, BitVec.extractLsb'_eq_self, BitVec.toNat_ofNat, BitVec.reduceExtractLsb', Nat.reducePow, Nat.reduceMod, BitVec.zeroExtend_eq_setWidth, BitVec.reduceSetWidth, BitVec.reduceAdd]

theorem vixor (d : BitVec 7) (a : BitVec 7) (b : BitVec 7) : Statement (.vixor d a b) := by
  refine statement_of rfl ((decodeRaw_major7 ?_).trans ?_) <;>
    simp (disch := omega) only [decodeMajor7, bits, cutHigh, cutLow, cut63, cut33, if_true, BitVec.reduceAppend, Nat.reduceSub, BitVec.extractLsb'_eq_self, BitVec.toNat_ofNat, BitVec.reduceExtractLsb', Nat.reducePow, Nat.reduceMod, BitVec.zeroExtend_eq_setWidth, BitVec.reduceSetWidth, BitVec.reduceAdd]

theorem viandn (d : BitVec 7) (a : BitVec 7) (b : BitVec 7) : Statement (.viandn d a b) := by
  refine statement_of rfl ((decodeRaw_major7 ?_).trans ?_) <;>
    simp (disch := omega) only [decodeMajor7, bits, cutHigh, cutLow, cut63, cut33, if_true, BitVec.reduceAppend, Nat.reduceSub, BitVec.extractLsb'_eq_self, BitVec.toNat_ofNat, BitVec.reduceExtractLsb', Nat.reducePow, Nat.reduceMod, BitVec.zeroExtend_eq_setWidth, BitVec.reduceSetWidth, BitVec.reduceAdd]

theorem vishl (d : BitVec 7) (a : BitVec 7) (b : BitVec 7) : Statement (.vishl d a b) := by
  refine statement_of rfl ((decodeRaw_major7 ?_).trans ?_) <;>
    simp (disch := omega) only [decodeMajor7, bits, cutHigh, cutLow, cut63, cut33, if_true, BitVec.reduceAppend, Nat.reduceSub, BitVec.extractLsb'_eq_self, BitVec.toNat_ofNat, BitVec.reduceExtractLsb', Nat.reducePow, Nat.reduceMod, BitVec.zeroExtend_eq_setWidth, BitVec.reduceSetWidth, BitVec.reduceAdd]

theorem vishr (d : BitVec 7) (a : BitVec 7) (b : BitVec 7) : Statement (.vishr d a b) := by
  refine statement_of rfl ((decodeRaw_major7 ?_).trans ?_) <;>
    simp (disch := omega) only [decodeMajor7, bits, cutHigh, cutLow, cut63, cut33, if_true, BitVec.reduceAppend, Nat.reduceSub, BitVec.extractLsb'_eq_self, BitVec.toNat_ofNat, BitVec.reduceExtractLsb', Nat.reducePow, Nat.reduceMod, BitVec.zeroExtend_eq_setWidth, BitVec.reduceSetWidth, BitVec.reduceAdd]

theorem visra (d : BitVec 7) (a : BitVec 7) (b : BitVec 7) : Statement (.visra d a b) := by
  refine statement_of rfl ((decodeRaw_major7 ?_).trans ?_) <;>
    simp (disch := omega) only [decodeMajor7, bits, cutHigh, cutLow, cut63, cut33, if_true, BitVec.reduceAppend, Nat.reduceSub, BitVec.extractLsb'_eq_self, BitVec.toNat_ofNat, BitVec.reduceExtractLsb', Nat.reducePow, Nat.reduceMod, BitVec.zeroExtend_eq_setWidth, BitVec.reduceSetWidth, BitVec.reduceAdd]

theorem vpop (d : BitVec 7) (a : BitVec 7) : Statement (.vpop d a) := by
  refine statement_of rfl ((decodeRaw_major7 ?_).trans ?_) <;>
    simp (disch := omega) only [decodeMajor7, bits, cutHigh, cutLow, cut63, cut33, if_true, BitVec.reduceAppend, Nat.reduceSub, BitVec.extractLsb'_eq_self, BitVec.toNat_ofNat, BitVec.reduceExtractLsb', Nat.reducePow, Nat.reduceMod, BitVec.zeroExtend_eq_setWidth, BitVec.reduceSetWidth, BitVec.reduceAdd]
  refine zero_ok (show _ = fieldMask 6 7 from rfl) (and_fieldMask ?_) _ <;>
    simp (disch := omega) only [bits, cutHigh, cutLow, cut63, cut33, if_true, BitVec.reduceAppend, Nat.reduceSub, BitVec.extractLsb'_eq_self, BitVec.toNat_ofNat, BitVec.reduceExtractLsb', Nat.reducePow, Nat.reduceMod, BitVec.zeroExtend_eq_setWidth, BitVec.reduceSetWidth, BitVec.reduceAdd]

theorem vclz (d : BitVec 7) (a : BitVec 7) : Statement (.vclz d a) := by
  refine statement_of rfl ((decodeRaw_major7 ?_).trans ?_) <;>
    simp (disch := omega) only [decodeMajor7, bits, cutHigh, cutLow, cut63, cut33, if_true, BitVec.reduceAppend, Nat.reduceSub, BitVec.extractLsb'_eq_self, BitVec.toNat_ofNat, BitVec.reduceExtractLsb', Nat.reducePow, Nat.reduceMod, BitVec.zeroExtend_eq_setWidth, BitVec.reduceSetWidth, BitVec.reduceAdd]
  refine zero_ok (show _ = fieldMask 6 7 from rfl) (and_fieldMask ?_) _ <;>
    simp (disch := omega) only [bits, cutHigh, cutLow, cut63, cut33, if_true, BitVec.reduceAppend, Nat.reduceSub, BitVec.extractLsb'_eq_self, BitVec.toNat_ofNat, BitVec.reduceExtractLsb', Nat.reducePow, Nat.reduceMod, BitVec.zeroExtend_eq_setWidth, BitVec.reduceSetWidth, BitVec.reduceAdd]

theorem vbfe (d : BitVec 7) (a : BitVec 7) (b : BitVec 7) : Statement (.vbfe d a b) := by
  refine statement_of rfl ((decodeRaw_major7 ?_).trans ?_) <;>
    simp (disch := omega) only [decodeMajor7, bits, cutHigh, cutLow, cut63, cut33, if_true, BitVec.reduceAppend, Nat.reduceSub, BitVec.extractLsb'_eq_self, BitVec.toNat_ofNat, BitVec.reduceExtractLsb', Nat.reducePow, Nat.reduceMod, BitVec.zeroExtend_eq_setWidth, BitVec.reduceSetWidth, BitVec.reduceAdd]

theorem vbfi (d : BitVec 7) (a : BitVec 7) (b : BitVec 7) : Statement (.vbfi d a b) := by
  refine statement_of rfl ((decodeRaw_major7 ?_).trans ?_) <;>
    simp (disch := omega) only [decodeMajor7, bits, cutHigh, cutLow, cut63, cut33, if_true, BitVec.reduceAppend, Nat.reduceSub, BitVec.extractLsb'_eq_self, BitVec.toNat_ofNat, BitVec.reduceExtractLsb', Nat.reducePow, Nat.reduceMod, BitVec.zeroExtend_eq_setWidth, BitVec.reduceSetWidth, BitVec.reduceAdd]

theorem vprm (d : BitVec 7) (a : BitVec 7) (b : BitVec 7) : Statement (.vprm d a b) := by
  refine statement_of rfl ((decodeRaw_major7 ?_).trans ?_) <;>
    simp (disch := omega) only [decodeMajor7, bits, cutHigh, cutLow, cut63, cut33, if_true, BitVec.reduceAppend, Nat.reduceSub, BitVec.extractLsb'_eq_self, BitVec.toNat_ofNat, BitVec.reduceExtractLsb', Nat.reducePow, Nat.reduceMod, BitVec.zeroExtend_eq_setWidth, BitVec.reduceSetWidth, BitVec.reduceAdd]

theorem vicmp (p : BitVec 3) (a : BitVec 7) (b : BitVec 7) (c : BitVec 3) : Statement (.vicmp p a b c) := by
  rcases cases3 c with rfl | rfl | rfl | rfl | rfl | rfl | rfl | rfl
  · refine statement_of rfl ((decodeRaw_major7 ?_).trans ?_) <;>
      simp (disch := omega) only [decodeMajor7, bits, cutHigh, cutLow, cut63, cut33, if_true, BitVec.reduceAppend, Nat.reduceSub, BitVec.extractLsb'_eq_self, BitVec.toNat_ofNat, BitVec.reduceExtractLsb', Nat.reducePow, Nat.reduceMod, BitVec.zeroExtend_eq_setWidth, BitVec.reduceSetWidth, BitVec.reduceAdd]
    refine zero_ok (show _ = fieldMask 23 4 from rfl) (and_fieldMask ?_) _ <;>
        simp (disch := omega) only [bits, cutHigh, cutLow, cut63, cut33, if_true, BitVec.reduceAppend, Nat.reduceSub, BitVec.extractLsb'_eq_self, BitVec.toNat_ofNat, BitVec.reduceExtractLsb', Nat.reducePow, Nat.reduceMod, BitVec.zeroExtend_eq_setWidth, BitVec.reduceSetWidth, BitVec.reduceAdd]
  · refine statement_of rfl ((decodeRaw_major7 ?_).trans ?_) <;>
      simp (disch := omega) only [decodeMajor7, bits, cutHigh, cutLow, cut63, cut33, if_true, BitVec.reduceAppend, Nat.reduceSub, BitVec.extractLsb'_eq_self, BitVec.toNat_ofNat, BitVec.reduceExtractLsb', Nat.reducePow, Nat.reduceMod, BitVec.zeroExtend_eq_setWidth, BitVec.reduceSetWidth, BitVec.reduceAdd]
    refine zero_ok (show _ = fieldMask 23 4 from rfl) (and_fieldMask ?_) _ <;>
        simp (disch := omega) only [bits, cutHigh, cutLow, cut63, cut33, if_true, BitVec.reduceAppend, Nat.reduceSub, BitVec.extractLsb'_eq_self, BitVec.toNat_ofNat, BitVec.reduceExtractLsb', Nat.reducePow, Nat.reduceMod, BitVec.zeroExtend_eq_setWidth, BitVec.reduceSetWidth, BitVec.reduceAdd]
  · refine statement_of rfl ((decodeRaw_major7 ?_).trans ?_) <;>
      simp (disch := omega) only [decodeMajor7, bits, cutHigh, cutLow, cut63, cut33, if_true, BitVec.reduceAppend, Nat.reduceSub, BitVec.extractLsb'_eq_self, BitVec.toNat_ofNat, BitVec.reduceExtractLsb', Nat.reducePow, Nat.reduceMod, BitVec.zeroExtend_eq_setWidth, BitVec.reduceSetWidth, BitVec.reduceAdd]
    refine zero_ok (show _ = fieldMask 23 4 from rfl) (and_fieldMask ?_) _ <;>
        simp (disch := omega) only [bits, cutHigh, cutLow, cut63, cut33, if_true, BitVec.reduceAppend, Nat.reduceSub, BitVec.extractLsb'_eq_self, BitVec.toNat_ofNat, BitVec.reduceExtractLsb', Nat.reducePow, Nat.reduceMod, BitVec.zeroExtend_eq_setWidth, BitVec.reduceSetWidth, BitVec.reduceAdd]
  · refine statement_of rfl ((decodeRaw_major7 ?_).trans ?_) <;>
      simp (disch := omega) only [decodeMajor7, bits, cutHigh, cutLow, cut63, cut33, if_true, BitVec.reduceAppend, Nat.reduceSub, BitVec.extractLsb'_eq_self, BitVec.toNat_ofNat, BitVec.reduceExtractLsb', Nat.reducePow, Nat.reduceMod, BitVec.zeroExtend_eq_setWidth, BitVec.reduceSetWidth, BitVec.reduceAdd]
    refine zero_ok (show _ = fieldMask 23 4 from rfl) (and_fieldMask ?_) _ <;>
        simp (disch := omega) only [bits, cutHigh, cutLow, cut63, cut33, if_true, BitVec.reduceAppend, Nat.reduceSub, BitVec.extractLsb'_eq_self, BitVec.toNat_ofNat, BitVec.reduceExtractLsb', Nat.reducePow, Nat.reduceMod, BitVec.zeroExtend_eq_setWidth, BitVec.reduceSetWidth, BitVec.reduceAdd]
  · refine statement_of rfl ((decodeRaw_major7 ?_).trans ?_) <;>
      simp (disch := omega) only [decodeMajor7, bits, cutHigh, cutLow, cut63, cut33, if_true, BitVec.reduceAppend, Nat.reduceSub, BitVec.extractLsb'_eq_self, BitVec.toNat_ofNat, BitVec.reduceExtractLsb', Nat.reducePow, Nat.reduceMod, BitVec.zeroExtend_eq_setWidth, BitVec.reduceSetWidth, BitVec.reduceAdd]
    refine zero_ok (show _ = fieldMask 23 4 from rfl) (and_fieldMask ?_) _ <;>
        simp (disch := omega) only [bits, cutHigh, cutLow, cut63, cut33, if_true, BitVec.reduceAppend, Nat.reduceSub, BitVec.extractLsb'_eq_self, BitVec.toNat_ofNat, BitVec.reduceExtractLsb', Nat.reducePow, Nat.reduceMod, BitVec.zeroExtend_eq_setWidth, BitVec.reduceSetWidth, BitVec.reduceAdd]
  · refine statement_of rfl ((decodeRaw_major7 ?_).trans ?_) <;>
      simp (disch := omega) only [decodeMajor7, bits, cutHigh, cutLow, cut63, cut33, if_true, BitVec.reduceAppend, Nat.reduceSub, BitVec.extractLsb'_eq_self, BitVec.toNat_ofNat, BitVec.reduceExtractLsb', Nat.reducePow, Nat.reduceMod, BitVec.zeroExtend_eq_setWidth, BitVec.reduceSetWidth, BitVec.reduceAdd]
    refine zero_ok (show _ = fieldMask 23 4 from rfl) (and_fieldMask ?_) _ <;>
        simp (disch := omega) only [bits, cutHigh, cutLow, cut63, cut33, if_true, BitVec.reduceAppend, Nat.reduceSub, BitVec.extractLsb'_eq_self, BitVec.toNat_ofNat, BitVec.reduceExtractLsb', Nat.reducePow, Nat.reduceMod, BitVec.zeroExtend_eq_setWidth, BitVec.reduceSetWidth, BitVec.reduceAdd]
  · exact statement_of_ill rfl
  · exact statement_of_ill rfl

theorem vaddImm (d : BitVec 7) (i : BitVec 16) : Statement (.vaddImm d i) := by
  refine statement_of rfl ((decodeRaw_major8 ?_).trans ?_) <;>
    simp (disch := omega) only [decodeMajor8, bits, cutHigh, cutLow, cut63, cut33, if_true, BitVec.reduceAppend, Nat.reduceSub, BitVec.extractLsb'_eq_self, BitVec.toNat_ofNat, BitVec.reduceExtractLsb', Nat.reducePow, Nat.reduceMod, BitVec.zeroExtend_eq_setWidth, BitVec.reduceSetWidth, BitVec.reduceAdd]

theorem vmulImm (d : BitVec 7) (i : BitVec 16) : Statement (.vmulImm d i) := by
  refine statement_of rfl ((decodeRaw_major8 ?_).trans ?_) <;>
    simp (disch := omega) only [decodeMajor8, bits, cutHigh, cutLow, cut63, cut33, if_true, BitVec.reduceAppend, Nat.reduceSub, BitVec.extractLsb'_eq_self, BitVec.toNat_ofNat, BitVec.reduceExtractLsb', Nat.reducePow, Nat.reduceMod, BitVec.zeroExtend_eq_setWidth, BitVec.reduceSetWidth, BitVec.reduceAdd]

theorem vminImm (d : BitVec 7) (i : BitVec 16) : Statement (.vminImm d i) := by
  refine statement_of rfl ((decodeRaw_major8 ?_).trans ?_) <;>
    simp (disch := omega) only [decodeMajor8, bits, cutHigh, cutLow, cut63, cut33, if_true, BitVec.reduceAppend, Nat.reduceSub, BitVec.extractLsb'_eq_self, BitVec.toNat_ofNat, BitVec.reduceExtractLsb', Nat.reducePow, Nat.reduceMod, BitVec.zeroExtend_eq_setWidth, BitVec.reduceSetWidth, BitVec.reduceAdd]

theorem vmaxImm (d : BitVec 7) (i : BitVec 16) : Statement (.vmaxImm d i) := by
  refine statement_of rfl ((decodeRaw_major8 ?_).trans ?_) <;>
    simp (disch := omega) only [decodeMajor8, bits, cutHigh, cutLow, cut63, cut33, if_true, BitVec.reduceAppend, Nat.reduceSub, BitVec.extractLsb'_eq_self, BitVec.toNat_ofNat, BitVec.reduceExtractLsb', Nat.reducePow, Nat.reduceMod, BitVec.zeroExtend_eq_setWidth, BitVec.reduceSetWidth, BitVec.reduceAdd]

theorem viaddImm (d : BitVec 7) (i : BitVec 16) : Statement (.viaddImm d i) := by
  refine statement_of rfl ((decodeRaw_major8 ?_).trans ?_) <;>
    simp (disch := omega) only [decodeMajor8, bits, cutHigh, cutLow, cut63, cut33, if_true, BitVec.reduceAppend, Nat.reduceSub, BitVec.extractLsb'_eq_self, BitVec.toNat_ofNat, BitVec.reduceExtractLsb', Nat.reducePow, Nat.reduceMod, BitVec.zeroExtend_eq_setWidth, BitVec.reduceSetWidth, BitVec.reduceAdd]

theorem viandImm (d : BitVec 7) (i : BitVec 16) : Statement (.viandImm d i) := by
  refine statement_of rfl ((decodeRaw_major8 ?_).trans ?_) <;>
    simp (disch := omega) only [decodeMajor8, bits, cutHigh, cutLow, cut63, cut33, if_true, BitVec.reduceAppend, Nat.reduceSub, BitVec.extractLsb'_eq_self, BitVec.toNat_ofNat, BitVec.reduceExtractLsb', Nat.reducePow, Nat.reduceMod, BitVec.zeroExtend_eq_setWidth, BitVec.reduceSetWidth, BitVec.reduceAdd]

theorem viorImm (d : BitVec 7) (i : BitVec 16) : Statement (.viorImm d i) := by
  refine statement_of rfl ((decodeRaw_major8 ?_).trans ?_) <;>
    simp (disch := omega) only [decodeMajor8, bits, cutHigh, cutLow, cut63, cut33, if_true, BitVec.reduceAppend, Nat.reduceSub, BitVec.extractLsb'_eq_self, BitVec.toNat_ofNat, BitVec.reduceExtractLsb', Nat.reducePow, Nat.reduceMod, BitVec.zeroExtend_eq_setWidth, BitVec.reduceSetWidth, BitVec.reduceAdd]

theorem vixorImm (d : BitVec 7) (i : BitVec 16) : Statement (.vixorImm d i) := by
  refine statement_of rfl ((decodeRaw_major8 ?_).trans ?_) <;>
    simp (disch := omega) only [decodeMajor8, bits, cutHigh, cutLow, cut63, cut33, if_true, BitVec.reduceAppend, Nat.reduceSub, BitVec.extractLsb'_eq_self, BitVec.toNat_ofNat, BitVec.reduceExtractLsb', Nat.reducePow, Nat.reduceMod, BitVec.zeroExtend_eq_setWidth, BitVec.reduceSetWidth, BitVec.reduceAdd]

theorem vishlImm (d : BitVec 7) (i : BitVec 16) : Statement (.vishlImm d i) := by
  refine statement_of rfl ((decodeRaw_major8 ?_).trans ?_) <;>
    simp (disch := omega) only [decodeMajor8, bits, cutHigh, cutLow, cut63, cut33, if_true, BitVec.reduceAppend, Nat.reduceSub, BitVec.extractLsb'_eq_self, BitVec.toNat_ofNat, BitVec.reduceExtractLsb', Nat.reducePow, Nat.reduceMod, BitVec.zeroExtend_eq_setWidth, BitVec.reduceSetWidth, BitVec.reduceAdd]

theorem vishrImm (d : BitVec 7) (i : BitVec 16) : Statement (.vishrImm d i) := by
  refine statement_of rfl ((decodeRaw_major8 ?_).trans ?_) <;>
    simp (disch := omega) only [decodeMajor8, bits, cutHigh, cutLow, cut63, cut33, if_true, BitVec.reduceAppend, Nat.reduceSub, BitVec.extractLsb'_eq_self, BitVec.toNat_ofNat, BitVec.reduceExtractLsb', Nat.reducePow, Nat.reduceMod, BitVec.zeroExtend_eq_setWidth, BitVec.reduceSetWidth, BitVec.reduceAdd]

theorem visraImm (d : BitVec 7) (i : BitVec 16) : Statement (.visraImm d i) := by
  refine statement_of rfl ((decodeRaw_major8 ?_).trans ?_) <;>
    simp (disch := omega) only [decodeMajor8, bits, cutHigh, cutLow, cut63, cut33, if_true, BitVec.reduceAppend, Nat.reduceSub, BitVec.extractLsb'_eq_self, BitVec.toNat_ofNat, BitVec.reduceExtractLsb', Nat.reducePow, Nat.reduceMod, BitVec.zeroExtend_eq_setWidth, BitVec.reduceSetWidth, BitVec.reduceAdd]

theorem vmoviF32 (d : BitVec 7) (i : BitVec 16) : Statement (.vmoviF32 d i) := by
  refine statement_of rfl ((decodeRaw_major8 ?_).trans ?_) <;>
    simp (disch := omega) only [decodeMajor8, bits, cutHigh, cutLow, cut63, cut33, if_true, BitVec.reduceAppend, Nat.reduceSub, BitVec.extractLsb'_eq_self, BitVec.toNat_ofNat, BitVec.reduceExtractLsb', Nat.reducePow, Nat.reduceMod, BitVec.zeroExtend_eq_setWidth, BitVec.reduceSetWidth, BitVec.reduceAdd]

theorem vmoviB32 (d : BitVec 7) (i : BitVec 16) : Statement (.vmoviB32 d i) := by
  refine statement_of rfl ((decodeRaw_major8 ?_).trans ?_) <;>
    simp (disch := omega) only [decodeMajor8, bits, cutHigh, cutLow, cut63, cut33, if_true, BitVec.reduceAppend, Nat.reduceSub, BitVec.extractLsb'_eq_self, BitVec.toNat_ofNat, BitVec.reduceExtractLsb', Nat.reducePow, Nat.reduceMod, BitVec.zeroExtend_eq_setWidth, BitVec.reduceSetWidth, BitVec.reduceAdd]

theorem vmoviF16x2 (d : BitVec 7) (i : BitVec 16) : Statement (.vmoviF16x2 d i) := by
  refine statement_of rfl ((decodeRaw_major8 ?_).trans ?_) <;>
    simp (disch := omega) only [decodeMajor8, bits, cutHigh, cutLow, cut63, cut33, if_true, BitVec.reduceAppend, Nat.reduceSub, BitVec.extractLsb'_eq_self, BitVec.toNat_ofNat, BitVec.reduceExtractLsb', Nat.reducePow, Nat.reduceMod, BitVec.zeroExtend_eq_setWidth, BitVec.reduceSetWidth, BitVec.reduceAdd]

theorem vmoviF8e4x2 (d : BitVec 7) (i : BitVec 16) : Statement (.vmoviF8e4x2 d i) := by
  refine statement_of rfl ((decodeRaw_major8 ?_).trans ?_) <;>
    simp (disch := omega) only [decodeMajor8, bits, cutHigh, cutLow, cut63, cut33, if_true, BitVec.reduceAppend, Nat.reduceSub, BitVec.extractLsb'_eq_self, BitVec.toNat_ofNat, BitVec.reduceExtractLsb', Nat.reducePow, Nat.reduceMod, BitVec.zeroExtend_eq_setWidth, BitVec.reduceSetWidth, BitVec.reduceAdd]

theorem vmoviF8e5x2 (d : BitVec 7) (i : BitVec 16) : Statement (.vmoviF8e5x2 d i) := by
  refine statement_of rfl ((decodeRaw_major8 ?_).trans ?_) <;>
    simp (disch := omega) only [decodeMajor8, bits, cutHigh, cutLow, cut63, cut33, if_true, BitVec.reduceAppend, Nat.reduceSub, BitVec.extractLsb'_eq_self, BitVec.toNat_ofNat, BitVec.reduceExtractLsb', Nat.reducePow, Nat.reduceMod, BitVec.zeroExtend_eq_setWidth, BitVec.reduceSetWidth, BitVec.reduceAdd]

theorem vsqrt (d : BitVec 7) (a : BitVec 7) : Statement (.vsqrt d a) := by
  refine statement_of rfl ((decodeRaw_major9 ?_).trans ?_) <;>
    simp (disch := omega) only [decodeMajor9, bits, cutHigh, cutLow, cut63, cut33, if_true, BitVec.reduceAppend, Nat.reduceSub, BitVec.extractLsb'_eq_self, BitVec.toNat_ofNat, BitVec.reduceExtractLsb', Nat.reducePow, Nat.reduceMod, BitVec.zeroExtend_eq_setWidth, BitVec.reduceSetWidth, BitVec.reduceAdd]
  refine zero_ok (show _ = fieldMask 0 8 from rfl) (and_fieldMask ?_) _ <;>
    simp (disch := omega) only [bits, cutHigh, cutLow, cut63, cut33, if_true, BitVec.reduceAppend, Nat.reduceSub, BitVec.extractLsb'_eq_self, BitVec.toNat_ofNat, BitVec.reduceExtractLsb', Nat.reducePow, Nat.reduceMod, BitVec.zeroExtend_eq_setWidth, BitVec.reduceSetWidth, BitVec.reduceAdd]

theorem vrsq (d : BitVec 7) (a : BitVec 7) : Statement (.vrsq d a) := by
  refine statement_of rfl ((decodeRaw_major9 ?_).trans ?_) <;>
    simp (disch := omega) only [decodeMajor9, bits, cutHigh, cutLow, cut63, cut33, if_true, BitVec.reduceAppend, Nat.reduceSub, BitVec.extractLsb'_eq_self, BitVec.toNat_ofNat, BitVec.reduceExtractLsb', Nat.reducePow, Nat.reduceMod, BitVec.zeroExtend_eq_setWidth, BitVec.reduceSetWidth, BitVec.reduceAdd]
  refine zero_ok (show _ = fieldMask 0 8 from rfl) (and_fieldMask ?_) _ <;>
    simp (disch := omega) only [bits, cutHigh, cutLow, cut63, cut33, if_true, BitVec.reduceAppend, Nat.reduceSub, BitVec.extractLsb'_eq_self, BitVec.toNat_ofNat, BitVec.reduceExtractLsb', Nat.reducePow, Nat.reduceMod, BitVec.zeroExtend_eq_setWidth, BitVec.reduceSetWidth, BitVec.reduceAdd]

theorem vrcp (d : BitVec 7) (a : BitVec 7) : Statement (.vrcp d a) := by
  refine statement_of rfl ((decodeRaw_major9 ?_).trans ?_) <;>
    simp (disch := omega) only [decodeMajor9, bits, cutHigh, cutLow, cut63, cut33, if_true, BitVec.reduceAppend, Nat.reduceSub, BitVec.extractLsb'_eq_self, BitVec.toNat_ofNat, BitVec.reduceExtractLsb', Nat.reducePow, Nat.reduceMod, BitVec.zeroExtend_eq_setWidth, BitVec.reduceSetWidth, BitVec.reduceAdd]
  refine zero_ok (show _ = fieldMask 0 8 from rfl) (and_fieldMask ?_) _ <;>
    simp (disch := omega) only [bits, cutHigh, cutLow, cut63, cut33, if_true, BitVec.reduceAppend, Nat.reduceSub, BitVec.extractLsb'_eq_self, BitVec.toNat_ofNat, BitVec.reduceExtractLsb', Nat.reducePow, Nat.reduceMod, BitVec.zeroExtend_eq_setWidth, BitVec.reduceSetWidth, BitVec.reduceAdd]

theorem vabs (d : BitVec 7) (a : BitVec 7) : Statement (.vabs d a) := by
  refine statement_of rfl ((decodeRaw_major9 ?_).trans ?_) <;>
    simp (disch := omega) only [decodeMajor9, bits, cutHigh, cutLow, cut63, cut33, if_true, BitVec.reduceAppend, Nat.reduceSub, BitVec.extractLsb'_eq_self, BitVec.toNat_ofNat, BitVec.reduceExtractLsb', Nat.reducePow, Nat.reduceMod, BitVec.zeroExtend_eq_setWidth, BitVec.reduceSetWidth, BitVec.reduceAdd]
  refine zero_ok (show _ = fieldMask 0 8 from rfl) (and_fieldMask ?_) _ <;>
    simp (disch := omega) only [bits, cutHigh, cutLow, cut63, cut33, if_true, BitVec.reduceAppend, Nat.reduceSub, BitVec.extractLsb'_eq_self, BitVec.toNat_ofNat, BitVec.reduceExtractLsb', Nat.reducePow, Nat.reduceMod, BitVec.zeroExtend_eq_setWidth, BitVec.reduceSetWidth, BitVec.reduceAdd]

theorem vneg (d : BitVec 7) (a : BitVec 7) : Statement (.vneg d a) := by
  refine statement_of rfl ((decodeRaw_major9 ?_).trans ?_) <;>
    simp (disch := omega) only [decodeMajor9, bits, cutHigh, cutLow, cut63, cut33, if_true, BitVec.reduceAppend, Nat.reduceSub, BitVec.extractLsb'_eq_self, BitVec.toNat_ofNat, BitVec.reduceExtractLsb', Nat.reducePow, Nat.reduceMod, BitVec.zeroExtend_eq_setWidth, BitVec.reduceSetWidth, BitVec.reduceAdd]
  refine zero_ok (show _ = fieldMask 0 8 from rfl) (and_fieldMask ?_) _ <;>
    simp (disch := omega) only [bits, cutHigh, cutLow, cut63, cut33, if_true, BitVec.reduceAppend, Nat.reduceSub, BitVec.extractLsb'_eq_self, BitVec.toNat_ofNat, BitVec.reduceExtractLsb', Nat.reducePow, Nat.reduceMod, BitVec.zeroExtend_eq_setWidth, BitVec.reduceSetWidth, BitVec.reduceAdd]

theorem vexp2 (d : BitVec 7) (a : BitVec 7) : Statement (.vexp2 d a) := by
  refine statement_of rfl ((decodeRaw_major9 ?_).trans ?_) <;>
    simp (disch := omega) only [decodeMajor9, bits, cutHigh, cutLow, cut63, cut33, if_true, BitVec.reduceAppend, Nat.reduceSub, BitVec.extractLsb'_eq_self, BitVec.toNat_ofNat, BitVec.reduceExtractLsb', Nat.reducePow, Nat.reduceMod, BitVec.zeroExtend_eq_setWidth, BitVec.reduceSetWidth, BitVec.reduceAdd]
  refine zero_ok (show _ = fieldMask 0 8 from rfl) (and_fieldMask ?_) _ <;>
    simp (disch := omega) only [bits, cutHigh, cutLow, cut63, cut33, if_true, BitVec.reduceAppend, Nat.reduceSub, BitVec.extractLsb'_eq_self, BitVec.toNat_ofNat, BitVec.reduceExtractLsb', Nat.reducePow, Nat.reduceMod, BitVec.zeroExtend_eq_setWidth, BitVec.reduceSetWidth, BitVec.reduceAdd]

theorem vlog2 (d : BitVec 7) (a : BitVec 7) : Statement (.vlog2 d a) := by
  refine statement_of rfl ((decodeRaw_major9 ?_).trans ?_) <;>
    simp (disch := omega) only [decodeMajor9, bits, cutHigh, cutLow, cut63, cut33, if_true, BitVec.reduceAppend, Nat.reduceSub, BitVec.extractLsb'_eq_self, BitVec.toNat_ofNat, BitVec.reduceExtractLsb', Nat.reducePow, Nat.reduceMod, BitVec.zeroExtend_eq_setWidth, BitVec.reduceSetWidth, BitVec.reduceAdd]
  refine zero_ok (show _ = fieldMask 0 8 from rfl) (and_fieldMask ?_) _ <;>
    simp (disch := omega) only [bits, cutHigh, cutLow, cut63, cut33, if_true, BitVec.reduceAppend, Nat.reduceSub, BitVec.extractLsb'_eq_self, BitVec.toNat_ofNat, BitVec.reduceExtractLsb', Nat.reducePow, Nat.reduceMod, BitVec.zeroExtend_eq_setWidth, BitVec.reduceSetWidth, BitVec.reduceAdd]

theorem vsinp (d : BitVec 7) (a : BitVec 7) : Statement (.vsinp d a) := by
  refine statement_of rfl ((decodeRaw_major9 ?_).trans ?_) <;>
    simp (disch := omega) only [decodeMajor9, bits, cutHigh, cutLow, cut63, cut33, if_true, BitVec.reduceAppend, Nat.reduceSub, BitVec.extractLsb'_eq_self, BitVec.toNat_ofNat, BitVec.reduceExtractLsb', Nat.reducePow, Nat.reduceMod, BitVec.zeroExtend_eq_setWidth, BitVec.reduceSetWidth, BitVec.reduceAdd]
  refine zero_ok (show _ = fieldMask 0 8 from rfl) (and_fieldMask ?_) _ <;>
    simp (disch := omega) only [bits, cutHigh, cutLow, cut63, cut33, if_true, BitVec.reduceAppend, Nat.reduceSub, BitVec.extractLsb'_eq_self, BitVec.toNat_ofNat, BitVec.reduceExtractLsb', Nat.reducePow, Nat.reduceMod, BitVec.zeroExtend_eq_setWidth, BitVec.reduceSetWidth, BitVec.reduceAdd]

theorem vcosp (d : BitVec 7) (a : BitVec 7) : Statement (.vcosp d a) := by
  refine statement_of rfl ((decodeRaw_major9 ?_).trans ?_) <;>
    simp (disch := omega) only [decodeMajor9, bits, cutHigh, cutLow, cut63, cut33, if_true, BitVec.reduceAppend, Nat.reduceSub, BitVec.extractLsb'_eq_self, BitVec.toNat_ofNat, BitVec.reduceExtractLsb', Nat.reducePow, Nat.reduceMod, BitVec.zeroExtend_eq_setWidth, BitVec.reduceSetWidth, BitVec.reduceAdd]
  refine zero_ok (show _ = fieldMask 0 8 from rfl) (and_fieldMask ?_) _ <;>
    simp (disch := omega) only [bits, cutHigh, cutLow, cut63, cut33, if_true, BitVec.reduceAppend, Nat.reduceSub, BitVec.extractLsb'_eq_self, BitVec.toNat_ofNat, BitVec.reduceExtractLsb', Nat.reducePow, Nat.reduceMod, BitVec.zeroExtend_eq_setWidth, BitVec.reduceSetWidth, BitVec.reduceAdd]

theorem vtanh (d : BitVec 7) (a : BitVec 7) : Statement (.vtanh d a) := by
  refine statement_of rfl ((decodeRaw_major9 ?_).trans ?_) <;>
    simp (disch := omega) only [decodeMajor9, bits, cutHigh, cutLow, cut63, cut33, if_true, BitVec.reduceAppend, Nat.reduceSub, BitVec.extractLsb'_eq_self, BitVec.toNat_ofNat, BitVec.reduceExtractLsb', Nat.reducePow, Nat.reduceMod, BitVec.zeroExtend_eq_setWidth, BitVec.reduceSetWidth, BitVec.reduceAdd]
  refine zero_ok (show _ = fieldMask 0 8 from rfl) (and_fieldMask ?_) _ <;>
    simp (disch := omega) only [bits, cutHigh, cutLow, cut63, cut33, if_true, BitVec.reduceAppend, Nat.reduceSub, BitVec.extractLsb'_eq_self, BitVec.toNat_ofNat, BitVec.reduceExtractLsb', Nat.reducePow, Nat.reduceMod, BitVec.zeroExtend_eq_setWidth, BitVec.reduceSetWidth, BitVec.reduceAdd]

theorem vrnd (d : BitVec 7) (a : BitVec 7) : Statement (.vrnd d a) := by
  refine statement_of rfl ((decodeRaw_major9 ?_).trans ?_) <;>
    simp (disch := omega) only [decodeMajor9, bits, cutHigh, cutLow, cut63, cut33, if_true, BitVec.reduceAppend, Nat.reduceSub, BitVec.extractLsb'_eq_self, BitVec.toNat_ofNat, BitVec.reduceExtractLsb', Nat.reducePow, Nat.reduceMod, BitVec.zeroExtend_eq_setWidth, BitVec.reduceSetWidth, BitVec.reduceAdd]
  refine zero_ok (show _ = fieldMask 0 8 from rfl) (and_fieldMask ?_) _ <;>
    simp (disch := omega) only [bits, cutHigh, cutLow, cut63, cut33, if_true, BitVec.reduceAppend, Nat.reduceSub, BitVec.extractLsb'_eq_self, BitVec.toNat_ofNat, BitVec.reduceExtractLsb', Nat.reducePow, Nat.reduceMod, BitVec.zeroExtend_eq_setWidth, BitVec.reduceSetWidth, BitVec.reduceAdd]

theorem vgetexp (d : BitVec 7) (a : BitVec 7) : Statement (.vgetexp d a) := by
  refine statement_of rfl ((decodeRaw_major9 ?_).trans ?_) <;>
    simp (disch := omega) only [decodeMajor9, bits, cutHigh, cutLow, cut63, cut33, if_true, BitVec.reduceAppend, Nat.reduceSub, BitVec.extractLsb'_eq_self, BitVec.toNat_ofNat, BitVec.reduceExtractLsb', Nat.reducePow, Nat.reduceMod, BitVec.zeroExtend_eq_setWidth, BitVec.reduceSetWidth, BitVec.reduceAdd]
  refine zero_ok (show _ = fieldMask 0 8 from rfl) (and_fieldMask ?_) _ <;>
    simp (disch := omega) only [bits, cutHigh, cutLow, cut63, cut33, if_true, BitVec.reduceAppend, Nat.reduceSub, BitVec.extractLsb'_eq_self, BitVec.toNat_ofNat, BitVec.reduceExtractLsb', Nat.reducePow, Nat.reduceMod, BitVec.zeroExtend_eq_setWidth, BitVec.reduceSetWidth, BitVec.reduceAdd]

theorem vgetman (d : BitVec 7) (a : BitVec 7) : Statement (.vgetman d a) := by
  refine statement_of rfl ((decodeRaw_major9 ?_).trans ?_) <;>
    simp (disch := omega) only [decodeMajor9, bits, cutHigh, cutLow, cut63, cut33, if_true, BitVec.reduceAppend, Nat.reduceSub, BitVec.extractLsb'_eq_self, BitVec.toNat_ofNat, BitVec.reduceExtractLsb', Nat.reducePow, Nat.reduceMod, BitVec.zeroExtend_eq_setWidth, BitVec.reduceSetWidth, BitVec.reduceAdd]
  refine zero_ok (show _ = fieldMask 0 8 from rfl) (and_fieldMask ?_) _ <;>
    simp (disch := omega) only [bits, cutHigh, cutLow, cut63, cut33, if_true, BitVec.reduceAppend, Nat.reduceSub, BitVec.extractLsb'_eq_self, BitVec.toNat_ofNat, BitVec.reduceExtractLsb', Nat.reducePow, Nat.reduceMod, BitVec.zeroExtend_eq_setWidth, BitVec.reduceSetWidth, BitVec.reduceAdd]

theorem vcvt (d : BitVec 7) (a : BitVec 7) (y : BitVec 4) (x : BitVec 4) : Statement (.vcvt d a y x) := by
  refine statement_if rfl (fun hc => (decodeRaw_major9 ?_).trans ?_)
  · simp (disch := omega) only [bits, cutHigh, cutLow, Nat.reduceSub, BitVec.extractLsb'_eq_self, BitVec.toNat_ofNat, BitVec.reduceExtractLsb', Nat.reducePow, Nat.reduceMod]
  have ho : ¬ y = x := by simpa [Instr.codeUnassigned] using hc
  simp (disch := omega) only [decodeMajor9, bits, cutHigh, cutLow, Nat.reduceSub, BitVec.extractLsb'_eq_self, BitVec.toNat_ofNat, BitVec.reduceExtractLsb', Nat.reducePow, Nat.reduceMod, ho, if_false]

theorem vmov (d : BitVec 7) (a : BitVec 7) : Statement (.vmov d a) := by
  refine statement_of rfl ((decodeRaw_major9 ?_).trans ?_) <;>
    simp (disch := omega) only [decodeMajor9, bits, cutHigh, cutLow, cut63, cut33, if_true, BitVec.reduceAppend, Nat.reduceSub, BitVec.extractLsb'_eq_self, BitVec.toNat_ofNat, BitVec.reduceExtractLsb', Nat.reducePow, Nat.reduceMod, BitVec.zeroExtend_eq_setWidth, BitVec.reduceSetWidth, BitVec.reduceAdd]
  refine zero_ok (show _ = fieldMask 1 7 from rfl) (and_fieldMask ?_) _ <;>
    simp (disch := omega) only [bits, cutHigh, cutLow, cut63, cut33, if_true, BitVec.reduceAppend, Nat.reduceSub, BitVec.extractLsb'_eq_self, BitVec.toNat_ofNat, BitVec.reduceExtractLsb', Nat.reducePow, Nat.reduceMod, BitVec.zeroExtend_eq_setWidth, BitVec.reduceSetWidth, BitVec.reduceAdd]

theorem vmovLane (d : BitVec 7) : Statement (.vmovLane d) := by
  refine statement_of rfl ((decodeRaw_major9 ?_).trans ?_) <;>
    simp (disch := omega) only [decodeMajor9, bits, cutHigh, cutLow, cut63, cut33, if_true, BitVec.reduceAppend, Nat.reduceSub, BitVec.extractLsb'_eq_self, BitVec.toNat_ofNat, BitVec.reduceExtractLsb', Nat.reducePow, Nat.reduceMod, BitVec.zeroExtend_eq_setWidth, BitVec.reduceSetWidth, BitVec.reduceAdd]
  refine zero_ok (show _ = fieldMask 1 7 ||| fieldMask 13 7 from rfl) (and_or (and_fieldMask ?_) (and_fieldMask ?_)) _ <;>
    simp (disch := omega) only [bits, cutHigh, cutLow, cut63, cut33, if_true, BitVec.reduceAppend, Nat.reduceSub, BitVec.extractLsb'_eq_self, BitVec.toNat_ofNat, BitVec.reduceExtractLsb', Nat.reducePow, Nat.reduceMod, BitVec.zeroExtend_eq_setWidth, BitVec.reduceSetWidth, BitVec.reduceAdd]

theorem vmovs (d : BitVec 7) (s : BitVec 6) : Statement (.vmovs d s) := by
  refine statement_of rfl ((decodeRaw_major9 ?_).trans ?_) <;>
    simp (disch := omega) only [decodeMajor9, bits, cutHigh, cutLow, cut63, cut33, if_true, BitVec.reduceAppend, Nat.reduceSub, BitVec.extractLsb'_eq_self, BitVec.toNat_ofNat, BitVec.reduceExtractLsb', Nat.reducePow, Nat.reduceMod, BitVec.zeroExtend_eq_setWidth, BitVec.reduceSetWidth, BitVec.reduceAdd]
  refine zero_ok (show _ = fieldMask 0 8 ||| fieldMask 19 1 from rfl) (and_or (and_fieldMask ?_) (and_fieldMask ?_)) _ <;>
    simp (disch := omega) only [bits, cutHigh, cutLow, cut63, cut33, if_true, BitVec.reduceAppend, Nat.reduceSub, BitVec.extractLsb'_eq_self, BitVec.toNat_ofNat, BitVec.reduceExtractLsb', Nat.reducePow, Nat.reduceMod, BitVec.zeroExtend_eq_setWidth, BitVec.reduceSetWidth, BitVec.reduceAdd]

theorem vshfl (d : BitVec 7) (a : BitVec 7) (b : BitVec 7) : Statement (.vshfl d a b) := by
  refine statement_of rfl ((decodeRaw_major10 ?_).trans ?_) <;>
    simp (disch := omega) only [decodeMajor10, bits, cutHigh, cutLow, cut63, cut33, if_true, BitVec.reduceAppend, Nat.reduceSub, BitVec.extractLsb'_eq_self, BitVec.toNat_ofNat, BitVec.reduceExtractLsb', Nat.reducePow, Nat.reduceMod, BitVec.zeroExtend_eq_setWidth, BitVec.reduceSetWidth, BitVec.reduceAdd]
  refine zero_ok (show _ = fieldMask 7 1 from rfl) (and_fieldMask ?_) _ <;>
    simp (disch := omega) only [bits, cutHigh, cutLow, cut63, cut33, if_true, BitVec.reduceAppend, Nat.reduceSub, BitVec.extractLsb'_eq_self, BitVec.toNat_ofNat, BitVec.reduceExtractLsb', Nat.reducePow, Nat.reduceMod, BitVec.zeroExtend_eq_setWidth, BitVec.reduceSetWidth, BitVec.reduceAdd]

theorem vrotw (d : BitVec 7) (a : BitVec 7) (g : BitVec 3) (n : BitVec 5) : Statement (.vrotw d a g n) := by
  refine statement_of rfl ((decodeRaw_major10 ?_).trans ?_) <;>
    simp (disch := omega) only [decodeMajor10, bits, cutHigh, cutLow, cut63, cut33, if_true, BitVec.reduceAppend, Nat.reduceSub, BitVec.extractLsb'_eq_self, BitVec.toNat_ofNat, BitVec.reduceExtractLsb', Nat.reducePow, Nat.reduceMod, BitVec.zeroExtend_eq_setWidth, BitVec.reduceSetWidth, BitVec.reduceAdd]

theorem vxorw (d : BitVec 7) (a : BitVec 7) (m : BitVec 5) : Statement (.vxorw d a m) := by
  refine statement_of rfl ((decodeRaw_major10 ?_).trans ?_) <;>
    simp (disch := omega) only [decodeMajor10, bits, cutHigh, cutLow, cut63, cut33, if_true, BitVec.reduceAppend, Nat.reduceSub, BitVec.extractLsb'_eq_self, BitVec.toNat_ofNat, BitVec.reduceExtractLsb', Nat.reducePow, Nat.reduceMod, BitVec.zeroExtend_eq_setWidth, BitVec.reduceSetWidth, BitVec.reduceAdd]
  refine zero_ok (show _ = fieldMask 5 3 from rfl) (and_fieldMask ?_) _ <;>
    simp (disch := omega) only [bits, cutHigh, cutLow, cut63, cut33, if_true, BitVec.reduceAppend, Nat.reduceSub, BitVec.extractLsb'_eq_self, BitVec.toNat_ofNat, BitVec.reduceExtractLsb', Nat.reducePow, Nat.reduceMod, BitVec.zeroExtend_eq_setWidth, BitVec.reduceSetWidth, BitVec.reduceAdd]

theorem vbcst (d : BitVec 7) (a : BitVec 7) (j : BitVec 5) : Statement (.vbcst d a j) := by
  refine statement_of rfl ((decodeRaw_major10 ?_).trans ?_) <;>
    simp (disch := omega) only [decodeMajor10, bits, cutHigh, cutLow, cut63, cut33, if_true, BitVec.reduceAppend, Nat.reduceSub, BitVec.extractLsb'_eq_self, BitVec.toNat_ofNat, BitVec.reduceExtractLsb', Nat.reducePow, Nat.reduceMod, BitVec.zeroExtend_eq_setWidth, BitVec.reduceSetWidth, BitVec.reduceAdd]
  refine zero_ok (show _ = fieldMask 5 2 from rfl) (and_fieldMask ?_) _ <;>
    simp (disch := omega) only [bits, cutHigh, cutLow, cut63, cut33, if_true, BitVec.reduceAppend, Nat.reduceSub, BitVec.extractLsb'_eq_self, BitVec.toNat_ofNat, BitVec.reduceExtractLsb', Nat.reducePow, Nat.reduceMod, BitVec.zeroExtend_eq_setWidth, BitVec.reduceSetWidth, BitVec.reduceAdd]

theorem vbcstFirst (d : BitVec 7) (a : BitVec 7) : Statement (.vbcstFirst d a) := by
  refine statement_of rfl ((decodeRaw_major10 ?_).trans ?_) <;>
    simp (disch := omega) only [decodeMajor10, bits, cutHigh, cutLow, cut63, cut33, if_true, BitVec.reduceAppend, Nat.reduceSub, BitVec.extractLsb'_eq_self, BitVec.toNat_ofNat, BitVec.reduceExtractLsb', Nat.reducePow, Nat.reduceMod, BitVec.zeroExtend_eq_setWidth, BitVec.reduceSetWidth, BitVec.reduceAdd]
  refine zero_ok (show _ = fieldMask 0 7 from rfl) (and_fieldMask ?_) _ <;>
    simp (disch := omega) only [bits, cutHigh, cutLow, cut63, cut33, if_true, BitVec.reduceAppend, Nat.reduceSub, BitVec.extractLsb'_eq_self, BitVec.toNat_ofNat, BitVec.reduceExtractLsb', Nat.reducePow, Nat.reduceMod, BitVec.zeroExtend_eq_setWidth, BitVec.reduceSetWidth, BitVec.reduceAdd]

theorem vrstep (d : BitVec 7) (a : BitVec 7) (o : BitVec 4) (s : BitVec 3) : Statement (.vrstep d a o s) := by
  refine statement_if rfl (fun hc => (decodeRaw_major10 ?_).trans ?_)
  · simp (disch := omega) only [bits, cutHigh, cutLow, Nat.reduceSub, BitVec.extractLsb'_eq_self, BitVec.toNat_ofNat, BitVec.reduceExtractLsb', Nat.reducePow, Nat.reduceMod]
  have ho : ¬ 12#4 ≤ o := by simp [Instr.codeUnassigned] at hc; rw [BitVec.le_def]; simp; omega
  simp (disch := omega) only [decodeMajor10, bits, cutHigh, cutLow, Nat.reduceSub, BitVec.extractLsb'_eq_self, BitVec.toNat_ofNat, BitVec.reduceExtractLsb', Nat.reducePow, Nat.reduceMod, ho, if_false]
  refine zero_ok (show _ = fieldMask 3 1 from rfl) (and_fieldMask ?_) _ <;>
    simp (disch := omega) only [bits, cutHigh, cutLow, Nat.reduceSub, BitVec.extractLsb'_eq_self, BitVec.toNat_ofNat, BitVec.reduceExtractLsb', Nat.reducePow, Nat.reduceMod]

theorem vred (e : BitVec 6) (a : BitVec 7) (o : BitVec 4) : Statement (.vred e a o) := by
  refine statement_if rfl (fun hc => (decodeRaw_major10 ?_).trans ?_)
  · simp (disch := omega) only [bits, cutHigh, cutLow, Nat.reduceSub, BitVec.extractLsb'_eq_self, BitVec.toNat_ofNat, BitVec.reduceExtractLsb', Nat.reducePow, Nat.reduceMod]
  have ho : ¬ 12#4 ≤ o := by simp [Instr.codeUnassigned] at hc; rw [BitVec.le_def]; simp; omega
  simp (disch := omega) only [decodeMajor10, bits, cutHigh, cutLow, Nat.reduceSub, BitVec.extractLsb'_eq_self, BitVec.toNat_ofNat, BitVec.reduceExtractLsb', Nat.reducePow, Nat.reduceMod, ho, if_false]
  refine zero_ok (show _ = fieldMask 0 4 ||| fieldMask 26 1 from rfl) (and_or (and_fieldMask ?_) (and_fieldMask ?_)) _ <;>
    simp (disch := omega) only [bits, cutHigh, cutLow, Nat.reduceSub, BitVec.extractLsb'_eq_self, BitVec.toNat_ofNat, BitVec.reduceExtractLsb', Nat.reducePow, Nat.reduceMod]

theorem vscan (d : BitVec 7) (a : BitVec 7) (o : BitVec 4) (x : BitVec 1) : Statement (.vscan d a o x) := by
  refine statement_if rfl (fun hc => (decodeRaw_major10 ?_).trans ?_)
  · simp (disch := omega) only [bits, cutHigh, cutLow, Nat.reduceSub, BitVec.extractLsb'_eq_self, BitVec.toNat_ofNat, BitVec.reduceExtractLsb', Nat.reducePow, Nat.reduceMod]
  have ho : ¬ 12#4 ≤ o := by simp [Instr.codeUnassigned] at hc; rw [BitVec.le_def]; simp; omega
  simp (disch := omega) only [decodeMajor10, bits, cutHigh, cutLow, Nat.reduceSub, BitVec.extractLsb'_eq_self, BitVec.toNat_ofNat, BitVec.reduceExtractLsb', Nat.reducePow, Nat.reduceMod, ho, if_false]
  refine zero_ok (show _ = fieldMask 0 3 from rfl) (and_fieldMask ?_) _ <;>
    simp (disch := omega) only [bits, cutHigh, cutLow, Nat.reduceSub, BitVec.extractLsb'_eq_self, BitVec.toNat_ofNat, BitVec.reduceExtractLsb', Nat.reducePow, Nat.reduceMod]

theorem vmatch (d : BitVec 7) (a : BitVec 7) (k : BitVec 2) : Statement (.vmatch d a k) := by
  refine statement_of rfl ((decodeRaw_major10 ?_).trans ?_) <;>
    simp (disch := omega) only [decodeMajor10, bits, cutHigh, cutLow, cut63, cut33, if_true, BitVec.reduceAppend, Nat.reduceSub, BitVec.extractLsb'_eq_self, BitVec.toNat_ofNat, BitVec.reduceExtractLsb', Nat.reducePow, Nat.reduceMod, BitVec.zeroExtend_eq_setWidth, BitVec.reduceSetWidth, BitVec.reduceAdd]
  refine zero_ok (show _ = fieldMask 0 6 from rfl) (and_fieldMask ?_) _ <;>
    simp (disch := omega) only [bits, cutHigh, cutLow, cut63, cut33, if_true, BitVec.reduceAppend, Nat.reduceSub, BitVec.extractLsb'_eq_self, BitVec.toNat_ofNat, BitVec.reduceExtractLsb', Nat.reducePow, Nat.reduceMod, BitVec.zeroExtend_eq_setWidth, BitVec.reduceSetWidth, BitVec.reduceAdd]

theorem vball (e : BitVec 6) (p : BitVec 3) : Statement (.vball e p) := by
  refine statement_of rfl ((decodeRaw_major10 ?_).trans ?_) <;>
    simp (disch := omega) only [decodeMajor10, bits, cutHigh, cutLow, cut63, cut33, if_true, BitVec.reduceAppend, Nat.reduceSub, BitVec.extractLsb'_eq_self, BitVec.toNat_ofNat, BitVec.reduceExtractLsb', Nat.reducePow, Nat.reduceMod, BitVec.zeroExtend_eq_setWidth, BitVec.reduceSetWidth, BitVec.reduceAdd]
  refine zero_ok (show _ = fieldMask 0 8 ||| fieldMask 16 4 ||| fieldMask 26 1 from rfl) (and_or (and_or (and_fieldMask ?_) (and_fieldMask ?_)) (and_fieldMask ?_)) _ <;>
    simp (disch := omega) only [bits, cutHigh, cutLow, cut63, cut33, if_true, BitVec.reduceAppend, Nat.reduceSub, BitVec.extractLsb'_eq_self, BitVec.toNat_ofNat, BitVec.reduceExtractLsb', Nat.reducePow, Nat.reduceMod, BitVec.zeroExtend_eq_setWidth, BitVec.reduceSetWidth, BitVec.reduceAdd]

theorem vcomp (d : BitVec 7) (a : BitVec 7) (p : BitVec 3) : Statement (.vcomp d a p) := by
  refine statement_of rfl ((decodeRaw_major10 ?_).trans ?_) <;>
    simp (disch := omega) only [decodeMajor10, bits, cutHigh, cutLow, cut63, cut33, if_true, BitVec.reduceAppend, Nat.reduceSub, BitVec.extractLsb'_eq_self, BitVec.toNat_ofNat, BitVec.reduceExtractLsb', Nat.reducePow, Nat.reduceMod, BitVec.zeroExtend_eq_setWidth, BitVec.reduceSetWidth, BitVec.reduceAdd]
  refine zero_ok (show _ = fieldMask 3 5 from rfl) (and_fieldMask ?_) _ <;>
    simp (disch := omega) only [bits, cutHigh, cutLow, cut63, cut33, if_true, BitVec.reduceAppend, Nat.reduceSub, BitVec.extractLsb'_eq_self, BitVec.toNat_ofNat, BitVec.reduceExtractLsb', Nat.reducePow, Nat.reduceMod, BitVec.zeroExtend_eq_setWidth, BitVec.reduceSetWidth, BitVec.reduceAdd]

theorem pand (d : BitVec 3) (a : BitVec 3) (b : BitVec 3) : Statement (.pand d a b) := by
  refine statement_of rfl ((decodeRaw_major11 ?_).trans ?_) <;>
    simp (disch := omega) only [decodeMajor11, bits, cutHigh, cutLow, cut63, cut33, if_true, BitVec.reduceAppend, Nat.reduceSub, BitVec.extractLsb'_eq_self, BitVec.toNat_ofNat, BitVec.reduceExtractLsb', Nat.reducePow, Nat.reduceMod, BitVec.zeroExtend_eq_setWidth, BitVec.reduceSetWidth, BitVec.reduceAdd]
  refine zero_ok (show _ = fieldMask 9 4 ||| fieldMask 16 4 ||| fieldMask 23 4 from rfl) (and_or (and_or (and_fieldMask ?_) (and_fieldMask ?_)) (and_fieldMask ?_)) _ <;>
    simp (disch := omega) only [bits, cutHigh, cutLow, cut63, cut33, if_true, BitVec.reduceAppend, Nat.reduceSub, BitVec.extractLsb'_eq_self, BitVec.toNat_ofNat, BitVec.reduceExtractLsb', Nat.reducePow, Nat.reduceMod, BitVec.zeroExtend_eq_setWidth, BitVec.reduceSetWidth, BitVec.reduceAdd]

theorem por (d : BitVec 3) (a : BitVec 3) (b : BitVec 3) : Statement (.por d a b) := by
  refine statement_of rfl ((decodeRaw_major11 ?_).trans ?_) <;>
    simp (disch := omega) only [decodeMajor11, bits, cutHigh, cutLow, cut63, cut33, if_true, BitVec.reduceAppend, Nat.reduceSub, BitVec.extractLsb'_eq_self, BitVec.toNat_ofNat, BitVec.reduceExtractLsb', Nat.reducePow, Nat.reduceMod, BitVec.zeroExtend_eq_setWidth, BitVec.reduceSetWidth, BitVec.reduceAdd]
  refine zero_ok (show _ = fieldMask 9 4 ||| fieldMask 16 4 ||| fieldMask 23 4 from rfl) (and_or (and_or (and_fieldMask ?_) (and_fieldMask ?_)) (and_fieldMask ?_)) _ <;>
    simp (disch := omega) only [bits, cutHigh, cutLow, cut63, cut33, if_true, BitVec.reduceAppend, Nat.reduceSub, BitVec.extractLsb'_eq_self, BitVec.toNat_ofNat, BitVec.reduceExtractLsb', Nat.reducePow, Nat.reduceMod, BitVec.zeroExtend_eq_setWidth, BitVec.reduceSetWidth, BitVec.reduceAdd]

theorem pxor (d : BitVec 3) (a : BitVec 3) (b : BitVec 3) : Statement (.pxor d a b) := by
  refine statement_of rfl ((decodeRaw_major11 ?_).trans ?_) <;>
    simp (disch := omega) only [decodeMajor11, bits, cutHigh, cutLow, cut63, cut33, if_true, BitVec.reduceAppend, Nat.reduceSub, BitVec.extractLsb'_eq_self, BitVec.toNat_ofNat, BitVec.reduceExtractLsb', Nat.reducePow, Nat.reduceMod, BitVec.zeroExtend_eq_setWidth, BitVec.reduceSetWidth, BitVec.reduceAdd]
  refine zero_ok (show _ = fieldMask 9 4 ||| fieldMask 16 4 ||| fieldMask 23 4 from rfl) (and_or (and_or (and_fieldMask ?_) (and_fieldMask ?_)) (and_fieldMask ?_)) _ <;>
    simp (disch := omega) only [bits, cutHigh, cutLow, cut63, cut33, if_true, BitVec.reduceAppend, Nat.reduceSub, BitVec.extractLsb'_eq_self, BitVec.toNat_ofNat, BitVec.reduceExtractLsb', Nat.reducePow, Nat.reduceMod, BitVec.zeroExtend_eq_setWidth, BitVec.reduceSetWidth, BitVec.reduceAdd]

theorem pnot (d : BitVec 3) (a : BitVec 3) : Statement (.pnot d a) := by
  refine statement_of rfl ((decodeRaw_major11 ?_).trans ?_) <;>
    simp (disch := omega) only [decodeMajor11, bits, cutHigh, cutLow, cut63, cut33, if_true, BitVec.reduceAppend, Nat.reduceSub, BitVec.extractLsb'_eq_self, BitVec.toNat_ofNat, BitVec.reduceExtractLsb', Nat.reducePow, Nat.reduceMod, BitVec.zeroExtend_eq_setWidth, BitVec.reduceSetWidth, BitVec.reduceAdd]
  refine zero_ok (show _ = fieldMask 6 7 ||| fieldMask 16 4 ||| fieldMask 23 4 from rfl) (and_or (and_or (and_fieldMask ?_) (and_fieldMask ?_)) (and_fieldMask ?_)) _ <;>
    simp (disch := omega) only [bits, cutHigh, cutLow, cut63, cut33, if_true, BitVec.reduceAppend, Nat.reduceSub, BitVec.extractLsb'_eq_self, BitVec.toNat_ofNat, BitVec.reduceExtractLsb', Nat.reducePow, Nat.reduceMod, BitVec.zeroExtend_eq_setWidth, BitVec.reduceSetWidth, BitVec.reduceAdd]

theorem pmov (d : BitVec 3) (a : BitVec 3) : Statement (.pmov d a) := by
  refine statement_of rfl ((decodeRaw_major11 ?_).trans ?_) <;>
    simp (disch := omega) only [decodeMajor11, bits, cutHigh, cutLow, cut63, cut33, if_true, BitVec.reduceAppend, Nat.reduceSub, BitVec.extractLsb'_eq_self, BitVec.toNat_ofNat, BitVec.reduceExtractLsb', Nat.reducePow, Nat.reduceMod, BitVec.zeroExtend_eq_setWidth, BitVec.reduceSetWidth, BitVec.reduceAdd]
  refine zero_ok (show _ = fieldMask 6 7 ||| fieldMask 16 4 ||| fieldMask 23 4 from rfl) (and_or (and_or (and_fieldMask ?_) (and_fieldMask ?_)) (and_fieldMask ?_)) _ <;>
    simp (disch := omega) only [bits, cutHigh, cutLow, cut63, cut33, if_true, BitVec.reduceAppend, Nat.reduceSub, BitVec.extractLsb'_eq_self, BitVec.toNat_ofNat, BitVec.reduceExtractLsb', Nat.reducePow, Nat.reduceMod, BitVec.zeroExtend_eq_setWidth, BitVec.reduceSetWidth, BitVec.reduceAdd]

theorem pset (d : BitVec 3) (s : BitVec 6) : Statement (.pset d s) := by
  refine statement_of rfl ((decodeRaw_major11 ?_).trans ?_) <;>
    simp (disch := omega) only [decodeMajor11, bits, cutHigh, cutLow, cut63, cut33, if_true, BitVec.reduceAppend, Nat.reduceSub, BitVec.extractLsb'_eq_self, BitVec.toNat_ofNat, BitVec.reduceExtractLsb', Nat.reducePow, Nat.reduceMod, BitVec.zeroExtend_eq_setWidth, BitVec.reduceSetWidth, BitVec.reduceAdd]
  refine zero_ok (show _ = fieldMask 6 7 ||| fieldMask 19 1 ||| fieldMask 23 4 from rfl) (and_or (and_or (and_fieldMask ?_) (and_fieldMask ?_)) (and_fieldMask ?_)) _ <;>
    simp (disch := omega) only [bits, cutHigh, cutLow, cut63, cut33, if_true, BitVec.reduceAppend, Nat.reduceSub, BitVec.extractLsb'_eq_self, BitVec.toNat_ofNat, BitVec.reduceExtractLsb', Nat.reducePow, Nat.reduceMod, BitVec.zeroExtend_eq_setWidth, BitVec.reduceSetWidth, BitVec.reduceAdd]

theorem ppop (s : BitVec 6) (p : BitVec 3) : Statement (.ppop s p) := by
  refine statement_of rfl ((decodeRaw_major11 ?_).trans ?_) <;>
    simp (disch := omega) only [decodeMajor11, bits, cutHigh, cutLow, cut63, cut33, if_true, BitVec.reduceAppend, Nat.reduceSub, BitVec.extractLsb'_eq_self, BitVec.toNat_ofNat, BitVec.reduceExtractLsb', Nat.reducePow, Nat.reduceMod, BitVec.zeroExtend_eq_setWidth, BitVec.reduceSetWidth, BitVec.reduceAdd]
  refine zero_ok (show _ = fieldMask 6 7 ||| fieldMask 16 4 ||| fieldMask 26 1 from rfl) (and_or (and_or (and_fieldMask ?_) (and_fieldMask ?_)) (and_fieldMask ?_)) _ <;>
    simp (disch := omega) only [bits, cutHigh, cutLow, cut63, cut33, if_true, BitVec.reduceAppend, Nat.reduceSub, BitVec.extractLsb'_eq_self, BitVec.toNat_ofNat, BitVec.reduceExtractLsb', Nat.reducePow, Nat.reduceMod, BitVec.zeroExtend_eq_setWidth, BitVec.reduceSetWidth, BitVec.reduceAdd]

theorem exrd (s : BitVec 6) : Statement (.exrd s) := by
  refine statement_of rfl ((decodeRaw_major11 ?_).trans ?_) <;>
    simp (disch := omega) only [decodeMajor11, bits, cutHigh, cutLow, cut63, cut33, if_true, BitVec.reduceAppend, Nat.reduceSub, BitVec.extractLsb'_eq_self, BitVec.toNat_ofNat, BitVec.reduceExtractLsb', Nat.reducePow, Nat.reduceMod, BitVec.zeroExtend_eq_setWidth, BitVec.reduceSetWidth, BitVec.reduceAdd]
  refine zero_ok (show _ = fieldMask 6 14 ||| fieldMask 26 1 from rfl) (and_or (and_fieldMask ?_) (and_fieldMask ?_)) _ <;>
    simp (disch := omega) only [bits, cutHigh, cutLow, cut63, cut33, if_true, BitVec.reduceAppend, Nat.reduceSub, BitVec.extractLsb'_eq_self, BitVec.toNat_ofNat, BitVec.reduceExtractLsb', Nat.reducePow, Nat.reduceMod, BitVec.zeroExtend_eq_setWidth, BitVec.reduceSetWidth, BitVec.reduceAdd]

theorem exwr (p : BitVec 3) : Statement (.exwr p) := by
  refine statement_of rfl ((decodeRaw_major11 ?_).trans ?_) <;>
    simp (disch := omega) only [decodeMajor11, bits, cutHigh, cutLow, cut63, cut33, if_true, BitVec.reduceAppend, Nat.reduceSub, BitVec.extractLsb'_eq_self, BitVec.toNat_ofNat, BitVec.reduceExtractLsb', Nat.reducePow, Nat.reduceMod, BitVec.zeroExtend_eq_setWidth, BitVec.reduceSetWidth, BitVec.reduceAdd]
  refine zero_ok (show _ = fieldMask 6 7 ||| fieldMask 16 11 from rfl) (and_or (and_fieldMask ?_) (and_fieldMask ?_)) _ <;>
    simp (disch := omega) only [bits, cutHigh, cutLow, cut63, cut33, if_true, BitVec.reduceAppend, Nat.reduceSub, BitVec.extractLsb'_eq_self, BitVec.toNat_ofNat, BitVec.reduceExtractLsb', Nat.reducePow, Nat.reduceMod, BitVec.zeroExtend_eq_setWidth, BitVec.reduceSetWidth, BitVec.reduceAdd]

theorem ld (d : BitVec 7) (s : BitVec 6) (v : BitVec 7) (w : BitVec 3) (x : BitVec 4) : Statement (.ld d s v w x) := by
  refine statement_of rfl ((decodeRaw_major12 ?_).trans ?_) <;>
    simp (disch := omega) only [decodeMajor12, bits, cutHigh, cutLow, cut63, cut33, if_true, BitVec.reduceAppend, Nat.reduceSub, BitVec.extractLsb'_eq_self, BitVec.toNat_ofNat, BitVec.reduceExtractLsb', Nat.reducePow, Nat.reduceMod, BitVec.zeroExtend_eq_setWidth, BitVec.reduceSetWidth, BitVec.reduceAdd]

theorem st (d : BitVec 7) (s : BitVec 6) (v : BitVec 7) (w : BitVec 3) (x : BitVec 4) : Statement (.st d s v w x) := by
  refine statement_of rfl ((decodeRaw_major13 ?_).trans ?_) <;>
    simp (disch := omega) only [decodeMajor13, bits, cutHigh, cutLow, cut63, cut33, if_true, BitVec.reduceAppend, Nat.reduceSub, BitVec.extractLsb'_eq_self, BitVec.toNat_ofNat, BitVec.reduceExtractLsb', Nat.reducePow, Nat.reduceMod, BitVec.zeroExtend_eq_setWidth, BitVec.reduceSetWidth, BitVec.reduceAdd]

theorem scopedLd (d : BitVec 7) (s : BitVec 6) (v : BitVec 7) (c : BitVec 3) : Statement (.scopedLd d s v c) := by
  refine statement_of rfl ((decodeRaw_major14 ?_).trans ?_) <;>
    simp (disch := omega) only [decodeMajor14, bits, cutHigh, cutLow, cut63, cut33, if_true, BitVec.reduceAppend, Nat.reduceSub, BitVec.extractLsb'_eq_self, BitVec.toNat_ofNat, BitVec.reduceExtractLsb', Nat.reducePow, Nat.reduceMod, BitVec.zeroExtend_eq_setWidth, BitVec.reduceSetWidth, BitVec.reduceAdd]

theorem scopedSt (d : BitVec 7) (s : BitVec 6) (v : BitVec 7) (c : BitVec 3) : Statement (.scopedSt d s v c) := by
  refine statement_of rfl ((decodeRaw_major14 ?_).trans ?_) <;>
    simp (disch := omega) only [decodeMajor14, bits, cutHigh, cutLow, cut63, cut33, if_true, BitVec.reduceAppend, Nat.reduceSub, BitVec.extractLsb'_eq_self, BitVec.toNat_ofNat, BitVec.reduceExtractLsb', Nat.reducePow, Nat.reduceMod, BitVec.zeroExtend_eq_setWidth, BitVec.reduceSetWidth, BitVec.reduceAdd]

theorem cas (d : BitVec 7) (s : BitVec 6) (v : BitVec 7) (c : BitVec 3) : Statement (.cas d s v c) := by
  refine statement_of rfl ((decodeRaw_major14 ?_).trans ?_) <;>
    simp (disch := omega) only [decodeMajor14, bits, cutHigh, cutLow, cut63, cut33, if_true, BitVec.reduceAppend, Nat.reduceSub, BitVec.extractLsb'_eq_self, BitVec.toNat_ofNat, BitVec.reduceExtractLsb', Nat.reducePow, Nat.reduceMod, BitVec.zeroExtend_eq_setWidth, BitVec.reduceSetWidth, BitVec.reduceAdd]

theorem atomAdd (d : BitVec 7) (s : BitVec 6) (v : BitVec 7) (c : BitVec 3) : Statement (.atomAdd d s v c) := by
  refine statement_of rfl ((decodeRaw_major14 ?_).trans ?_) <;>
    simp (disch := omega) only [decodeMajor14, bits, cutHigh, cutLow, cut63, cut33, if_true, BitVec.reduceAppend, Nat.reduceSub, BitVec.extractLsb'_eq_self, BitVec.toNat_ofNat, BitVec.reduceExtractLsb', Nat.reducePow, Nat.reduceMod, BitVec.zeroExtend_eq_setWidth, BitVec.reduceSetWidth, BitVec.reduceAdd]

theorem atomAnd (d : BitVec 7) (s : BitVec 6) (v : BitVec 7) (c : BitVec 3) : Statement (.atomAnd d s v c) := by
  refine statement_of rfl ((decodeRaw_major14 ?_).trans ?_) <;>
    simp (disch := omega) only [decodeMajor14, bits, cutHigh, cutLow, cut63, cut33, if_true, BitVec.reduceAppend, Nat.reduceSub, BitVec.extractLsb'_eq_self, BitVec.toNat_ofNat, BitVec.reduceExtractLsb', Nat.reducePow, Nat.reduceMod, BitVec.zeroExtend_eq_setWidth, BitVec.reduceSetWidth, BitVec.reduceAdd]

theorem atomOr (d : BitVec 7) (s : BitVec 6) (v : BitVec 7) (c : BitVec 3) : Statement (.atomOr d s v c) := by
  refine statement_of rfl ((decodeRaw_major14 ?_).trans ?_) <;>
    simp (disch := omega) only [decodeMajor14, bits, cutHigh, cutLow, cut63, cut33, if_true, BitVec.reduceAppend, Nat.reduceSub, BitVec.extractLsb'_eq_self, BitVec.toNat_ofNat, BitVec.reduceExtractLsb', Nat.reducePow, Nat.reduceMod, BitVec.zeroExtend_eq_setWidth, BitVec.reduceSetWidth, BitVec.reduceAdd]

theorem atomXor (d : BitVec 7) (s : BitVec 6) (v : BitVec 7) (c : BitVec 3) : Statement (.atomXor d s v c) := by
  refine statement_of rfl ((decodeRaw_major14 ?_).trans ?_) <;>
    simp (disch := omega) only [decodeMajor14, bits, cutHigh, cutLow, cut63, cut33, if_true, BitVec.reduceAppend, Nat.reduceSub, BitVec.extractLsb'_eq_self, BitVec.toNat_ofNat, BitVec.reduceExtractLsb', Nat.reducePow, Nat.reduceMod, BitVec.zeroExtend_eq_setWidth, BitVec.reduceSetWidth, BitVec.reduceAdd]

theorem atomMin (d : BitVec 7) (s : BitVec 6) (v : BitVec 7) (c : BitVec 3) : Statement (.atomMin d s v c) := by
  refine statement_of rfl ((decodeRaw_major14 ?_).trans ?_) <;>
    simp (disch := omega) only [decodeMajor14, bits, cutHigh, cutLow, cut63, cut33, if_true, BitVec.reduceAppend, Nat.reduceSub, BitVec.extractLsb'_eq_self, BitVec.toNat_ofNat, BitVec.reduceExtractLsb', Nat.reducePow, Nat.reduceMod, BitVec.zeroExtend_eq_setWidth, BitVec.reduceSetWidth, BitVec.reduceAdd]

theorem atomMax (d : BitVec 7) (s : BitVec 6) (v : BitVec 7) (c : BitVec 3) : Statement (.atomMax d s v c) := by
  refine statement_of rfl ((decodeRaw_major14 ?_).trans ?_) <;>
    simp (disch := omega) only [decodeMajor14, bits, cutHigh, cutLow, cut63, cut33, if_true, BitVec.reduceAppend, Nat.reduceSub, BitVec.extractLsb'_eq_self, BitVec.toNat_ofNat, BitVec.reduceExtractLsb', Nat.reducePow, Nat.reduceMod, BitVec.zeroExtend_eq_setWidth, BitVec.reduceSetWidth, BitVec.reduceAdd]

theorem atomMinn (d : BitVec 7) (s : BitVec 6) (v : BitVec 7) (c : BitVec 3) : Statement (.atomMinn d s v c) := by
  refine statement_of rfl ((decodeRaw_major14 ?_).trans ?_) <;>
    simp (disch := omega) only [decodeMajor14, bits, cutHigh, cutLow, cut63, cut33, if_true, BitVec.reduceAppend, Nat.reduceSub, BitVec.extractLsb'_eq_self, BitVec.toNat_ofNat, BitVec.reduceExtractLsb', Nat.reducePow, Nat.reduceMod, BitVec.zeroExtend_eq_setWidth, BitVec.reduceSetWidth, BitVec.reduceAdd]

theorem atomMaxn (d : BitVec 7) (s : BitVec 6) (v : BitVec 7) (c : BitVec 3) : Statement (.atomMaxn d s v c) := by
  refine statement_of rfl ((decodeRaw_major14 ?_).trans ?_) <;>
    simp (disch := omega) only [decodeMajor14, bits, cutHigh, cutLow, cut63, cut33, if_true, BitVec.reduceAppend, Nat.reduceSub, BitVec.extractLsb'_eq_self, BitVec.toNat_ofNat, BitVec.reduceExtractLsb', Nat.reducePow, Nat.reduceMod, BitVec.zeroExtend_eq_setWidth, BitVec.reduceSetWidth, BitVec.reduceAdd]

theorem atomExch (d : BitVec 7) (s : BitVec 6) (v : BitVec 7) (c : BitVec 3) : Statement (.atomExch d s v c) := by
  refine statement_of rfl ((decodeRaw_major14 ?_).trans ?_) <;>
    simp (disch := omega) only [decodeMajor14, bits, cutHigh, cutLow, cut63, cut33, if_true, BitVec.reduceAppend, Nat.reduceSub, BitVec.extractLsb'_eq_self, BitVec.toNat_ofNat, BitVec.reduceExtractLsb', Nat.reducePow, Nat.reduceMod, BitVec.zeroExtend_eq_setWidth, BitVec.reduceSetWidth, BitVec.reduceAdd]

theorem atomFadd (d : BitVec 7) (s : BitVec 6) (v : BitVec 7) (c : BitVec 3) : Statement (.atomFadd d s v c) := by
  refine statement_of rfl ((decodeRaw_major14 ?_).trans ?_) <;>
    simp (disch := omega) only [decodeMajor14, bits, cutHigh, cutLow, cut63, cut33, if_true, BitVec.reduceAppend, Nat.reduceSub, BitVec.extractLsb'_eq_self, BitVec.toNat_ofNat, BitVec.reduceExtractLsb', Nat.reducePow, Nat.reduceMod, BitVec.zeroExtend_eq_setWidth, BitVec.reduceSetWidth, BitVec.reduceAdd]

theorem fence (o : BitVec 3) (c : BitVec 3) : Statement (.fence o c) := by
  refine statement_of rfl ((decodeRaw_major15 ?_).trans ?_) <;>
    simp (disch := omega) only [decodeMajor15, bits, cutHigh, cutLow, cut63, cut33, if_true, BitVec.reduceAppend, Nat.reduceSub, BitVec.extractLsb'_eq_self, BitVec.toNat_ofNat, BitVec.reduceExtractLsb', Nat.reducePow, Nat.reduceMod, BitVec.zeroExtend_eq_setWidth, BitVec.reduceSetWidth, BitVec.reduceAdd]
  refine zero_ok (show _ = fieldMask 7 13 ||| fieldMask 23 4 from rfl) (and_or (and_fieldMask ?_) (and_fieldMask ?_)) _ <;>
    simp (disch := omega) only [bits, cutHigh, cutLow, cut63, cut33, if_true, BitVec.reduceAppend, Nat.reduceSub, BitVec.extractLsb'_eq_self, BitVec.toNat_ofNat, BitVec.reduceExtractLsb', Nat.reducePow, Nat.reduceMod, BitVec.zeroExtend_eq_setWidth, BitVec.reduceSetWidth, BitVec.reduceAdd]

theorem cflush (l : BitVec 1) (s : BitVec 6) : Statement (.cflush l s) := by
  refine statement_of rfl ((decodeRaw_major15 ?_).trans ?_) <;>
    simp (disch := omega) only [decodeMajor15, bits, cutHigh, cutLow, cut63, cut33, if_true, BitVec.reduceAppend, Nat.reduceSub, BitVec.extractLsb'_eq_self, BitVec.toNat_ofNat, BitVec.reduceExtractLsb', Nat.reducePow, Nat.reduceMod, BitVec.zeroExtend_eq_setWidth, BitVec.reduceSetWidth, BitVec.reduceAdd]
  refine zero_ok (show _ = fieldMask 4 10 ||| fieldMask 21 6 from rfl) (and_or (and_fieldMask ?_) (and_fieldMask ?_)) _ <;>
    simp (disch := omega) only [bits, cutHigh, cutLow, cut63, cut33, if_true, BitVec.reduceAppend, Nat.reduceSub, BitVec.extractLsb'_eq_self, BitVec.toNat_ofNat, BitVec.reduceExtractLsb', Nat.reducePow, Nat.reduceMod, BitVec.zeroExtend_eq_setWidth, BitVec.reduceSetWidth, BitVec.reduceAdd]

theorem cinv (l : BitVec 1) (s : BitVec 6) : Statement (.cinv l s) := by
  refine statement_of rfl ((decodeRaw_major15 ?_).trans ?_) <;>
    simp (disch := omega) only [decodeMajor15, bits, cutHigh, cutLow, cut63, cut33, if_true, BitVec.reduceAppend, Nat.reduceSub, BitVec.extractLsb'_eq_self, BitVec.toNat_ofNat, BitVec.reduceExtractLsb', Nat.reducePow, Nat.reduceMod, BitVec.zeroExtend_eq_setWidth, BitVec.reduceSetWidth, BitVec.reduceAdd]
  refine zero_ok (show _ = fieldMask 4 10 ||| fieldMask 22 5 from rfl) (and_or (and_fieldMask ?_) (and_fieldMask ?_)) _ <;>
    simp (disch := omega) only [bits, cutHigh, cutLow, cut63, cut33, if_true, BitVec.reduceAppend, Nat.reduceSub, BitVec.extractLsb'_eq_self, BitVec.toNat_ofNat, BitVec.reduceExtractLsb', Nat.reducePow, Nat.reduceMod, BitVec.zeroExtend_eq_setWidth, BitVec.reduceSetWidth, BitVec.reduceAdd]

theorem cinvI (l : BitVec 1) (s : BitVec 6) : Statement (.cinvI l s) := by
  refine statement_of rfl ((decodeRaw_major15 ?_).trans ?_) <;>
    simp (disch := omega) only [decodeMajor15, bits, cutHigh, cutLow, cut63, cut33, if_true, BitVec.reduceAppend, Nat.reduceSub, BitVec.extractLsb'_eq_self, BitVec.toNat_ofNat, BitVec.reduceExtractLsb', Nat.reducePow, Nat.reduceMod, BitVec.zeroExtend_eq_setWidth, BitVec.reduceSetWidth, BitVec.reduceAdd]
  refine zero_ok (show _ = fieldMask 4 10 ||| fieldMask 22 5 from rfl) (and_or (and_fieldMask ?_) (and_fieldMask ?_)) _ <;>
    simp (disch := omega) only [bits, cutHigh, cutLow, cut63, cut33, if_true, BitVec.reduceAppend, Nat.reduceSub, BitVec.extractLsb'_eq_self, BitVec.toNat_ofNat, BitVec.reduceExtractLsb', Nat.reducePow, Nat.reduceMod, BitVec.zeroExtend_eq_setWidth, BitVec.reduceSetWidth, BitVec.reduceAdd]

theorem tbar (n : BitVec 1) (b : BitVec 4) (s : BitVec 6) (c : BitVec 3) : Statement (.tbar n b s c) := by
  refine statement_of rfl ((decodeRaw_major15 ?_).trans ?_) <;>
    simp (disch := omega) only [decodeMajor15, bits, cutHigh, cutLow, cut63, cut33, if_true, BitVec.reduceAppend, Nat.reduceSub, BitVec.extractLsb'_eq_self, BitVec.toNat_ofNat, BitVec.reduceExtractLsb', Nat.reducePow, Nat.reduceMod, BitVec.zeroExtend_eq_setWidth, BitVec.reduceSetWidth, BitVec.reduceAdd]
  refine zero_ok (show _ = fieldMask 7 7 ||| fieldMask 25 2 from rfl) (and_or (and_fieldMask ?_) (and_fieldMask ?_)) _ <;>
    simp (disch := omega) only [bits, cutHigh, cutLow, cut63, cut33, if_true, BitVec.reduceAppend, Nat.reduceSub, BitVec.extractLsb'_eq_self, BitVec.toNat_ofNat, BitVec.reduceExtractLsb', Nat.reducePow, Nat.reduceMod, BitVec.zeroExtend_eq_setWidth, BitVec.reduceSetWidth, BitVec.reduceAdd]

theorem tbara (n : BitVec 1) (b : BitVec 4) (s : BitVec 6) (c : BitVec 3) : Statement (.tbara n b s c) := by
  refine statement_of rfl ((decodeRaw_major15 ?_).trans ?_) <;>
    simp (disch := omega) only [decodeMajor15, bits, cutHigh, cutLow, cut63, cut33, if_true, BitVec.reduceAppend, Nat.reduceSub, BitVec.extractLsb'_eq_self, BitVec.toNat_ofNat, BitVec.reduceExtractLsb', Nat.reducePow, Nat.reduceMod, BitVec.zeroExtend_eq_setWidth, BitVec.reduceSetWidth, BitVec.reduceAdd]
  refine zero_ok (show _ = fieldMask 7 7 ||| fieldMask 25 2 from rfl) (and_or (and_fieldMask ?_) (and_fieldMask ?_)) _ <;>
    simp (disch := omega) only [bits, cutHigh, cutLow, cut63, cut33, if_true, BitVec.reduceAppend, Nat.reduceSub, BitVec.extractLsb'_eq_self, BitVec.toNat_ofNat, BitVec.reduceExtractLsb', Nat.reducePow, Nat.reduceMod, BitVec.zeroExtend_eq_setWidth, BitVec.reduceSetWidth, BitVec.reduceAdd]

theorem tbarw (b : BitVec 4) (c : BitVec 3) : Statement (.tbarw b c) := by
  refine statement_of rfl ((decodeRaw_major15 ?_).trans ?_) <;>
    simp (disch := omega) only [decodeMajor15, bits, cutHigh, cutLow, cut63, cut33, if_true, BitVec.reduceAppend, Nat.reduceSub, BitVec.extractLsb'_eq_self, BitVec.toNat_ofNat, BitVec.reduceExtractLsb', Nat.reducePow, Nat.reduceMod, BitVec.zeroExtend_eq_setWidth, BitVec.reduceSetWidth, BitVec.reduceAdd]
  refine zero_ok (show _ = fieldMask 7 13 ||| fieldMask 24 3 from rfl) (and_or (and_fieldMask ?_) (and_fieldMask ?_)) _ <;>
    simp (disch := omega) only [bits, cutHigh, cutLow, cut63, cut33, if_true, BitVec.reduceAppend, Nat.reduceSub, BitVec.extractLsb'_eq_self, BitVec.toNat_ofNat, BitVec.reduceExtractLsb', Nat.reducePow, Nat.reduceMod, BitVec.zeroExtend_eq_setWidth, BitVec.reduceSetWidth, BitVec.reduceAdd]

theorem cbar (n : BitVec 1) (b : BitVec 4) (s : BitVec 6) (c : BitVec 3) : Statement (.cbar n b s c) := by
  refine statement_of rfl ((decodeRaw_major15 ?_).trans ?_) <;>
    simp (disch := omega) only [decodeMajor15, bits, cutHigh, cutLow, cut63, cut33, if_true, BitVec.reduceAppend, Nat.reduceSub, BitVec.extractLsb'_eq_self, BitVec.toNat_ofNat, BitVec.reduceExtractLsb', Nat.reducePow, Nat.reduceMod, BitVec.zeroExtend_eq_setWidth, BitVec.reduceSetWidth, BitVec.reduceAdd]
  refine zero_ok (show _ = fieldMask 7 7 ||| fieldMask 25 2 from rfl) (and_or (and_fieldMask ?_) (and_fieldMask ?_)) _ <;>
    simp (disch := omega) only [bits, cutHigh, cutLow, cut63, cut33, if_true, BitVec.reduceAppend, Nat.reduceSub, BitVec.extractLsb'_eq_self, BitVec.toNat_ofNat, BitVec.reduceExtractLsb', Nat.reducePow, Nat.reduceMod, BitVec.zeroExtend_eq_setWidth, BitVec.reduceSetWidth, BitVec.reduceAdd]

theorem mma (a : BitVec 6) (b : BitVec 6) (r : BitVec 1) : Statement (.mma a b r) := by
  refine statement_of rfl ((decodeRaw_major16 ?_).trans ?_) <;>
    simp (disch := omega) only [decodeMajor16, bits, cutHigh, cutLow, cut63, cut33, if_true, BitVec.reduceAppend, Nat.reduceSub, BitVec.extractLsb'_eq_self, BitVec.toNat_ofNat, BitVec.reduceExtractLsb', Nat.reducePow, Nat.reduceMod, BitVec.zeroExtend_eq_setWidth, BitVec.reduceSetWidth, BitVec.reduceAdd]
  refine zero_ok (show _ = fieldMask 1 9 from rfl) (and_fieldMask ?_) _ <;>
    simp (disch := omega) only [bits, cutHigh, cutLow, cut63, cut33, if_true, BitVec.reduceAppend, Nat.reduceSub, BitVec.extractLsb'_eq_self, BitVec.toNat_ofNat, BitVec.reduceExtractLsb', Nat.reducePow, Nat.reduceMod, BitVec.zeroExtend_eq_setWidth, BitVec.reduceSetWidth, BitVec.reduceAdd]

theorem mmas (a : BitVec 6) (b : BitVec 6) (r : BitVec 1) : Statement (.mmas a b r) := by
  refine statement_of rfl ((decodeRaw_major16 ?_).trans ?_) <;>
    simp (disch := omega) only [decodeMajor16, bits, cutHigh, cutLow, cut63, cut33, if_true, BitVec.reduceAppend, Nat.reduceSub, BitVec.extractLsb'_eq_self, BitVec.toNat_ofNat, BitVec.reduceExtractLsb', Nat.reducePow, Nat.reduceMod, BitVec.zeroExtend_eq_setWidth, BitVec.reduceSetWidth, BitVec.reduceAdd]
  refine zero_ok (show _ = fieldMask 1 9 from rfl) (and_fieldMask ?_) _ <;>
    simp (disch := omega) only [bits, cutHigh, cutLow, cut63, cut33, if_true, BitVec.reduceAppend, Nat.reduceSub, BitVec.extractLsb'_eq_self, BitVec.toNat_ofNat, BitVec.reduceExtractLsb', Nat.reducePow, Nat.reduceMod, BitVec.zeroExtend_eq_setWidth, BitVec.reduceSetWidth, BitVec.reduceAdd]

theorem mmao (a : BitVec 6) (b : BitVec 6) (r : BitVec 1) : Statement (.mmao a b r) := by
  refine statement_of rfl ((decodeRaw_major16 ?_).trans ?_) <;>
    simp (disch := omega) only [decodeMajor16, bits, cutHigh, cutLow, cut63, cut33, if_true, BitVec.reduceAppend, Nat.reduceSub, BitVec.extractLsb'_eq_self, BitVec.toNat_ofNat, BitVec.reduceExtractLsb', Nat.reducePow, Nat.reduceMod, BitVec.zeroExtend_eq_setWidth, BitVec.reduceSetWidth, BitVec.reduceAdd]
  refine zero_ok (show _ = fieldMask 1 9 from rfl) (and_fieldMask ?_) _ <;>
    simp (disch := omega) only [bits, cutHigh, cutLow, cut63, cut33, if_true, BitVec.reduceAppend, Nat.reduceSub, BitVec.extractLsb'_eq_self, BitVec.toNat_ofNat, BitVec.reduceExtractLsb', Nat.reducePow, Nat.reduceMod, BitVec.zeroExtend_eq_setWidth, BitVec.reduceSetWidth, BitVec.reduceAdd]

theorem mzero (n : BitVec 4) : Statement (.mzero n) := by
  refine statement_of rfl ((decodeRaw_major16 ?_).trans ?_) <;>
    simp (disch := omega) only [decodeMajor16, bits, cutHigh, cutLow, cut63, cut33, if_true, BitVec.reduceAppend, Nat.reduceSub, BitVec.extractLsb'_eq_self, BitVec.toNat_ofNat, BitVec.reduceExtractLsb', Nat.reducePow, Nat.reduceMod, BitVec.zeroExtend_eq_setWidth, BitVec.reduceSetWidth, BitVec.reduceAdd]
  refine zero_ok (show _ = fieldMask 4 18 from rfl) (and_fieldMask ?_) _ <;>
    simp (disch := omega) only [bits, cutHigh, cutLow, cut63, cut33, if_true, BitVec.reduceAppend, Nat.reduceSub, BitVec.extractLsb'_eq_self, BitVec.toNat_ofNat, BitVec.reduceExtractLsb', Nat.reducePow, Nat.reduceMod, BitVec.zeroExtend_eq_setWidth, BitVec.reduceSetWidth, BitVec.reduceAdd]

theorem mrd (a : BitVec 6) (b : BitVec 6) (c : BitVec 6) (l : BitVec 2) : Statement (.mrd a b c l) := by
  refine statement_of rfl ((decodeRaw_major16 ?_).trans ?_) <;>
    simp (disch := omega) only [decodeMajor16, bits, cutHigh, cutLow, cut63, cut33, if_true, BitVec.reduceAppend, Nat.reduceSub, BitVec.extractLsb'_eq_self, BitVec.toNat_ofNat, BitVec.reduceExtractLsb', Nat.reducePow, Nat.reduceMod, BitVec.zeroExtend_eq_setWidth, BitVec.reduceSetWidth, BitVec.reduceAdd]
  refine zero_ok (show _ = fieldMask 2 2 from rfl) (and_fieldMask ?_) _ <;>
    simp (disch := omega) only [bits, cutHigh, cutLow, cut63, cut33, if_true, BitVec.reduceAppend, Nat.reduceSub, BitVec.extractLsb'_eq_self, BitVec.toNat_ofNat, BitVec.reduceExtractLsb', Nat.reducePow, Nat.reduceMod, BitVec.zeroExtend_eq_setWidth, BitVec.reduceSetWidth, BitVec.reduceAdd]

theorem mwr (a : BitVec 6) (r : BitVec 1) (l : BitVec 2) : Statement (.mwr a r l) := by
  refine statement_of rfl ((decodeRaw_major16 ?_).trans ?_) <;>
    simp (disch := omega) only [decodeMajor16, bits, cutHigh, cutLow, cut63, cut33, if_true, BitVec.reduceAppend, Nat.reduceSub, BitVec.extractLsb'_eq_self, BitVec.toNat_ofNat, BitVec.reduceExtractLsb', Nat.reducePow, Nat.reduceMod, BitVec.zeroExtend_eq_setWidth, BitVec.reduceSetWidth, BitVec.reduceAdd]
  refine zero_ok (show _ = fieldMask 3 13 from rfl) (and_fieldMask ?_) _ <;>
    simp (disch := omega) only [bits, cutHigh, cutLow, cut63, cut33, if_true, BitVec.reduceAppend, Nat.reduceSub, BitVec.extractLsb'_eq_self, BitVec.toNat_ofNat, BitVec.reduceExtractLsb', Nat.reducePow, Nat.reduceMod, BitVec.zeroExtend_eq_setWidth, BitVec.reduceSetWidth, BitVec.reduceAdd]

theorem mepi (a : BitVec 6) (b : BitVec 6) (c : BitVec 6) (l : BitVec 2) : Statement (.mepi a b c l) := by
  refine statement_of rfl ((decodeRaw_major16 ?_).trans ?_) <;>
    simp (disch := omega) only [decodeMajor16, bits, cutHigh, cutLow, cut63, cut33, if_true, BitVec.reduceAppend, Nat.reduceSub, BitVec.extractLsb'_eq_self, BitVec.toNat_ofNat, BitVec.reduceExtractLsb', Nat.reducePow, Nat.reduceMod, BitVec.zeroExtend_eq_setWidth, BitVec.reduceSetWidth, BitVec.reduceAdd]
  refine zero_ok (show _ = fieldMask 2 2 from rfl) (and_fieldMask ?_) _ <;>
    simp (disch := omega) only [bits, cutHigh, cutLow, cut63, cut33, if_true, BitVec.reduceAppend, Nat.reduceSub, BitVec.extractLsb'_eq_self, BitVec.toNat_ofNat, BitVec.reduceExtractLsb', Nat.reducePow, Nat.reduceMod, BitVec.zeroExtend_eq_setWidth, BitVec.reduceSetWidth, BitVec.reduceAdd]

theorem mrdy : Statement .mrdy := by
  refine statement_of rfl ((decodeRaw_major17 ?_).trans ?_) <;>
    simp (disch := omega) only [decodeMajor17, bits, cutHigh, cutLow, cut63, cut33, if_true, BitVec.reduceAppend, Nat.reduceSub, BitVec.extractLsb'_eq_self, BitVec.toNat_ofNat, BitVec.reduceExtractLsb', Nat.reducePow, Nat.reduceMod, BitVec.zeroExtend_eq_setWidth, BitVec.reduceSetWidth, BitVec.reduceAdd]
  refine zero_ok (show _ = fieldMask 0 22 from rfl) (and_fieldMask ?_) _ <;>
    simp (disch := omega) only [bits, cutHigh, cutLow, cut63, cut33, if_true, BitVec.reduceAppend, Nat.reduceSub, BitVec.extractLsb'_eq_self, BitVec.toNat_ofNat, BitVec.reduceExtractLsb', Nat.reducePow, Nat.reduceMod, BitVec.zeroExtend_eq_setWidth, BitVec.reduceSetWidth, BitVec.reduceAdd]

theorem mfen (a : BitVec 6) (b : BitVec 4) : Statement (.mfen a b) := by
  refine statement_of rfl ((decodeRaw_major17 ?_).trans ?_) <;>
    simp (disch := omega) only [decodeMajor17, bits, cutHigh, cutLow, cut63, cut33, if_true, BitVec.reduceAppend, Nat.reduceSub, BitVec.extractLsb'_eq_self, BitVec.toNat_ofNat, BitVec.reduceExtractLsb', Nat.reducePow, Nat.reduceMod, BitVec.zeroExtend_eq_setWidth, BitVec.reduceSetWidth, BitVec.reduceAdd]
  refine zero_ok (show _ = fieldMask 4 12 from rfl) (and_fieldMask ?_) _ <;>
    simp (disch := omega) only [bits, cutHigh, cutLow, cut63, cut33, if_true, BitVec.reduceAppend, Nat.reduceSub, BitVec.extractLsb'_eq_self, BitVec.toNat_ofNat, BitVec.reduceExtractLsb', Nat.reducePow, Nat.reduceMod, BitVec.zeroExtend_eq_setWidth, BitVec.reduceSetWidth, BitVec.reduceAdd]

theorem mwait (b : BitVec 4) : Statement (.mwait b) := by
  refine statement_of rfl ((decodeRaw_major17 ?_).trans ?_) <;>
    simp (disch := omega) only [decodeMajor17, bits, cutHigh, cutLow, cut63, cut33, if_true, BitVec.reduceAppend, Nat.reduceSub, BitVec.extractLsb'_eq_self, BitVec.toNat_ofNat, BitVec.reduceExtractLsb', Nat.reducePow, Nat.reduceMod, BitVec.zeroExtend_eq_setWidth, BitVec.reduceSetWidth, BitVec.reduceAdd]
  refine zero_ok (show _ = fieldMask 4 18 from rfl) (and_fieldMask ?_) _ <;>
    simp (disch := omega) only [bits, cutHigh, cutLow, cut63, cut33, if_true, BitVec.reduceAppend, Nat.reduceSub, BitVec.extractLsb'_eq_self, BitVec.toNat_ofNat, BitVec.reduceExtractLsb', Nat.reducePow, Nat.reduceMod, BitVec.zeroExtend_eq_setWidth, BitVec.reduceSetWidth, BitVec.reduceAdd]

theorem mstatReset (a : BitVec 6) : Statement (.mstatReset a) := by
  refine statement_of rfl ((decodeRaw_major17 ?_).trans ?_) <;>
    simp (disch := omega) only [decodeMajor17, bits, cutHigh, cutLow, cut63, cut33, if_true, BitVec.reduceAppend, Nat.reduceSub, BitVec.extractLsb'_eq_self, BitVec.toNat_ofNat, BitVec.reduceExtractLsb', Nat.reducePow, Nat.reduceMod, BitVec.zeroExtend_eq_setWidth, BitVec.reduceSetWidth, BitVec.reduceAdd]
  refine zero_ok (show _ = fieldMask 2 14 from rfl) (and_fieldMask ?_) _ <;>
    simp (disch := omega) only [bits, cutHigh, cutLow, cut63, cut33, if_true, BitVec.reduceAppend, Nat.reduceSub, BitVec.extractLsb'_eq_self, BitVec.toNat_ofNat, BitVec.reduceExtractLsb', Nat.reducePow, Nat.reduceMod, BitVec.zeroExtend_eq_setWidth, BitVec.reduceSetWidth, BitVec.reduceAdd]

theorem mstatMax (a : BitVec 6) : Statement (.mstatMax a) := by
  refine statement_of rfl ((decodeRaw_major17 ?_).trans ?_) <;>
    simp (disch := omega) only [decodeMajor17, bits, cutHigh, cutLow, cut63, cut33, if_true, BitVec.reduceAppend, Nat.reduceSub, BitVec.extractLsb'_eq_self, BitVec.toNat_ofNat, BitVec.reduceExtractLsb', Nat.reducePow, Nat.reduceMod, BitVec.zeroExtend_eq_setWidth, BitVec.reduceSetWidth, BitVec.reduceAdd]
  refine zero_ok (show _ = fieldMask 2 14 from rfl) (and_fieldMask ?_) _ <;>
    simp (disch := omega) only [bits, cutHigh, cutLow, cut63, cut33, if_true, BitVec.reduceAppend, Nat.reduceSub, BitVec.extractLsb'_eq_self, BitVec.toNat_ofNat, BitVec.reduceExtractLsb', Nat.reducePow, Nat.reduceMod, BitVec.zeroExtend_eq_setWidth, BitVec.reduceSetWidth, BitVec.reduceAdd]

theorem mstatRead (a : BitVec 6) : Statement (.mstatRead a) := by
  refine statement_of rfl ((decodeRaw_major17 ?_).trans ?_) <;>
    simp (disch := omega) only [decodeMajor17, bits, cutHigh, cutLow, cut63, cut33, if_true, BitVec.reduceAppend, Nat.reduceSub, BitVec.extractLsb'_eq_self, BitVec.toNat_ofNat, BitVec.reduceExtractLsb', Nat.reducePow, Nat.reduceMod, BitVec.zeroExtend_eq_setWidth, BitVec.reduceSetWidth, BitVec.reduceAdd]
  refine zero_ok (show _ = fieldMask 2 14 from rfl) (and_fieldMask ?_) _ <;>
    simp (disch := omega) only [bits, cutHigh, cutLow, cut63, cut33, if_true, BitVec.reduceAppend, Nat.reduceSub, BitVec.extractLsb'_eq_self, BitVec.toNat_ofNat, BitVec.reduceExtractLsb', Nat.reducePow, Nat.reduceMod, BitVec.zeroExtend_eq_setWidth, BitVec.reduceSetWidth, BitVec.reduceAdd]

theorem matrixWordComplete : Statement .matrixWordComplete := statement_of_event rfl

theorem tdef (a : BitVec 6) (b : BitVec 6) (r : BitVec 1) : Statement (.tdef a b r) := by
  refine statement_of rfl ((decodeRaw_major18 ?_).trans ?_) <;>
    simp (disch := omega) only [decodeMajor18, bits, cutHigh, cutLow, cut63, cut33, if_true, BitVec.reduceAppend, Nat.reduceSub, BitVec.extractLsb'_eq_self, BitVec.toNat_ofNat, BitVec.reduceExtractLsb', Nat.reducePow, Nat.reduceMod, BitVec.zeroExtend_eq_setWidth, BitVec.reduceSetWidth, BitVec.reduceAdd]
  refine zero_ok (show _ = fieldMask 1 9 from rfl) (and_fieldMask ?_) _ <;>
    simp (disch := omega) only [bits, cutHigh, cutLow, cut63, cut33, if_true, BitVec.reduceAppend, Nat.reduceSub, BitVec.extractLsb'_eq_self, BitVec.toNat_ofNat, BitVec.reduceExtractLsb', Nat.reducePow, Nat.reduceMod, BitVec.zeroExtend_eq_setWidth, BitVec.reduceSetWidth, BitVec.reduceAdd]

theorem trel (a : BitVec 6) : Statement (.trel a) := by
  refine statement_of rfl ((decodeRaw_major18 ?_).trans ?_) <;>
    simp (disch := omega) only [decodeMajor18, bits, cutHigh, cutLow, cut63, cut33, if_true, BitVec.reduceAppend, Nat.reduceSub, BitVec.extractLsb'_eq_self, BitVec.toNat_ofNat, BitVec.reduceExtractLsb', Nat.reducePow, Nat.reduceMod, BitVec.zeroExtend_eq_setWidth, BitVec.reduceSetWidth, BitVec.reduceAdd]
  refine zero_ok (show _ = fieldMask 0 16 from rfl) (and_fieldMask ?_) _ <;>
    simp (disch := omega) only [bits, cutHigh, cutLow, cut63, cut33, if_true, BitVec.reduceAppend, Nat.reduceSub, BitVec.extractLsb'_eq_self, BitVec.toNat_ofNat, BitVec.reduceExtractLsb', Nat.reducePow, Nat.reduceMod, BitVec.zeroExtend_eq_setWidth, BitVec.reduceSetWidth, BitVec.reduceAdd]

theorem tstate (a : BitVec 6) (d : BitVec 6) : Statement (.tstate a d) := by
  refine statement_of rfl ((decodeRaw_major18 ?_).trans ?_) <;>
    simp (disch := omega) only [decodeMajor18, bits, cutHigh, cutLow, cut63, cut33, if_true, BitVec.reduceAppend, Nat.reduceSub, BitVec.extractLsb'_eq_self, BitVec.toNat_ofNat, BitVec.reduceExtractLsb', Nat.reducePow, Nat.reduceMod, BitVec.zeroExtend_eq_setWidth, BitVec.reduceSetWidth, BitVec.reduceAdd]
  refine zero_ok (show _ = fieldMask 0 10 from rfl) (and_fieldMask ?_) _ <;>
    simp (disch := omega) only [bits, cutHigh, cutLow, cut63, cut33, if_true, BitVec.reduceAppend, Nat.reduceSub, BitVec.extractLsb'_eq_self, BitVec.toNat_ofNat, BitVec.reduceExtractLsb', Nat.reducePow, Nat.reduceMod, BitVec.zeroExtend_eq_setWidth, BitVec.reduceSetWidth, BitVec.reduceAdd]

theorem tfetch (a : BitVec 6) (b : BitVec 6) (c : BitVec 6) (r : BitVec 1) : Statement (.tfetch a b c r) := by
  refine statement_of rfl ((decodeRaw_major18 ?_).trans ?_) <;>
    simp (disch := omega) only [decodeMajor18, bits, cutHigh, cutLow, cut63, cut33, if_true, BitVec.reduceAppend, Nat.reduceSub, BitVec.extractLsb'_eq_self, BitVec.toNat_ofNat, BitVec.reduceExtractLsb', Nat.reducePow, Nat.reduceMod, BitVec.zeroExtend_eq_setWidth, BitVec.reduceSetWidth, BitVec.reduceAdd]
  refine zero_ok (show _ = fieldMask 1 3 from rfl) (and_fieldMask ?_) _ <;>
    simp (disch := omega) only [bits, cutHigh, cutLow, cut63, cut33, if_true, BitVec.reduceAppend, Nat.reduceSub, BitVec.extractLsb'_eq_self, BitVec.toNat_ofNat, BitVec.reduceExtractLsb', Nat.reducePow, Nat.reduceMod, BitVec.zeroExtend_eq_setWidth, BitVec.reduceSetWidth, BitVec.reduceAdd]

theorem tgath (a : BitVec 6) (b : BitVec 6) (c : BitVec 6) (r : BitVec 1) : Statement (.tgath a b c r) := by
  refine statement_of rfl ((decodeRaw_major18 ?_).trans ?_) <;>
    simp (disch := omega) only [decodeMajor18, bits, cutHigh, cutLow, cut63, cut33, if_true, BitVec.reduceAppend, Nat.reduceSub, BitVec.extractLsb'_eq_self, BitVec.toNat_ofNat, BitVec.reduceExtractLsb', Nat.reducePow, Nat.reduceMod, BitVec.zeroExtend_eq_setWidth, BitVec.reduceSetWidth, BitVec.reduceAdd]
  refine zero_ok (show _ = fieldMask 1 3 from rfl) (and_fieldMask ?_) _ <;>
    simp (disch := omega) only [bits, cutHigh, cutLow, cut63, cut33, if_true, BitVec.reduceAppend, Nat.reduceSub, BitVec.extractLsb'_eq_self, BitVec.toNat_ofNat, BitVec.reduceExtractLsb', Nat.reducePow, Nat.reduceMod, BitVec.zeroExtend_eq_setWidth, BitVec.reduceSetWidth, BitVec.reduceAdd]

theorem tcommit (a : BitVec 6) (b : BitVec 6) (c : BitVec 6) : Statement (.tcommit a b c) := by
  refine statement_of rfl ((decodeRaw_major18 ?_).trans ?_) <;>
    simp (disch := omega) only [decodeMajor18, bits, cutHigh, cutLow, cut63, cut33, if_true, BitVec.reduceAppend, Nat.reduceSub, BitVec.extractLsb'_eq_self, BitVec.toNat_ofNat, BitVec.reduceExtractLsb', Nat.reducePow, Nat.reduceMod, BitVec.zeroExtend_eq_setWidth, BitVec.reduceSetWidth, BitVec.reduceAdd]
  refine zero_ok (show _ = fieldMask 0 4 from rfl) (and_fieldMask ?_) _ <;>
    simp (disch := omega) only [bits, cutHigh, cutLow, cut63, cut33, if_true, BitVec.reduceAppend, Nat.reduceSub, BitVec.extractLsb'_eq_self, BitVec.toNat_ofNat, BitVec.reduceExtractLsb', Nat.reducePow, Nat.reduceMod, BitVec.zeroExtend_eq_setWidth, BitVec.reduceSetWidth, BitVec.reduceAdd]

theorem twin (a : BitVec 6) : Statement (.twin a) := by
  refine statement_of rfl ((decodeRaw_major18 ?_).trans ?_) <;>
    simp (disch := omega) only [decodeMajor18, bits, cutHigh, cutLow, cut63, cut33, if_true, BitVec.reduceAppend, Nat.reduceSub, BitVec.extractLsb'_eq_self, BitVec.toNat_ofNat, BitVec.reduceExtractLsb', Nat.reducePow, Nat.reduceMod, BitVec.zeroExtend_eq_setWidth, BitVec.reduceSetWidth, BitVec.reduceAdd]
  refine zero_ok (show _ = fieldMask 1 15 from rfl) (and_fieldMask ?_) _ <;>
    simp (disch := omega) only [bits, cutHigh, cutLow, cut63, cut33, if_true, BitVec.reduceAppend, Nat.reduceSub, BitVec.extractLsb'_eq_self, BitVec.toNat_ofNat, BitVec.reduceExtractLsb', Nat.reducePow, Nat.reduceMod, BitVec.zeroExtend_eq_setWidth, BitVec.reduceSetWidth, BitVec.reduceAdd]

theorem twinRd (a : BitVec 6) : Statement (.twinRd a) := by
  refine statement_of rfl ((decodeRaw_major18 ?_).trans ?_) <;>
    simp (disch := omega) only [decodeMajor18, bits, cutHigh, cutLow, cut63, cut33, if_true, BitVec.reduceAppend, Nat.reduceSub, BitVec.extractLsb'_eq_self, BitVec.toNat_ofNat, BitVec.reduceExtractLsb', Nat.reducePow, Nat.reduceMod, BitVec.zeroExtend_eq_setWidth, BitVec.reduceSetWidth, BitVec.reduceAdd]
  refine zero_ok (show _ = fieldMask 1 15 from rfl) (and_fieldMask ?_) _ <;>
    simp (disch := omega) only [bits, cutHigh, cutLow, cut63, cut33, if_true, BitVec.reduceAppend, Nat.reduceSub, BitVec.extractLsb'_eq_self, BitVec.toNat_ofNat, BitVec.reduceExtractLsb', Nat.reducePow, Nat.reduceMod, BitVec.zeroExtend_eq_setWidth, BitVec.reduceSetWidth, BitVec.reduceAdd]

theorem abar (a : BitVec 6) : Statement (.abar a) := by
  refine statement_of rfl ((decodeRaw_major19 ?_).trans ?_) <;>
    simp (disch := omega) only [decodeMajor19, bits, cutHigh, cutLow, cut63, cut33, if_true, BitVec.reduceAppend, Nat.reduceSub, BitVec.extractLsb'_eq_self, BitVec.toNat_ofNat, BitVec.reduceExtractLsb', Nat.reducePow, Nat.reduceMod, BitVec.zeroExtend_eq_setWidth, BitVec.reduceSetWidth, BitVec.reduceAdd]
  refine zero_ok (show _ = fieldMask 0 16 from rfl) (and_fieldMask ?_) _ <;>
    simp (disch := omega) only [bits, cutHigh, cutLow, cut63, cut33, if_true, BitVec.reduceAppend, Nat.reduceSub, BitVec.extractLsb'_eq_self, BitVec.toNat_ofNat, BitVec.reduceExtractLsb', Nat.reducePow, Nat.reduceMod, BitVec.zeroExtend_eq_setWidth, BitVec.reduceSetWidth, BitVec.reduceAdd]

theorem abwait (a : BitVec 6) : Statement (.abwait a) := by
  refine statement_of rfl ((decodeRaw_major19 ?_).trans ?_) <;>
    simp (disch := omega) only [decodeMajor19, bits, cutHigh, cutLow, cut63, cut33, if_true, BitVec.reduceAppend, Nat.reduceSub, BitVec.extractLsb'_eq_self, BitVec.toNat_ofNat, BitVec.reduceExtractLsb', Nat.reducePow, Nat.reduceMod, BitVec.zeroExtend_eq_setWidth, BitVec.reduceSetWidth, BitVec.reduceAdd]
  refine zero_ok (show _ = fieldMask 0 16 from rfl) (and_fieldMask ?_) _ <;>
    simp (disch := omega) only [bits, cutHigh, cutLow, cut63, cut33, if_true, BitVec.reduceAppend, Nat.reduceSub, BitVec.extractLsb'_eq_self, BitVec.toNat_ofNat, BitVec.reduceExtractLsb', Nat.reducePow, Nat.reduceMod, BitVec.zeroExtend_eq_setWidth, BitVec.reduceSetWidth, BitVec.reduceAdd]

theorem rginit (a : BitVec 6) : Statement (.rginit a) := by
  refine statement_of rfl ((decodeRaw_major19 ?_).trans ?_) <;>
    simp (disch := omega) only [decodeMajor19, bits, cutHigh, cutLow, cut63, cut33, if_true, BitVec.reduceAppend, Nat.reduceSub, BitVec.extractLsb'_eq_self, BitVec.toNat_ofNat, BitVec.reduceExtractLsb', Nat.reducePow, Nat.reduceMod, BitVec.zeroExtend_eq_setWidth, BitVec.reduceSetWidth, BitVec.reduceAdd]
  refine zero_ok (show _ = fieldMask 0 16 from rfl) (and_fieldMask ?_) _ <;>
    simp (disch := omega) only [bits, cutHigh, cutLow, cut63, cut33, if_true, BitVec.reduceAppend, Nat.reduceSub, BitVec.extractLsb'_eq_self, BitVec.toNat_ofNat, BitVec.reduceExtractLsb', Nat.reducePow, Nat.reduceMod, BitVec.zeroExtend_eq_setWidth, BitVec.reduceSetWidth, BitVec.reduceAdd]

theorem rgawait (a : BitVec 6) (d : BitVec 6) : Statement (.rgawait a d) := by
  refine statement_of rfl ((decodeRaw_major19 ?_).trans ?_) <;>
    simp (disch := omega) only [decodeMajor19, bits, cutHigh, cutLow, cut63, cut33, if_true, BitVec.reduceAppend, Nat.reduceSub, BitVec.extractLsb'_eq_self, BitVec.toNat_ofNat, BitVec.reduceExtractLsb', Nat.reducePow, Nat.reduceMod, BitVec.zeroExtend_eq_setWidth, BitVec.reduceSetWidth, BitVec.reduceAdd]
  refine zero_ok (show _ = fieldMask 0 10 from rfl) (and_fieldMask ?_) _ <;>
    simp (disch := omega) only [bits, cutHigh, cutLow, cut63, cut33, if_true, BitVec.reduceAppend, Nat.reduceSub, BitVec.extractLsb'_eq_self, BitVec.toNat_ofNat, BitVec.reduceExtractLsb', Nat.reducePow, Nat.reduceMod, BitVec.zeroExtend_eq_setWidth, BitVec.reduceSetWidth, BitVec.reduceAdd]

theorem rgrel (a : BitVec 6) : Statement (.rgrel a) := by
  refine statement_of rfl ((decodeRaw_major19 ?_).trans ?_) <;>
    simp (disch := omega) only [decodeMajor19, bits, cutHigh, cutLow, cut63, cut33, if_true, BitVec.reduceAppend, Nat.reduceSub, BitVec.extractLsb'_eq_self, BitVec.toNat_ofNat, BitVec.reduceExtractLsb', Nat.reducePow, Nat.reduceMod, BitVec.zeroExtend_eq_setWidth, BitVec.reduceSetWidth, BitVec.reduceAdd]
  refine zero_ok (show _ = fieldMask 0 16 from rfl) (and_fieldMask ?_) _ <;>
    simp (disch := omega) only [bits, cutHigh, cutLow, cut63, cut33, if_true, BitVec.reduceAppend, Nat.reduceSub, BitVec.extractLsb'_eq_self, BitVec.toNat_ofNat, BitVec.reduceExtractLsb', Nat.reducePow, Nat.reduceMod, BitVec.zeroExtend_eq_setWidth, BitVec.reduceSetWidth, BitVec.reduceAdd]

theorem vdecode (a : BitVec 6) : Statement (.vdecode a) := by
  refine statement_of rfl ((decodeRaw_major19 ?_).trans ?_) <;>
    simp (disch := omega) only [decodeMajor19, bits, cutHigh, cutLow, cut63, cut33, if_true, BitVec.reduceAppend, Nat.reduceSub, BitVec.extractLsb'_eq_self, BitVec.toNat_ofNat, BitVec.reduceExtractLsb', Nat.reducePow, Nat.reduceMod, BitVec.zeroExtend_eq_setWidth, BitVec.reduceSetWidth, BitVec.reduceAdd]
  refine zero_ok (show _ = fieldMask 0 16 from rfl) (and_fieldMask ?_) _ <;>
    simp (disch := omega) only [bits, cutHigh, cutLow, cut63, cut33, if_true, BitVec.reduceAppend, Nat.reduceSub, BitVec.extractLsb'_eq_self, BitVec.toNat_ofNat, BitVec.reduceExtractLsb', Nat.reducePow, Nat.reduceMod, BitVec.zeroExtend_eq_setWidth, BitVec.reduceSetWidth, BitVec.reduceAdd]

theorem rshard (a : BitVec 6) (b : BitVec 6) (c : BitVec 6) : Statement (.rshard a b c) := by
  refine statement_of rfl ((decodeRaw_major20 ?_).trans ?_) <;>
    simp (disch := omega) only [decodeMajor20, bits, cutHigh, cutLow, cut63, cut33, if_true, BitVec.reduceAppend, Nat.reduceSub, BitVec.extractLsb'_eq_self, BitVec.toNat_ofNat, BitVec.reduceExtractLsb', Nat.reducePow, Nat.reduceMod, BitVec.zeroExtend_eq_setWidth, BitVec.reduceSetWidth, BitVec.reduceAdd]
  refine zero_ok (show _ = fieldMask 0 4 from rfl) (and_fieldMask ?_) _ <;>
    simp (disch := omega) only [bits, cutHigh, cutLow, cut63, cut33, if_true, BitVec.reduceAppend, Nat.reduceSub, BitVec.extractLsb'_eq_self, BitVec.toNat_ofNat, BitVec.reduceExtractLsb', Nat.reducePow, Nat.reduceMod, BitVec.zeroExtend_eq_setWidth, BitVec.reduceSetWidth, BitVec.reduceAdd]

theorem rsstop (a : BitVec 6) : Statement (.rsstop a) := by
  refine statement_of rfl ((decodeRaw_major20 ?_).trans ?_) <;>
    simp (disch := omega) only [decodeMajor20, bits, cutHigh, cutLow, cut63, cut33, if_true, BitVec.reduceAppend, Nat.reduceSub, BitVec.extractLsb'_eq_self, BitVec.toNat_ofNat, BitVec.reduceExtractLsb', Nat.reducePow, Nat.reduceMod, BitVec.zeroExtend_eq_setWidth, BitVec.reduceSetWidth, BitVec.reduceAdd]
  refine zero_ok (show _ = fieldMask 0 16 from rfl) (and_fieldMask ?_) _ <;>
    simp (disch := omega) only [bits, cutHigh, cutLow, cut63, cut33, if_true, BitVec.reduceAppend, Nat.reduceSub, BitVec.extractLsb'_eq_self, BitVec.toNat_ofNat, BitVec.reduceExtractLsb', Nat.reducePow, Nat.reduceMod, BitVec.zeroExtend_eq_setWidth, BitVec.reduceSetWidth, BitVec.reduceAdd]

theorem rsstat (a : BitVec 6) (d : BitVec 6) : Statement (.rsstat a d) := by
  refine statement_of rfl ((decodeRaw_major20 ?_).trans ?_) <;>
    simp (disch := omega) only [decodeMajor20, bits, cutHigh, cutLow, cut63, cut33, if_true, BitVec.reduceAppend, Nat.reduceSub, BitVec.extractLsb'_eq_self, BitVec.toNat_ofNat, BitVec.reduceExtractLsb', Nat.reducePow, Nat.reduceMod, BitVec.zeroExtend_eq_setWidth, BitVec.reduceSetWidth, BitVec.reduceAdd]
  refine zero_ok (show _ = fieldMask 0 10 from rfl) (and_fieldMask ?_) _ <;>
    simp (disch := omega) only [bits, cutHigh, cutLow, cut63, cut33, if_true, BitVec.reduceAppend, Nat.reduceSub, BitVec.extractLsb'_eq_self, BitVec.toNat_ofNat, BitVec.reduceExtractLsb', Nat.reducePow, Nat.reduceMod, BitVec.zeroExtend_eq_setWidth, BitVec.reduceSetWidth, BitVec.reduceAdd]

theorem rsplan (a : BitVec 6) (b : BitVec 6) (c : BitVec 6) : Statement (.rsplan a b c) := by
  refine statement_of rfl ((decodeRaw_major20 ?_).trans ?_) <;>
    simp (disch := omega) only [decodeMajor20, bits, cutHigh, cutLow, cut63, cut33, if_true, BitVec.reduceAppend, Nat.reduceSub, BitVec.extractLsb'_eq_self, BitVec.toNat_ofNat, BitVec.reduceExtractLsb', Nat.reducePow, Nat.reduceMod, BitVec.zeroExtend_eq_setWidth, BitVec.reduceSetWidth, BitVec.reduceAdd]
  refine zero_ok (show _ = fieldMask 0 4 from rfl) (and_fieldMask ?_) _ <;>
    simp (disch := omega) only [bits, cutHigh, cutLow, cut63, cut33, if_true, BitVec.reduceAppend, Nat.reduceSub, BitVec.extractLsb'_eq_self, BitVec.toNat_ofNat, BitVec.reduceExtractLsb', Nat.reducePow, Nat.reduceMod, BitVec.zeroExtend_eq_setWidth, BitVec.reduceSetWidth, BitVec.reduceAdd]

theorem tcopy (a : BitVec 6) (b : BitVec 6) (c : BitVec 6) : Statement (.tcopy a b c) := by
  refine statement_of rfl ((decodeRaw_major20 ?_).trans ?_) <;>
    simp (disch := omega) only [decodeMajor20, bits, cutHigh, cutLow, cut63, cut33, if_true, BitVec.reduceAppend, Nat.reduceSub, BitVec.extractLsb'_eq_self, BitVec.toNat_ofNat, BitVec.reduceExtractLsb', Nat.reducePow, Nat.reduceMod, BitVec.zeroExtend_eq_setWidth, BitVec.reduceSetWidth, BitVec.reduceAdd]
  refine zero_ok (show _ = fieldMask 0 4 from rfl) (and_fieldMask ?_) _ <;>
    simp (disch := omega) only [bits, cutHigh, cutLow, cut63, cut33, if_true, BitVec.reduceAppend, Nat.reduceSub, BitVec.extractLsb'_eq_self, BitVec.toNat_ofNat, BitVec.reduceExtractLsb', Nat.reducePow, Nat.reduceMod, BitVec.zeroExtend_eq_setWidth, BitVec.reduceSetWidth, BitVec.reduceAdd]

theorem tfill (a : BitVec 6) (b : BitVec 6) (c : BitVec 6) : Statement (.tfill a b c) := by
  refine statement_of rfl ((decodeRaw_major20 ?_).trans ?_) <;>
    simp (disch := omega) only [decodeMajor20, bits, cutHigh, cutLow, cut63, cut33, if_true, BitVec.reduceAppend, Nat.reduceSub, BitVec.extractLsb'_eq_self, BitVec.toNat_ofNat, BitVec.reduceExtractLsb', Nat.reducePow, Nat.reduceMod, BitVec.zeroExtend_eq_setWidth, BitVec.reduceSetWidth, BitVec.reduceAdd]
  refine zero_ok (show _ = fieldMask 0 4 from rfl) (and_fieldMask ?_) _ <;>
    simp (disch := omega) only [bits, cutHigh, cutLow, cut63, cut33, if_true, BitVec.reduceAppend, Nat.reduceSub, BitVec.extractLsb'_eq_self, BitVec.toNat_ofNat, BitVec.reduceExtractLsb', Nat.reducePow, Nat.reduceMod, BitVec.zeroExtend_eq_setWidth, BitVec.reduceSetWidth, BitVec.reduceAdd]

theorem tredf (a : BitVec 6) (b : BitVec 6) (c : BitVec 6) (o : BitVec 4) : Statement (.tredf a b c o) := by
  refine statement_if rfl (fun hc => (decodeRaw_major20 ?_).trans ?_)
  · simp (disch := omega) only [bits, cutHigh, cutLow, Nat.reduceSub, BitVec.extractLsb'_eq_self, BitVec.toNat_ofNat, BitVec.reduceExtractLsb', Nat.reducePow, Nat.reduceMod]
  have ho : ¬ 6#4 ≤ o := by simp [Instr.codeUnassigned] at hc; rw [BitVec.le_def]; simp; omega
  simp (disch := omega) only [decodeMajor20, bits, cutHigh, cutLow, Nat.reduceSub, BitVec.extractLsb'_eq_self, BitVec.toNat_ofNat, BitVec.reduceExtractLsb', Nat.reducePow, Nat.reduceMod, ho, if_false]

theorem signal (a : BitVec 6) (b : BitVec 6) (c : BitVec 6) (f : BitVec 4) : Statement (.signal a b c f) := by
  refine statement_of rfl ((decodeRaw_major21 ?_).trans ?_) <;>
    simp (disch := omega) only [decodeMajor21, bits, cutHigh, cutLow, cut63, cut33, if_true, BitVec.reduceAppend, Nat.reduceSub, BitVec.extractLsb'_eq_self, BitVec.toNat_ofNat, BitVec.reduceExtractLsb', Nat.reducePow, Nat.reduceMod, BitVec.zeroExtend_eq_setWidth, BitVec.reduceSetWidth, BitVec.reduceAdd]

theorem fflag (a : BitVec 6) (b : BitVec 6) (w : BitVec 1) : Statement (.fflag a b w) := by
  refine statement_of rfl ((decodeRaw_major21 ?_).trans ?_) <;>
    simp (disch := omega) only [decodeMajor21, bits, cutHigh, cutLow, cut63, cut33, if_true, BitVec.reduceAppend, Nat.reduceSub, BitVec.extractLsb'_eq_self, BitVec.toNat_ofNat, BitVec.reduceExtractLsb', Nat.reducePow, Nat.reduceMod, BitVec.zeroExtend_eq_setWidth, BitVec.reduceSetWidth, BitVec.reduceAdd]
  refine zero_ok (show _ = fieldMask 1 9 from rfl) (and_fieldMask ?_) _ <;>
    simp (disch := omega) only [bits, cutHigh, cutLow, cut63, cut33, if_true, BitVec.reduceAppend, Nat.reduceSub, BitVec.extractLsb'_eq_self, BitVec.toNat_ofNat, BitVec.reduceExtractLsb', Nat.reducePow, Nat.reduceMod, BitVec.zeroExtend_eq_setWidth, BitVec.reduceSetWidth, BitVec.reduceAdd]

theorem pbar (a : BitVec 6) : Statement (.pbar a) := by
  refine statement_of rfl ((decodeRaw_major21 ?_).trans ?_) <;>
    simp (disch := omega) only [decodeMajor21, bits, cutHigh, cutLow, cut63, cut33, if_true, BitVec.reduceAppend, Nat.reduceSub, BitVec.extractLsb'_eq_self, BitVec.toNat_ofNat, BitVec.reduceExtractLsb', Nat.reducePow, Nat.reduceMod, BitVec.zeroExtend_eq_setWidth, BitVec.reduceSetWidth, BitVec.reduceAdd]
  refine zero_ok (show _ = fieldMask 0 16 from rfl) (and_fieldMask ?_) _ <;>
    simp (disch := omega) only [bits, cutHigh, cutLow, cut63, cut33, if_true, BitVec.reduceAppend, Nat.reduceSub, BitVec.extractLsb'_eq_self, BitVec.toNat_ofNat, BitVec.reduceExtractLsb', Nat.reducePow, Nat.reduceMod, BitVec.zeroExtend_eq_setWidth, BitVec.reduceSetWidth, BitVec.reduceAdd]

theorem mcst (a : BitVec 6) (b : BitVec 6) (f : BitVec 4) : Statement (.mcst a b f) := by
  refine statement_of rfl ((decodeRaw_major21 ?_).trans ?_) <;>
    simp (disch := omega) only [decodeMajor21, bits, cutHigh, cutLow, cut63, cut33, if_true, BitVec.reduceAppend, Nat.reduceSub, BitVec.extractLsb'_eq_self, BitVec.toNat_ofNat, BitVec.reduceExtractLsb', Nat.reducePow, Nat.reduceMod, BitVec.zeroExtend_eq_setWidth, BitVec.reduceSetWidth, BitVec.reduceAdd]
  refine zero_ok (show _ = fieldMask 4 6 from rfl) (and_fieldMask ?_) _ <;>
    simp (disch := omega) only [bits, cutHigh, cutLow, cut63, cut33, if_true, BitVec.reduceAppend, Nat.reduceSub, BitVec.extractLsb'_eq_self, BitVec.toNat_ofNat, BitVec.reduceExtractLsb', Nat.reducePow, Nat.reduceMod, BitVec.zeroExtend_eq_setWidth, BitVec.reduceSetWidth, BitVec.reduceAdd]

theorem trap (n : BitVec 6) (b : BitVec 6) (g : BitVec 1) : Statement (.trap n b g) := by
  refine statement_of rfl ((decodeRaw_major22 ?_).trans ?_) <;>
    simp (disch := omega) only [decodeMajor22, bits, cutHigh, cutLow, cut63, cut33, if_true, BitVec.reduceAppend, Nat.reduceSub, BitVec.extractLsb'_eq_self, BitVec.toNat_ofNat, BitVec.reduceExtractLsb', Nat.reducePow, Nat.reduceMod, BitVec.zeroExtend_eq_setWidth, BitVec.reduceSetWidth, BitVec.reduceAdd]
  refine zero_ok (show _ = fieldMask 1 9 from rfl) (and_fieldMask ?_) _ <;>
    simp (disch := omega) only [bits, cutHigh, cutLow, cut63, cut33, if_true, BitVec.reduceAppend, Nat.reduceSub, BitVec.extractLsb'_eq_self, BitVec.toNat_ofNat, BitVec.reduceExtractLsb', Nat.reducePow, Nat.reduceMod, BitVec.zeroExtend_eq_setWidth, BitVec.reduceSetWidth, BitVec.reduceAdd]

theorem bkpt (n : BitVec 5) : Statement (.bkpt n) := by
  refine statement_of rfl ((decodeRaw_major22 ?_).trans ?_) <;>
    simp (disch := omega) only [decodeMajor22, bits, cutHigh, cutLow, cut63, cut33, if_true, BitVec.reduceAppend, Nat.reduceSub, BitVec.extractLsb'_eq_self, BitVec.toNat_ofNat, BitVec.reduceExtractLsb', Nat.reducePow, Nat.reduceMod, BitVec.zeroExtend_eq_setWidth, BitVec.reduceSetWidth, BitVec.reduceAdd]
  refine zero_ok (show _ = fieldMask 0 16 ||| fieldMask 21 1 from rfl) (and_or (and_fieldMask ?_) (and_fieldMask ?_)) _ <;>
    simp (disch := omega) only [bits, cutHigh, cutLow, cut63, cut33, if_true, BitVec.reduceAppend, Nat.reduceSub, BitVec.extractLsb'_eq_self, BitVec.toNat_ofNat, BitVec.reduceExtractLsb', Nat.reducePow, Nat.reduceMod, BitVec.zeroExtend_eq_setWidth, BitVec.reduceSetWidth, BitVec.reduceAdd]

theorem watch (a : BitVec 6) (b : BitVec 6) : Statement (.watch a b) := by
  refine statement_of rfl ((decodeRaw_major22 ?_).trans ?_) <;>
    simp (disch := omega) only [decodeMajor22, bits, cutHigh, cutLow, cut63, cut33, if_true, BitVec.reduceAppend, Nat.reduceSub, BitVec.extractLsb'_eq_self, BitVec.toNat_ofNat, BitVec.reduceExtractLsb', Nat.reducePow, Nat.reduceMod, BitVec.zeroExtend_eq_setWidth, BitVec.reduceSetWidth, BitVec.reduceAdd]
  refine zero_ok (show _ = fieldMask 0 10 from rfl) (and_fieldMask ?_) _ <;>
    simp (disch := omega) only [bits, cutHigh, cutLow, cut63, cut33, if_true, BitVec.reduceAppend, Nat.reduceSub, BitVec.extractLsb'_eq_self, BitVec.toNat_ofNat, BitVec.reduceExtractLsb', Nat.reducePow, Nat.reduceMod, BitVec.zeroExtend_eq_setWidth, BitVec.reduceSetWidth, BitVec.reduceAdd]

theorem gstop (a : BitVec 6) (b : BitVec 6) : Statement (.gstop a b) := by
  refine statement_of rfl ((decodeRaw_major22 ?_).trans ?_) <;>
    simp (disch := omega) only [decodeMajor22, bits, cutHigh, cutLow, cut63, cut33, if_true, BitVec.reduceAppend, Nat.reduceSub, BitVec.extractLsb'_eq_self, BitVec.toNat_ofNat, BitVec.reduceExtractLsb', Nat.reducePow, Nat.reduceMod, BitVec.zeroExtend_eq_setWidth, BitVec.reduceSetWidth, BitVec.reduceAdd]
  refine zero_ok (show _ = fieldMask 0 10 from rfl) (and_fieldMask ?_) _ <;>
    simp (disch := omega) only [bits, cutHigh, cutLow, cut63, cut33, if_true, BitVec.reduceAppend, Nat.reduceSub, BitVec.extractLsb'_eq_self, BitVec.toNat_ofNat, BitVec.reduceExtractLsb', Nat.reducePow, Nat.reduceMod, BitVec.zeroExtend_eq_setWidth, BitVec.reduceSetWidth, BitVec.reduceAdd]

theorem gresumeRetry (a : BitVec 6) (b : BitVec 6) (w : BitVec 1) : Statement (.gresumeRetry a b w) := by
  refine statement_of rfl ((decodeRaw_major22 ?_).trans ?_) <;>
    simp (disch := omega) only [decodeMajor22, bits, cutHigh, cutLow, cut63, cut33, if_true, BitVec.reduceAppend, Nat.reduceSub, BitVec.extractLsb'_eq_self, BitVec.toNat_ofNat, BitVec.reduceExtractLsb', Nat.reducePow, Nat.reduceMod, BitVec.zeroExtend_eq_setWidth, BitVec.reduceSetWidth, BitVec.reduceAdd]
  refine zero_ok (show _ = fieldMask 3 7 from rfl) (and_fieldMask ?_) _ <;>
    simp (disch := omega) only [bits, cutHigh, cutLow, cut63, cut33, if_true, BitVec.reduceAppend, Nat.reduceSub, BitVec.extractLsb'_eq_self, BitVec.toNat_ofNat, BitVec.reduceExtractLsb', Nat.reducePow, Nat.reduceMod, BitVec.zeroExtend_eq_setWidth, BitVec.reduceSetWidth, BitVec.reduceAdd]

theorem gresumeFmask (a : BitVec 6) (b : BitVec 6) (w : BitVec 1) : Statement (.gresumeFmask a b w) := by
  refine statement_of rfl ((decodeRaw_major22 ?_).trans ?_) <;>
    simp (disch := omega) only [decodeMajor22, bits, cutHigh, cutLow, cut63, cut33, if_true, BitVec.reduceAppend, Nat.reduceSub, BitVec.extractLsb'_eq_self, BitVec.toNat_ofNat, BitVec.reduceExtractLsb', Nat.reducePow, Nat.reduceMod, BitVec.zeroExtend_eq_setWidth, BitVec.reduceSetWidth, BitVec.reduceAdd]
  refine zero_ok (show _ = fieldMask 3 7 from rfl) (and_fieldMask ?_) _ <;>
    simp (disch := omega) only [bits, cutHigh, cutLow, cut63, cut33, if_true, BitVec.reduceAppend, Nat.reduceSub, BitVec.extractLsb'_eq_self, BitVec.toNat_ofNat, BitVec.reduceExtractLsb', Nat.reducePow, Nat.reduceMod, BitVec.zeroExtend_eq_setWidth, BitVec.reduceSetWidth, BitVec.reduceAdd]

theorem gresumeSkip (a : BitVec 6) (b : BitVec 6) (w : BitVec 1) : Statement (.gresumeSkip a b w) := by
  refine statement_of rfl ((decodeRaw_major22 ?_).trans ?_) <;>
    simp (disch := omega) only [decodeMajor22, bits, cutHigh, cutLow, cut63, cut33, if_true, BitVec.reduceAppend, Nat.reduceSub, BitVec.extractLsb'_eq_self, BitVec.toNat_ofNat, BitVec.reduceExtractLsb', Nat.reducePow, Nat.reduceMod, BitVec.zeroExtend_eq_setWidth, BitVec.reduceSetWidth, BitVec.reduceAdd]
  refine zero_ok (show _ = fieldMask 3 7 from rfl) (and_fieldMask ?_) _ <;>
    simp (disch := omega) only [bits, cutHigh, cutLow, cut63, cut33, if_true, BitVec.reduceAppend, Nat.reduceSub, BitVec.extractLsb'_eq_self, BitVec.toNat_ofNat, BitVec.reduceExtractLsb', Nat.reducePow, Nat.reduceMod, BitVec.zeroExtend_eq_setWidth, BitVec.reduceSetWidth, BitVec.reduceAdd]

theorem gkill (a : BitVec 6) (b : BitVec 6) : Statement (.gkill a b) := by
  refine statement_of rfl ((decodeRaw_major22 ?_).trans ?_) <;>
    simp (disch := omega) only [decodeMajor22, bits, cutHigh, cutLow, cut63, cut33, if_true, BitVec.reduceAppend, Nat.reduceSub, BitVec.extractLsb'_eq_self, BitVec.toNat_ofNat, BitVec.reduceExtractLsb', Nat.reducePow, Nat.reduceMod, BitVec.zeroExtend_eq_setWidth, BitVec.reduceSetWidth, BitVec.reduceAdd]
  refine zero_ok (show _ = fieldMask 0 10 from rfl) (and_fieldMask ?_) _ <;>
    simp (disch := omega) only [bits, cutHigh, cutLow, cut63, cut33, if_true, BitVec.reduceAppend, Nat.reduceSub, BitVec.extractLsb'_eq_self, BitVec.toNat_ofNat, BitVec.reduceExtractLsb', Nat.reducePow, Nat.reduceMod, BitVec.zeroExtend_eq_setWidth, BitVec.reduceSetWidth, BitVec.reduceAdd]

theorem csrrd (a : BitVec 6) (d : BitVec 6) : Statement (.csrrd a d) := by
  refine statement_of rfl ((decodeRaw_major22 ?_).trans ?_) <;>
    simp (disch := omega) only [decodeMajor22, bits, cutHigh, cutLow, cut63, cut33, if_true, BitVec.reduceAppend, Nat.reduceSub, BitVec.extractLsb'_eq_self, BitVec.toNat_ofNat, BitVec.reduceExtractLsb', Nat.reducePow, Nat.reduceMod, BitVec.zeroExtend_eq_setWidth, BitVec.reduceSetWidth, BitVec.reduceAdd]
  refine zero_ok (show _ = fieldMask 0 10 from rfl) (and_fieldMask ?_) _ <;>
    simp (disch := omega) only [bits, cutHigh, cutLow, cut63, cut33, if_true, BitVec.reduceAppend, Nat.reduceSub, BitVec.extractLsb'_eq_self, BitVec.toNat_ofNat, BitVec.reduceExtractLsb', Nat.reducePow, Nat.reduceMod, BitVec.zeroExtend_eq_setWidth, BitVec.reduceSetWidth, BitVec.reduceAdd]

theorem csrwr (a : BitVec 6) (b : BitVec 6) : Statement (.csrwr a b) := by
  refine statement_of rfl ((decodeRaw_major22 ?_).trans ?_) <;>
    simp (disch := omega) only [decodeMajor22, bits, cutHigh, cutLow, cut63, cut33, if_true, BitVec.reduceAppend, Nat.reduceSub, BitVec.extractLsb'_eq_self, BitVec.toNat_ofNat, BitVec.reduceExtractLsb', Nat.reducePow, Nat.reduceMod, BitVec.zeroExtend_eq_setWidth, BitVec.reduceSetWidth, BitVec.reduceAdd]
  refine zero_ok (show _ = fieldMask 0 10 from rfl) (and_fieldMask ?_) _ <;>
    simp (disch := omega) only [bits, cutHigh, cutLow, cut63, cut33, if_true, BitVec.reduceAppend, Nat.reduceSub, BitVec.extractLsb'_eq_self, BitVec.toNat_ofNat, BitVec.reduceExtractLsb', Nat.reducePow, Nat.reduceMod, BitVec.zeroExtend_eq_setWidth, BitVec.reduceSetWidth, BitVec.reduceAdd]

theorem tlbinv (a : BitVec 6) (r : BitVec 2) : Statement (.tlbinv a r) := by
  refine statement_of rfl ((decodeRaw_major22 ?_).trans ?_) <;>
    simp (disch := omega) only [decodeMajor22, bits, cutHigh, cutLow, cut63, cut33, if_true, BitVec.reduceAppend, Nat.reduceSub, BitVec.extractLsb'_eq_self, BitVec.toNat_ofNat, BitVec.reduceExtractLsb', Nat.reducePow, Nat.reduceMod, BitVec.zeroExtend_eq_setWidth, BitVec.reduceSetWidth, BitVec.reduceAdd]
  refine zero_ok (show _ = fieldMask 2 14 from rfl) (and_fieldMask ?_) _ <;>
    simp (disch := omega) only [bits, cutHigh, cutLow, cut63, cut33, if_true, BitVec.reduceAppend, Nat.reduceSub, BitVec.extractLsb'_eq_self, BitVec.toNat_ofNat, BitVec.reduceExtractLsb', Nat.reducePow, Nat.reduceMod, BitVec.zeroExtend_eq_setWidth, BitVec.reduceSetWidth, BitVec.reduceAdd]

theorem hrun (l : BitVec 5) (w : BitVec 12) (a : BitVec 4) (b : BitVec 4) : Statement (.hrun l w a b) := by
  refine statement_of rfl ((decodeRaw_major31 ?_).trans ?_) <;>
    simp (disch := omega) only [decodeMajor31, bits, cutHigh, cutLow, cut63, cut33, if_true, BitVec.reduceAppend, Nat.reduceSub, BitVec.extractLsb'_eq_self, BitVec.toNat_ofNat, BitVec.reduceExtractLsb', Nat.reducePow, Nat.reduceMod, BitVec.zeroExtend_eq_setWidth, BitVec.reduceSetWidth, BitVec.reduceAdd]

theorem hend (f : BitVec 4) (x : BitVec 7) (y : BitVec 7) (z : BitVec 7) : Statement (.hend f x y z) := by
  refine statement_of rfl ((decodeRaw_major31 ?_).trans ?_) <;>
    simp (disch := omega) only [decodeMajor31, bits, cutHigh, cutLow, cut63, cut33, if_true, BitVec.reduceAppend, Nat.reduceSub, BitVec.extractLsb'_eq_self, BitVec.toNat_ofNat, BitVec.reduceExtractLsb', Nat.reducePow, Nat.reduceMod, BitVec.zeroExtend_eq_setWidth, BitVec.reduceSetWidth, BitVec.reduceAdd]

theorem himm (p : BitVec 25) : Statement (.himm p) := by
  refine statement_of rfl ((decodeRaw_major31 ?_).trans ?_) <;>
    simp (disch := omega) only [decodeMajor31, bits, cutHigh, cutLow, cut63, cut33, if_true, BitVec.reduceAppend, Nat.reduceSub, BitVec.extractLsb'_eq_self, BitVec.toNat_ofNat, BitVec.reduceExtractLsb', Nat.reducePow, Nat.reduceMod, BitVec.zeroExtend_eq_setWidth, BitVec.reduceSetWidth, BitVec.reduceAdd]

theorem hmod (g : BitVec 1) (n : BitVec 1) (p : BitVec 3) (r : BitVec 1) (m : BitVec 3) (c : BitVec 1) (o : BitVec 3) (w : BitVec 3) (s : BitVec 3) : Statement (.hmod g n p r m c o w s) := by
  refine statement_of rfl ((decodeRaw_major31 ?_).trans ?_) <;>
    simp (disch := omega) only [decodeMajor31, bits, cutHigh, cutLow, cut63, cut33, if_true, BitVec.reduceAppend, Nat.reduceSub, BitVec.extractLsb'_eq_self, BitVec.toNat_ofNat, BitVec.reduceExtractLsb', Nat.reducePow, Nat.reduceMod, BitVec.zeroExtend_eq_setWidth, BitVec.reduceSetWidth, BitVec.reduceAdd]
  refine zero_ok (show _ = fieldMask 0 6 from rfl) (and_fieldMask ?_) _ <;>
    simp (disch := omega) only [bits, cutHigh, cutLow, cut63, cut33, if_true, BitVec.reduceAppend, Nat.reduceSub, BitVec.extractLsb'_eq_self, BitVec.toNat_ofNat, BitVec.reduceExtractLsb', Nat.reducePow, Nat.reduceMod, BitVec.zeroExtend_eq_setWidth, BitVec.reduceSetWidth, BitVec.reduceAdd]

theorem runStart : Statement .runStart := statement_of_event rfl

theorem resultCommit (i : Nat) : Statement (.resultCommit i) := statement_of_event rfl

theorem earlyDecision (i : Nat) : Statement (.earlyDecision i) := statement_of_event rfl

theorem queueTakeRecord (q : BitVec 6) : Statement (.queueTakeRecord q) := statement_of_event rfl

theorem placeCluster : Statement .placeCluster := statement_of_event rfl

theorem swapOut (c : Nat) : Statement (.swapOut c) := statement_of_event rfl

theorem launchComplete (grid : BitVec 48) : Statement (.launchComplete grid) := statement_of_event rfl

theorem gangSliceStart : Statement .gangSliceStart := statement_of_event rfl

theorem fetchArrival (id : Nat) : Statement (.fetchArrival id) := statement_of_event rfl

theorem commitComplete (id : Nat) : Statement (.commitComplete id) := statement_of_event rfl

theorem moduleCommandComplete (id : Nat) : Statement (.moduleCommandComplete id) := statement_of_event rfl

theorem fetchEngineReset : Statement .fetchEngineReset := statement_of_event rfl

theorem strudelPlanning : Statement .strudelPlanning := statement_of_event rfl

theorem boxComplete : Statement .boxComplete := statement_of_event rfl

theorem faultRecordPost : Statement .faultRecordPost := statement_of_event rfl

theorem frwait : Statement .frwait := statement_of_event rfl

theorem csrWrite (who : Writer) (num : BitVec 16) (value : BitVec 64) : Statement (.csrWrite who num value) := statement_of_event rfl

theorem ctxSave : Statement .ctxSave := statement_of_event rfl

theorem ctxRestore : Statement .ctxRestore := statement_of_event rfl

theorem ctxExport : Statement .ctxExport := statement_of_event rfl

theorem ctxImport : Statement .ctxImport := statement_of_event rfl

theorem ctxDiscard : Statement .ctxDiscard := statement_of_event rfl

theorem classAcknowledge (c : BitVec 3) : Statement (.classAcknowledge c) := statement_of_event rfl

theorem slowAcknowledgement : Statement .slowAcknowledgement := statement_of_event rfl

theorem flitReceive (l : LinkId) (flit : BitVec 1024) : Statement (.flitReceive l flit) := statement_of_event rfl

theorem replayTimeout (l : LinkId) : Statement (.replayTimeout l) := statement_of_event rfl

theorem laneLost (n : Nat) (pos : BitVec 5) (line : Bool) : Statement (.laneLost n pos line) := statement_of_event rfl

theorem laserLost (n : Nat) : Statement (.laserLost n) := statement_of_event rfl

theorem retrainingEnd (n : Nat) : Statement (.retrainingEnd n) := statement_of_event rfl

theorem linkTraining (n : Nat) : Statement (.linkTraining n) := statement_of_event rfl

theorem trainingEnd (n : Nat) (dark : BitVec 17) : Statement (.trainingEnd n dark) := statement_of_event rfl

theorem trainingTimeout (n : Nat) : Statement (.trainingTimeout n) := statement_of_event rfl

theorem laserAgeing (n : Nat) (ratio : BitVec 16) : Statement (.laserAgeing n ratio) := statement_of_event rfl

theorem e2eTimerExpiry (tag : BitVec 22) : Statement (.e2eTimerExpiry tag) := statement_of_event rfl

theorem responseReceive (pk : Packet) : Statement (.responseReceive pk) := statement_of_event rfl

theorem requestArrival (pk : Packet) : Statement (.requestArrival pk) := statement_of_event rfl

theorem requestRecordExpiry (src : BitVec 12) (tag : BitVec 22) : Statement (.requestRecordExpiry src tag) := statement_of_event rfl

theorem notResidentRetry (tag : BitVec 22) : Statement (.notResidentRetry tag) := statement_of_event rfl

theorem holdNotice (tag : BitVec 22) : Statement (.holdNotice tag) := statement_of_event rfl

theorem mergeHoldLapse (id : Nat) : Statement (.mergeHoldLapse id) := statement_of_event rfl

theorem relayForward (pk : Packet) : Statement (.relayForward pk) := statement_of_event rfl

theorem combineHoldExpiry (id : Nat) : Statement (.combineHoldExpiry id) := statement_of_event rfl

theorem routeMarkLapse (dst : BitVec 12) (col : Bool) : Statement (.routeMarkLapse dst col) := statement_of_event rfl

theorem cancel (pk : Packet) : Statement (.cancel pk) := statement_of_event rfl

theorem cancelTimeout (tag : BitVec 22) : Statement (.cancelTimeout tag) := statement_of_event rfl

theorem coalesceHoldExpiry (id : Nat) : Statement (.coalesceHoldExpiry id) := statement_of_event rfl

theorem signalData (pk : Packet) : Statement (.signalData pk) := statement_of_event rfl

theorem signalBusyRetry (tag : BitVec 22) : Statement (.signalBusyRetry tag) := statement_of_event rfl

theorem fflagStore (id : Nat) : Statement (.fflagStore id) := statement_of_event rfl

theorem mcstData (pk : Packet) : Statement (.mcstData pk) := statement_of_event rfl

theorem phaseBoundary : Statement .phaseBoundary := statement_of_event rfl

theorem podBarrierState (pk : Packet) : Statement (.podBarrierState pk) := statement_of_event rfl

theorem timePacket (master : BitVec 12) (time : BitVec 64) : Statement (.timePacket master time) := statement_of_event rfl

theorem timeSilence : Statement .timeSilence := statement_of_event rfl

theorem electionClaim : Statement .electionClaim := statement_of_event rfl

theorem claimReceive (rank : BitVec 4) (node : BitVec 12) : Statement (.claimReceive rank node) := statement_of_event rfl

theorem masterInstall : Statement .masterInstall := statement_of_event rfl

theorem secBind : Statement .secBind := statement_of_event rfl

theorem secPair : Statement .secPair := statement_of_event rfl

theorem secQuote : Statement .secQuote := statement_of_event rfl

theorem secSeal : Statement .secSeal := statement_of_event rfl

theorem secUnseal : Statement .secUnseal := statement_of_event rfl

theorem cksave (failed : Bool) : Statement (.cksave failed) := statement_of_event rfl

theorem ckrest (failed : Bool) : Statement (.ckrest failed) := statement_of_event rfl

theorem secUnbind : Statement .secUnbind := statement_of_event rfl

theorem bootGo : Statement .bootGo := statement_of_event rfl

theorem installEntry : Statement .installEntry := statement_of_event rfl

theorem minRst (die : BitVec 2) : Statement (.minRst die) := statement_of_event rfl

theorem supplySag (die : BitVec 2) : Statement (.supplySag die) := statement_of_event rfl

theorem clockStepUp (die : BitVec 2) : Statement (.clockStepUp die) := statement_of_event rfl

theorem thermalLimit (die : BitVec 2) (temp : BitVec 8) : Statement (.thermalLimit die temp) := statement_of_event rfl

theorem hostMemoryAccess (write : Bool) (addr : Nat) (bytes : List Byte) : Statement (.hostMemoryAccess write addr bytes) := statement_of_event rfl

theorem mgmtCsrRead (seq : BitVec 16) (num : BitVec 16) : Statement (.mgmtCsrRead seq num) := statement_of_event rfl

theorem mgmtCsrWrite (seq : BitVec 16) (num : BitVec 16) (value : BitVec 64) : Statement (.mgmtCsrWrite seq num value) := statement_of_event rfl

theorem mgmtSecurityCommand (seq : BitVec 16) (block : List Byte) : Statement (.mgmtSecurityCommand seq block) := statement_of_event rfl

theorem mgmtReply (msg : MgmtMessage) : Statement (.mgmtReply msg) := statement_of_event rfl

theorem packageReset : Statement .packageReset := statement_of_event rfl

theorem commitTileReadDone (id : Nat) : Statement (.commitTileReadDone id) := statement_of_event rfl

theorem pairTimeout : Statement .pairTimeout := statement_of_event rfl

theorem mgmtFrameRetry (seq : BitVec 16) : Statement (.mgmtFrameRetry seq) := statement_of_event rfl

theorem litIntervalStart : Statement .litIntervalStart := statement_of_event rfl

end Sys2Proof.Laws.RoundTrip
end

