-- ==== Sys2Proof/Safety.lean ====
section
/-! DEFINITION. What counts as a safe state and a safe step, and the frames of a word, in the terms that claims use. -/

namespace Sys2Proof.Safety

open Sys2Proof.Machine

/-! ## Invariants -/

/-- The three memories are in their canonical form, so that equal contents are equal data. -/
def Canonical (s : State) : Prop := s.mem.pkg.wf = true ∧ s.mem.tile.wf = true ∧ s.mem.far.wf = true

/-- The package holds a node number that a pod has (R23): 0 to 2,303. -/
def NodeInPod (s : State) : Prop := s.node.toNat < 2304

/-! ## Where a word stands -/

/-- The selected group runs: it has not ended, stopped or left its core (R303, R312). -/
def Running (s : State) : Prop := s.cur.alive = true ∧ s.cur.swapped = false ∧ s.cur.stop = none

/-- No run is open in the selected group. -/
def NoRun (s : State) : Prop := s.cur.run = none

/-- The selected fragment stands at a word of its own: no run is open, no hint is latched, nothing limits its lanes. -/
def AtPlainWord (s : State) : Prop :=
  s.cur.run = none ∧ s.cur.frag.hint = none ∧ s.cur.frag.limit = none

/-! ## Bytes -/

/-- A byte of package memory. -/
def pkgByte (s : State) (a : Nat) : Byte := sget 0#8 s.mem.pkg a

/-- A byte of tile memory, by CORE × 2^21 + physical tile address (R161). -/
def tileByte (s : State) (a : Nat) : Byte := sget 0#8 s.mem.tile a

/-- A byte of far memory, by module × 2^41 + module address (R240). -/
def farByte (s : State) (a : Nat) : Byte := sget 0#8 s.mem.far a

/-- Every byte of every memory reads as before. -/
def SameBytes (s t : State) : Prop :=
  ∀ a, pkgByte t a = pkgByte s a ∧ tileByte t a = tileByte s a ∧ farByte t a = farByte s a

/-- Every translation of `va` gives the leaf: the walk gives it whichever entry of a page it tests, no other leaf is cached
for the address, and no cached entry above it sends its walk to another table than memory does (R174 to R178). -/
def MapsTo (s : State) (va : Nat) (l : Leaf) : Prop :=
  (∀ x ∈ s.mem.leavesFor va, x = l) ∧ s.staleTables va = [] ∧ ∀ pick, walk s.mem s.ctxArea va pick = .ok l

/-- No word of package memory, of tile memory or of far memory is poisoned; no word of tile memory has an error to be found,
and no data bank has failed (R162, R165). -/
def NoPoison (s : State) : Prop :=
  s.mem.pkgPoison = [] ∧ s.mem.tilePoison = [] ∧ s.mem.farPoison = [] ∧ s.mem.tileFlaw = []
    ∧ ∀ e ∈ s.mem.tileErrors, e.2.failedData = 0#32

/-- Tile bytes that a matrix word of the selected group reads, with its mark of the latest MRDY and of its issue, have no
value but the one that stands (R209, R227). -/
def TilesSettled (s : State) (since issued : Nat) : Prop :=
  ∀ k, s.mem.earlyValues s.cur.id.key since issued k = [] ∧ s.mem.lateValues issued k = [] ∧ s.mem.epiValues k = []

/-! ## Frames -/

/-- Nothing but the selected group differs: no memory, no other group, no team, no engine, no record, no control
register, no free value drawn. -/
def OnlyGroup (s t : State) : Prop := t = { s with cur := t.cur } ∧ SameBytes s t

/-- The matrix state as a word leaves it: pending results stand as they were, but for the record of the lanes that the
group has written since (R209, R227). -/
def SameResults (x y : MatrixState) : Prop :=
  y = { x with results := y.results }
    ∧ y.results.map (fun e => { e with touched := 0#32 }) = x.results.map (fun e => { e with touched := 0#32 })

/-- In the selected group nothing but its registers, its current fragment and its open run differs. -/
def OnlyWord (s t : State) : Prop :=
  t.cur = { s.cur with regs := t.cur.regs, frag := t.cur.frag, run := t.cur.run, matrix := t.cur.matrix }
    ∧ SameResults s.cur.matrix t.cur.matrix

/-- The fragment has moved past the word: its program counter is `pc`, EXEC and its members are as before. -/
def MovedTo (s t : State) (pc : Addr) : Prop :=
  t.cur.frag = { s.cur.frag.movedTo pc with fuse := t.cur.frag.fuse }

/-- The word has completed: the program counter has advanced by 4 (R25), and nothing but registers and the open run of the
selected group differs. -/
def Passed (s t : State) : Prop := OnlyGroup s t ∧ OnlyWord s t ∧ MovedTo s t (s.cur.frag.pc + 4#57)

/-- The registers that the end of a word leaves alone: FSTAT and the flags f0 to f11 may follow words of a run that have
completed meanwhile (R90). Outside a run FSTAT gains `raised` and nothing else, and no run is open afterwards. -/
def Ended (s t : State) (raised : BitVec 8) : Prop :=
  (t.cur.regs.fstat &&& s.cur.regs.fstat = s.cur.regs.fstat)
    ∧ (s.cur.run = none →
        t.cur.run = none ∧ t.cur.regs.fstat = s.cur.regs.fstat ||| raised ∧ t.cur.regs.fpend = s.cur.regs.fpend)

/-- Of the registers only scalar registers (and what Ended allows) may differ. -/
def OnlyScalars (s t : State) : Prop :=
  t.cur.regs = { s.cur.regs with s := t.cur.regs.s, fstat := t.cur.regs.fstat, fpend := t.cur.regs.fpend }
    ∧ (∀ r, t.getRef r = s.getRef r) ∧ t.cur.matrix = s.cur.matrix

/-- Of the registers only condition flags may differ. -/
def OnlyConds (s t : State) : Prop :=
  t.cur.regs = { s.cur.regs with k := t.cur.regs.k, fstat := t.cur.regs.fstat, fpend := t.cur.regs.fpend }
    ∧ (∀ r, t.getRef r = s.getRef r) ∧ t.cur.matrix = s.cur.matrix

/-- Of the registers only predicates may differ. -/
def OnlyPreds (s t : State) : Prop :=
  t.cur.regs = { s.cur.regs with p := t.cur.regs.p, fstat := t.cur.regs.fstat, fpend := t.cur.regs.fpend }
    ∧ (∀ r, t.getRef r = s.getRef r) ∧ t.cur.matrix = s.cur.matrix

/-- Of the registers only vector registers and temporaries may differ. -/
def OnlyVectors (s t : State) : Prop :=
  t.cur.regs = { s.cur.regs with v := t.cur.regs.v, fstat := t.cur.regs.fstat, fpend := t.cur.regs.fpend }

/-- No register differs. -/
def NoRegs (s t : State) : Prop :=
  t.cur.regs = { s.cur.regs with fstat := t.cur.regs.fstat, fpend := t.cur.regs.fpend }
    ∧ (∀ r, t.getRef r = s.getRef r) ∧ t.cur.matrix = s.cur.matrix

/-- The word has completed and the fragment goes on at `pc`: nothing else differs. -/
def Jumped (s t : State) (pc : Addr) : Prop := t = { s with cur := { s.cur with frag := s.cur.frag.movedTo pc } }

/-- The fragment stands at its unit and waits: nothing else differs. -/
def WaitsFor (s t : State) (w : Wait) : Prop :=
  t = { s with cur := { s.cur with frag := { s.cur.frag with pc := s.unitPc, hint := none, wait := w, fuse := .none } } }

/-- The fragment waits for no answer of a peer package: its unit issues anew. -/
def NoPeerWait (s : State) : Prop := ∀ id, s.cur.frag.wait ≠ .peer id

/-! ## Traps -/

/-- The record of a stop of the selected group at its present unit (R317). -/
def StopRecord (s : State) (cause : Nat) (fmask : Mask) (r : Record) : Prop :=
  r.cause = cause ∧ r.pc = s.unitPc.toNat ∧ r.fmask = fmask ∧ r.time = s.time ∧ r.source = s.groupSource s.cur.id
    ∧ r.job = s.cur.id.job ∧ r.grid = s.cur.id.grid ∧ r.clu = s.cur.id.clu ∧ r.team = s.cur.id.team
    ∧ r.grp = s.cur.id.grp ∧ r.nfrag = s.cur.sibs.length + 1

/-- The group has stopped by a trap (R312): it is stopped with the cause, its fragment stands at the first word of its unit,
FMASK is written, no other register changes but the flags that words of its run have raised, no byte changes, and the record
of the stop has reached the fault unit, or a watch event more has been counted as lost (R321). -/
def Trapped (s t : State) (cause : Nat) (fmask : Mask) : Prop :=
  (∃ x, t.cur.stop = some x ∧ x.cause = cause)
    ∧ t.cur.frag.pc = s.unitPc ∧ t.cur.frag.hint = none
    ∧ t.cur.regs = { s.cur.regs with fmask := fmask, fstat := t.cur.regs.fstat }
    ∧ SameBytes s t
    ∧ ((∃ r ∈ t.fault.records, StopRecord s cause fmask r) ∨ t.fault.lost = min 255 (s.fault.lost + 1))

/-- A trap that changes nothing but the selected group and the fault unit. -/
def TrapOnly (s t : State) : Prop := t = { s with cur := t.cur, fault := t.fault, msi := t.msi }

end Sys2Proof.Safety
end

