-- ==== Sys2Proof/Certificates/Slice0/Obligations.lean ====
section
/-! DEFINITION. The statements for the provers, from the numbered rules of the manual, and the tables of results that they
speak of. -/

namespace Sys2Proof.Claims

open Sys2Proof.Machine Sys2Proof.Safety

/-! ## Scalar words (R92 to R98) -/

/-- Number of zero bits above the highest one bit (R93). -/
def zerosAbove (A : DWord) : Nat := ((List.range 64).find? (fun i => A.getLsbD (63 - i))).getD 64

/-- The table of R93, R94 and R96: the destination of a scalar form and the value written to it. -/
def scalarResult (s : State) : Instr → Option (BitVec 6 × DWord)
  | .sadd d a b => some (d, BitVec.ofNat 64 ((s.getS a).toNat + (s.getS b).toNat))
  | .ssub d a b => some (d, BitVec.ofInt 64 ((s.getS a).toNat - (s.getS b).toNat))
  | .smul d a b => some (d, BitVec.ofNat 64 ((s.getS a).toNat * (s.getS b).toNat))
  | .smulh d a b => some (d, BitVec.ofInt 64 ((s.getS a).toInt * (s.getS b).toInt / 2 ^ 64))
  | .sdiv d a b =>
    some (d, if s.getS b = 0#64 then BitVec.allOnes 64 else BitVec.ofInt 64 ((s.getS a).toInt.tdiv (s.getS b).toInt))
  | .srem d a b =>
    some (d, if s.getS b = 0#64 then s.getS a else
      BitVec.ofInt 64 ((s.getS a).toInt - (s.getS a).toInt.tdiv (s.getS b).toInt * (s.getS b).toInt))
  | .sand d a b => some (d, s.getS a &&& s.getS b)
  | .sor d a b => some (d, s.getS a ||| s.getS b)
  | .sxor d a b => some (d, s.getS a ^^^ s.getS b)
  | .sandn d a b => some (d, s.getS a &&& ~~~s.getS b)
  | .sshl d a b => some (d, BitVec.ofNat 64 ((s.getS a).toNat * 2 ^ ((s.getS b).toNat % 64)))
  | .sshr d a b => some (d, BitVec.ofNat 64 ((s.getS a).toNat / 2 ^ ((s.getS b).toNat % 64)))
  | .ssra d a b => some (d, BitVec.ofInt 64 ((s.getS a).toInt / 2 ^ ((s.getS b).toNat % 64)))
  | .srot d a b =>
    some (d, (s.getS a <<< ((s.getS b).toNat % 64)) ||| (s.getS a >>> (64 - (s.getS b).toNat % 64)))
  | .smin d a b => some (d, if (s.getS a).toInt ≤ (s.getS b).toInt then s.getS a else s.getS b)
  | .smax d a b => some (d, if (s.getS a).toInt ≤ (s.getS b).toInt then s.getS b else s.getS a)
  | .sminn d a b => some (d, if (s.getS a).toNat ≤ (s.getS b).toNat then s.getS a else s.getS b)
  | .smaxn d a b => some (d, if (s.getS a).toNat ≤ (s.getS b).toNat then s.getS b else s.getS a)
  | .sclz d a => some (d, BitVec.ofNat 64 (zerosAbove (s.getS a)))
  | .spop d a => some (d, BitVec.ofNat 64 ((List.range 64).countP (fun i => (s.getS a).getLsbD i)))
  | .sbrev d a => some (d, (s.getS a).reverse)
  | .ssextB8 d a => some (d, ((s.getS a).extractLsb' 0 8).signExtend 64)
  | .ssextB16 d a => some (d, ((s.getS a).extractLsb' 0 16).signExtend 64)
  | .ssextB32 d a => some (d, ((s.getS a).extractLsb' 0 32).signExtend 64)
  | .szextB8 d a => some (d, BitVec.ofNat 64 ((s.getS a).toNat % 2 ^ 8))
  | .szextB16 d a => some (d, BitVec.ofNat 64 ((s.getS a).toNat % 2 ^ 16))
  | .szextB32 d a => some (d, BitVec.ofNat 64 ((s.getS a).toNat % 2 ^ 32))
  | .ssel d a b k => some (d, if s.getK k = true then s.getS a else s.getS b)
  | .smov d a => some (d, s.getS a)
  | .slea d a b sh => some (d, BitVec.ofNat 64 ((s.getS a).toNat + (s.getS b).toNat * 2 ^ sh.toNat))
  | .saddi d i => some (d, s.getS d + s.imm64 i)
  | .sandi d i => some (d, s.getS d &&& s.imm64 i)
  | .sori d i => some (d, s.getS d ||| s.imm64 i)
  | .sxori d i => some (d, s.getS d ^^^ s.imm64 i)
  | .sshli d i => some (d, BitVec.ofNat 64 ((s.getS d).toNat * 2 ^ (i.toNat % 64)))
  | .sshri d i => some (d, BitVec.ofNat 64 ((s.getS d).toNat / 2 ^ (i.toNat % 64)))
  | .ssrai d i => some (d, BitVec.ofInt 64 ((s.getS d).toInt / 2 ^ (i.toNat % 64)))
  | .sli d i => some (d, s.imm64 i)
  | .slih d i => some (d, BitVec.ofNat 64 ((s.getS d).toNat * 2 ^ 16) ||| BitVec.ofNat 64 i.toNat)
  | .exrd d => some (d, BitVec.ofNat 64 s.cur.frag.exec.toNat)
  | .vball d p => some (d, BitVec.ofNat 64 (s.getP p &&& s.active).toNat)
  | .ppop d p => some (d, BitVec.ofNat 64 ((List.range 32).countP (fun l => (s.getP p).getLsbD l && s.active.getLsbD l)))
  | _ => none

/-- A condition of R95. -/
def condHolds {w : Nat} (c : BitVec 3) (A B : BitVec w) : Bool :=
  match c.toNat with
  | 0 => decide (A = B)
  | 1 => decide (A ≠ B)
  | 2 => decide (A.toInt < B.toInt)
  | 3 => decide (A.toInt ≤ B.toInt)
  | 4 => decide (A.toNat < B.toNat)
  | _ => decide (A.toNat ≤ B.toNat)

/-- The table of R98 and R24: the value that a selector reads as. -/
def selected (s : State) (e : BitVec 8) : Option DWord :=
  match e.toNat with
  | 0x00 => some (BitVec.ofNat 64 ((if s.cur.regs.ftz then 8 else 0) + s.cur.regs.roundMode.toNat))
  | 0x02 => some (BitVec.ofNat 64 s.cur.regs.fmask.toNat)
  | 0x03 => some (BitVec.ofNat 64 s.cur.frag.exec.toNat)
  | 0x04 => some (BitVec.ofNat 64 (8 * s.cur.regs.window.toNat))
  | 0x05 => some (BitVec.ofNat 64 s.cur.regs.k.toNat)
  | 0x06 => some (BitVec.ofNat 64 s.cur.regs.fflg.toNat)
  | 0x10 => some 32#64
  | 0x11 => some (BitVec.ofNat 64 s.cur.id.grp)
  | 0x12 => some (BitVec.ofNat 64 s.cur.id.team)
  | 0x13 => some (BitVec.ofNat 64 s.cur.id.clu)
  | 0x14 => some (BitVec.ofNat 64 (s.cur.id.grid % 2 ^ 48))
  | 0x15 => some (BitVec.ofNat 64 s.cur.id.core)
  | 0x16 => some (BitVec.ofNat 64 (s.cur.id.core / 256))
  | 0x17 => some (BitVec.ofNat 64 s.node.toNat)
  | 0x18 => some s.time
  | _ => none

/-- The registers that a write of `x` through a selector leaves (R14, R16, R19, R98): FRM, XW and KC. -/
def written (r : Regs) (e : BitVec 8) (x : DWord) : Regs :=
  match e.toNat with
  | 0x00 => { r with ftz := x.getLsbD 3, roundMode := if x.toNat % 8 ≤ 4 then BitVec.ofNat 3 x.toNat else r.roundMode }
  | 0x04 => { r with window := BitVec.ofNat 5 (x.toNat / 8) }
  | 0x05 => { r with k := BitVec.ofNat 4 x.toNat }
  | _ => r

/-! ## Predicates (R153) -/

/-- The table of R153: the predicate written and its new value in the active lanes. -/
def predResult (s : State) : Instr → Option (BitVec 3 × Mask)
  | .pand d a b => some (d, s.getP a &&& s.getP b)
  | .por d a b => some (d, s.getP a ||| s.getP b)
  | .pxor d a b => some (d, s.getP a ^^^ s.getP b)
  | .pnot d a => some (d, ~~~s.getP a)
  | .pmov d a => some (d, s.getP a)
  | .pset d n => some (d, BitVec.ofNat 32 (s.getS n).toNat)
  | _ => none

/-! ## Vector words with integer or bit results (R116, R119 to R124) -/

/-- A destination field, the source fields, and a lane's result from its number and its source words. -/
abbrev LaneTable := BitVec 7 × List (BitVec 7) × (Nat → List Word → Word)

def on1 (d a : BitVec 7) (f : Word → Word) : Option LaneTable := some (d, [a], fun _ xs => f (xs.getD 0 0#32))

def on2 (d a b : BitVec 7) (f : Word → Word → Word) : Option LaneTable :=
  some (d, [a, b], fun _ xs => f (xs.getD 0 0#32) (xs.getD 1 0#32))

def on3 (d a b : BitVec 7) (f : Word → Word → Word → Word) : Option LaneTable :=
  some (d, [a, b, d], fun _ xs => f (xs.getD 0 0#32) (xs.getD 1 0#32) (xs.getD 2 0#32))

def onD (d : BitVec 7) (f : Word → Word) : Option LaneTable := some (d, [d], fun _ xs => f (xs.getD 0 0#32))

def on0 (d : BitVec 7) (f : Nat → Word) : Option LaneTable := some (d, [], fun l _ => f l)

/-- The field of VBFE and VBFI that B names (R120): its lowest bit and its length, cut at bit 31. -/
def fieldAt (B : Word) : Nat × Nat := (B.toNat % 32, min (B.toNat / 256 % 64) (32 - B.toNat % 32))

/-- Byte `k` of the eight bytes of A and B, A's first; 8 to 15 select zero (R120). -/
def byteAt (A B : Word) (k : Nat) : Nat :=
  if k < 4 then A.toNat / 2 ^ (8 * k) % 256 else if k < 8 then B.toNat / 2 ^ (8 * (k - 4)) % 256 else 0

/-- The vector words whose result is an integer or a pattern of bits (R116, R119, R120, R122, R123, R124). -/
def intLanes (s : State) : Instr → Option LaneTable
  | .vsel d a b n => some (d, [a, b], fun l xs => if (s.getP n).getLsbD l then xs.getD 0 0#32 else xs.getD 1 0#32)
  | .viadd d a b => on2 d a b (fun A B => BitVec.ofNat 32 (A.toNat + B.toNat))
  | .visub d a b => on2 d a b (fun A B => BitVec.ofInt 32 (A.toNat - B.toNat))
  | .vimul d a b => on2 d a b (fun A B => BitVec.ofNat 32 (A.toNat * B.toNat))
  | .vimulhI32 d a b => on2 d a b (fun A B => BitVec.ofInt 32 (A.toInt * B.toInt / 2 ^ 32))
  | .vimulhN32 d a b => on2 d a b (fun A B => BitVec.ofNat 32 (A.toNat * B.toNat / 2 ^ 32))
  | .vimad d a b => on3 d a b (fun A B D => BitVec.ofNat 32 (A.toNat * B.toNat + D.toNat))
  | .vimin d a b => on2 d a b (fun A B => if A.toInt ≤ B.toInt then A else B)
  | .vimax d a b => on2 d a b (fun A B => if A.toInt ≤ B.toInt then B else A)
  | .viminn d a b => on2 d a b (fun A B => if A.toNat ≤ B.toNat then A else B)
  | .vimaxn d a b => on2 d a b (fun A B => if A.toNat ≤ B.toNat then B else A)
  | .viabs d a => on1 d a (fun A => BitVec.ofNat 32 A.toInt.natAbs)
  | .viand d a b => on2 d a b (fun A B => A &&& B)
  | .vior d a b => on2 d a b (fun A B => A ||| B)
  | .vixor d a b => on2 d a b (fun A B => A ^^^ B)
  | .viandn d a b => on2 d a b (fun A B => A &&& ~~~B)
  | .vishl d a b => on2 d a b (fun A B => BitVec.ofNat 32 (A.toNat * 2 ^ (B.toNat % 32)))
  | .vishr d a b => on2 d a b (fun A B => BitVec.ofNat 32 (A.toNat / 2 ^ (B.toNat % 32)))
  | .visra d a b => on2 d a b (fun A B => BitVec.ofInt 32 (A.toInt / 2 ^ (B.toNat % 32)))
  | .vpop d a => on1 d a (fun A => BitVec.ofNat 32 ((List.range 32).countP (fun i => A.getLsbD i)))
  | .vclz d a => on1 d a (fun A => BitVec.ofNat 32 (((List.range 32).find? (fun i => A.getLsbD (31 - i))).getD 32))
  | .vbfe d a b =>
    on2 d a b (fun A B => BitVec.ofNat 32 (A.toNat / 2 ^ (fieldAt B).1 % 2 ^ (fieldAt B).2))
  | .vbfi d a b =>
    on3 d a b (fun A B D => BitVec.ofNat 32
      (D.toNat / 2 ^ ((fieldAt B).1 + (fieldAt B).2) * 2 ^ ((fieldAt B).1 + (fieldAt B).2)
        + A.toNat % 2 ^ (fieldAt B).2 * 2 ^ (fieldAt B).1 + D.toNat % 2 ^ (fieldAt B).1))
  | .vprm d a b =>
    on3 d a b (fun A B D => BitVec.ofNat 32
      (byteAt A B (D.toNat % 16) + 2 ^ 8 * byteAt A B (D.toNat / 2 ^ 4 % 16) + 2 ^ 16 * byteAt A B (D.toNat / 2 ^ 8 % 16)
        + 2 ^ 24 * byteAt A B (D.toNat / 2 ^ 12 % 16)))
  | .viaddImm d i => onD d (fun A => A + s.imm32 i)
  | .viandImm d i => onD d (fun A => A &&& s.imm32 i)
  | .viorImm d i => onD d (fun A => A ||| s.imm32 i)
  | .vixorImm d i => onD d (fun A => A ^^^ s.imm32 i)
  | .vishlImm d i => onD d (fun A => BitVec.ofNat 32 (A.toNat * 2 ^ (i.toNat % 32)))
  | .vishrImm d i => onD d (fun A => BitVec.ofNat 32 (A.toNat / 2 ^ (i.toNat % 32)))
  | .visraImm d i => onD d (fun A => BitVec.ofInt 32 (A.toInt / 2 ^ (i.toNat % 32)))
  | .vmoviF32 d i => on0 d (fun _ => s.immF32 i)
  | .vmoviB32 d i => on0 d (fun _ => s.imm32 i)
  | .vmoviF16x2 d i => on0 d (fun _ => i ++ i)
  | .vmoviF8e4x2 d i => on0 d (fun _ => i ++ i)
  | .vmoviF8e5x2 d i => on0 d (fun _ => i ++ i)
  | .vabs d a => on1 d a (fun A => BitVec.ofNat 32 (A.toNat % 2 ^ 31))
  | .vneg d a => on1 d a (fun A => A ^^^ 0x80000000#32)
  | .vmov d a => on1 d a id
  | .vmovLane d => on0 d (fun l => BitVec.ofNat 32 l)
  | .vmovs d n => on0 d (fun _ => BitVec.ofNat 32 (s.getS n).toNat)
  | _ => none

/-! ## Vector words that round (R113, R114, R117, R118, R122, R123) -/

/-- A destination field, the source fields, and a lane's result with the flags it raises. -/
abbrev FloatTable := BitVec 7 × List (BitVec 7) × (List Word → FOut)

/-- The effective rounding mode and flush of a word (R55, R57); it saturates nothing. -/
def envOf (s : State) : FEnv := { mode := s.mode, ftz := s.cur.regs.ftz, sat := false }

/-- The value of a lane's word in the i-th source. -/
def src (xs : List Word) (i : Nat) : Nat := (xs.getD i 0#32).toNat

/-- The FP32 words of majors 5, 8 and 9 (R113, R114, R122, R123). -/
def floatLanes (s : State) : Instr → Option FloatTable
  | .vadd d a b => some (d, [a, b], fun xs => fAdd .fp32 (envOf s) (src xs 0) (src xs 1))
  | .vsub d a b => some (d, [a, b], fun xs => fSub .fp32 (envOf s) (src xs 0) (src xs 1))
  | .vmul d a b => some (d, [a, b], fun xs => fMul .fp32 (envOf s) (src xs 0) (src xs 1))
  | .vfma d a b => some (d, [a, b, d], fun xs => fFma .fp32 (envOf s) false false (src xs 0) (src xs 1) (src xs 2))
  | .vfms d a b => some (d, [a, b, d], fun xs => fFma .fp32 (envOf s) false true (src xs 0) (src xs 1) (src xs 2))
  | .vfnma d a b => some (d, [a, b, d], fun xs => fFma .fp32 (envOf s) true false (src xs 0) (src xs 1) (src xs 2))
  | .vfnms d a b => some (d, [a, b, d], fun xs => fFma .fp32 (envOf s) true true (src xs 0) (src xs 1) (src xs 2))
  | .vdiv d a b => some (d, [a, b], fun xs => fDiv .fp32 (envOf s) (src xs 0) (src xs 1))
  | .vmin d a b => some (d, [a, b], fun xs => fMin .fp32 (envOf s) (src xs 0) (src xs 1))
  | .vmax d a b => some (d, [a, b], fun xs => fMax .fp32 (envOf s) (src xs 0) (src xs 1))
  | .vclamp d a b => some (d, [a, b, d], fun xs => fClamp .fp32 (envOf s) (src xs 0) (src xs 1) (src xs 2))
  | .vscale d a b => some (d, [a, b], fun xs => fScale (envOf s) (src xs 0) (xs.getD 1 0#32).toInt)
  | .vaddImm d i => some (d, [d], fun xs => fAdd .fp32 (envOf s) (src xs 0) (s.immF32 i).toNat)
  | .vmulImm d i => some (d, [d], fun xs => fMul .fp32 (envOf s) (src xs 0) (s.immF32 i).toNat)
  | .vminImm d i => some (d, [d], fun xs => fMin .fp32 (envOf s) (src xs 0) (s.immF32 i).toNat)
  | .vmaxImm d i => some (d, [d], fun xs => fMax .fp32 (envOf s) (src xs 0) (s.immF32 i).toNat)
  | .vsqrt d a => some (d, [a], fun xs => fSqrt (envOf s) (src xs 0))
  | .vrsq d a => some (d, [a], fun xs => fRsq (envOf s) (src xs 0))
  | .vrcp d a => some (d, [a], fun xs => fRcp (envOf s) (src xs 0))
  | .vexp2 d a => some (d, [a], fun xs => fExp2 (envOf s) (src xs 0))
  | .vlog2 d a => some (d, [a], fun xs => fLog2 (envOf s) (src xs 0))
  | .vsinp d a => some (d, [a], fun xs => fSinPi (envOf s) (src xs 0))
  | .vcosp d a => some (d, [a], fun xs => fCosPi (envOf s) (src xs 0))
  | .vtanh d a => some (d, [a], fun xs => fTanh (envOf s) (src xs 0))
  | .vrnd d a => some (d, [a], fun xs => fRnd (envOf s) (src xs 0))
  | .vgetexp d a => some (d, [a], fun xs => fGetExp (envOf s) (src xs 0))
  | .vgetman d a => some (d, [a], fun xs => fGetMan (envOf s) (src xs 0))
  | .vdot2 d a b t =>
    some (d, [a, b, d], fun xs => fDot (typeOf t) (envOf s) [elem t xs 0 0, elem t xs 0 1] [elem t xs 1 0, elem t xs 1 1]
      (src xs 2))
  | .vdot4 d a b t =>
    some (d, [a, b, d], fun xs => fDot (typeOf (2#2 + t.zeroExtend 2)) (envOf s)
      ((List.range 4).map (elem (2#2 + t.zeroExtend 2) xs 0)) ((List.range 4).map (elem (2#2 + t.zeroExtend 2) xs 1))
      (src xs 2))
  | _ => none
where
  /-- The element type of a pair (R117). -/
  typeOf (t : BitVec 2) : Fmt := if t = 0#2 then .bf16 else if t = 1#2 then .fp16 else if t = 2#2 then .e4m3 else .e5m2
  /-- Element `i` of source `k` (R110). -/
  elem (t : BitVec 2) (xs : List Word) (k i : Nat) : Nat :=
    if t.toNat < 2 then src xs k / 2 ^ (16 * i) % 2 ^ 16 else src xs k / 2 ^ (8 * i) % 2 ^ 8

/-- The two results of a pair in a lane's word (R110): an FP8 pair leaves bits 31:16 zero. -/
def packed (t : BitVec 2) (e0 e1 : FOut) : FOut :=
  (if t.toNat < 2 then e1.1 % 2 ^ 16 * 2 ^ 16 + e0.1 % 2 ^ 16 else e1.1 % 2 ^ 8 * 2 ^ 8 + e0.1 % 2 ^ 8, e0.2 ||| e1.2)

/-- The packed words of major 6 (R117): each element by the operation of R113 or R114. -/
def packedLanes (s : State) : Instr → Option FloatTable
  | .vaddPair d a b t => two d a b t (fAdd (floatLanes.typeOf t) (envOf s))
  | .vsubPair d a b t => two d a b t (fSub (floatLanes.typeOf t) (envOf s))
  | .vmulPair d a b t => two d a b t (fMul (floatLanes.typeOf t) (envOf s))
  | .vminPair d a b t => two d a b t (fMin (floatLanes.typeOf t) (envOf s))
  | .vmaxPair d a b t => two d a b t (fMax (floatLanes.typeOf t) (envOf s))
  | .vfmaPair d a b t => three d a b t (fFma (floatLanes.typeOf t) (envOf s) false false)
  | .vfmsPair d a b t => three d a b t (fFma (floatLanes.typeOf t) (envOf s) false true)
  | .vfnmaPair d a b t => three d a b t (fFma (floatLanes.typeOf t) (envOf s) true false)
  | .vfnmsPair d a b t => three d a b t (fFma (floatLanes.typeOf t) (envOf s) true true)
  | .vclampPair d a b t => three d a b t (fClamp (floatLanes.typeOf t) (envOf s))
  | _ => none
where
  two (d a b : BitVec 7) (t : BitVec 2) (f : Nat → Nat → FOut) : Option FloatTable :=
    some (d, [a, b], fun xs =>
      packed t (f (floatLanes.elem t xs 0 0) (floatLanes.elem t xs 1 0))
        (f (floatLanes.elem t xs 0 1) (floatLanes.elem t xs 1 1)))
  three (d a b : BitVec 7) (t : BitVec 2) (f : Nat → Nat → Nat → FOut) : Option FloatTable :=
    some (d, [a, b, d], fun xs =>
      packed t (f (floatLanes.elem t xs 0 0) (floatLanes.elem t xs 1 0) (floatLanes.elem t xs 2 0))
        (f (floatLanes.elem t xs 0 1) (floatLanes.elem t xs 1 1) (floatLanes.elem t xs 2 1)))

/-- The flags that the active lanes raise together (R20, R58). -/
def raisedBy (s : State) (f : Nat → BitVec 8) : BitVec 8 :=
  ((List.range 32).filter (fun l => s.active.getLsbD l)).foldl (fun x l => x ||| f l) 0#8

/-- A vector word of one destination register whose lane results are `f`, from source registers `rs` (R111, R112). -/
def WritesLanes (s : State) (i : Instr) (rd : RegRef) (rs : List RegRef) (f : List Word → FOut) : Prop :=
  ∃ t, exec i s = .next t
    ∧ (∀ l, l < 32 → laneOf (t.getRef rd) l =
        if s.active.getLsbD l then BitVec.ofNat 32 (f (rs.map (fun r => laneOf (s.getRef r) l))).1 else laneOf (s.getRef rd) l)
    ∧ (∀ r, r ≠ rd → t.getRef r = s.getRef r) ∧ Passed s t ∧ OnlyVectors s t
    ∧ Ended s t (raisedBy s (fun l => (f (rs.map (fun r => laneOf (s.getRef r) l))).2))

/-! ## Predicate results of vector words (R115, R121) -/

/-- The condition of VCMP and VCMPC and the flag it raises, from the numbers compared (R115). -/
def fpCondition (s : State) (c : BitVec 3) (a b : Nat) : Bool × BitVec 8 :=
  let x := unpackIn s.cur.regs.ftz .fp32 a
  let y := unpackIn s.cur.regs.ftz .fp32 b
  let nan := numIsNan x || numIsNan y
  let quiet := if numSignals x || numSignals y then 1#8 else 0#8
  let loud := if nan then 1#8 else 0#8
  match c.toNat with
  | 0 => (!nan && numEq x y, quiet)
  | 1 => (nan || !numEq x y, quiet)
  | 2 => (!nan && numLt x y, loud)
  | 3 => (!nan && (numLt x y || numEq x y), loud)
  | 4 => (!nan && numLt y x, loud)
  | 5 => (!nan && (numLt y x || numEq x y), loud)
  | 6 => (nan, quiet)
  | _ => (!nan, quiet)

/-- A vector word that writes predicate `p` in active lanes from two source registers. -/
def WritesPredicate (s : State) (i : Instr) (p : BitVec 3) (ra rb : RegRef) (f : Word → Word → Bool × BitVec 8) : Prop :=
  ∃ t, exec i s = .next t
    ∧ (∀ l, l < 32 → (t.getP p).getLsbD l = if s.active.getLsbD l then (f (laneOf (s.getRef ra) l) (laneOf (s.getRef rb) l)).1
        else (s.getP p).getLsbD l)
    ∧ (∀ q, q ≠ p → t.getP q = s.getP q) ∧ Passed s t ∧ OnlyPreds s t
    ∧ Ended s t (raisedBy s (fun l => (f (laneOf (s.getRef ra) l) (laneOf (s.getRef rb) l)).2))

/-! ## Conversions (R41, R66, R125) -/

/-- The 64-bit value of a source block: the register named and, for a 64-bit element, the next (R110). -/
def blockValue (s : State) (rs : List RegRef) (l : Nat) : Nat :=
  (rs.zipIdx.map (fun r => (laneOf (s.getRef r.1) l).toNat * 2 ^ (32 * r.2))).sum

/-- An integer type code of R41: width and signedness; none for a floating type. -/
def intType (t : BitVec 4) : Option (Nat × Bool) :=
  if t.toNat < 8 then none else some (8 * 2 ^ (t.toNat % 4), decide (t.toNat < 12))

/-- Registers of an element of a type (R110). -/
def typeRegs (t : BitVec 4) : Nat := if t = 11#4 || t = 15#4 then 2 else 1

/-- The integer that the low bits of a value stand for. -/
def asInt (w : Nat) (signed : Bool) (x : Nat) : Int :=
  if signed && decide (2 ^ (w - 1) ≤ x % 2 ^ w) then (x % 2 ^ w : Nat) - 2 ^ w else (x % 2 ^ w : Nat)

/-- The nearest integer of a type (R66 with SAT). -/
def clampTo (w : Nat) (signed : Bool) (v : Int) : Int :=
  let lo : Int := if signed then -(2 ^ (w - 1)) else 0
  let hi : Int := if signed then 2 ^ (w - 1) - 1 else 2 ^ w - 1
  max lo (min hi v)

/-! ## Cross-lane words (R143, R144, R147 to R150) -/

/-- The source lane of an active lane `l` of a permutation (R142 to R144, R150); none where the lane keeps its value. -/
def sourceLane (s : State) (rb : RegRef) (l : Nat) : Instr → Option Nat
  | .vshfl _ _ _ => if (laneOf (s.getRef rb) l).toNat < 32 then some (laneOf (s.getRef rb) l).toNat else none
  | .vrotw _ _ g n =>
    let seg := if g.toNat < 4 then 2 ^ (g.toNat + 1) else if g = 4#3 then 16 else 32
    some (l - l % seg + (l % seg + n.toNat) % seg)
  | .vxorw _ _ m => some ((BitVec.ofNat 5 l ^^^ m).toNat)
  | .vbcst _ _ j => some j.toNat
  | .vbcstFirst _ _ => some (((List.range 32).find? (fun k => s.active.getLsbD k)).getD 0)
  | .vcomp _ _ p =>
    -- the k-th selected lane gives its value to the k-th active lane
    (((List.range 32).filter (fun k => s.active.getLsbD k && (s.getP p).getLsbD k))[
      ((List.range l).filter (fun k => s.active.getLsbD k)).length]?)
  | _ => none

/-- The destination and source fields of a permutation, with VSHFL's index field. -/
def permFields : Instr → Option (BitVec 7 × BitVec 7 × BitVec 7)
  | .vshfl d a b => some (d, a, b)
  | .vrotw d a _ _ => some (d, a, a)
  | .vxorw d a _ => some (d, a, a)
  | .vbcst d a _ => some (d, a, a)
  | .vbcstFirst d a => some (d, a, a)
  | .vcomp d a _ => some (d, a, a)
  | _ => none

/-- An operation of R145 on two values, with the flags it raises: FP32 add, minimum and maximum; add modulo 2^32, signed
and natural minimum and maximum, bitwise, add modulo 2^64. -/
def reduceOp (env : FEnv) (o : BitVec 4) (x y : DWord) : DWord × BitVec 8 :=
  let lo (n : DWord) : Word := BitVec.ofNat 32 n.toNat
  let up (n : Word) : DWord := BitVec.ofNat 64 n.toNat
  let fp (r : FOut) : DWord × BitVec 8 := (BitVec.ofNat 64 r.1, r.2)
  match o.toNat with
  | 0 => fp (fAdd .fp32 env (lo x).toNat (lo y).toNat)
  | 1 => fp (fMin .fp32 env (lo x).toNat (lo y).toNat)
  | 2 => fp (fMax .fp32 env (lo x).toNat (lo y).toNat)
  | 3 => (up (lo x + lo y), 0#8)
  | 4 => (if (lo x).toInt ≤ (lo y).toInt then up (lo x) else up (lo y), 0#8)
  | 5 => (if (lo x).toInt ≤ (lo y).toInt then up (lo y) else up (lo x), 0#8)
  | 6 => (if (lo x).toNat ≤ (lo y).toNat then up (lo x) else up (lo y), 0#8)
  | 7 => (if (lo x).toNat ≤ (lo y).toNat then up (lo y) else up (lo x), 0#8)
  | 8 => (up (lo x &&& lo y), 0#8)
  | 9 => (up (lo x ||| lo y), 0#8)
  | 10 => (up (lo x ^^^ lo y), 0#8)
  | _ => (x + y, 0#8)

/-- The identities of R145. -/
def reduceUnit (o : BitVec 4) : DWord :=
  match o.toNat with
  | 1 => 0x7F800000#64
  | 2 => 0xFF800000#64
  | 4 => 0x7FFFFFFF#64
  | 5 => 0x80000000#64
  | 6 => 0xFFFFFFFF#64
  | 8 => 0xFFFFFFFF#64
  | _ => 0#64

/-- An op over the values of lanes in ascending order (R147, R148): the exact FP32 sum rounded once for .f32.add, a fold
for every other op. A fold of .f32.min or .f32.max begins with Min(x, x) or Max(x, x): the model's choice, log 8. -/
def reduceOver (env : FEnv) (o : BitVec 4) (v : Nat → DWord) : List Nat → DWord × BitVec 8
  | [] => (reduceUnit o, 0#8)
  | l :: ls =>
    if o = 0#4 then
      let r := fSum env ((l :: ls).map (fun k => (v k).toNat % 2 ^ 32))
      (BitVec.ofNat 64 r.1, r.2)
    else
      ls.foldl (fun x k => ((reduceOp env o x.1 (v k)).1, x.2 ||| (reduceOp env o x.1 (v k)).2))
        (if o = 1#4 ∨ o = 2#4 then reduceOp env o (v l) (v l) else (v l, 0#8))

/-- The active lanes below a number, ascending. -/
def activeBelow (s : State) (n : Nat) : List Nat := (List.range n).filter (fun l => s.active.getLsbD l)

/-- A value extended to 64 bits as R147 says: .i32 ops by sign, other 32-bit ops by zeros. -/
def reduceScalar (o : BitVec 4) (x : DWord) : DWord :=
  if o = 3#4 ∨ o = 4#4 ∨ o = 5#4 then (BitVec.ofNat 32 x.toNat).signExtend 64 else x

/-- Registers of a value of an op code (R145). -/
def opRegs (o : BitVec 4) : Nat := if o = 11#4 then 2 else 1


/-! ## Control (R99 to R104, R136 to R139) -/

/-- PC + 4 × the sign-extended offset, modulo 2^57 (R99, R101). -/
def offsetTarget {w : Nat} (s : State) (o : BitVec w) : Addr := BitVec.ofInt 57 (s.cur.frag.pc.toNat + 4 * o.toInt)

/-- The address after the word. -/
def after (s : State) : Addr := s.cur.frag.pc + 4#57

/-- The table of R99, and NOP of R103: where the fragment goes on. -/
def goesOn (s : State) : Instr → Option Addr
  | .nop => some (after s)
  | .bra o => some (offsetTarget s o)
  | .bk k o => some (if s.getK k = true then offsetTarget s o else after s)
  | .bkNot k o => some (if s.getK k = true then after s else offsetTarget s o)
  | .bpAny p o =>
    some (if (List.range 32).any (fun l => s.cur.frag.exec.getLsbD l && (s.getP p).getLsbD l) then offsetTarget s o else after s)
  | .bpAll p o =>
    some (if (List.range 32).any (fun l => s.cur.frag.exec.getLsbD l)
        && (List.range 32).all (fun l => !s.cur.frag.exec.getLsbD l || (s.getP p).getLsbD l) then offsetTarget s o else after s)
  | _ => none

/-- What a split entry says (R136), without the place where it stands. -/
def entryData (e : SplitEntry) : Nat × Addr × Mask × Nat := (e.id, e.join, e.held, e.parent)

/-- The fragment of a group that has not yet gone on from a split: the masks, the entry and the address (R101). -/
def splitFrag (s : State) (m : Mask) (pc : Addr) (e : Nat) : Frag :=
  { s.cur.frag.movedTo pc with member := m, exec := m, entry := e }

/-- The selected fragment belongs to a split entry that reconverges at its own address (R102, R136). -/
def atJoin (s : State) (en : SplitEntry) : Prop :=
  s.cur.entries.find? (fun x => x.id == s.cur.frag.entry && x.join == s.cur.frag.pc) = some en

/-- Every other fragment of the entry waits at its JOIN, and no child entry is left (R136). -/
def mayFuse (s : State) (en : SplitEntry) : Prop :=
  (∀ e ∈ s.cur.entries, e.parent ≠ en.id) ∧ (∀ f ∈ s.cur.sibs, f.entry = en.id → f.wait = .join)

/-! ## Barriers (R155 to R160) -/

/-- A word that arrives at a barrier (R155): kind, barrier, scope, explicit count, does a fragment go on after the arrival? -/
def arrivalWord (s : State) : Instr → Option (Nat × Nat × Nat × Option Nat × Bool)
  | .tbar n b r c => some (0, b.toNat, c.toNat, if n = 1#1 then some (s.getS r).toNat else none, false)
  | .tbara n b r c => some (0, b.toNat, c.toNat, if n = 1#1 then some (s.getS r).toNat else none, true)
  | .cbar n b r c => some (1, b.toNat, c.toNat, if n = 1#1 then some (s.getS r).toNat else none, false)
  | _ => none

/-- The barrier of the group's team (0) or cluster (1). -/
def barrierOf (s : State) (kind b : Nat) : Barrier :=
  if kind = 0 then sget Barrier.reset s.team.bars b else sget Barrier.reset s.cluster.bars b

/-- The default count (R157): groups of the team or of the cluster that have not ended. -/
def defaultCount (s : State) (kind : Nat) : Nat :=
  ((s.cur :: s.others).filter (fun g => g.alive && g.id.grid == s.cur.id.grid && g.id.clu == s.cur.id.clu
    && (kind != 0 || g.id.team == s.cur.id.team))).length

/-- The count of an arrival, when it raises no barrier-count fault (R157): within its range, and the phase's count. -/
def countFits (s : State) (kind b : Nat) (cnt : Option Nat) : Prop :=
  (∀ n, cnt = some n → 1 ≤ n ∧ n ≤ (if kind = 0 then 16 else 192))
    ∧ match (barrierOf s kind b).count with
      | none => True
      | some (true, c) => cnt.getD (defaultCount s kind) = c
      | some (false, _) => cnt.getD (defaultCount s kind) = defaultCount s kind

/-- The barrier after the arrival (R157): a phase further when its arrivals have reached the count. -/
def barrierAfter (s : State) (kind b : Nat) (cnt : Option Nat) (x : Barrier) : Prop :=
  let n := cnt.getD (defaultCount s kind)
  let old := barrierOf s kind b
  if n ≤ old.arrived + 1 then x = { phase := old.phase + 1, count := none, arrived := 0, who := [] }
  else x.phase = old.phase ∧ x.arrived = old.arrived + 1 ∧ (∃ e, x.count = some (e, n))
    ∧ x.who = (s.cur.id.team, s.cur.id.grp) :: old.who

/-- No store of the package is on its way to its home, here or at a peer (R184). -/
def NoStoreOut (s : State) : Prop := s.fabric.held = [] ∧ s.fabric.txns = [] ∧ s.mem.late = []

/-- The group stands in a team and a cluster of the package. -/
def Placed (s : State) : Prop :=
  (∃ t ∈ s.teams, t.grid = s.cur.id.grid ∧ t.clu = s.cur.id.clu ∧ t.team = s.cur.id.team)
    ∧ (∃ c ∈ s.clusters, c.grid = s.cur.id.grid ∧ c.clu = s.cur.id.clu)

/-- What an acquire does to the state: at a scope from .clu on no line of the core's L1 is left, of this package or of a peer,
below nothing happens. -/
def AcquiredL1 (s t : State) (scope : Nat) : Prop :=
  if 3 ≤ scope then
    (∀ src line, line < 2 ^ 24 → src < 4096 → sget none t.mem.l1 (l1Key s.cur.id.core src line) = none)
      ∧ ∀ node pa, node < 4096 → pa < 2 ^ 31 → sget none t.mem.peerL1 (peerKey s.cur.id.core node pa) = none
  else t.mem = s.mem

/-! ## Lane accesses (R105 to R109, R171, R179 to R191) -/

/-- A lane-access word of majors 12 to 14: access code of R316, space, bytes, scope (0: weak), order, the field and the number
of the block's registers, the base, the index field. -/
structure LaneForm where
  acc : Nat
  space : Nat
  size : Nat
  scope : Nat
  order : Nat
  field : BitVec 7
  regs : Nat
  base : BitVec 6
  index : Option (BitVec 7)

/-- Registers that hold `n` bytes (R106). -/
def dataRegs (n : Nat) : Nat := if n ≤ 4 then 1 else n / 4

/-- A word of major 14 (R180, R181): order, width and space from its HMOD; none when the combination is not permitted. -/
def strongForm (s : State) (acc : Nat) (d : BitVec 7) (b : BitVec 6) (v : BitVec 7) (c : BitVec 3) (orders widths : List Nat)
    (blocks : Nat) : Option LaneForm :=
  let order := match s.hmod with | some h => h.xorder.toNat | none => 0
  let size := match s.hmod with
    | some h => if h.xwidth = 0#3 then 4 else if h.xwidth = 1#3 then 8 else if h.xwidth = 2#3 then 16
        else if h.xwidth = 3#3 then 1 else 2
    | none => 4
  let space := match s.hmod with | some h => h.xspace.toNat | none => 0
  if order ∈ orders ∧ size ∈ widths ∧ space ≤ 2 ∧ (space = 1 → 3 ≤ c.toNat) then
    some { acc := acc, space := space, size := size, scope := c.toNat, order := order, field := d,
           regs := blocks * dataRegs size, base := b, index := if v = 127#7 then none else some v }
  else none

/-- A weak word of major 12 or 13 (R105, R106). -/
def weakForm (acc : Nat) (d : BitVec 7) (b : BitVec 6) (v : BitVec 7) (w : BitVec 3) (x : BitVec 4) : Option LaneForm :=
  if w.toNat ≤ 4 ∧ x.toNat % 8 ≤ 2 then
    some { acc := acc, space := x.toNat % 8, size := 2 ^ w.toNat, scope := 0, order := 0, field := d,
           regs := dataRegs (2 ^ w.toNat), base := b, index := if 8 ≤ x.toNat then some v else none }
  else none

/-- The lane-access words of many lanes. -/
def laneForm (s : State) : Instr → Option LaneForm
  | .ld d b v w x => weakForm 0 d b v w x
  | .st d b v w x => weakForm 1 d b v w x
  | .scopedLd d b v c => strongForm s 0 d b v c [0, 1, 4] [1, 2, 4, 8, 16] 1
  | .scopedSt d b v c => strongForm s 1 d b v c [0, 2, 4] [1, 2, 4, 8, 16] 1
  | .cas d b v c => strongForm s 3 d b v c [0, 1, 2, 3, 4] [4, 8, 16] 2
  | .atomAdd d b v c => strongForm s 2 d b v c [0, 1, 2, 3, 4] [4, 8] 1
  | .atomAnd d b v c => strongForm s 2 d b v c [0, 1, 2, 3, 4] [4, 8] 1
  | .atomOr d b v c => strongForm s 2 d b v c [0, 1, 2, 3, 4] [4, 8] 1
  | .atomXor d b v c => strongForm s 2 d b v c [0, 1, 2, 3, 4] [4, 8] 1
  | .atomMin d b v c => strongForm s 2 d b v c [0, 1, 2, 3, 4] [4, 8] 1
  | .atomMax d b v c => strongForm s 2 d b v c [0, 1, 2, 3, 4] [4, 8] 1
  | .atomMinn d b v c => strongForm s 2 d b v c [0, 1, 2, 3, 4] [4, 8] 1
  | .atomMaxn d b v c => strongForm s 2 d b v c [0, 1, 2, 3, 4] [4, 8] 1
  | .atomExch d b v c => strongForm s 2 d b v c [0, 1, 2, 3, 4] [4, 8] 1
  | .atomFadd d b v c => strongForm s 2 d b v c [0, 1, 2, 3, 4] [4] 1
  | _ => none

/-- The value that a storing word leaves in the `n` bytes of a lane, from the lane's block `v` and the old value (R106, R188,
R190, R191); none stores nothing. -/
def newDatum (n : Nat) (v old : Nat) : Instr → Option Nat
  | .st .. => some (v % 2 ^ (8 * n))
  | .scopedSt .. => some (v % 2 ^ (8 * n))
  | .cas .. => if old = v % 2 ^ (8 * n) then some (v / 2 ^ (8 * n)) else none
  | .atomAdd .. => some ((old + v) % 2 ^ (8 * n))
  | .atomAnd .. => some (old &&& v)
  | .atomOr .. => some (old ||| v)
  | .atomXor .. => some (old ^^^ v)
  | .atomMin .. => some (if asInt (8 * n) true v < asInt (8 * n) true old then v else old)
  | .atomMax .. => some (if asInt (8 * n) true old < asInt (8 * n) true v then v else old)
  | .atomMinn .. => some (if v < old then v else old)
  | .atomMaxn .. => some (if old < v then v else old)
  | .atomExch .. => some v
  | .atomFadd .. => some (fAdd .fp32 { mode := 0, ftz := false, sat := false } old v).1
  | _ => none

/-- The registers of a form (R13, R107): its block `ds` and its index. -/
def Resolves (s : State) (w : LaneForm) (ds : List RegRef) (idx : Option RegRef) : Prop :=
  s.straddles w.field.toNat w.regs = false ∧ s.refs w.field.toNat w.regs = some ds ∧ w.field.toNat + w.regs ≤ 128
    ∧ match w.index with
      | none => idx = none
      | some v => ∃ r, s.ref v.toNat = some r ∧ idx = some r

/-- Effective address of a lane (R105, R182): base, constant and index, an exact sum. -/
def laneEa (s : State) (b : BitVec 6) (idx : Option RegRef) (l : Nat) : Nat :=
  (s.getS b).toNat + (match s.himm with | some p => p.toNat | none => 0)
    + (match idx with | some r => (laneOf (s.getRef r) l).toNat | none => 0)

/-- The address is good and names local bytes (R29, R30, R171, R179): in tile space, in cluster tile space, or in a local page
whose leaf permits the access. -/
def Reaches (s : State) (space acc size ea : Nat) (pl : Place) : Prop :=
  ea % size = 0 ∧
    ((space = 0 ∧ ea + size ≤ s.team.bytes ∧ pl = .tile s.team.core (s.team.key ea))
    ∨ (space = 1 ∧ ∃ t, s.teamOf (ea / 2 ^ 24) = some t ∧ ea / 2 ^ 24 < 16 ∧ ea / 2 ^ 24 < s.cluster.rows * s.cluster.cols
        ∧ ea % 2 ^ 24 + size ≤ t.bytes ∧ pl = .tile t.core (t.key (ea % 2 ^ 24)))
    ∨ (space = 2 ∧ ea + size ≤ 2 ^ 57 ∧ ∃ l, MapsTo s ea l ∧ l.kind = 1 ∧ (acc ≠ 1 → l.read = true) ∧ (acc ≠ 0 → l.write = true)
        ∧ pl = .pkg (leafPhys l ea)))

/-- The address is bad, with the cause of the lane's fault (R109, R171, R179, R315, R316). -/
def Faulty (s : State) (space acc size ea cause : Nat) : Prop :=
  let code (cls : Nat) : Prop := cause = 32 * cls + 4 * space + acc
  (ea % size ≠ 0 ∧ code 5)
    ∨ (ea % size = 0 ∧ space = 0 ∧ s.team.bytes < ea + size ∧ code 6)
    ∨ (ea % size = 0 ∧ space = 1 ∧ code 6 ∧
        (16 ≤ ea / 2 ^ 24 ∨ s.cluster.rows * s.cluster.cols ≤ ea / 2 ^ 24
          ∨ ∃ t, s.teamOf (ea / 2 ^ 24 % 16) = some t ∧ t.bytes < ea % 2 ^ 24 + size))
    ∨ (ea % size = 0 ∧ space = 2 ∧ 2 ^ 57 < ea + size ∧ code 7)
    ∨ (ea % size = 0 ∧ space = 2 ∧ ea + size ≤ 2 ^ 57 ∧ ∃ f, s.mem.leavesFor ea = [] ∧ s.staleTables ea = []
        ∧ (∀ pick, walk s.mem s.ctxArea ea pick = .error f)
        ∧ code (match f with | .translation => 7 | .format => 8 | .poison => 9))
    ∨ (ea % size = 0 ∧ space = 2 ∧ ea + size ≤ 2 ^ 57 ∧ ∃ l, MapsTo s ea l
        ∧ ((acc ≠ 1 ∧ l.read = false) ∨ (acc ≠ 0 ∧ l.write = false)) ∧ code 10)
    ∨ (ea % size = 0 ∧ space = 2 ∧ ea + size ≤ 2 ^ 57 ∧ ∃ l, MapsTo s ea l
        ∧ (acc ≠ 1 → l.read = true) ∧ (acc ≠ 0 → l.write = true) ∧ l.kind = 3 ∧ code 11)

/-- The number of a place's first byte in its memory. -/
def placeKey : Place → Nat
  | .tile _ k => k
  | .pkg a => a
  | .peer _ a => a

/-- The `n` bytes of a memory from `a`, little-endian (R6). -/
def bytesAt (f : Nat → Byte) (a n : Nat) : Nat := leNat ((List.range n).map (fun i => f (a + i)))

/-- A memory after `n` bytes from `a` have been written. -/
def bytesSet (f : Nat → Byte) (a n v : Nat) : Nat → Byte :=
  fun k => if a ≤ k ∧ k < a + n then BitVec.ofNat 8 (v / 2 ^ (8 * (k - a))) else f k

/-- Lanes act in turn on a memory (R106, R189): what it holds afterwards, and the old value that each lane found. -/
def lanesInTurn (n : Nat) (at_ : Nat → Nat) (new : Nat → Nat → Option Nat) : List Nat → (Nat → Byte) → (Nat → Byte) × (Nat → Nat)
  | [], f => (f, fun _ => 0)
  | l :: ls, f =>
    let old := bytesAt f (at_ l) n
    let r := lanesInTurn n at_ new ls (match new l old with | some v => bytesSet f (at_ l) n v | none => f)
    (r.1, fun k => if k = l then old else r.2 k)

/-- What a load may find at a place (R173, R184): the bytes at the home or, in package memory and below .clu, those of an older
line of the core's L1. -/
def LoadFinds (s : State) (scope n : Nat) (pl : Place) (v : Nat) : Prop :=
  match pl with
  | .tile _ k => v = bytesAt (tileByte s) k n
  | .pkg a => v = bytesAt (pkgByte s) a n
      ∨ (scope < 3 ∧ ∃ old, sget none s.mem.l1 (l1Key s.cur.id.core 0 (a / 128)) = some old
          ∧ v = leNat ((old.drop (a % 128)).take n))
  | .peer .. => False

/-- No watchpoint is set in any group, of the package or saved (R326, R344). -/
def NoWatch (s : State) : Prop := ∀ g ∈ s.cur :: s.others ++ s.ctx.saved.flatMap (·.groups), g.watch = []

/-- The translation of `va` reads no byte of `touched` (R174, R178). -/
def WalkApart (s : State) (touched : Nat → Prop) (va : Nat) : Prop :=
  ∀ m : Mem, m.jptb = s.mem.jptb → m.pkgPoison = [] → (∀ a, ¬touched a → sget 0#8 m.pkg a = pkgByte s a) →
    (∀ pick, walk m s.ctxArea va pick = walk s.mem s.ctxArea va pick)
      ∧ walkTables m s.ctxArea va 4 m.root = walkTables s.mem s.ctxArea va 4 s.mem.root

/-- The lanes of the list in a mask, ascending. -/
def lanesIn (m : Mask) : List Nat := (List.range 32).filter (fun l => m.getLsbD l)

/-- The next state of a word that touches no more than its group's registers, the memories and the caches of them. -/
def OnlyMemory (s t : State) : Prop :=
  t = { s with cur := t.cur, mem := t.mem, fresh := t.fresh } ∧ t.mem.far = s.mem.far ∧ t.mem.jptb = s.mem.jptb

/-- The memory that an access space names. -/
def spaceByte (s : State) (space : Nat) : Nat → Byte := if space = 2 then pkgByte s else tileByte s

/-- A register block holds `v` in lane `l`, in the first `n` bytes' registers (R106). -/
def blockHolds (t : State) (ds : List RegRef) (n l v : Nat) : Prop :=
  ∀ k r, k < dataRegs n → ds[k]? = some r → laneOf (t.getRef r) l = BitVec.ofNat 32 (v / 2 ^ (32 * k))

/-- What every lane access below starts from: no word of tile or package memory is unreadable, no watchpoint and no store of
the package stands in its way, no MEPI waits for its MWAIT (R227), and the word has served no lane yet (R189). -/
def AccessReady (s : State) : Prop :=
  NoPeerWait s ∧ NoPoison s ∧ NoWatch s ∧ NoStoreOut s ∧ s.mem.epi = [] ∧ s.cur.part = none

/-! ## Traps, selections, control registers (R312 to R337) -/

/-- The words that only a privileged group may issue (R323, R334). -/
def isPrivileged : Instr → Bool
  | .gstop .. => true
  | .gresumeRetry .. => true
  | .gresumeFmask .. => true
  | .gresumeSkip .. => true
  | .gkill .. => true
  | .csrrd .. => true
  | .csrwr .. => true
  | .tlbinv .. => true
  | _ => false

/-- Does a control word of WATCH describe a slot for address `A` (R326)? -/
def watchFits (A c : DWord) : Prop :=
  let f (lo n : Nat) : Nat := c.toNat / 2 ^ lo % 2 ^ n
  f 4 1 = 1 ∧ f 21 43 = 0 ∧ f 10 1 = 0 ∧ f 5 3 = 0 ∧ f 2 2 = 0 ∧ 2 ≤ f 16 5 ∧ f 16 5 ≤ 30 ∧ f 8 2 ≤ 2
    ∧ A.toNat % 2 ^ f 16 5 = 0 ∧ (f 11 1 = 1 → f 8 2 = 2) ∧ (f 15 1 = 1 → f 13 1 = 1)

/-- The slot that it describes. -/
def watchSlot (A c : DWord) : WatchSlot :=
  { addr := A.toNat, lg := c.toNat / 2 ^ 16 % 32, space := c.toNat / 2 ^ 8 % 4, exec := c.getLsbD 11, read := c.getLsbD 12,
    write := c.getLsbD 13, atomic := c.getLsbD 14, async := c.getLsbD 15 }

/-- A reserved value in the selection registers (R329). -/
def selectionReserved (sel member : DWord) : Prop :=
  sel.toNat / 2 ^ 62 = 3 ∨ sel.toNat / 2 ^ 48 % 2 ^ 14 ≠ 0 ∨ (sel.toNat / 2 ^ 62 = 0 ∧ member.toNat / 2 ^ 8 % 2 ^ 24 ≠ 0)

/-- Is the live group of the selection (R329)? -/
def chosen (s : State) (sel member : DWord) (g : Group) : Bool :=
  g.alive && g.id.job == s.cur.id.job &&
    (if sel.toNat / 2 ^ 62 = 0 then
      g.id.grid % 2 ^ 48 == sel.toNat % 2 ^ 48 && g.id.clu == member.toNat / 2 ^ 32 && g.id.team == member.toNat / 16 % 16
        && g.id.grp == member.toNat % 16
    else if sel.toNat / 2 ^ 62 = 1 then g.id.grid % 2 ^ 48 == sel.toNat % 2 ^ 48
    else true)

/-- Live groups have identities of their own (R23). -/
def DistinctGroups (s : State) : Prop :=
  (((s.cur :: s.others).filter (·.alive)).map (fun g => (g.id.grid, g.id.clu, g.id.team, g.id.grp))).Nodup

/-- The fragment that caused the stop goes on as GRESUME says (R331): 0 .retry, 1 .fmask, 2 .skip. -/
def goesOnBy (mode : Nat) (nowatch : Bool) (st : Stop) (fmask : Mask) (f : Frag) : Frag :=
  if st.frag = 0#32 ∨ f.member ≠ st.frag then f
  else if st.modal = false ∨ mode = 0 then { f with nowatch := nowatch }
  else if mode = 1 then { f with nowatch := nowatch, limit := some fmask }
  else { f with nowatch := nowatch, pc := st.skipTo, hint := none, wait := .ready, fuse := .none }

/-- The words GSTOP, GRESUME and GKILL: selection registers, and what they do to a group chosen (R330 to R332). -/
def selectionWord : Instr → Option (BitVec 6 × BitVec 6 × (Group → Group))
  | .gstop a b => some (a, b, fun g =>
      if g.stop.isSome then g
      else { g with regs := { g.regs with fmask := 0#32 },
                    stop := some { cause := 896, frag := 0#32, modal := false, skipTo := 0#57 } })
  | .gresumeRetry a b w => some (a, b, resume 0 (decide (w = 1#1)))
  | .gresumeFmask a b w => some (a, b, resume 1 (decide (w = 1#1)))
  | .gresumeSkip a b w => some (a, b, resume 2 (decide (w = 1#1)))
  | .gkill a b => some (a, b, fun g =>
      { g with alive := false, sibs := [], entries := [], run := none, hend := [], stop := none, cmdFaults := [], part := none,
               due := [], matrix := { g.matrix with latch := none } })
  | _ => none
where
  /-- A stopped group starts again (R331). -/
  resume (mode : Nat) (nowatch : Bool) (g : Group) : Group :=
    match g.stop with
    | none => g
    | some st =>
      { g with stop := none, frag := goesOnBy mode nowatch st g.regs.fmask g.frag,
               sibs := g.sibs.map (goesOnBy mode nowatch st g.regs.fmask) }

/-- The bits that a write of a CSR stores, for registers that store a mask of the value written (R7 and the CSR tables);
0 for a read-only register. -/
def csrStores (num : Nat) : Option (BitVec 64) :=
  if num = 0x121 then some 0x7FFFF000#64
  else if num = 0x130 then some (BitVec.allOnes 64)
  else if num = 0x132 then some 0xBF#64
  else if num = 0x143 then some 0xFFFFFFFF#64
  else if num = 0x154 then some 0x7FFFF000#64
  else if 0x1000 ≤ num ∧ num < 0x2000 then some 0xFFFFFFFF#64
  else none

/-- Registers that a write leaves alone (access RO). -/
def csrReadOnly (num : Nat) : Bool :=
  num == 0x142 || num == 0x144 || num == 0x151 || num == 0x155 || num == 0x166 || num == 0x171 || num == 0x172 || num == 0x173
    || num == 0x174 || num == 0x175 || num == 0x177

/-- The eight words of a fault record (R317). -/
def recordWords (r : Record) : List Nat :=
  [r.time.toNat, r.source.toNat * 2 ^ 32 + r.cause % 2 ^ 10, r.job.toNat * 2 ^ 48 + r.grid % 2 ^ 48,
   r.clu % 2 ^ 32 * 2 ^ 32 + r.core % 2 ^ 10 * 2 ^ 22 + (if r.inRun then 2 ^ 8 else 0) + r.team % 16 * 2 ^ 4 + r.grp % 16,
   r.pc % 2 ^ 57, r.nfrag % 2 ^ 8 * 2 ^ 40 + r.fmask.toNat, r.addr % 2 ^ 64, r.aux.toNat]

/-- The fault ring takes records: it is enabled and has room (R321). -/
def RingOpen (s : State) : Prop :=
  s.fault.enable = true ∧ (s.fault.tail - s.fault.head).toNat < 2 ^ (s.fault.logEntries.toNat + 4)

/-- The power register set of a die (R424). -/
def powerAt (s : State) (d : BitVec 2) : Power := sget Power.reset s.power d.toNat

/-- A number of `n` bytes at offset `o` of the command block that SECCMD names (R409). -/
def commandNum (s : State) (o n : Nat) : Nat := bytesAt (pkgByte s) (s.sec.block.toNat * 256 + o) n

/-- The job of the command. -/
def commandJob (s : State) : BitVec 16 := BitVec.ofNat 16 (commandNum s 2 2)

/-- SECCMD has started command `code`, no PAIR waits, and the block's bytes in the ranges of `unused` are zero (R410). -/
def CommandStarted (s : State) (code : Nat) (unused : List (Nat × Nat)) : Prop :=
  s.sec.start = true ∧ s.sec.pair = none ∧ commandNum s 0 1 = code
    ∧ ∀ r ∈ unused, ∀ k, r.1 ≤ k → k < r.2 → pkgByte s (s.sec.block.toNat * 256 + k) = 0#8

/-- The command has ended with a result (R409, R425). -/
def CommandEnds (s t : State) (r : BitVec 4) : Prop :=
  t.sec.start = false ∧ t.sec.result = r ∧ t.sec.pair = none ∧ t.msi = s.msi ++ [3]

/-- It has ended with a result and left the security state as it was (R410). -/
def CommandFails (s t : State) (r : BitVec 4) : Prop :=
  CommandEnds s t r ∧ t.sec.slots = s.sec.slots ∧ t.sec.tags = s.sec.tags ∧ t.sec.safe = s.sec.safe
    ∧ t.sec.podPairs = s.sec.podPairs ∧ SameBytes s t

/-- A number of `n` bytes at offset `o` of a command block that a management frame carries, and whether the block's bytes from
`a` to `b - 1` are zero (R427). -/
def frameNum (block : List Byte) (o n : Nat) : Nat := leNat ((List.range n).map (fun i => block.getD (o + i) 0#8))
def frameZero (block : List Byte) (a b : Nat) : Prop := ∀ i, a ≤ i → i < b → block.getD i 0#8 = 0#8

/-- The management port answers frame `seq` with a value, once (R427). -/
def FrameAnswered (s t : State) (seq : BitVec 16) (g : Frame) (value : BitVec 64) : Prop :=
  t.mgmt.out = s.mgmt.out ++ [g] ∧ t.mgmt.seen = s.mgmt.seen ++ [(seq, g)] ∧ g.op = 4 ∧ g.seq = seq ∧ g.value = value

/-- The host windows of BIND (R410). -/
def bindWindows (s : State) : List (Nat × Nat) :=
  (List.range 4).map (fun i => (commandNum s (80 + 16 * i) 8, commandNum s (88 + 16 * i) 8))

/-- The modules of CKSAVE and CKREST (R410). -/
def commandModules (s : State) : List Nat := (List.range (commandNum s 10 2)).map (fun i => commandNum s 8 2 + i)

/-- The checkpoint of a module in the safe-tier slot that the command names (R417). -/
def checkpointOf (s : State) (m : Nat) : Option Checkpoint :=
  s.sec.safe.find? (fun c => c.slot == commandNum s 12 4 && c.job == commandJob s && c.module == m)

/-- Far lines of a module that are tagged with keys (R412, R417). -/
def taggedLine (s : State) (m : Nat) (keys : BitVec 384) (line v : Nat) : Prop :=
  line / 2 ^ 33 = m ∧ (line, some (keys, v)) ∈ s.sec.tags

/-! ## Matrix words (R212 to R239) -/

/-- Bits lo + n − 1 to lo of a word, as a number. -/
def bitsOf (x : DWord) (lo n : Nat) : Nat := x.toNat / 2 ^ lo % 2 ^ n

/-- Tile `n` of the team is entry `e`, defined and in one of the states (R167, R169). -/
def HasTile (s : State) (n : Nat) (e : TileEntry) (sts : List TileState) : Prop :=
  n < s.team.tabCount ∧ sget TileEntry.reset s.mem.table (s.team.entryKey n) = e ∧ e.defined = true ∧ e.st ∈ sts

/-- A block of `k` registers from field value `f` lies within the fields and within the allotment (R13, R215). -/
def BlockFits (s : State) (f k : Nat) : Prop := k = 0 ∨ (f + k ≤ 128 ∧ f + k + s.xw ≤ s.cur.id.vregs)

/-- The registers of a block, by effective number (R13). -/
def blockOf (s : State) (f k : Nat) : List Nat := (List.range k).map (fun j => f + j + s.xw)

/-- Elements of a row or column: k, or Keff for MMAS (R213). -/
def keffOf (y : DWord) (sparse : Bool) : Nat := (if sparse then 2 else 1) * classOf (bitsOf y 0 4)

/-- Block length L (R216). -/
def lenOf (y : DWord) (sparse : Bool) : Nat :=
  if bitsOf y 8 3 = 2 then 32 else if bitsOf y 8 3 = 3 then 16 else if bitsOf y 8 3 = 4 then 8 else keffOf y sparse

/-- Number of blocks nb (R217). -/
def blocksOf (y : DWord) (sparse : Bool) : Nat := keffOf y sparse / lenOf y sparse

/-- The format block is valid (R216, R217). -/
def FormatFits (y : DWord) (sparse : Bool) : Prop :=
  bitsOf y 48 16 = 0 ∧ bitsOf y 22 1 = 0 ∧ bitsOf y 8 3 ≤ 4 ∧ bitsOf y 0 4 ≤ 6 ∧ bitsOf y 4 4 ≤ 6
    ∧ classOf (bitsOf y 0 4) = classOf (bitsOf y 4 4) ∧ keffOf y sparse % lenOf y sparse = 0 ∧ blocksOf y sparse ≤ 4
    ∧ bitsOf y 20 2 + blocksOf y sparse ≤ 4
    ∧ (bitsOf y 8 3 = 0 → bitsOf y 11 2 = 0 ∧ bitsOf y 13 7 = 0 ∧ bitsOf y 20 2 = 0 ∧ bitsOf y 24 24 = 0)

/-- Metadata registers of an MMAS (R220). -/
def metasOf (y : DWord) (sparse : Bool) : Nat :=
  if sparse then (match classOf (bitsOf y 0 4) with | 16 => 1 | 32 => 2 | 40 => 3 | _ => 4) else 0

/-- Octets with an active lane (R212). -/
def octetsOf (m : Mask) : List Nat := (List.range 4).filter (fun o => (List.range 8).any (fun i => m.getLsbD (8 * o + i)))

/-- Where octet `o` reads B and its scales in the tile: offset and bytes of each (R214 to R217). -/
def bPlace (x y : DWord) (sparse : Bool) (o : Nat) : (Nat × Nat) × (Nat × Nat) :=
  ((bitsOf x 24 24 + o * bitsOf x 48 8 * 512, if sparse then 1024 else 512),
    (bitsOf y 24 24 + o * bitsOf x 48 8 * 512, if bitsOf y 8 3 = 0 then 0 else 16 * blocksOf y sparse))

/-- MMA, MMAS and MMAO: operand word, format block, reuse. -/
def multiplyWord : Instr → Option (MOp × BitVec 6 × BitVec 6 × Bool)
  | .mma a b r => some (.mma, a, b, decide (r = 1#1))
  | .mmas a b r => some (.mmas, a, b, decide (r = 1#1))
  | .mmao a b r => some (.mmao, a, b, decide (r = 1#1))
  | _ => none

/-- The operand word and the format block of a multiply pass the checks of issue (R215 to R217, R236). -/
def MultiplyFits (s : State) (op : MOp) (x y : DWord) (e : TileEntry) : Prop :=
  let sparse := decide (op = .mmas)
  bitsOf x 63 1 = 0 ∧ bitsOf x 7 1 = 0 ∧ bitsOf x 12 4 = 0 ∧ (sparse = false → bitsOf x 56 7 = 0)
    ∧ bitsOf x 24 24 % (if sparse then 1024 else 512) = 0
    ∧ FormatFits y sparse ∧ bitsOf x 8 4 < s.cur.id.accs ∧ BlockFits s (bitsOf x 0 7) 8
    ∧ BlockFits s (bitsOf x 56 7) (metasOf y sparse) ∧ (bitsOf y 8 3 ≠ 0 → BlockFits s (bitsOf y 13 7) 1)
    ∧ (∀ o ∈ octetsOf s.active, (bPlace x y sparse o).1.1 + (bPlace x y sparse o).1.2 ≤ e.size
        ∧ (bitsOf y 8 3 ≠ 0 → (bPlace x y sparse o).2.1 + (bPlace x y sparse o).2.2 ≤ e.size))
    ∧ (op = .mmao → rowstatCore s.cur.id.core = true)

/-- Registers that a multiply names (R219, R220, R217). -/
def multiplyRegs (s : State) (op : MOp) (x y : DWord) : List Nat :=
  blockOf s (bitsOf x 0 7) 8 ++ blockOf s (bitsOf x 56 7) (metasOf y (decide (op = .mmas)))
    ++ (if bitsOf y 8 3 = 0 then [] else blockOf s (bitsOf y 13 7) 1)

/-- Lanes of active rows whose metadata registers hold a reserved code in a group that counts (R220). -/
def reservedLanes (s : State) (x y : DWord) : Mask :=
  mkMask (fun i => s.active.getLsbD i &&
    (List.range (keffOf y true / 4)).any (fun g =>
      decide (6 ≤ ((blockOf s (bitsOf x 56 7) (metasOf y true)).foldr
        (fun r n => (laneOf (s.getRef (.reg r)) i).toNat + 2 ^ 32 * n) 0) / 16 ^ g % 16)))

/-- The metadata stops no row (R220): sp_trap is 0, the word is no MMAS, or no active row holds a reserved code. -/
def MetadataFits (s : State) (op : MOp) (x y : DWord) : Prop :=
  bitsOf y 23 1 = 0 ∨ op ≠ .mmas
    ∨ (s.cur.matrix.latch = none ∧ s.cur.matrix.results = [] ∧ reservedLanes s x y = 0#32)

/-- The queue of the core's engine has room (R226). -/
def EngineRoom (s : State) : Prop := s.engineWords s.cur.id.core < 64

/-- The word has entered its group's open batch and the fragment has gone on (R223): no byte, no other register. -/
def Enqueued (s t : State) (w : MWord) (regs : List Nat) : Prop :=
  t.cur.matrix.words = s.cur.matrix.words ++ [w] ∧ w.pc = s.unitPc ∧ w.exec = s.active ∧ w.batch = none
    ∧ MovedTo s t (after s) ∧ SameBytes s t ∧ t = { s with cur := t.cur, fresh := t.fresh }
    ∧ OnlyVectors s t ∧ (∀ r, r ∉ regs.map RegRef.reg → t.getRef r = s.getRef r)
    ∧ t.cur.matrix.flags = s.cur.matrix.flags ∧ t.cur.matrix.binds = s.cur.matrix.binds

/-- Columns of a cols field (R218). -/
def columnsAt (l : Nat) : List Nat := if l = 0 then List.range 16 else if l = 1 then List.range 8 else (List.range 8).map (8 + ·)

/-- Bytes of an output element (R229, R232). -/
def widthOf (outfmt : Nat) : Nat := if outfmt = 0 then 4 else if outfmt = 1 then 2 else if outfmt = 6 then 8 else 1

/-- A command word, with the offset word that its stages read, is valid (R229). -/
def CommandFits (y z : DWord) : Prop :=
  bitsOf y 24 8 = 0 ∧ bitsOf y 7 1 = 0 ∧ bitsOf y 4 3 ≤ 6
    ∧ (bitsOf y 2 1 = 0 → bitsOf y 4 3 = 0 ∨ bitsOf y 4 3 = 6) ∧ (bitsOf y 2 1 = 1 → 1 ≤ bitsOf y 4 3 ∧ bitsOf y 4 3 ≤ 5)
    ∧ (bitsOf y 4 3 = 6 → bitsOf y 0 2 = 0) ∧ (bitsOf y 0 2 ≠ 0 → bitsOf z 48 16 = 0)
    ∧ (bitsOf y 1 1 = 1 → bitsOf z 24 24 % 8 = 0) ∧ (bitsOf y 0 1 = 1 → bitsOf z 0 24 % 4 = 0)

/-- The stages of a command that are enabled, with the tile, the offset and the bytes that each reads (R229, R230). -/
def stageList (y z : DWord) : List (Nat × Nat × Nat) :=
  (if bitsOf y 0 1 = 1 then [(bitsOf y 8 8, bitsOf z 0 24, 64)] else [])
    ++ (if bitsOf y 1 1 = 1 then [(bitsOf y 16 8, bitsOf z 24 24, 520)] else [])

/-- The tiles of the enabled stages hold what they read and are ready or draining (R215, R226). -/
def StagesReady (s : State) (y z : DWord) : Prop :=
  ∀ g ∈ stageList y z, ∃ e, HasTile s g.1 e [.ready, .draining] ∧ g.2.1 + g.2.2 ≤ e.size

/-- The same for `n` rows of MEPI's destination (R215): every row of an active lane lies inside the tile. -/
def RowsInside (s : State) (off n size : Nat) : Prop := ∀ l, l < 32 → s.active.getLsbD l = true → off + (l + 1) * n ≤ size

/-- MSTAT: its operation, operand word and number of destination registers (R235). -/
def statWord : Instr → Option (MOp × BitVec 6 × Nat)
  | .mstatReset a => some (.statReset, a, 0)
  | .mstatMax a => some (.statMax, a, 1)
  | .mstatRead a => some (.statRead, a, 2)
  | _ => none

/-- The operand word of an MSTAT passes the checks of issue (R215, R236). -/
def StatFits (s : State) (op : MOp) (x : DWord) (n : Nat) : Prop :=
  bitsOf x 8 4 < s.cur.id.accs ∧ bitsOf x 16 48 = 0 ∧ bitsOf x 7 1 = 0 ∧ BlockFits s (bitsOf x 0 7) n
    ∧ (op = .statReset → bitsOf x 0 7 = 0)
    ∧ (if op = .statMax then bitsOf x 12 4 < s.cur.id.accs else bitsOf x 12 4 = 0)
    ∧ rowstatCore s.cur.id.core = true

/-- Bytes `o` to `o + n − 1` of a tile (R161, R215). -/
def tileSlice (s : State) (t : Team) (e : TileEntry) (o n : Nat) : List Byte :=
  (List.range n).map (fun i => tileByte s (t.key (e.off + o + i)))

/-- The only word of every engine is a word of the selected group: it completes next. -/
def OnlyMatrixWord (s : State) (w : MWord) : Prop := s.cur.matrix.words = [w] ∧ ∀ g ∈ s.others, g.matrix.words = []

/-- Element `(i, j)` of accumulator `a` of the selected group (R212). -/
def accAt (s : State) (a i j : Nat) : A56 := (sget zeroRow s.cur.regs.ac (32 * a + i)).getD j 0#56

/-- The rows of other accumulators and of inactive lanes keep their values (R212). -/
def OtherRows (s t : State) (a : Nat) (m : Mask) : Prop :=
  ∀ k, (k / 32 ≠ a ∨ m.getLsbD (k % 32) = false) → sget zeroRow t.cur.regs.ac k = sget zeroRow s.cur.regs.ac k

/-- The side registers of other accumulators and of inactive lanes keep their values (R234, R235). -/
def OtherSides (s t : State) (a : Nat) (m : Mask) : Prop :=
  ∀ k, (k / 32 ≠ a ∨ m.getLsbD (k % 32) = false) →
    sget 0xFF800000#32 t.cur.regs.rmax k = sget 0xFF800000#32 s.cur.regs.rmax k
      ∧ sget 0#56 t.cur.regs.rsum k = sget 0#56 s.cur.regs.rsum k

/-- Every row of the accumulators has its sixteen columns. -/
def RowsWhole (s : State) : Prop := ∀ k ∈ s.cur.regs.ac, k.2.length = 16

/-- The flags that a word raises (R21): its batch keeps them until it is complete, and with its last word they reach FSTAT. -/
def RaisesInBatch (s t : State) (w : MWord) (F : Flags) : Prop :=
  (w.batch = none → sget 0#8 t.cur.matrix.flags 16 = sget 0#8 s.cur.matrix.flags 16 ||| F ∧ t.cur.regs.fstat = s.cur.regs.fstat)
    ∧ (∀ b, w.batch = some b → t.cur.regs.fstat = s.cur.regs.fstat ||| (sget 0#8 s.cur.matrix.flags b ||| F))

/-- What the destination registers of a word will hold in the lanes for which it acts, register by register (R227). -/
def Delivers (s t : State) (w : MWord) (val : Nat → Nat → Word) : Prop :=
  w.dst = s.cur.matrix.results.map (fun r => (r.reg, r.id)) → (s.cur.matrix.results.map (·.reg)).Nodup →
    (∀ r ∈ s.cur.matrix.results, r.operand = false) →
    t.cur.matrix.results.length = s.cur.matrix.results.length
      ∧ ∀ (k : Nat) (r q : MResult), s.cur.matrix.results[k]? = some r → t.cur.matrix.results[k]? = some q →
          q = { r with value := q.value }
            ∧ ∀ i, i < 32 → laneOf q.value i = if w.exec.getLsbD i then val k i else laneOf r.value i

/-- The word has left the engine; its group's flags and side registers stand where the word does not change them. -/
def WordGone (s t : State) : Prop :=
  t.cur.matrix.words = [] ∧ t.others = s.others ∧ t.cur.frag = s.cur.frag ∧ t.cur.sibs = s.cur.sibs
    ∧ t.cur.regs.v = s.cur.regs.v ∧ t.cur.regs.s = s.cur.regs.s ∧ t.cur.regs.p = s.cur.regs.p ∧ t.cur.regs.k = s.cur.regs.k
    ∧ (∀ a, pkgByte t a = pkgByte s a ∧ farByte t a = farByte s a)

/-- The exact values of a row of A (R214, R220). -/
def rowOfA (w : MWord) (i : Nat) : List Machine.Num :=
  let y := w.fb
  let bs := w.a.flatMap (fun r => (List.range 4).map (fun b => (laneOf r i).extractLsb' (8 * b) 8))
  if w.op = .mmas then
    denseRow (elements (bitsOf y 0 4) bs (keffOf y false))
      (w.metas.foldr (fun m n => (laneOf m i).toNat + 2 ^ 32 * n) 0) (keffOf y true / 4)
  else elements (bitsOf y 0 4) bs (keffOf y false)

/-- Scale `b` of row `i` (R217). -/
def scaleOfA (w : MWord) (i b : Nat) : Machine.Num :=
  scaleVal (w.fb.getLsbD 11) ((laneOf (w.scale.getD zeroLanes) i).extractLsb' (8 * (bitsOf w.fb 20 2 + b)) 8).toNat

/-- The exact values of column `j` of B for octet `o`, from the tile (R214). -/
def columnOfB (s : State) (w : MWord) (e : TileEntry) (o j : Nat) : List Machine.Num :=
  let sparse := decide (w.op = .mmas)
  let n := if sparse then 64 else 32
  elements (bitsOf w.fb 4 4) (tileSlice s s.team e ((bPlace w.ow w.fb sparse o).1.1 + n * j) n) (keffOf w.fb sparse)

/-- Scale `b` of column `j` (R217). -/
def scaleOfB (s : State) (w : MWord) (e : TileEntry) (o j b : Nat) : Machine.Num :=
  let sparse := decide (w.op = .mmas)
  scaleVal (w.fb.getLsbD 12)
    (tileByte s (s.team.key (e.off + (bPlace w.ow w.fb sparse o).2.1 + blocksOf w.fb sparse * j + b))).toNat

/-- Element (i, j) after the update of R71: block after block in ascending k. -/
def updated (s : State) (w : MWord) (e : TileEntry) (i j : Nat) : A56 :=
  let sparse := decide (w.op = .mmas)
  let L := lenOf w.fb sparse
  (List.range (blocksOf w.fb sparse)).foldl (fun acc b =>
      let one : Machine.Num := .fin false 1 0
      let sa := if bitsOf w.fb 8 3 = 0 then one else scaleOfA w i b
      let sb := if bitsOf w.fb 8 3 = 0 then one else scaleOfB s w e (i / 8) j b
      blockUpdate acc (((rowOfA w i).drop (L * b)).take L) (((columnOfB s w e (i / 8) j).drop (L * b)).take L) sa sb)
    (accAt s (bitsOf w.ow 8 4) i j)

/-- rsum of row `i` after an MMAO (R219, R72): the blocks that no zero S8 scale masks, times their scales, in one sum. -/
def rowSum (s : State) (w : MWord) (i : Nat) : A56 :=
  let L := lenOf w.fb false
  roundQuiet (some (a56Num (sget 0#56 s.cur.regs.rsum (32 * bitsOf w.ow 8 4 + i))) ::
    (List.range (blocksOf w.fb false)).flatMap (fun b =>
      let sa : Machine.Num := if bitsOf w.fb 8 3 = 0 then .fin false 1 0 else scaleOfA w i b
      if numIsZero sa then [] else scaledTerms ((((rowOfA w i).drop (L * b)).take L).map some) sa))

/-- The outputs of row `i` for a command, column by column of the selection (R231). -/
def chainRow (s : State) (y : DWord) (bias table : List Byte) (acc cols i : Nat) : List (Nat × Flags) :=
  (columnsAt cols).map (fun j =>
    epilogue (command y) (accAt s acc i j) (f32At bias (4 * j)) (actTable table))

/-- The bytes of those outputs, little-endian, an eighth byte 0 in raw rows (R232). -/
def chainBytes (s : State) (y : DWord) (bias table : List Byte) (acc cols i : Nat) : List Byte :=
  (chainRow s y bias table acc cols i).flatMap (fun r =>
    (List.range (widthOf (bitsOf y 4 3))).map (fun b => BitVec.ofNat 8 (r.1 / 2 ^ (8 * b))))

/-- The bytes of the bias row and of the table, where their stages are enabled. -/
def stageBytesOf (s : State) (y z : DWord) : List Byte × List Byte :=
  let entry (n : Nat) : TileEntry := sget TileEntry.reset s.mem.table (s.team.entryKey n)
  (if bitsOf y 0 1 = 1 then tileSlice s s.team (entry (bitsOf y 8 8)) (bitsOf z 0 24) 64 else [],
   if bitsOf y 1 1 = 1 then tileSlice s s.team (entry (bitsOf y 16 8)) (bitsOf z 24 24) 520 else [])

/-! ## Tiles, windows, barriers and rings (R247 to R268) -/

/-- The word has gone on, and nothing but entry `n` of the team's tile table differs: it is `e` now. -/
def EntryBecomes (s t : State) (n : Nat) (e : TileEntry) : Prop :=
  sget TileEntry.reset t.mem.table (s.team.entryKey n) = e
    ∧ (∀ k, k ≠ s.team.entryKey n → sget TileEntry.reset t.mem.table k = sget TileEntry.reset s.mem.table k)
    ∧ t = { s with cur := { s.cur with frag := s.cur.frag.movedTo (after s) }, mem := { s.mem with table := t.mem.table } }

/-- The word has gone on, and nothing but the group's team and scalar register `d` differs. -/
def TeamBecomes (s t : State) (u : Team) (d : Option (BitVec 6)) : Prop :=
  t.team = u ∧ (∀ g : GroupId, ¬(g.grid = s.cur.id.grid ∧ g.clu = s.cur.id.clu ∧ g.team = s.cur.id.team) → t.teamFor g = s.teamFor g)
    ∧ t = { s with cur := t.cur, teams := t.teams }
    ∧ t.cur = { s.cur with frag := s.cur.frag.movedTo (after s), regs := { s.cur.regs with s := t.cur.regs.s } }
    ∧ ∀ e, some e ≠ d → t.getS e = s.getS e

/-- Tile `n` is a slot of a live ring of the team (R260). -/
def inRing (s : State) (n : Nat) : Prop := ∃ kr ∈ s.team.rings, kr.2.live = true ∧ kr.2.first ≤ n ∧ n < kr.2.first + kr.2.n

/-- Tile `n` is in use by a matrix word (R226). -/
def inUse (s : State) (n : Nat) : Prop :=
  ∃ g ∈ s.cur :: s.others, ∃ w ∈ g.matrix.words, s.team.entryKey n ∈ w.tiles

/-- Number of a tile state as TSTATE shows it (R248). -/
def stateNum : TileState → Nat
  | .empty => 0
  | .filling => 1
  | .ready => 2
  | .draining => 3

/-- m_q of a block without escape (R267): bits 7q to 7q + 6 of the string that starts at byte 2, as a signed number. -/
def mantissaAt (f : Nat → Byte) (a q : Nat) : Int :=
  let m := bytesAt f (a + 2) 112 / 2 ^ (7 * q) % 128
  if m < 64 then m else (m : Int) - 128

/-- The BF16 number m × 2^(E − 133), written out (R268): sign, exponent and fraction, or a subnormal. -/
def bf16Of (E : Nat) (m : Int) : Nat :=
  if m = 0 then 0
  else
    let n := m.natAbs
    let top : Int := (n.log2 : Int) + E - 133 + 127
    (if m < 0 then 2 ^ 15 else 0)
      + (if 1 ≤ top then top.toNat * 128 + (n * 2 ^ (7 - n.log2) - 128) else n * 2 ^ (E : Nat))

/-- A barrier of the team. -/
def abarOf (s : State) (n : Nat) : ABar := sget ABar.reset s.team.abars n

/-- A ring of the team. -/
def ringOf (s : State) (k : Nat) : Ring := sget Ring.reset s.team.rings k

/-- Distance of two counters modulo 2^32 (R260). -/
def ringGap (x y : Nat) : Nat := (x + 2 ^ 32 - y) % 2 ^ 32

/-! ## Engine commands (R243 to R272) -/

/-- A signed field of 56 bits. -/
def signed56 (x : Nat) : Int := if x < 2 ^ 55 then x else (x : Int) - 2 ^ 56

/-- The 128 bytes at physical address `pa` are descriptor `d` (R243, R244). -/
def DescAt (s : State) (pa : Nat) (d : Desc) : Prop :=
  let num (o n : Nat) : Nat := bytesAt (pkgByte s) (pa + o) n
  let rank := d.dims.length
  1 ≤ rank ∧ rank ≤ 7 ∧ d.base = num 0 8 ∧ d.base < 2 ^ 57 ∧ d.base % d.esize = 0
    ∧ (∃ lg, lg < 4 ∧ d.esize = 2 ^ lg ∧ num 8 8 = rank + 16 * lg + (if d.oob then 256 else 0))
    ∧ (∀ (k : Nat) (x : Dim), d.dims[k]? = some x →
        num (16 + 8 * k) 8 < 2 ^ 56 ∧ x.stride = signed56 (num (16 + 8 * k) 8) ∧ x.stride % (d.esize : Int) = 0
          ∧ x.size = num (0x48 + 4 * k) 4 ∧ x.size ≠ 0 ∧ x.ext = num (0x64 + 2 * k) 2 ∧ x.ext ≠ 0
          ∧ x.samp = if k < 3 then num (0x72 + k) 1 else 0)
    ∧ (∀ k, rank ≤ k → k < 7 → num (16 + 8 * k) 8 = 0 ∧ num (0x48 + 4 * k) 4 = 0 ∧ num (0x64 + 2 * k) 2 = 0
        ∧ (k < 3 → num (0x72 + k) 1 = 0))
    ∧ (∀ k, 0x75 ≤ k → k < 0x80 → num k 1 = 0)

/-- Register `b` names a descriptor record that reads as `d` (R243). -/
def NamesDesc (s : State) (b : BitVec 6) (d : Desc) : Prop :=
  (s.getS b).toNat % 128 = 0 ∧ (s.getS b).toNat < 2 ^ 57
    ∧ ∃ l, MapsTo s (s.getS b).toNat l ∧ l.kind = 1 ∧ l.read = true ∧ DescAt s (leafPhys l (s.getS b).toNat) d

/-- The origin block from register `c` (R250). -/
def OriginAt (s : State) (c : BitVec 6) (rank : Nat) (o : List Nat) : Prop :=
  c.toNat + (rank + 1) / 2 ≤ 64 ∧ o.length = rank
    ∧ (∀ k x, o[k]? = some x → x = (s.getS (BitVec.ofNat 6 (c.toNat + k / 2))).toNat / 2 ^ (32 * (k % 2)) % 2 ^ 32)
    ∧ (rank % 2 = 1 → (s.getS (BitVec.ofNat 6 (c.toNat + rank / 2))).toNat < 2 ^ 32)

/-- Row bytes and rows of a window (R246), and the pitch of its placement in a tile. -/
def rowBytesOf (d : Desc) : Nat := (match d.dims with | [] => 1 | x :: _ => x.ext) * d.esize
def rowsOfDesc (d : Desc) : Nat := (d.dims.drop 1).foldl (fun n x => n * x.ext) 1
def pitchIn (e : TileEntry) (d : Desc) : Nat := if e.pitch = 0 then rowBytesOf d else e.pitch

/-- Rows of the block of one lane of a TGATH (R252): the product of the extents 1 to rank − 2. -/
def laneRows (d : Desc) : Nat := ((d.dims.drop 1).dropLast).foldl (fun n x => n * x.ext) 1

/-- A window of `rows` rows fits the tile (R246). -/
def WindowFits (e : TileEntry) (d : Desc) (rows : Nat) : Prop :=
  rowBytesOf d ≤ pitchIn e d ∧ (rows - 1) * pitchIn e d + rowBytesOf d ≤ e.size

/-- A control word whose fields are zero but for those of the mask, with a flag of 0 to 11 or 15 (R250). -/
def ControlFits (x : DWord) (mask : Nat) : Prop :=
  x.toNat &&& mask = x.toNat ∧ (bitsOf x 16 4 < 12 ∨ bitsOf x 16 4 = 15)

/-- The fetch window of the team admits `n` bytes more (R254). -/
def WindowAdmits (s : State) (n : Nat) : Prop :=
  let out := s.cmds.filter (fun c => (c.kind == .tfetch || c.kind == .tgath) && c.grid == s.cur.id.grid && c.clu == s.cur.id.clu
    && c.team == s.cur.id.team)
  let bytes := (out.map (·.bytes)).sum
  out.length < s.team.reqMax ∧ (bytes = 0 ∨ bytes + n ≤ s.team.kibMax * 1024)

/-- Commands of the team of two kinds that are outstanding (R251). -/
def outstanding (s : State) (k1 k2 : CmdKind) : Nat :=
  (s.cmds.filter (fun c => (c.kind == k1 || c.kind == k2) && c.grid == s.cur.id.grid && c.clu == s.cur.id.clu
    && c.team == s.cur.id.team)).length

/-- Command `c` has been accepted at this word (R251): its flag is bound and the fragment has gone on; no byte, no register,
nothing but the tile table and the team differs. -/
def Accepted (s t : State) (c : Cmd) (kind : CmdKind) (flag : Nat) : Prop :=
  t.cmds = s.cmds ++ [c] ∧ c.id = s.nextId ∧ c.kind = kind ∧ c.pc = s.unitPc ∧ c.flag = flag ∧ c.fail = none ∧ c.exec = s.active
    ∧ c.grid = s.cur.id.grid ∧ c.clu = s.cur.id.clu ∧ c.team = s.cur.id.team ∧ c.grp = s.cur.id.grp ∧ c.job = s.cur.id.job
    ∧ t.cur = { s.cur with frag := s.cur.frag.movedTo (after s), regs := s.cur.regs.bindFlag flag }
    ∧ SameBytes s t
    ∧ t = { s with cur := t.cur, cmds := t.cmds, nextId := s.nextId + 1, teams := t.teams, fresh := t.fresh,
                   mem := { s.mem with tlb := t.mem.tlb, table := t.mem.table } }

/-- The only entry of the tile table that differs is the team's tile `n`, and only its state. -/
def TileGoes (s t : State) (n : Nat) (e : TileEntry) (st : TileState) : Prop :=
  sget TileEntry.reset t.mem.table (s.team.entryKey n) = { e with st := st }
    ∧ ∀ k, k ≠ s.team.entryKey n → sget TileEntry.reset t.mem.table k = sget TileEntry.reset s.mem.table k

/-- The 512-byte chunks of `n` bytes (R253). -/
def chunkList (n : Nat) : List Nat := List.range ((n + 511) / 512)

/-- TFETCH and TGATH: control word, descriptor, origin block, .ring. -/
def fetchWord : Instr → Option (CmdKind × BitVec 6 × BitVec 6 × BitVec 6 × Bool)
  | .tfetch a b c r => some (.tfetch, a, b, c, decide (r = 1#1))
  | .tgath a b c r => some (.tgath, a, b, c, decide (r = 1#1))
  | _ => none

/-- Bits of the control word that a fetch uses (R250). -/
def fetchMask (kind : CmdKind) (ring : Bool) : Nat :=
  0xF3F00 + (if ring then 0xF else 0xFF) + (if kind = .tgath then 0x7F000000 else 0)

/-- TCOMMIT and TREDF: control word, descriptor, origin block, operation. -/
def commitWord : Instr → Option (CmdKind × BitVec 6 × BitVec 6 × BitVec 6 × Nat)
  | .tcommit a b c => some (.tcommit, a, b, c, 0)
  | .tredf a b c o => if o.toNat < 6 then some (.tredf, a, b, c, o.toNat) else none
  | _ => none

/-- The group of the command is the selected one, and no other command has its number. -/
def OwnCommand (s : State) (c : Cmd) : Prop :=
  c ∈ s.cmds ∧ (∀ x ∈ s.cmds, x.id = c.id → x = c) ∧ s.cur.alive = true ∧ c.grid = s.cur.id.grid ∧ c.clu = s.cur.id.clu
    ∧ c.team = s.cur.id.team ∧ c.grp = s.cur.id.grp

/-- A command of the selected group has ended (R251, R269): it is gone, its flag's binding has completed, and a failure of it
waits for its group. -/
def CommandDone (s t : State) (c : Cmd) : Prop :=
  t.cmds = s.cmds.filter (fun x => x.id != c.id) ∧ t.cur.regs = s.cur.regs.unbindFlag c.flag
    ∧ t.cur.cmdFaults = s.cur.cmdFaults
        ++ (match c.fail with | some f => [.command (512 + f.1) f.2.1 f.2.2.1 f.2.2.2 c.pc] | none => [])
    ∧ t.cur.frag.pc = s.cur.frag.pc

/-! ## Strudel (R273 to R292) -/

/-- The record of `n` bytes at an address that qualifies (R243, R273): its bytes. -/
def RecordAt (s : State) (va n : Nat) (bs : List Byte) : Prop :=
  va % n = 0 ∧ va < 2 ^ 57 ∧ ∃ l, MapsTo s va l ∧ l.kind = 1 ∧ l.read = true ∧ bs = readBytes s.mem.pkg (leafPhys l va) n

/-- A local page that may be read and written holds the address, at physical address `pa` (R281, R285). -/
def OpenPage (s : State) (va n pa : Nat) : Prop :=
  va % n = 0 ∧ va < 2 ^ 57 ∧ ∃ l, MapsTo s va l ∧ l.kind = 1 ∧ l.read = true ∧ l.write = true ∧ pa = leafPhys l va

/-- The control word of RSHARD and RSPLAN (R284). -/
def ReshardControl (x : DWord) : Prop :=
  bitsOf x 48 16 = 0 ∧ bitsOf x 20 12 = 0 ∧ bitsOf x 0 16 = 0 ∧ bitsOf x 32 16 ≠ 0 ∧ (bitsOf x 16 4 < 12 ∨ bitsOf x 16 4 = 15)

/-- RSHARD and RSPLAN: plan?, control word, record block, cursor block. -/
def reshardWord : Instr → Option (Bool × BitVec 6 × BitVec 6 × BitVec 6)
  | .rshard a b c => some (false, a, b, c)
  | .rsplan a b c => some (true, a, b, c)
  | _ => none

/-- Byte `o` on of the cursor as a number of `n` bytes. -/
def cursorNum (s : State) (pa o n : Nat) : Nat := bytesAt (pkgByte s) (pa + o) n

/-- The cursor passes its check at issue (R283). -/
def CursorFits (s : State) (pa srcRec dstRec : Nat) : Prop :=
  cursorNum s pa 0 8 % 4 = 0
    ∨ (cursorNum s pa 0x20 8 = srcRec ∧ cursorNum s pa 0x28 8 = dstRec ∧ cursorNum s pa 0 8 / 4 % 2 ^ 14 = 0
        ∧ cursorNum s pa 0 8 / 2 ^ 48 = 0 ∧ cursorNum s pa 0x18 8 = 0 ∧ cursorNum s pa 0x30 8 = 0 ∧ cursorNum s pa 0x38 8 = 0)

/-- The word has gone on with its flag bound, and nothing but the engine, the commands and the caches of translation
differs. -/
def ReshardIssued (s t : State) (flag : Nat) : Prop :=
  t.cur = { s.cur with frag := s.cur.frag.movedTo (after s), regs := s.cur.regs.bindFlag flag } ∧ SameBytes s t
    ∧ t = { s with cur := t.cur, cmds := t.cmds, nextId := s.nextId + 1, strudel := t.strudel, fresh := t.fresh,
                   mem := { s.mem with tlb := t.mem.tlb, tracked := t.mem.tracked } }

/-- The state that RSSTAT reports of a cursor (R289). -/
def reshardState (x : Strudel) (cursor v : Nat) : Prop :=
  if x.lastCursor = cursor ∧ x.state ≠ 0 then
    v % 8 = x.state ∧ v / 2 ^ 32 = x.boxes % 2 ^ 32 ∧ v / 8 % 2 ^ 13 = 0
      ∧ v / 2 ^ 16 % 2 ^ 16 = if x.state = 5 ∨ x.state = 6 then 0 else x.dst
  else v = 0

/-- The engine copies box `k` and nothing stands in its way (R280, R286, R292): every element has a far source and a far
destination that may be reached, no key and no tag is about, and no two destinations share a byte. -/
structure BoxReady (s : State) (r : Reshard) (c : Cmd) (k : Nat) (b : Box) (src dst : Int → Nat) : Prop where
  work : s.strudel.work = some r
  owner : s.cmds.find? (fun x => x.id == r.id) = some c
  atBox : r.planned = true ∧ s.readyBoxes r = [k] ∧ r.mayStart = false ∧ r.limit = none ∧ r.lost = [] ∧ r.boxes[k]? = some b
  inOrder : r.next = k ∧ r.ahead = [] ∧ k + 1 < r.boxes.length
  clean : NoPoison s ∧ NoWatch s ∧ s.sec.tags = [] ∧ s.sec.slots.all (·.isNone) = true
  intact : ∀ n, State.spoiled { s with fresh := n } r = false
  source : ∀ e ∈ r.boxAddrs b, 0 ≤ e.1 ∧ e.1 + r.src.esize ≤ 2 ^ 57 ∧ ∃ l, MapsTo s e.1.toNat l ∧ l.kind = 3 ∧ l.read = true
    ∧ leafPhys l e.1.toNat + r.src.esize ≤ 0x18000000000 ∧ src e.1 = farKey l.unit (leafPhys l e.1.toNat)
  dest : ∀ e ∈ r.boxAddrs b, 0 ≤ e.2 ∧ e.2 + r.dst.esize ≤ 2 ^ 57 ∧ (∀ i : Nat, i < r.dst.esize → r.sharedDst b.dst (e.2 + i) = false)
    ∧ ∃ l, MapsTo s e.2.toNat l ∧ l.kind = 3 ∧ l.write = true
    ∧ leafPhys l e.2.toNat + r.dst.esize ≤ 0x18000000000 ∧ dst e.2 = farKey l.unit (leafPhys l e.2.toNat)
  apart : (r.boxAddrs b).Pairwise (fun x y => dst x.2 + r.dst.esize ≤ dst y.2 ∨ dst y.2 + r.dst.esize ≤ dst x.2)
  sizes : r.src.esize = r.dst.esize

/-! ## Launches (R128 to R131, R293 to R311) -/

/-- GRID of the n-th record of a list of queue `q` (R295). -/
def gridNumber (q : Nat) (device : Bool) (n : Nat) : Nat := q * 2 ^ 42 + (if device then 2 ^ 41 else 0) + n % 2 ^ 41

/-- The launch that a record becomes when it enters a list. -/
def enteredLaunch (s : State) (l : Launch) (q : Nat) (device : Bool) (job : BitVec 16) (r : LaunchRec) (entry : Nat) : Prop :=
  let x := s.queue q
  l.grid = gridNumber q device (if device then x.takenDev else x.takenHost) ∧ l.job = job ∧ l.record = r ∧ l.queue = q
    ∧ l.device = device ∧ l.started = 0 ∧ l.killed = false ∧ l.stopped = false ∧ (device = false → l.entryAddr = entry)

/-- Nothing runs and nothing waits on the package but the lists of its queues. -/
def IdlePackage (s : State) : Prop :=
  s.cur.alive = false ∧ s.cur.matrix.words = [] ∧ s.others = [] ∧ s.clusters = [] ∧ s.teams = [] ∧ s.cmds = []
    ∧ s.sched.launches = [] ∧ s.mem.tileErrors = [] ∧ s.ctx.stopping = [] ∧ s.ctx.restoring = none

/-- One record stands in the lists: at the head of the host list of queue `q`. -/
def OnlyRecord (s : State) (q : Nat) (l : Launch) : Prop :=
  q < 64 ∧ (s.queue q).host = [l] ∧ (s.queue q).dev = [] ∧ (s.queue q).taken = []
    ∧ ∀ p, p < 64 → p ≠ q → (s.queue p).host = [] ∧ (s.queue p).dev = []

/-- A record that an empty package takes (R130, R302). -/
def Placeable (r : LaunchRec) : Prop :=
  1 ≤ r.rows ∧ r.rows ≤ 10 ∧ 1 ≤ r.cols ∧ r.cols ≤ 12 ∧ 1 ≤ r.groups ∧ r.groups ≤ 16 ∧ r.groups * r.vregs * 128 ≤ 2 ^ 20
    ∧ r.groups * r.accs * 3584 ≤ 512 * 1024 ∧ r.tilePages ≤ 384 ∧ r.tiles ≤ 256 ∧ r.priority ≤ 3 ∧ 1 ≤ r.clusters

/-- The waits of a record are met (R298). -/
def WaitsMet (s : State) (job : BitVec 16) (r : LaunchRec) : Prop :=
  ∀ d ∈ r.deps, d.1 = 1 ∨ d.1 = 3 → d.2.1 ≤ (sget 0#32 s.sched.counters (job.toNat * 4096 + d.2.2)).toNat

/-- The bytes at a mapped local address, up to 8 of them, have been written with a number. -/
def WrittenAt (s t : State) (va : Nat) (l : Leaf) (v : Nat) : Prop :=
  bytesAt (pkgByte t) (leafPhys l va) 8 = v ∧ ∀ a, a < leafPhys l va ∨ leafPhys l va + 8 ≤ a → pkgByte t a = pkgByte s a

/-! ## The pod fabric (R374 to R403) -/

/-- Are two nodes peers of one row or of one column (R381)? -/
abbrev arePeers (m n : Nat) : Prop := m / 48 = n / 48 ∨ m % 48 = n % 48

/-- Node `d` can be reached from here (R383). -/
def Routed (s : State) (d : Nat) : Prop := d = s.node.toNat ∨ (s.firstHop d).isSome = true

/-- The clock of the 2 µs of a logical link (R369): for a link to a peer only lit time counts, 230 ns of each 250 (R364). -/
def waitClock (s : State) (n : Nat) : Nat :=
  if n < 4096 then s.time.toNat else 230 * (s.time.toNat / 250) + (s.time.toNat % 250 - 20)

/-- The flits of a packet are numbered on after those of its logical link, and kept until they are acknowledged (R368). -/
def NumbersFlits (s t : State) (n : Nat) (pk : Packet) : Prop :=
  let k := flitsOf pk
  let l := s.logical n
  t.logical n = { l with nextSeq := l.nextSeq + BitVec.ofNat 12 k,
                         unacked := l.unacked ++ ((List.range k).map (fun i => (l.nextSeq + BitVec.ofNat 12 i, pk.tag, BitVec.ofNat 4 i))),
                         since := if l.unacked = [] then waitClock s n else l.since }
    ∧ (∀ m, m ≠ n → t.logical m = s.logical m) ∧ t.link = { s.link with logical := t.link.logical }

/-- A packet has left over logical link `n`: at once, or when the lit interval of a peer link begins (R364). -/
def LeavesBy (s t : State) (n : Nat) (pk : Packet) : Prop :=
  t.agenda = s.agenda
    ∧ (if 4096 ≤ n ∧ s.link.lit = false then
        t.fabric.waiting = s.fabric.waiting ++ [(n, pk)] ∧ t.fabric.outbox = s.fabric.outbox ∧ t.link = s.link
      else t.fabric.outbox = s.fabric.outbox ++ [pk] ∧ t.fabric.waiting = s.fabric.waiting ∧ NumbersFlits s t n pk)

/-- A packet has been sent by its route (R383): one to the package itself is handled inside it. -/
def Sent (s t : State) (pk : Packet) : Prop :=
  if pk.dstMod = false ∧ pk.dst = s.node then
    t.agenda = s.agenda ++ [arrivalOf pk] ∧ t.link = s.link ∧ t.fabric.outbox = s.fabric.outbox
      ∧ t.fabric.waiting = s.fabric.waiting
  else ∃ n, s.outLink pk = some n ∧ LeavesBy s t n pk

/-- Nothing differs but what sending a packet changes, the transactions and the fabric's own records. -/
def OnlyFabric (s t : State) : Prop := t = { s with fabric := t.fabric, link := t.link, agenda := t.agenda }

/-- A request has been answered with op `op` and a status, under its own tag and attempt (R374, R376). -/
def Answers (s t : State) (pk : Packet) (op status : Nat) : Prop :=
  ∃ r, r.op = BitVec.ofNat 6 op ∧ r.status = status ∧ r.src = s.node ∧ r.dst = pk.src ∧ r.srcMod = false ∧ r.dstMod = false
    ∧ r.tag = pk.tag ∧ r.attempt = pk.attempt ∧ r.ops = [] ∧ r.bytes = [] ∧ Sent s t r

/-- The target keeps the answer of a request (R376). -/
def AnswerKept (t : State) (pk : Packet) (op status : Nat) : Prop :=
  ∃ x ∈ t.fabric.targets, x.src = pk.src.toNat ∧ x.tag = pk.tag.toNat ∧ x.cancelled = false
    ∧ ∃ a, x.answer = some a ∧ a.op = BitVec.ofNat 6 op ∧ a.status = status ∧ a.tag = pk.tag

/-- The pair key of the package that asks is held, or it is this package (R419). -/
def Trusted (s : State) (pk : Packet) : Prop :=
  pk.src = s.node ∨ (pk.authentic = true ∧ ∃ k, s.keySlot pk.job = some k ∧ pk.src ∈ k.pairs)

/-- The first copy of a request: the target has no record of its tag (R376). -/
def FirstCopy (s : State) (pk : Packet) : Prop :=
  ∀ x ∈ s.fabric.targets, ¬(x.src = pk.src.toNat ∧ x.tag = pk.tag.toNat)

/-- No command of a fabric word is over and still listed. -/
def NoneOver (s : State) : Prop :=
  ∀ c ∈ s.cmds, c.kind = .signal ∨ c.kind = .mcst ∨ c.kind = .fflag → c.cur = none ∨ c.waiting ≠ 0

/-- The flag field of SIGNAL and MCST names a flag or none (R392). -/
def FlagFits (f : BitVec 4) : Prop := f.toNat < 12 ∨ f = 15#4

/-- The source word of SIGNAL and MCST passes (R393). -/
def SourceFits (w : DWord) (unit most : Nat) : Prop :=
  bitsOf w 0 8 = 0 ∧ bitsOf w 8 24 % unit = 0 ∧ bitsOf w 32 24 % unit = 0 ∧ unit ≤ bitsOf w 32 24 ∧ bitsOf w 32 24 ≤ most

/-- The bytes that a source word names lie in the allotment (R393). -/
def SourceInside (s : State) (w : DWord) : Prop := bitsOf w 8 24 + bitsOf w 32 24 ≤ s.team.bytes

/-- The target word and the GRID word of SIGNAL pass (R393). -/
def TargetFits (x y : DWord) : Prop := bitsOf x 52 12 < 2304 ∧ bitsOf x 44 4 < 12 ∧ bitsOf x 32 12 = 0 ∧ bitsOf y 48 16 = 0

/-- Command `c` of a fabric word has been accepted: its flag is bound and the fragment has gone on; no byte and no register
differs, nothing but the command and what sending changes. -/
def FabricAccepted (s t : State) (c : Cmd) (kind : CmdKind) (flag : Nat) : Prop :=
  t.cmds = s.cmds ++ [c] ∧ c.id = s.nextId ∧ c.kind = kind ∧ c.pc = s.unitPc ∧ c.flag = flag ∧ c.fail = none
    ∧ c.grid = s.cur.id.grid ∧ c.clu = s.cur.id.clu ∧ c.team = s.cur.id.team ∧ c.grp = s.cur.id.grp ∧ c.job = s.cur.id.job
    ∧ t.cur = { s.cur with frag := s.cur.frag.movedTo (after s), regs := s.cur.regs.bindFlag flag } ∧ SameBytes s t
    ∧ t = { s with cur := t.cur, cmds := t.cmds, nextId := s.nextId + 1, fabric := t.fabric, link := t.link,
                   agenda := t.agenda, fresh := t.fresh, mem := { s.mem with tlb := t.mem.tlb } }

/-- The bytes that a source word names. -/
def sourceBytes (s : State) (w : DWord) : List Byte :=
  (List.range (bitsOf w 32 24)).map (fun i => tileByte s (s.team.key (bitsOf w 8 24) + i))

/-- A packet of this package for a job with nothing in it but what is said. -/
def Carries (s : State) (pk : Packet) (op : Nat) (job : BitVec 16) : Prop :=
  pk.op = BitVec.ofNat 6 op ∧ pk.src = s.node ∧ pk.srcMod = false ∧ pk.dstMod = false ∧ pk.attempt = 0#2 ∧ pk.job = job
    ∧ pk.authentic = true

/-- A transaction that has just begun (R374, R375, R377). -/
def Begins (s : State) (x : Txn) (owner : TxnOwner) : Prop :=
  x.owner = owner ∧ x.started = s.time.toNat ∧ x.refused = none ∧ x.held = none ∧ x.cancel = none ∧ x.busy = false
    ∧ x.locked = none

/-- The first node on the way to `d` (R383). -/
def wayTo (s : State) (d : Nat) : Nat :=
  if d = s.node.toNat ∨ arePeers s.node.toNat d then d else (s.firstHop d).getD d

/-- Members of the installed entry of a multicast group (R390, R391). -/
def membersOf (s : State) (g : Nat) : List Nat := (sget none s.fabric.mcast g).getD []

/-- Does a transaction belong to the selected group's effects at a node (R396)? -/
def effectAt (s : State) (node : Nat) (x : Txn) : Prop :=
  x.pk.dst.toNat = node ∧ x.pk.dstMod = false ∧ x.pk.op ≠ 0#6 ∧ x.pk.op ≠ 11#6
    ∧ ((∃ id, x.owner = .lanes id ∧ ∃ a ∈ s.fabric.peers, a.word.id = id ∧ a.owner = s.cur.id.key)
      ∨ ∃ core words, x.owner = .weak s.cur.id.key core words)

/-- The barrier word of PBAR passes (R398). -/
def PodWordFits (s : State) (x : DWord) : Prop :=
  bitsOf x 32 32 = 0 ∧ bitsOf x 11 5 = 0 ∧ bitsOf x 16 16 ≠ 0 ∧ s.node.toNat ∈ membersOf s (bitsOf x 0 8)

/-- A pod barrier of a job. -/
def podBar (s : State) (job : BitVec 16) (b : Nat) : PodBar := sget PodBar.reset s.fabric.bars (job.toNat * 8 + b)

/-- Only one pod barrier of one job differs. -/
def OtherBars (s t : State) (job : BitVec 16) (b : Nat) : Prop :=
  ∀ k, k ≠ job.toNat * 8 + b → sget PodBar.reset t.fabric.bars k = sget PodBar.reset s.fabric.bars k

/-- A record of class 26 with source unit 5 has reached the fault unit, or one more has been counted as lost (R321, R389). -/
def FabricRecord (s t : State) (detail node : Nat) (aux : BitVec 64) : Prop :=
  (∃ r ∈ t.fault.records, r.cause = 832 + detail ∧ r.addr = node ∧ r.aux = aux ∧ r.time = s.time ∧ r.job = s.fault.job
      ∧ r.source = s.unitSource 5 0) ∨ t.fault.lost = min 255 (s.fault.lost + 1)

/-- The ring that a SIGNAL names, and the team it belongs to, live in mode 1 (R394). -/
def SignalRing (s : State) (pk : Packet) (u : Team) (r : Ring) : Prop :=
  pk.args.length = 4 ∧ s.teams.find? (fun t => t.grid % 2 ^ 48 == pk.args.getD 0 0 && t.clu == pk.args.getD 1 0 && t.team == pk.args.getD 2 0
      && t.job == pk.job) = some u
    ∧ r = sget Ring.reset u.rings (pk.args.getD 3 0) ∧ r.live = true ∧ r.mode = 1

/-- No store has changed the source bytes of a SIGNAL of this package since it was sent (R394). -/
def SourceStands (s : State) (pk : Packet) : Prop :=
  pk.src = s.node → ∀ c ∈ s.cmds, (s.txn pk.tag).map (·.owner) = some (.cmd c.id) →
    ∀ k, k < pk.bytes.length → s.mem.lateValues c.at_ (c.key + k) = []

/-- Bytes `a` to `a + bs.length - 1` have become `bs`, every other byte reads as before. -/
def BytesWritten (f g : Nat → Byte) (a : Nat) (bs : List Byte) : Prop :=
  ∀ x, g x = if a ≤ x ∧ x < a + bs.length then bs.getD (x - a) 0#8 else f x

/-- The nodes to which a relay forwards a multicast packet (R397): the other members of its own column (1) or row (2), of those
that the packet names if it names any. -/
def fansOut (s : State) (group dir : Nat) (dests : List Nat) (d : Nat) : Prop :=
  d ∈ membersOf s group ∧ d ≠ s.node.toNat ∧ (dests = [] ∨ d ∈ dests)
    ∧ ((dir = 1 ∧ d % 48 = s.node.toNat % 48) ∨ (dir = 2 ∧ d / 48 = s.node.toNat / 48))

/-- Bits of the 512-byte entry at physical address `a` (R390). -/
def entryMember (s : State) (a n : Nat) : Bool := (pkgByte s (a + n / 8)).getLsbD (n % 8)

/-- The entry at `a` is valid (R390). -/
def EntryValid (s : State) (a : Nat) : Prop :=
  bytesAt (pkgByte s) (a + 0x120) 8 = 1 ∧ ∀ o, 0x128 ≤ o → o < 0x200 → pkgByte s (a + o) = 0#8

/-- The peers of the package, each once (R381). -/
def peerNode (s : State) (d : Nat) : Prop := d < 2304 ∧ d ≠ s.node.toNat ∧ arePeers s.node.toNat d

/-- Every packet of a list goes from this package to a peer, with the given op and arguments. -/
def ToEveryPeer (s : State) (ps : List Packet) (op : Nat) (args : List Nat) : Prop :=
  (∀ p ∈ ps, Carries s p op 0#16 ∧ p.args = args ∧ peerNode s p.dst.toNat) ∧ ∀ d, peerNode s d → ∃ p ∈ ps, p.dst.toNat = d

/-- The lowest rank above the present master's that names a node (R402, R403): none for a node that is no successor. -/
def successorRank (h : Halley) (node r : Nat) : Prop :=
  let at_ : Nat → Nat := fun q => if q = 0 then h.master.toNat else if q ≤ 5 then h.succ0.toNat / 2 ^ (12 * (q - 1)) % 2 ^ 12
    else h.succ1.toNat / 2 ^ (12 * (q - 6)) % 2 ^ 12
  r ≤ 8 ∧ h.curRank.toNat < r ∧ at_ r = node ∧ ∀ q, h.curRank.toNat < q → q < r → at_ q ≠ node

/-- Nothing differs but the time service, the packets that wait for the next lit interval, and what a record changes. -/
def OnlyTimeService (s t : State) : Prop :=
  t = { s with fabric := { s.fabric with halley := t.fabric.halley, urgent := t.fabric.urgent }, time := t.time,
               fault := t.fault, msi := t.msi, mgmt := t.mgmt, fresh := t.fresh,
               sched := { s.sched with freezeFrom := t.sched.freezeFrom, excused := t.sched.excused } }

/-! ## Transactions, targets and relays (R374 to R388) -/

/-- A packet of this package can leave (R383). -/
def RouteOpen (s : State) (pk : Packet) : Prop := (pk.dst = s.node ∧ pk.dstMod = false) ∨ (s.outLink pk).isSome = true

/-- Transaction `p` is listed under its tag, and no other transaction has it. -/
def Pending (s : State) (p : Txn) : Prop := p ∈ s.fabric.txns ∧ ∀ x ∈ s.fabric.txns, x.pk.tag = p.pk.tag → x = p

/-- The transaction has become `q`; every other one is as before. -/
def TxnBecomes (s t : State) (p q : Txn) : Prop :=
  t.fabric.txns = s.fabric.txns.map (fun x => if x.pk.tag == p.pk.tag then q else x)

/-- The transaction has ended. -/
def TxnEnded (s t : State) (p : Txn) : Prop := t.fabric.txns = s.fabric.txns.filter (fun x => x.pk.tag != p.pk.tag)

/-- Access code of a request (R316): load, atomic, CAS, else store. -/
def accessCode (op : BitVec 6) : Nat := if op = 0#6 then 0 else if op = 3#6 then 2 else if op = 4#6 then 3 else 1

/-- The one that waits for a transaction has been told that it failed (R269, R313, R388). -/
def OwnerFails (s t : State) (p : Txn) (cause detail : Nat) (unknown : Bool) : Prop :=
  let mask : Mask := opsMask p.pk.ops
  match p.owner with
  | .lanes id => ∀ a, s.fabric.peers.find? (fun x => x.word.id == id) = some a →
      if a.open_ &&& ~~~mask = 0#32 then ∀ b ∈ t.fabric.peers, b.word.id ≠ id
      else ∃ b ∈ t.fabric.peers, b = { a with open_ := a.open_ &&& ~~~mask, faults := b.faults }
        ∧ ∀ l, l < 32 → a.open_.getLsbD l = true → mask.getLsbD l = true →
          ∃ ea, (l, cause, ea, unknown) ∈ b.faults ∧ ((l, ea) ∈ a.eas ∨ ea = 0)
  | .cmd id => ∀ c ∈ s.cmds, c.id = id → (∀ x ∈ s.cmds, x.id = id → x = c) → c.fail = none → 2 ≤ c.waiting → ∃ d ∈ t.cmds, ∃ unit index,
      d = { c with waiting := c.waiting - 1, fail := some (detail, unit, index, p.ea) }
  | .box id k => ∀ r, s.strudel.work = some r → r.id = id →
      t.strudel.work = some { r with lost := r.lost ++ [(k, detail, p.ea)] }
  | .weak owner _ words => s.cur.isLive owner = true → t.cur = { s.cur with cmdFaults := t.cur.cmdFaults }
      ∧ ∀ w ∈ words, ∀ i o ea, p.pk.ops[i]? = some o → w.2.find? (fun e => e.1 == i) = some (i, ea) →
          ∃ v fs, CmdFault.lanes v fs ∈ t.cur.cmdFaults ∧ v.id = w.1.id ∧ (o.lane, cause, ea, unknown) ∈ fs
  | .relay id => ∀ c, s.fabric.combines.find? (fun x => x.id == id) = some c →
      if (c.members.headD default).op = 18#6 ∧ 2 ≤ c.left then
        ∃ d ∈ t.fabric.combines, ∃ st, d = { c with left := c.left - 1, status := st } ∧ c.status ≤ st ∧ 1 ≤ st
      else ∀ x ∈ t.fabric.combines, x.id ≠ id

/-- The transaction raises the fault of class 13 with a reason, or the detail of class 16 that stands for it (R375, R388, R310,
R419); no byte differs. -/
def Faults (s t : State) (p : Txn) (reason detail : Nat) (unknown : Bool) : Prop :=
  TxnEnded s t p ∧ OwnerFails s t p (416 + 4 * reason + accessCode p.pk.op) detail unknown ∧ SameBytes s t

/-- A cancel of the request has been sent on the route that is left (R388). -/
def CancelSent (s t : State) (p : Txn) (reason relay : Nat) : Prop :=
  TxnBecomes s t p { p with cancel := some (reason, relay, s.time.toNat), busy := false, held := none, locked := none }
    ∧ ∃ c, c.op = 9#6 ∧ c.src = s.node ∧ c.dst = p.pk.dst ∧ c.dstMod = p.pk.dstMod ∧ c.tag = p.pk.tag ∧ c.job = p.pk.job
        ∧ Sent { s with fabric := { s.fabric with lost := t.fabric.lost } } t c

/-- Reads of package memory and far memory have no effect at their target (R376). -/
def noEffect (op : BitVec 6) : Prop := op = 0#6 ∨ op = 11#6

/-- An answer from inside the package, from a module, or authenticated (R419). -/
def Genuine (s : State) (pk : Packet) : Prop := pk.src = s.node ∨ pk.srcMod = true ∨ pk.authentic = true

/-- The operations of a packet in turn at their home (R189, R386): the bytes afterwards, and what each found. -/
def opsInTurn (op aop : Nat) : List LaneOp → (Nat → Byte) → (Nat → Byte) × List Nat
  | [], f => (f, [])
  | o :: os, f =>
    let m := bytesAt f o.addr o.size
    let put (v : Nat) : Nat → Byte := bytesSet f o.addr o.size v
    let g := if op = 0 then f
      else if op = 3 then put (atomicNew aop (8 * o.size) (BitVec.ofNat 128 m) o.data).toNat
      else if op = 4 then (if BitVec.ofNat 128 m = o.cmp then put o.data.toNat else f)
      else put o.data.toNat
    let r := opsInTurn op aop os g
    (r.1, m :: r.2)

/-- The record that the target has of a request (R376). -/
def HasRecord (s : State) (pk : Packet) (x : TargetRecord) : Prop :=
  s.fabric.targets.find? (fun r => r.src == pk.src.toNat && r.tag == pk.tag.toNat) = some x

/-- May a relay combine the request (R387, R420)? -/
def MayCombine (s : State) (pk : Packet) : Prop :=
  pk.op = 3#6 ∧ pk.aop = 3#4 ∧ pk.args = [0] ∧ pk.dstMod = false ∧ (∃ o, pk.ops = [o] ∧ (o.size = 4 ∨ o.size = 8))
    ∧ pk.authentic = true ∧ ∃ k, s.keySlot pk.job = some k ∧ pk.src ∈ k.pairs ∧ pk.dst ∈ k.pairs

/-- The address and the width of a request of one operation. -/
def target1 (pk : Packet) : Nat × Nat := match pk.ops with | o :: _ => (o.addr, o.size) | [] => (0, 0)

/-- The operand of a request of one operation. -/
def operand1 (pk : Packet) : Nat := match pk.ops with | o :: _ => o.data.toNat | [] => 0

/-- Some element of the line of 256 bytes that holds `a` is not among those written (R413). -/
def LinePart (es : List Elem) (n : Nat) (a : Int) : Prop :=
  ∃ j, j < 256 / n ∧ ∀ e ∈ es, e.addr ≠ a - a % 256 + ((j * n : Nat) : Int)

/-! ## Optical links (R362 to R380, R432) -/

/-- LKSTAT (R379). -/
def lkstat (k : Link) : Nat :=
  k.replays.toNat * 2 ^ 52 + k.crcErr.toNat * 2 ^ 40 + k.lost.toNat * 2 ^ 21 + k.subst.toNat * 2 ^ 16
    + (if k.changed = true then 2 ^ 8 else 0) + k.state.toNat

/-- A record of class 26 with source unit 7 has reached the fault unit, or one more has been counted as lost (R378, R321). -/
def LinkEvent (s t : State) (detail index addr : Nat) (aux : Nat → Prop) : Prop :=
  (∃ r ∈ t.fault.records, r.cause = 832 + detail ∧ r.addr = addr ∧ aux r.aux.toNat ∧ r.time = s.time ∧ r.job = s.fault.job
      ∧ r.source = s.unitSource 7 (addr % 4 * 2 ^ 14 + index)) ∨ s.fault.lost < t.fault.lost ∨ t.fault.lost = 255

/-- A record of link `n` (R378): its aux is LKSTAT as it reads now. -/
def LinkRecord (s t : State) (detail n : Nat) : Prop := LinkEvent s t detail n n (fun x => x = lkstat (t.physical n))

/-- No record has been posted. -/
def NoRecord (s t : State) : Prop := t.fault = s.fault ∧ t.msi = s.msi

/-- Nothing differs but the links, what waits for them, and what records change. -/
def OnlyLinks (s t : State) : Prop :=
  t = { s with link := t.link, fabric := { s.fabric with waiting := t.fabric.waiting }, fault := t.fault, msi := t.msi,
               mgmt := t.mgmt, fresh := t.fresh }

/-- Only link `n` of the physical links differs, and it is `k`. -/
def LinkBecomes (s t : State) (n : Nat) (k : Link) : Prop := t.physical n = k ∧ ∀ m, m ≠ n → t.physical m = s.physical m

/-- Positions healthy, the spare counted (R371). -/
def healthyIn (lost : BitVec 17) : Nat := (List.range 17).countP (fun i => !lost.getLsbD i)

/-- The spare is in use (R367, R371). -/
def spareInUse (k : Link) : Prop :=
  k.subst ≠ 31#5 ∨ (k.state = 4#4 ∧ (List.range 16).countP (fun i => !k.lost.getLsbD i) < 8)

/-- The link has gone down (R373): its state, and a record of detail 2 with bit 63 for the replay limit (R378); of a memory link
the flits that are not acknowledged are discarded. -/
def GoesDown (s t : State) (n : Nat) (k : Link) (limit : Bool) : Prop :=
  LinkBecomes s t n { k with state := 0#4, subst := 31#5, changed := true, toSpare := false, quiet := false }
    ∧ LinkEvent s t 2 n n (fun x => x = lkstat (t.physical n) % 2 ^ 63 + if limit = true then 2 ^ 63 else 0)
    ∧ (n < 192 → t.logical n = Logical.reset)

/-- The flits that an ack covers are given up, and the wait for the next advance begins at `now` (R368, R369). -/
def ackedBy (now : Nat) (l : Logical) (ack : BitVec 12) (m : Logical) : Prop :=
  ((∀ u ∈ l.unacked, u.1 ≠ ack) → m = l)
    ∧ ∀ xs u ys, l.unacked = xs ++ u :: ys → u.1 = ack → (∀ x ∈ xs, x.1 ≠ ack) →
        m = { l with unacked := ys, stalled := 0, since := now }

/-- A field of the header of a flit (R366): bits `lo` to `lo + n - 1` of H. -/
def headerOf (f : BitVec 1024) (lo n : Nat) : Nat := f.toNat / 2 ^ lo % 2 ^ n

/-- The values of the header are known ones (R366, R368, R385). -/
def HeaderKnown (f : BitVec 1024) : Prop :=
  headerOf f 92 4 = 0 ∨ (headerOf f 92 4 = 4 ∧ headerOf f 96 8 = 0)
    ∨ (1 ≤ headerOf f 92 4 ∧ headerOf f 92 4 ≤ 3 ∧ headerOf f 7 7 ≤ 112 ∧ headerOf f 0 6 ≤ 22)

/-- Flits of one packet (R366): every header field but seq, ack, part, len and last is the same. -/
def samePacket (f g : BitVec 1024) : Prop :=
  headerOf f 14 50 = headerOf g 14 50 ∧ headerOf f 0 6 = headerOf g 0 6

/-- One count more, saturating at 4,095 (R379). -/
def countUp (x y : BitVec 12) : Prop := y.toNat = min 4095 (x.toNat + 1)

/-- A replay from number `seq` on has begun on logical link `r` over link `n` (R369, R432). -/
def ReplayBegins (s t : State) (r n : Nat) (seq : BitVec 12) : Prop :=
  ∃ k, LinkBecomes s t n k ∧ k = { s.physical n with replays := k.replays } ∧ countUp (s.physical n).replays k.replays
    ∧ t.logical r = { s.logical r with stalled := (s.logical r).stalled + 1, since := waitClock s r }
    ∧ (∀ q, q ≠ r → t.logical q = s.logical q) ∧ t.link.control = s.link.control ++ [.replay r seq]

/-- A flit is discarded: a NAK of the expected number leaves, once (R368). -/
def FlitDiscarded (s t : State) (r : Nat) : Prop :=
  t.logical r = { s.logical r with nakSent := true }
    ∧ t.link.control = s.link.control ++ (if (s.logical r).nakSent = true then [] else [.nak r (s.logical r).expect])

/-- A flit of an answer to transaction `x` (R374, R377). -/
def answersTxn (s : State) (f : BitVec 1024) (x : Txn) : Prop :=
  headerOf f 0 6 ∈ [5, 6, 7, 8, 10, 12, 16, 19] ∧ headerOf f 40 12 = s.node.toNat ∧ headerOf f 38 1 = 0
    ∧ headerOf f 14 22 = x.pk.tag.toNat

/-- The position of a laser in its group, and link `k` of the group (R362 to R364). -/
def laserPlace (n k : Nat) : Nat × Nat :=
  if n < 204 then (n % 17, 16 * (n / 17) + k) else ((n - 204) % 17, 192 + 16 * ((n - 204) / 17) + k)

/-- The laser at a position of the group of a link (R362 to R364). -/
def laserAt (n p : Nat) : Nat := if n < 192 then 17 * (n / 16) + p else 204 + 17 * ((n - 192) / 16) + p

/-! ## Contexts (R338 to R360) -/

/-- PMCTL has started an operation, and no save is at work (R340). -/
def Started (s : State) (op : BitVec 3) : Prop := s.ctx.start = true ∧ s.ctx.op = op ∧ s.ctx.stopping = []

/-- The operation has ended with a result, and nothing of the context controller but its report differs (R341). -/
def OpFails (s t : State) (result : Nat) : Prop :=
  t.ctx = { s.ctx with start := false, result := BitVec.ofNat 4 result } ∧ t.cur = s.cur ∧ t.others = s.others ∧ t.mem = s.mem
    ∧ t.teams = s.teams ∧ t.clusters = s.clusters ∧ t.cmds = s.cmds

/-- A record of class 27 has reached the fault unit (R359). -/
def CtxRecord (s t : State) (detail : Nat) (job : BitVec 16) (aux : BitVec 64) : Prop :=
  ∃ r ∈ t.fault.records, r.cause = 864 + detail ∧ r.job = job ∧ r.aux = aux ∧ r.time = s.time ∧ r.source = s.unitSource 8 0
    ∧ r.grid = 0 ∧ r.grp = 0

/-- A save of a job on some partitions acts on the cluster (R339). -/
def Saves (s : State) (job parts : BitVec 16) (c : Cluster) : Prop :=
  c ∈ s.clusters ∧ s.clusterJob c = job ∧ c.parts &&& parts ≠ 0#16
    ∧ ∃ g ∈ s.cur :: s.others, g.alive = true ∧ g.id.grid = c.grid ∧ g.id.clu = c.clu

/-- The group belongs to a cluster that the save acts on. -/
def SavedGroup (s : State) (job parts : BitVec 16) (g : Group) : Prop :=
  ∃ c, Saves s job parts c ∧ g.id.grid = c.grid ∧ g.id.clu = c.clu

/-- Number at a byte offset of the image (R348). -/
def imageNum (s : State) (o n : Nat) : Nat := bytesAt (pkgByte s) (s.imageAt + o) n

/-- The header of the image passes, but for the family (R348, R349). -/
def HeaderFits (s : State) : Prop :=
  imageNum s 2 2 = 1 ∧ imageNum s 6 2 = s.ctx.job.toNat ∧ imageNum s 0x10 8 / 8 % 2 ^ 29 = 0 ∧ imageNum s 0x10 8 % 4 ≠ 3
    ∧ (∀ o, 0x20 ≤ o → o < 0x40 → pkgByte s (s.imageAt + o) = 0#8) ∧ 64 ≤ imageNum s 8 8
    ∧ s.imageAt + imageNum s 8 8 ≤ s.ctx.base.toNat * 2 ^ 20 + s.ctx.mib.toNat * 2 ^ 20

/-- A context of one team that was resident, with nothing of its engines left, whose team and groups fit an empty core. -/
def SmallContext (c : Context) (u : Team) (v a : Nat) : Prop :=
  c.teams = [u] ∧ c.cmds = [] ∧ c.strudel = [] ∧ c.held = [] ∧ c.packets = [] ∧ c.requests = [] ∧ c.epi = [] ∧ (∀ k ∈ c.clusters, k.swapped = false)
    ∧ (∀ g ∈ c.groups, g.id.grid = u.grid ∧ g.id.clu = u.clu ∧ g.id.team = u.team ∧ g.id.vregs = v ∧ g.id.accs = a)
    ∧ c.groups.length ≤ 16 ∧ c.groups.length * v * 128 ≤ 2 ^ 20 ∧ c.groups.length * a * 3584 ≤ 512 * 1024 ∧ u.tabCount ≤ 256

end Sys2Proof.Claims

open Sys2Proof Sys2Proof.Machine Sys2Proof.Safety Sys2Proof.Claims

/-- R92 to R94, R96, R153: a scalar form writes the result of its table into its destination, from the sources as they stood
before; nothing else changes but the program counter.
R95, R97: SCMP and SCMPI set their flag when the condition holds and clear it otherwise; no other flag changes. -/
def Obligations.ScalarFormsWriteTheirResults : Prop :=
  (∀ (i : Instr) (s : State) (d : BitVec 6) (x : DWord), scalarResult s i = some (d, x) →
      ∃ t, exec i s = .next t ∧ t.getS d = x ∧ (∀ e, e ≠ d → t.getS e = s.getS e)
        ∧ Passed s t ∧ OnlyScalars s t ∧ Ended s t 0#8)
    ∧ (∀ (s : State) (k : BitVec 2) (a b : BitVec 6) (c : BitVec 3) (i : BitVec 16),
      (∃ t, exec (.scmp k a b c) s = .next t ∧ t.getK k = condHolds c (s.getS a) (s.getS b)
        ∧ (∀ j, j ≠ k → t.getK j = s.getK j) ∧ Passed s t ∧ OnlyConds s t ∧ Ended s t 0#8)
      ∧ (∃ t, exec (.scmpi k c i) s = .next t ∧ t.getK k = condHolds c (s.getS (k.zeroExtend 6)) (s.imm64 i)
        ∧ (∀ j, j ≠ k → t.getK j = s.getK j) ∧ Passed s t ∧ OnlyConds s t ∧ Ended s t 0#8))

/-- R98, R24: SRD writes the selected register, zero-extended, into sd; of FSTAT after every earlier chain-unit word (R21).
R98, R14, R16, R19, R20, R24: SWR writes what the register's map accepts; a write of a read-only register is ignored; a
write of FSTAT stores bits 7:0 after every earlier chain-unit word (R21). -/
def Obligations.SpecialRegistersReadAndWrite : Prop :=
  (∀ (s : State) (d : BitVec 6) (e : BitVec 8),
      (∀ x, selected s e = some x →
        ∃ t, exec (.srd d e) s = .next t ∧ t.getS d = x ∧ (∀ j, j ≠ d → t.getS j = s.getS j)
          ∧ Passed s t ∧ OnlyScalars s t ∧ t.cur.regs.fstat = s.cur.regs.fstat ∧ t.cur.regs.fpend = s.cur.regs.fpend)
      ∧ (∃ t, exec (.srd d 1#8) s = .next t ∧ t.getS d = BitVec.ofNat 64 t.cur.regs.fstat.toNat
          ∧ (∀ j, j ≠ d → t.getS j = s.getS j) ∧ OnlyGroup s t ∧ OnlyScalars s t
          ∧ t.cur.hend = [] ∧ MovedTo s t (s.cur.frag.pc + 4#57)
          ∧ t.cur.regs.fstat &&& s.cur.regs.fstat = s.cur.regs.fstat
          ∧ (s.cur.hend = [] → t.cur.regs.fstat = s.cur.regs.fstat)))
    ∧ (∀ (s : State) (d : BitVec 6) (e : BitVec 8),
      (e ≠ 1#8 → ∃ t, exec (.swr d e) s = .next t ∧ OnlyGroup s t ∧ t.cur.regs = written s.cur.regs e (s.getS d)
        ∧ t.cur = { s.cur with regs := t.cur.regs, frag := t.cur.frag }
        ∧ t.cur.frag = { s.cur.frag.movedTo (s.cur.frag.pc + 4#57) with
            exec := if e = 3#8 then BitVec.ofNat 32 (s.getS d).toNat &&& s.cur.frag.member else s.cur.frag.exec })
      ∧ (∃ t, exec (.swr d 1#8) s = .next t ∧ OnlyGroup s t ∧ t.cur.regs.fstat = BitVec.ofNat 8 (s.getS d).toNat
        ∧ t.cur.regs = { s.cur.regs with fstat := t.cur.regs.fstat, fpend := t.cur.regs.fpend } ∧ t.cur.hend = []
        ∧ MovedTo s t (s.cur.frag.pc + 4#57)))

/-- R153, R15: a predicate form writes its result into the active lanes of its destination and leaves the others.
R154: EXWR clears the EXEC bit of every active lane in which the predicate is 0, and changes nothing else. -/
def Obligations.PredicatesAndExecFollowTheirWords : Prop :=
  (∀ (i : Instr) (s : State) (d : BitVec 3) (m : Mask), predResult s i = some (d, m) →
      ∃ t, exec i s = .next t
        ∧ (∀ l, l < 32 → (t.getP d).getLsbD l = if s.active.getLsbD l then m.getLsbD l else (s.getP d).getLsbD l)
        ∧ (∀ q, q ≠ d → t.getP q = s.getP q) ∧ Passed s t ∧ OnlyPreds s t ∧ Ended s t 0#8)
    ∧ (∀ (s : State) (p : BitVec 3), ∃ t, exec (.exwr p) s = .next t ∧ OnlyGroup s t
      ∧ t.cur = { s.cur with frag := t.cur.frag }
      ∧ t.cur.frag = { s.cur.frag.movedTo (s.cur.frag.pc + 4#57) with exec := t.cur.frag.exec }
      ∧ ∀ l, l < 32 → (t.cur.frag.exec.getLsbD l =
          (s.cur.frag.exec.getLsbD l && (!s.active.getLsbD l || (s.getP p).getLsbD l))))

/-- R111, R112, R116, R119, R120, R122 to R124: a vector word with an integer or bit result writes it into the active lanes
of its destination, from the sources as they stood before, and raises no flag. -/
def Obligations.IntegerVectorWordWritesActiveLanes : Prop :=
  ∀ (i : Instr) (s : State) (d : BitVec 7) (fs : List (BitVec 7)) (f : Nat → List Word → Word) (rd : RegRef)
    (rs : List RegRef),
    intLanes s i = some (d, fs, f) → s.ref d.toNat = some rd → fs.mapM (fun n => s.ref n.toNat) = some rs →
    ∃ t, exec i s = .next t
      ∧ (∀ l, l < 32 → laneOf (t.getRef rd) l =
          if s.active.getLsbD l then f l (rs.map (fun r => laneOf (s.getRef r) l)) else laneOf (s.getRef rd) l)
      ∧ (∀ r, r ≠ rd → t.getRef r = s.getRef r) ∧ Passed s t ∧ OnlyVectors s t ∧ Ended s t 0#8

/-- R111 to R114, R117, R118, R122, R123: a rounding vector word writes each active lane's result and ORs the flags of the
active lanes into FSTAT; the results of one lane are those of RoundTo (Number Formats and Rounding). -/
def Obligations.RoundingVectorWordWritesActiveLanes : Prop :=
  ∀ (i : Instr) (s : State) (d : BitVec 7) (fs : List (BitVec 7)) (f : List Word → FOut) (rd : RegRef) (rs : List RegRef),
    (floatLanes s i = some (d, fs, f) ∨ packedLanes s i = some (d, fs, f)) →
    s.ref d.toNat = some rd → fs.mapM (fun n => s.ref n.toNat) = some rs → WritesLanes s i rd rs f

/-- R115, R121: VCMP, VCMPC and VICMP write the outcome of their condition into the active lanes of their predicate, with the
invalid flag as R115 raises it. -/
def Obligations.VectorCompareWritesItsPredicate : Prop :=
  ∀ (s : State) (p : BitVec 3) (a b : BitVec 7) (c : BitVec 3) (ra rb : RegRef),
    s.ref a.toNat = some ra → s.ref b.toNat = some rb →
    WritesPredicate s (.vcmp p a b c) p ra rb (fun x y => fpCondition s c x.toNat y.toNat)
      ∧ WritesPredicate s (.vcmpc p a b c) p ra rb (fun x y => fpCondition s c x.toNat y.toNat)
      ∧ WritesPredicate s (.vicmp p a b c) p ra rb (fun x y => (condHolds c x y, 0#8))

/-- R125, R66, R110: VCVT converts the element of each active lane, an integer into an integer modulo 2^n or, with SAT, to the
nearest value of the type; a 64-bit element stands in two registers, and both or neither are written. -/
def Obligations.ConversionWritesItsElement : Prop :=
  ∀ (s : State) (d a : BitVec 7) (y x : BitVec 4) (ds as : List RegRef),
    s.straddles d.toNat (typeRegs y) = false → s.straddles a.toNat (typeRegs x) = false →
    s.refs d.toNat (typeRegs y) = some ds → s.refs a.toNat (typeRegs x) = some as →
    ∃ t, exec (.vcvt d a y x) s = .next t
      ∧ (∀ l, l < 32 → s.active.getLsbD l = false → blockValue t ds l = blockValue s ds l)
      ∧ (∀ l w sg m sh, l < 32 → s.active.getLsbD l = true → intType x = some (w, sg) → intType y = some (m, sh) →
          (blockValue t ds l : Int) =
            (let v := asInt w sg (blockValue s as l)
             if (s.himm.getD 0#25).getLsbD 0 then clampTo m sh v else asInt m sh (v % 2 ^ m).toNat) % 2 ^ (32 * typeRegs y))
      ∧ (∀ l, l < 32 → s.active.getLsbD l = true → (intType x = none ∨ intType y = none) →
          ds.map (fun r => laneOf (t.getRef r) l) = (convert (cvtType x) (cvtType y)
            { envOf s with sat := (s.himm.getD 0#25).getLsbD 0 } ((s.himm.getD 0#25).toNat / 2 % 64)
            (as.map (fun r => laneOf (s.getRef r) l))).1)
      ∧ (∀ r, r ∉ ds → t.getRef r = s.getRef r) ∧ Passed s t ∧ OnlyVectors s t

/-- R143, R144, R150: a permutation copies into each active lane the value of its source lane as it stood before, and leaves
every other lane and register alone. -/
def Obligations.PermutationCopiesItsSourceLane : Prop :=
  ∀ (i : Instr) (s : State) (d a b : BitVec 7) (rd ra rb : RegRef), permFields i = some (d, a, b) →
    s.ref d.toNat = some rd → s.ref a.toNat = some ra → s.ref b.toNat = some rb →
    ∃ t, exec i s = .next t
      ∧ (∀ l, l < 32 → laneOf (t.getRef rd) l =
          if s.active.getLsbD l then
            (match sourceLane s rb l i with
              | some j => laneOf (s.getRef ra) j
              | none => laneOf (s.getRef rd) l)
          else laneOf (s.getRef rd) l)
      ∧ (∀ r, r ≠ rd → t.getRef r = s.getRef r) ∧ Passed s t ∧ OnlyVectors s t ∧ Ended s t 0#8

/-- R145 to R148, R151: VRSTEP, VSCAN and VRED combine the values of active lanes in ascending lane order; a VRED or VSCAN with
no active lane in a nonzero EXEC raises empty. The start of a minimum or maximum fold is the model's choice (log 8). -/
def Obligations.ReductionsCombineActiveLanes : Prop :=
  ∀ (s : State) (d a : BitVec 7) (e : BitVec 6) (o : BitVec 4) (st : BitVec 3) (x : BitVec 1) (ds as : List RegRef),
    o.toNat < 12 → st.toNat < 5 → s.refs d.toNat (opRegs o) = some ds → s.refs a.toNat (opRegs o) = some as →
    let v : Nat → DWord := fun l => BitVec.ofNat 64 (blockValue s as l)
    let lows : DWord → Nat := fun y => y.toNat % 2 ^ (32 * opRegs o)
    (∃ t, exec (.vrstep d a o st) s = .next t
      ∧ (∀ l, l < 32 → blockValue t ds l = if s.active.getLsbD l then
          lows (reduceOp (envOf s) o (v (min l (l ^^^ 2 ^ st.toNat))) (v (max l (l ^^^ 2 ^ st.toNat)))).1 else blockValue s ds l)
      ∧ (∀ r, r ∉ ds → t.getRef r = s.getRef r) ∧ Passed s t ∧ OnlyVectors s t
      ∧ Ended s t (raisedBy s (fun l =>
          (reduceOp (envOf s) o (v (min l (l ^^^ 2 ^ st.toNat))) (v (max l (l ^^^ 2 ^ st.toNat)))).2)))
    ∧ (∃ t, exec (.vscan d a o x) s = .next t
      ∧ (∀ l, l < 32 → blockValue t ds l = if s.active.getLsbD l then
          lows (reduceOver (envOf s) o v (activeBelow s (if x = 1#1 then l else l + 1))).1 else blockValue s ds l)
      ∧ (∀ r, r ∉ ds → t.getRef r = s.getRef r) ∧ Passed s t ∧ OnlyVectors s t
      ∧ Ended s t (if s.active = 0#32 then (if s.cur.frag.exec = 0#32 then 0#8 else 0x20#8)
          else raisedBy s (fun l => (reduceOver (envOf s) o v (activeBelow s (if x = 1#1 then l else l + 1))).2)))
    ∧ (∃ t, exec (.vred e a o) s = .next t
      ∧ t.getS e = reduceScalar o (reduceOver (envOf s) o v (activeBelow s 32)).1
      ∧ (∀ j, j ≠ e → t.getS j = s.getS j) ∧ Passed s t ∧ OnlyScalars s t
      ∧ Ended s t ((reduceOver (envOf s) o v (activeBelow s 32)).2
          ||| (if s.active = 0#32 ∧ s.cur.frag.exec ≠ 0#32 then 0x20#8 else 0#8)))

/-- R149: VMATCH writes into each active lane the mask of the active lanes whose key equals its own, and raises no flag. -/
def Obligations.MatchWritesTheMaskOfEqualKeys : Prop :=
  ∀ (s : State) (d a : BitVec 7) (k : BitVec 2) (rd : RegRef) (as : List RegRef), k ≠ 3#2 →
    s.ref d.toNat = some rd → s.refs a.toNat (if k = 2#2 then 2 else 1) = some as →
    ∃ t, exec (.vmatch d a k) s = .next t
      ∧ (∀ l j, l < 32 → j < 32 → s.active.getLsbD l = true → (laneOf (t.getRef rd) l).getLsbD j =
          (s.active.getLsbD j &&
            (if k = 1#2 then
              decide (j = l) || (decide (blockValue s as j % 2 ^ 31 = 0) && decide (blockValue s as l % 2 ^ 31 = 0))
                || (decide (blockValue s as j = blockValue s as l) && !numIsNan (unpack .fp32 (blockValue s as j)))
            else decide (blockValue s as j = blockValue s as l))))
      ∧ (∀ l, l < 32 → s.active.getLsbD l = false → laneOf (t.getRef rd) l = laneOf (s.getRef rd) l)
      ∧ (∀ r, r ≠ rd → t.getRef r = s.getRef r) ∧ Passed s t ∧ OnlyVectors s t ∧ Ended s t 0#8

/-- R13: a vector-register field names v[n + XW], or outside the first case, inside a run, temporary n − 120; any other value
names no register, and a word of one-register operands traps for it with class 2 detail 0. -/
def Obligations.RegisterFieldNamesOneRegister : Prop :=
  ∀ (s : State) (n : BitVec 7),
    (s.cur.run.isSome = true → 120 ≤ n.toNat → s.ref n.toNat = some (.temp (n.toNat - 120)))
    ∧ ((s.cur.run = none ∨ n.toNat < 120) → n.toNat + 8 * s.cur.regs.window.toNat < s.cur.id.vregs →
        s.ref n.toNat = some (.reg (n.toNat + 8 * s.cur.regs.window.toNat)))
    ∧ ((s.cur.run = none ∨ n.toNat < 120) → s.cur.id.vregs ≤ n.toNat + 8 * s.cur.regs.window.toNat →
        s.ref n.toNat = none
        ∧ ∀ (d a : BitVec 7), ∃ t u, exec (.viadd d a n) s = .next t ∧ Trapped s t 64 0#32
            ∧ exec (.viadd n d a) s = .next u ∧ Trapped s u 64 0#32)

/-- R99, R103: a uniform branch goes to PC + 4 × its offset when its condition holds and to PC + 4 otherwise, and NOP goes to
PC + 4; nothing else changes.
R100: CALL writes PC + 4 into s63 and branches; RET and JMPR go to the value of their register, and a value with bits 1:0
or 63:57 nonzero raises a branch-target fault with no register changed. -/
def Obligations.UniformControlGoesToItsTarget : Prop :=
  (∀ (i : Instr) (s : State) (pc : Addr), goesOn s i = some pc → ∃ t, exec i s = .next t ∧ Jumped s t pc)
    ∧ (∀ (s : State) (o : BitVec 22) (r : BitVec 6) (i : Instr), i = .ret r ∨ i = .jmpr r →
      (∃ t, exec (.call o) s = .next t ∧ t.cur.frag = s.cur.frag.movedTo (offsetTarget s o)
        ∧ t.getS 63#6 = BitVec.ofNat 64 (after s).toNat ∧ (∀ e, e ≠ 63#6 → t.getS e = s.getS e)
        ∧ t = { s with cur := { s.cur with frag := t.cur.frag, regs := { s.cur.regs with s := t.cur.regs.s } } })
      ∧ ((s.getS r).toNat % 4 = 0 ∧ (s.getS r).toNat < 2 ^ 57 →
          ∃ t, exec i s = .next t ∧ Jumped s t (BitVec.ofNat 57 (s.getS r).toNat))
      ∧ (¬((s.getS r).toNat % 4 = 0 ∧ (s.getS r).toNat < 2 ^ 57) →
          ∃ t, exec i s = .next t ∧ Trapped s t 128 0#32 ∧ TrapOnly s t))

/-- R103: WAITF goes on when every flag of its mask is done, and holds the fragment at its unit otherwise; YIELD goes on and
changes nothing but which group of the slot issues next. -/
def Obligations.WaitfHoldsAndYieldGoesOn : Prop :=
  ∀ (s : State) (m : BitVec 12),
    ((∀ i, i < 12 → m.getLsbD i = true → s.cur.regs.flagDone i = true) →
      ∃ t, exec (.waitf m) s = .next t ∧ SameBytes s t
        ∧ t.cur = { s.cur with frag := s.cur.frag.movedTo (after s), facq := t.cur.facq }
        ∧ (∀ i, i < 12 → sget 0 t.cur.facq i = if m.getLsbD i then 0 else sget 0 s.cur.facq i)
        ∧ t = { s with cur := t.cur, mem := { s.mem with l1 := t.mem.l1, peerL1 := t.mem.peerL1, fills := t.mem.fills } }
        ∧ ((∀ e ∈ s.cur.facq, e.1 < 12 → m.getLsbD e.1 = true → e.2 < 3) → t.mem = s.mem))
    ∧ ((∃ i, i < 12 ∧ m.getLsbD i = true ∧ s.cur.regs.flagDone i = false) →
        ∃ t, exec (.waitf m) s = .next t ∧ WaitsFor s t (.flags m))
    ∧ (∃ t, exec .yield s = .next t
        ∧ t = { s with cur := { s.cur with frag := s.cur.frag.movedTo (after s), yield := t.cur.yield } }
        ∧ ∀ n, n ∈ t.cur.yield ↔ ∃ g ∈ s.others, g.alive = true ∧ g.id.core = s.cur.id.core ∧ g.id.slot = s.cur.id.slot
            ∧ g.id.order = n)

/-- R101, R136, R137: BDV goes on uniformly when no lane or every lane of EXEC takes it; otherwise it traps for the split
depth, traps for a spill that cannot be written, or makes a split entry with two fragments, of the lanes that take it and
of those that fall through. -/
def Obligations.DivergentBranchSplitsTheFragment : Prop :=
  ∀ (s : State) (p : BitVec 3) (o j : BitVec 12),
    let take := s.cur.frag.exec &&& s.getP p
    let fall := s.cur.frag.exec &&& ~~~s.getP p
    (take = 0#32 → ∃ t, exec (.bdv p o j) s = .next t ∧ Jumped s t (after s))
    ∧ (take ≠ 0#32 → fall = 0#32 → ∃ t, exec (.bdv p o j) s = .next t ∧ Jumped s t (offsetTarget s o))
    ∧ (take ≠ 0#32 → fall ≠ 0#32 → 8 + s.launchRec.spillEntries < s.cur.entries.length + 2 →
        ∃ t, exec (.bdv p o j) s = .next t ∧ Trapped s t 129 0#32 ∧ TrapOnly s t)
    ∧ (take ≠ 0#32 → fall ≠ 0#32 → s.cur.entries.length + 2 ≤ 8 + s.launchRec.spillEntries →
        let va := s.spillBase + 32 * freeSlot s.cur.entries
        (s.cur.onChip < 8 ∨ (va + 32 ≤ 2 ^ 57 ∧ ∃ l, MapsTo s va l ∧ l.kind = 1) →
          ∃ t e, exec (.bdv p o j) s = .next t ∧ (∀ x ∈ s.cur.entries, x.id < e)
            ∧ t.cur.frag = splitFrag s take (offsetTarget s o) e
            ∧ t.cur.sibs = splitFrag s fall (after s) e :: s.cur.sibs
            ∧ t.cur.entries.map entryData = s.cur.entries.map entryData
                ++ [(e, offsetTarget s j, s.cur.frag.member &&& ~~~s.cur.frag.exec, s.cur.frag.entry)]
            ∧ t.cur = { s.cur with frag := t.cur.frag, sibs := t.cur.sibs, entries := t.cur.entries }
            ∧ (s.cur.onChip < 8 → t = { s with cur := t.cur }))
        ∧ (8 ≤ s.cur.onChip → (∃ x ∈ s.cur.entries, x.spilled = none ∧ x.id ≠ 0) →
            (2 ^ 57 < va + 32 ∨ ∃ l, MapsTo s va l ∧ l.kind ≠ 1) →
            ∃ t, exec (.bdv p o j) s = .next t ∧ Trapped s t 130 0#32))

/-- R102, R136: at the reconvergence address of its own entry a JOIN fuses the fragments of the entry, when each of them waits
there and no child entry is left, into one at PC + 4 with the union of their lanes and the held lanes, and waits otherwise;
anywhere else it sets EXEC to the membership and goes on at PC + 4.
R104, R139: EXIT ends the fragment: the last one ends the group; otherwise the fragments that remain go on, those of its
entry that all wait at its JOIN fuse, and an entry left with no fragment and no child entry is removed. -/
def Obligations.JoinFusesAndExitEnds : Prop :=
  (∀ (s : State) (en : SplitEntry),
      (s.cur.entries.find? (fun x => x.id == s.cur.frag.entry && x.join == s.cur.frag.pc) = none →
        ∃ t, exec .join s = .next t ∧ t = { s with cur := { s.cur with
          frag := { s.cur.frag.movedTo (after s) with exec := s.cur.frag.member } } })
      ∧ (atJoin s en → ¬mayFuse s en → ∃ t, exec .join s = .next t ∧ WaitsFor s t .join)
      ∧ (atJoin s en → mayFuse s en →
          ∃ t, exec .join s = .next t ∧ t = { s with cur := t.cur }
            ∧ t.cur = { s.cur with frag := t.cur.frag, sibs := t.cur.sibs, entries := t.cur.entries }
            ∧ t.cur.frag.pc = after s ∧ t.cur.frag.exec = t.cur.frag.member ∧ t.cur.frag.entry = en.parent
            ∧ (∀ l, l < 32 → t.cur.frag.member.getLsbD l = (en.held.getLsbD l || s.cur.frag.member.getLsbD l
                || s.cur.sibs.any (fun f => f.entry == en.id && f.member.getLsbD l)))
            ∧ t.cur.sibs = s.cur.sibs.filter (fun f => f.entry != en.id)
            ∧ t.cur.entries = s.cur.entries.filter (fun e => e.id != en.id)))
    ∧ (∀ (s : State) (f : Frag) (fs : List Frag) (en : SplitEntry),
      let e := s.cur.frag.entry
      (s.cur.sibs = [] → ∃ t, exec .exit s = .next t ∧ t.cur.alive = false ∧ t.cur.sibs = [] ∧ t.cur.entries = []
        ∧ t.cur.run = none ∧ t.cur.regs = s.cur.regs ∧ t.others = s.others ∧ SameBytes s t)
      ∧ (s.cur.sibs = f :: fs → (∃ g ∈ f :: fs, gatherOf g = none) →
          (s.cur.entries.find? (fun x => x.id == e) = none ∨ (∃ x ∈ s.cur.entries, x.parent = e)
            ∨ (∃ g ∈ f :: fs, g.entry = e ∧ g.wait ≠ .join)) →
          ∃ t, exec .exit s = .next t ∧ t = { s with cur := { s.cur with frag := f, sibs := fs } })
      ∧ (s.cur.sibs = f :: fs → s.cur.entries.find? (fun x => x.id == e) = some en → (∀ x ∈ s.cur.entries, x.parent ≠ e) →
          en.spilled = none → (∃ g ∈ f :: fs, g.entry = e) → (∀ g ∈ f :: fs, g.entry = e → g.wait = .join) →
          ∃ t, exec .exit s = .next t ∧ t = { s with cur := { s.cur with
              frag := t.cur.frag, sibs := t.cur.sibs, entries := t.cur.entries } }
            ∧ t.cur.frag.pc = en.join + 4#57 ∧ t.cur.frag.exec = t.cur.frag.member ∧ t.cur.frag.entry = en.parent
            ∧ (∀ l, l < 32 → t.cur.frag.member.getLsbD l =
                (en.held.getLsbD l || (f :: fs).any (fun g => g.entry == e && g.member.getLsbD l)))
            ∧ t.cur.sibs = (f :: fs).filter (fun g => g.entry != e)
            ∧ t.cur.entries = s.cur.entries.filter (fun x => x.id != e))
      ∧ (s.cur.sibs = f :: fs → (∃ g ∈ f :: fs, gatherOf g = none) → s.cur.entries.find? (fun x => x.id == e) = some en →
          (∀ x ∈ s.cur.entries, x.parent ≠ e) → (∀ g ∈ f :: fs, g.entry ≠ e) →
          (∃ g ∈ f :: fs, g.entry = en.parent ∧ g.wait ≠ .join) →
          ∃ t, exec .exit s = .next t ∧ t = { s with cur := { s.cur with
              frag := f, sibs := fs, entries := s.cur.entries.filter (fun x => x.id != e) } }))

/-- R137: SPLIT_REFILL brings the spilled entry of the fragment back, as its spill left it, when the spill area is mapped to
this package's memory and its bytes have not been changed; a refill that cannot be read raises a split-spill fault. -/
def Obligations.RefillBringsTheEntryBack : Prop :=
  ∀ (s : State) (en : SplitEntry) (slot seed : Nat) (l : Leaf),
    let va := s.spillBase + 32 * slot
    s.cur.entries.find? (fun e => e.id == s.cur.frag.entry) = some en → en.spilled = some (slot, seed) →
    va + 32 ≤ 2 ^ 57 → MapsTo s va l → (s.cur.entries.map (·.id)).Nodup →
    (l.kind = 1 → s.mem.pkgPoison = [] → readBytes s.mem.pkg (leafPhys l va) 32 = freeBytes seed 4 → s.cur.onChip < 8 →
      ∃ t, exec .splitRefill s = .next t ∧ t.cur = { s.cur with entries := t.cur.entries }
        ∧ t.cur.entries.map entryData = s.cur.entries.map entryData
        ∧ (∀ x ∈ t.cur.entries, x.id = en.id → x.spilled = none) ∧ SameBytes s t)
    ∧ (l.kind ≠ 1 → ∃ t, exec .splitRefill s = .next t ∧ Trapped s t 131 0#32)

/-- R155 to R159: TBAR, TBARA, CBAR complete. A barrier word of a group of one fragment arrives when its count is that of the phase: when the arrivals
reach the count the phase completes and the fragment goes on after an acquire, otherwise TBARA goes on and TBAR and CBAR
wait for the phase; a count that does not fit raises a barrier-count fault and changes no barrier.
R156 step 3, R158, R159: a fragment that waits for a phase goes on with an acquire once the phase has passed, and waits on
before; TBARW goes on when no arrival of its group is outstanding or gathered, with an acquire when the group has arrived at
the barrier by TBARA, and waits otherwise. -/
def Obligations.BarriersArriveOnceAndWait : Prop :=
  (∀ (s : State) (n : BitVec 1) (b : BitVec 4) (r : BitVec 6) (c : BitVec 3) (i : Instr) (kind : Nat),
      (kind = 0 ∧ (i = .tbar n b r c ∨ i = .tbara n b r c)) ∨ (kind = 1 ∧ i = .cbar n b r c) →
      let cnt := if n = 1#1 then some (s.getS r).toNat else none
      s.cur.sibs = [] → s.cur.stop = none → s.cur.frag.phaseOf kind b.toNat = none →
      s.arrivalOutstanding s.cur.id kind b.toNat = false → NoStoreOut s → Placed s → countFits s kind b.toNat cnt →
      cnt.getD (defaultCount s kind) ≤ (barrierOf s kind b.toNat).arrived + 1 →
      ∃ t, exec i s = .next t ∧ t.cur.frag = s.cur.frag.movedTo (after s) ∧ t.cur.regs = s.cur.regs ∧ SameBytes s t
        ∧ barrierOf t kind b.toNat = { phase := (barrierOf s kind b.toNat).phase + 1, count := none, arrived := 0, who := [] }
        ∧ (i ≠ .tbara n b r c → AcquiredL1 s t c.toNat))
    ∧ (∀ (s : State) (i : Instr) (kind b scope : Nat) (cnt : Option Nat) (split : Bool),
      arrivalWord s i = some (kind, b, scope, cnt, split) → s.cur.sibs = [] → s.cur.stop = none →
      s.cur.frag.phaseOf kind b = none → s.arrivalOutstanding s.cur.id kind b = false → NoStoreOut s → Placed s →
      (countFits s kind b cnt →
        ∃ t, exec i s = .next t ∧ barrierAfter s kind b cnt (barrierOf t kind b) ∧ t.cur.regs = s.cur.regs ∧ SameBytes s t
          ∧ (split = false → (barrierOf s kind b).arrived + 1 < cnt.getD (defaultCount s kind) →
              t.cur.frag.pc = s.unitPc ∧ t.cur.frag.wait = .phase kind b ((barrierOf s kind b).phase + 1))
          ∧ (split = true → t.cur.frag.pc = after s ∧ t.cur.frag.wait = .ready)
          ∧ (split = false → cnt.getD (defaultCount s kind) ≤ (barrierOf s kind b).arrived + 1 →
              t.cur.frag.pc = after s ∧ t.cur.frag.wait = .ready ∧ AcquiredL1 s t scope))
      ∧ (¬countFits s kind b cnt → ∃ t, exec i s = .next t ∧ Trapped s t 132 0#32
          ∧ t.teams = s.teams ∧ t.clusters = s.clusters))
    ∧ (∀ (s : State) (i : Instr) (kind b scope ph : Nat) (cnt : Option Nat) (split : Bool) (n : BitVec 4) (c : BitVec 3),
      arrivalWord s i = some (kind, b, scope, cnt, split) → s.cur.frag.wait = .phase kind b ph → 0 < ph →
      (ph ≤ (barrierOf s kind b).phase → ∃ t, exec i s = .next t ∧ t.cur = { s.cur with frag := s.cur.frag.movedTo (after s) }
        ∧ AcquiredL1 s t scope ∧ SameBytes s t ∧ t.teams = s.teams ∧ t.clusters = s.clusters)
      ∧ ((barrierOf s kind b).phase < ph → ∃ t, exec i s = .next t ∧ WaitsFor s t (.phase kind b ph))
      ∧ (s.cur.gatheredAt n.toNat = false → s.arrivalOutstanding s.cur.id 0 n.toNat = false →
          ∃ t, exec (.tbarw n c) s = .next t ∧ t.cur = { s.cur with frag := s.cur.frag.movedTo (after s) }
            ∧ (s.cur.split.getLsbD n.toNat = true → AcquiredL1 s t c.toNat)
            ∧ (s.cur.split.getLsbD n.toNat = false → t.mem = s.mem) ∧ SameBytes s t)
      ∧ (s.cur.gatheredAt n.toNat = true ∨ s.arrivalOutstanding s.cur.id 0 n.toNat = true →
          ∃ t, exec (.tbarw n c) s = .next t ∧ WaitsFor s t (.barw n.toNat)))

/-- R26, R45, R46, R48: HIMM and HMOD are latched for the next word and the fragment goes on; a HIMM after another hint and an
HMOD after an HMOD are misplaced. -/
def Obligations.HintsAreLatchedForTheNextWord : Prop :=
  ∀ (s : State) (p : BitVec 25) (g n : BitVec 1) (q : BitVec 3) (r : BitVec 1) (m : BitVec 3) (c : BitVec 1)
    (o w x : BitVec 3),
    (s.cur.frag.hint = none →
      ∃ t, exec (.himm p) s = .next t ∧ OnlyGroup s t ∧ t.cur.regs = s.cur.regs
        ∧ t.cur.frag = { s.cur.frag with
            pc := after s, hint := some { first := s.cur.frag.pc, imm := some p, mod := none }, fuse := .none })
    ∧ (s.cur.frag.hint.isSome = true → ∃ t, exec (.himm p) s = .next t ∧ Trapped s t 4 0#32)
    ∧ (s.hmod = none →
        ∃ t, exec (.hmod g n q r m c o w x) s = .next t ∧ OnlyGroup s t ∧ t.cur.regs = s.cur.regs
          ∧ t.cur.frag = { s.cur.frag with pc := after s, fuse := .none, hint := t.cur.frag.hint }
          ∧ t.unitPc = s.unitPc ∧ t.himm = s.himm
          ∧ t.hmod = some { gEn := decide (g = 1#1), gNeg := decide (n = 1#1), gPred := q, rmEn := decide (r = 1#1), rm := m,
                            cut := decide (c = 1#1), xorder := o, xwidth := w, xspace := x })
    ∧ (s.hmod.isSome = true → ∃ t, exec (.hmod g n q r m c o w x) s = .next t ∧ Trapped s t 4 0#32)

/-- R43, R44, R79: HRUN of a run that passes the check opens it once its flags are done, with its flags bound, no temporary
written and its words as they were found; it waits before, RUN_START ends that wait, and a length out of range or a failed
check traps. -/
def Obligations.HrunOpensACheckedRun : Prop :=
  ∀ (s : State) (l : BitVec 5) (w : BitVec 12) (a b : BitVec 4) (ws : List Instr),
    let found := s.fetchRun (after s) (l.toNat + 1)
    let fits : BitVec 4 → Prop := fun f => f.toNat < 12 ∨ f = 15#4
    let opened : State → Prop := fun t =>
      (∃ r, t.cur.run = some r ∧ r.base = s.cur.frag.pc ∧ r.len = l.toNat ∧ r.words = ws ∧ r.temps = [] ∧ r.flight = []
        ∧ r.flagLd = a.toNat ∧ r.flagMrd = b.toNat)
      ∧ t.cur.frag.pc = after s ∧ t.cur.regs = (s.cur.regs.bindFlag a.toNat).bindFlag b.toNat ∧ SameBytes s t
    (1 ≤ l.toNat → l.toNat ≤ 24 → fits a → fits b → checkWords s.cur.id.vregs s.xw 1 l.toNat 0#8 (none, none) found.2 = .ok ws →
      (s.cur.regs.flagsDone w = true → ∃ t, exec (.hrun l w a b) s = .next t ∧ opened t)
      ∧ (s.cur.regs.flagsDone w = false → ∃ t, exec (.hrun l w a b) s = .next t ∧ t.cur.frag.wait = .flags w
          ∧ t.cur.frag.pc = s.unitPc ∧ t.cur.regs = s.cur.regs ∧ t.cur.run = s.cur.run ∧ SameBytes s t))
    ∧ (¬(1 ≤ l.toNat ∧ l.toNat ≤ 24) → ∃ t, exec (.hrun l w a b) s = .next t ∧ Trapped s t 32 0#32)
    ∧ (1 ≤ l.toNat → l.toNat ≤ 24 → fits a → fits b → ∀ cause idx,
        checkWords s.cur.id.vregs s.xw 1 l.toNat 0#8 (none, none) found.2 = .error (cause, idx) →
        ∃ t, exec (.hrun l w a b) s = .next t ∧ Trapped s t cause 0#32)
    ∧ (∀ raw u, s.fetchWord s.cur.frag.pc = (u, .ok raw) → decode raw = .ok (.hrun l w a b) →
        s.cur.regs.flagsDone w = true → ∃ t, exec .runStart s = .next t ∧ exec (.hrun l w a b) u = .next t)

/-- R43, R80, R81: HEND completes in an open run with no deferred fault: the run closes, its temporaries cease to exist, the
fragment goes on at PC + 4, words that have not completed go on, and the flag that HEND names is bound and not done while one
of them is not; a deferred fault is raised at the address after HEND; without an open run HEND is an illegal run. -/
def Obligations.HendClosesTheRun : Prop :=
  (∀ (s : State) (f : BitVec 4) (x y z : BitVec 7) (r : Run),
      (f.toNat < 12 ∨ f = 15#4) → (∀ n ∈ [x, y, z], n.toNat < 120 ∨ n = 127#7) → s.cur.run = some r → r.deferred = none →
      ∃ t, exec (.hend f x y z) s = .next t ∧ t.cur.run = none ∧ OnlyGroup s t
        ∧ t.cur.frag = s.cur.frag.movedTo (after s)
        ∧ t.cur.regs = { s.cur.regs with fstat := t.cur.regs.fstat, fpend := t.cur.regs.fpend }
        ∧ t.cur.regs.fstat &&& s.cur.regs.fstat = s.cur.regs.fstat
        ∧ (∀ w ∈ r.flight, 2 * (r.clock + 1) < w.complete → w.done = false →
            (∃ h ∈ t.cur.hend, w ∈ h.flight)
            ∧ (s.cur.hend = [] → f.toNat < 12 → x = 127#7 → y = 127#7 → z = 127#7 →
                t.cur.regs.flagDone f.toNat = false)))
    ∧ (∀ (s : State) (f : BitVec 4) (x y z : BitVec 7) (r : Run) (cause : Nat) (pc : Addr),
      (f.toNat < 12 ∨ f = 15#4) → (∀ n ∈ [x, y, z], n.toNat < 120 ∨ n = 127#7) →
      s.cur.run = some r → r.deferred = some (cause, pc) →
        ∃ t, exec (.hend f x y z) s = .next t ∧ (∃ st, t.cur.stop = some st ∧ st.cause = cause) ∧ t.cur.run = none
          ∧ t.cur.frag.pc = after s ∧ t.cur.regs.fmask = 0#32 ∧ SameBytes s t)
    ∧ (∀ (s : State) (f : BitVec 4) (x y z : BitVec 7),
      (f.toNat < 12 ∨ f = 15#4) → (∀ n ∈ [x, y, z], n.toNat < 120 ∨ n = 127#7) → s.cur.run = none →
        ∃ t, exec (.hend f x y z) s = .next t ∧ Trapped s t 36 0#32)

/-- R76, R89, R90: RESULT_COMMIT completes the pending word it names, and its flags reach FSTAT; EARLY_DECISION cancels words
in lanes without changing a register but FSTAT.cut, drops no flag but inexact and underflow, and moves the completion of no
word but the one that decides (R83 to R86). -/
def Obligations.RunWordsCompleteAndDecide : Prop :=
  ∀ (s : State) (i : Nat) (w : InFlight) (r : Run), s.cur.run = some r →
    (s.cur.pending[i]? = some w → w ∈ r.flight →
      ∃ t q, exec (.resultCommit i) s = .next t ∧ t = { s with cur := t.cur } ∧ t.cur.run = some q
        ∧ (∀ x ∈ r.flight, x.complete ≤ w.complete → { x with done := true } ∈ q.flight)
        ∧ (∀ x ∈ r.flight, w.complete < x.complete → x ∈ q.flight)
        ∧ t.cur.regs.fstat &&& (s.cur.regs.fstat ||| orFlags w.flags) = s.cur.regs.fstat ||| orFlags w.flags
        ∧ t.cur.regs = { s.cur.regs with fstat := t.cur.regs.fstat, fpend := t.cur.regs.fpend })
    ∧ (s.cur.deciding[i]? = some w → w ∈ r.flight →
      ∃ t q, exec (.earlyDecision i) s = .next t ∧ t = { s with cur := t.cur, fresh := s.fresh + 32 } ∧ t.cur.run = some q
        ∧ q.temps = r.temps ∧ q.twritten = r.twritten ∧ q.flight.length = r.flight.length
        ∧ (∀ (k : Nat) (x y : InFlight), r.flight[k]? = some x → q.flight[k]? = some y →
            y.idx = x.idx ∧ y.dests = x.dests ∧ x.cancelled &&& ~~~y.cancelled = 0#32
              ∧ (x.idx ≠ w.idx ∨ x.returned = [] → y.complete = x.complete)
              ∧ (x.idx = w.idx → y.cancelled = x.cancelled ∧ y.open_ &&& ~~~x.open_ = 0#32 ∧ y.flags = x.flags)
              ∧ ∀ l, (y.flags.getD l 0#8 ||| 0x18#8) = (x.flags.getD l 0#8 ||| 0x18#8))
        ∧ t.cur.regs = { s.cur.regs with fstat := t.cur.regs.fstat }
        ∧ (t.cur.regs.fstat = s.cur.regs.fstat ∨ t.cur.regs.fstat = s.cur.regs.fstat ||| 0x40#8))

/-- R105 to R107, R180 to R184, R187: LD, weak or strong, writes into each active lane the bytes at its address, zero-extended,
in the registers of its block, and changes no byte and no other register. -/
def Obligations.LoadsWriteTheBytesOfTheirLanes : Prop :=
  ∀ (s : State) (i : Instr) (w : LaneForm) (ds : List RegRef) (idx : Option RegRef) (pl : Nat → Place),
    laneForm s i = some w → w.acc = 0 → Resolves s w ds idx → AccessReady s →
    (∀ l ∈ lanesIn s.active, Reaches s w.space 0 w.size (laneEa s w.base idx l) (pl l)) →
    ∃ t, exec i s = .next t
      ∧ (∀ l ∈ lanesIn s.active, ∃ v, LoadFinds s w.scope w.size (pl l) v ∧ blockHolds t ds w.size l v)
      ∧ (∀ r ∈ ds, ∀ l, l < 32 → s.active.getLsbD l = false → laneOf (t.getRef r) l = laneOf (s.getRef r) l)
      ∧ (∀ r, r ∉ ds → t.getRef r = s.getRef r) ∧ OnlyVectors s t ∧ OnlyWord s t
      ∧ MovedTo s t (after s) ∧ OnlyMemory s t ∧ SameBytes s t
      ∧ (1 ≤ w.order → s.cur.frag.exec ≠ 0#32 → AcquiredL1 t t w.scope)

/-- R105 to R107, R180 to R191: ST, CAS and ATOM act on the bytes of their active lanes one lane after another in ascending
order: the bytes afterwards, and for CAS and ATOM the old value of each lane in its block; every other byte and register is
as before. A store to package memory may instead enter the L1 and reach its home later (R173, R183): the stores then stand in
order among those on their way; and other groups' accesses may fall between the lanes of a CAS or ATOM (R189): the lanes
served so far have acted, and the word goes on when it issues again. Which of these happens is the model's free choice
(logs 9 and 10). -/
def Obligations.StoresAndAtomicsActLaneByLane : Prop :=
  ∀ (s : State) (i : Instr) (w : LaneForm) (ds : List RegRef) (idx : Option RegRef) (pl : Nat → Place),
    laneForm s i = some w → w.acc ≠ 0 → Resolves s w ds idx → AccessReady s →
    let lanes := lanesIn s.active
    let touched : Nat → Prop := fun a => ∃ l ∈ lanes, placeKey (pl l) ≤ a ∧ a < placeKey (pl l) + w.size
    (∀ l ∈ lanes, Reaches s w.space w.acc w.size (laneEa s w.base idx l) (pl l)
      ∧ (w.space = 2 → WalkApart s touched (laneEa s w.base idx l))) →
    let after_ (ls : List Nat) := lanesInTurn w.size (fun l => placeKey (pl l))
      (fun l old => newDatum w.size (blockValue s ds l) old i) ls (spaceByte s w.space)
    let others : State → Prop := fun t => ∀ a, if w.space = 2 then tileByte t a = tileByte s a else pkgByte t a = pkgByte s a
    ((w.acc = 1 → w.space = 2 → s.mem.delay = false) → (w.acc ≠ 1 → s.mem.cut = 0) →
      ∃ t, exec i s = .next t
        ∧ (∀ a, spaceByte t w.space a = (after_ lanes).1 a) ∧ others t
        ∧ (w.acc ≠ 1 → ∀ l ∈ lanes, blockHolds t ds w.size l ((after_ lanes).2 l))
        ∧ (∀ r ∈ ds.take (dataRegs w.size), ∀ l, l < 32 → s.active.getLsbD l = false → laneOf (t.getRef r) l = laneOf (s.getRef r) l)
        ∧ (∀ r, (w.acc = 1 ∨ r ∉ ds.take (dataRegs w.size)) → t.getRef r = s.getRef r) ∧ OnlyVectors s t
        ∧ OnlyWord s t ∧ MovedTo s t (after s) ∧ OnlyMemory s t
        ∧ (1 ≤ w.order → w.order ≠ 2 → s.cur.frag.exec ≠ 0#32 → AcquiredL1 t t w.scope))
    ∧ (w.acc = 1 → w.space = 2 → s.mem.delay = true →
      ∃ t, exec i s = .next t ∧ SameBytes s t ∧ NoRegs s t ∧ OnlyWord s t ∧ MovedTo s t (after s) ∧ OnlyMemory s t
        ∧ t.mem.late.map (fun x => (x.addr, x.bytes)) = lanes.map (fun l => (placeKey (pl l), leBytes w.size (blockValue s ds l)))
        ∧ ∀ x ∈ t.mem.late, x.core = s.cur.id.core ∧ x.owner = s.cur.id.key)
    ∧ (w.acc ≠ 1 → 0 < s.mem.cut → s.mem.cut < lanes.length →
      ∃ t p, exec i s = .next t ∧ t.cur.part = some p ∧ p.frag = s.cur.frag.member
        ∧ (∀ l, l < 32 → p.served.getLsbD l = decide (l ∈ lanes.take s.mem.cut))
        ∧ (∀ a, spaceByte t w.space a = (after_ (lanes.take s.mem.cut)).1 a) ∧ others t
        ∧ t.cur.frag.pc = s.unitPc ∧ t.cur.frag.wait = .ready ∧ t.cur.regs = s.cur.regs)

/-- R108: LDS writes the bytes at s[sa], zero-extended, into sd, and STS stores the low bytes of sd there, whatever EXEC
holds; nothing else changes. A store to package memory may instead reach its home later (R183; the choice is the model's,
log 10). -/
def Obligations.ScalarLoadAndStoreMoveOneValue : Prop :=
  ∀ (s : State) (d a : BitVec 6) (w : BitVec 2) (x : BitVec 3) (pl : Place), x.toNat ≤ 2 → AccessReady s →
    let n := 2 ^ w.toNat
    let ea := (s.getS a).toNat
    (Reaches s x.toNat 0 n ea pl →
      ∃ t v, exec (.lds d a w x) s = .next t ∧ LoadFinds s 0 n pl v ∧ t.getS d = BitVec.ofNat 64 v
        ∧ (∀ e, e ≠ d → t.getS e = s.getS e) ∧ OnlyScalars s t ∧ OnlyWord s t ∧ MovedTo s t (after s)
        ∧ OnlyMemory s t ∧ SameBytes s t)
    ∧ (Reaches s x.toNat 1 n ea pl → (x.toNat = 2 → s.mem.delay = false) →
        ∃ t, exec (.sts d a w x) s = .next t
          ∧ (∀ k, spaceByte t x.toNat k = bytesSet (spaceByte s x.toNat) (placeKey pl) n (s.getS d).toNat k)
          ∧ (∀ k, if x.toNat = 2 then tileByte t k = tileByte s k else pkgByte t k = pkgByte s k)
          ∧ NoRegs s t ∧ OnlyWord s t ∧ MovedTo s t (after s) ∧ OnlyMemory s t)
    ∧ (Reaches s x.toNat 1 n ea pl → x.toNat = 2 → s.mem.delay = true →
        ∃ t, exec (.sts d a w x) s = .next t ∧ SameBytes s t
          ∧ t.mem.late = [{ core := s.cur.id.core, owner := s.cur.id.key, addr := placeKey pl,
                            bytes := leBytes n (s.getS d).toNat, seen := false }]
          ∧ NoRegs s t ∧ OnlyWord s t ∧ MovedTo s t (after s) ∧ OnlyMemory s t)

/-- R109, R179, R313, R315, R316: a word some of whose lanes have bad addresses stops its group with the cause of the lowest
such lane, FMASK names exactly those lanes, the other lanes load or act as usual, and the bad lanes change nothing; LDS and
STS write FMASK as 0. R107, R180: a scoped word whose block passes field value 127 is an illegal opcode. (A store that reaches
its home at once, and an atomic word whose lanes no other group comes between: logs 9 and 10.) -/
def Obligations.BadLanesFaultAndGoodLanesAct : Prop :=
  ∀ (s : State) (i : Instr) (w : LaneForm) (ds : List RegRef) (idx : Option RegRef) (pl : Nat → Place) (bad : Mask)
    (cause : Nat → Nat) (low : Nat),
    laneForm s i = some w →
    (w.scope ≠ 0 → 128 < w.field.toNat + w.regs → ∃ t, exec i s = .next t ∧ Trapped s t 3 0#32)
    ∧ (Resolves s w ds idx → AccessReady s → (w.acc = 1 → w.space = 2 → s.mem.delay = false) → (2 ≤ w.acc → s.mem.cut = 0) →
    let good := s.active &&& ~~~bad
    let touched : Nat → Prop := fun a => ∃ l ∈ lanesIn good, placeKey (pl l) ≤ a ∧ a < placeKey (pl l) + w.size
    (∀ l ∈ lanesIn s.active, (if bad.getLsbD l then Faulty s w.space w.acc w.size (laneEa s w.base idx l) (cause l)
        else Reaches s w.space w.acc w.size (laneEa s w.base idx l) (pl l))
      ∧ (w.space = 2 → w.acc ≠ 0 → WalkApart s touched (laneEa s w.base idx l))) →
    (lanesIn (s.active &&& bad)).head? = some low →
    let done := lanesInTurn w.size (fun l => placeKey (pl l)) (fun l old => newDatum w.size (blockValue s ds l) old i)
      (lanesIn good) (spaceByte s w.space)
    ∃ t, exec i s = .next t ∧ (∃ st, t.cur.stop = some st ∧ st.cause = cause low) ∧ t.cur.frag.pc = s.unitPc
      ∧ t.cur.regs.fmask = s.active &&& bad
      ∧ (w.acc ≠ 0 → ∀ a, spaceByte t w.space a = done.1 a) ∧ (w.acc = 0 → SameBytes s t)
      ∧ (∀ a, if w.space = 2 then tileByte t a = tileByte s a else pkgByte t a = pkgByte s a)
      ∧ (w.acc = 0 → ∀ l ∈ lanesIn good, ∃ v, LoadFinds s w.scope w.size (pl l) v ∧ blockHolds t ds w.size l v)
      ∧ (2 ≤ w.acc → ∀ l ∈ lanesIn good, blockHolds t ds w.size l (done.2 l))
      ∧ (∀ r l, l < 32 → good.getLsbD l = false → laneOf (t.getRef r) l = laneOf (s.getRef r) l))
    ∧ (AccessReady s → ∀ (d a : BitVec 6) (v : BitVec 2) (x : BitVec 3) (c : Nat), x.toNat ≤ 2 →
        (Faulty s x.toNat 0 (2 ^ v.toNat) (s.getS a).toNat c → ∃ t, exec (.lds d a v x) s = .next t ∧ Trapped s t c 0#32)
        ∧ (Faulty s x.toNat 1 (2 ^ v.toNat) (s.getS a).toNat c → ∃ t, exec (.sts d a v x) s = .next t ∧ Trapped s t c 0#32))

/-- R193, R194: FENCE goes on, with no line of the core's L1 left after an acquire at .clu or wider; CFLUSH and CINV of all
lines leave none; CFLUSH and CINV of one line, of this package or of a peer, leave that line out; after CINV of the instruction
cache it holds of its line nothing but what the home holds; no byte and no register changes. -/
def Obligations.FencesAndCacheWordsDropLines : Prop :=
  ∀ (s : State) (o c : BitVec 3) (r : BitVec 6) (l : Leaf), NoStoreOut s →
    let va := ((s.getS r).toNat + s.immAddr) / 128 * 128
    let line := leafPhys l va / 128
    let goesOn : State → Prop := fun t => t.cur = { s.cur with frag := s.cur.frag.movedTo (after s) } ∧ SameBytes s t
      ∧ OnlyMemory s t
    let fresh : State → Nat → Prop := fun t n => sget none t.mem.icache (icKey s.cur.id.core n) = none
      ∨ sget none t.mem.icache (icKey s.cur.id.core n) = some (homeLine s.mem n)
    let lineGone : State → Prop := fun t =>
      if l.kind = 1 then sget none t.mem.l1 (l1Key s.cur.id.core 0 line) = none
      else ∀ pa, pa / 128 = line → pa < 2 ^ 31 → sget none t.mem.peerL1 (peerKey s.cur.id.core l.unit pa) = none
    (∃ t, exec (.fence o c) s = .next t ∧ goesOn t ∧ (3 ≤ c.toNat → o ≠ 2#3 → AcquiredL1 s t c.toNat))
    ∧ (s.immAddr = 0 → (∃ t, exec (.cflush 1#1 r) s = .next t ∧ goesOn t ∧ AcquiredL1 s t 3)
        ∧ (∃ t, exec (.cinv 1#1 r) s = .next t ∧ goesOn t ∧ AcquiredL1 s t 3)
        ∧ (∃ t, exec (.cinvI 1#1 r) s = .next t ∧ goesOn t ∧ ∀ n, n < 2 ^ 24 → fresh t n))
    ∧ (va < 2 ^ 57 → MapsTo s va l → l.kind ≠ 3 →
        (∃ t, exec (.cflush 0#1 r) s = .next t ∧ goesOn t ∧ lineGone t)
        ∧ (∃ t, exec (.cinv 0#1 r) s = .next t ∧ goesOn t ∧ lineGone t)
        ∧ (∃ t, exec (.cinvI 0#1 r) s = .next t ∧ goesOn t ∧ (l.kind = 1 → fresh t line)))
    ∧ (s.immAddr ≠ 0 → ∀ i ∈ [Instr.cflush 1#1 r, .cinv 1#1 r, .cinvI 1#1 r], ∃ t, exec i s = .next t ∧ Trapped s t 3 0#32)

/-- R312, R324, R325: TRAP and BKPT complete and stop their group: the fragment stands at PC + 4, FMASK is 0, and the record
carries the cause, the first word of the unit, and for TRAP with an argument the register. -/
def Obligations.TrapAndBkptStopTheirGroup : Prop :=
  ∀ (s : State) (n b : BitVec 6) (g : BitVec 1) (k : BitVec 5),
    let stops : Instr → Nat → DWord → Prop := fun i cause aux => ∃ t, exec i s = .next t ∧ TrapOnly s t
      ∧ (∃ st, t.cur.stop = some st ∧ st.cause = cause ∧ st.modal = false)
      ∧ t.cur.frag = s.cur.frag.movedTo (after s) ∧ t.cur.regs = { s.cur.regs with fmask := 0#32 }
      ∧ (∃ r ∈ t.fault.records, StopRecord s cause 0#32 r ∧ r.addr = 0 ∧ r.aux = aux)
      ∧ (s.cur.id.privileged = true → t.fault.supFault = true ∧ t.msi = s.msi ++ [1])
    stops (.trap n b g) (960 + n.toNat) (if g = 1#1 then s.getS b else 0#64)
      ∧ stops (.bkpt k) (928 + k.toNat) 0#64

/-- R326, R337: WATCH sets the slot that its control word names, disables it when enable is 0, and raises a watch-operand
fault for a reserved value, a misaligned range, exec outside job space, or async without write. -/
def Obligations.WatchSetsItsSlot : Prop :=
  ∀ (s : State) (a b : BitVec 6),
    let c := s.getS b
    let sets : Option WatchSlot → State → Prop := fun w t =>
      t = { s with cur := { s.cur with frag := s.cur.frag.movedTo (after s),
                                       watch := sput none s.cur.watch (c.toNat % 4) w } }
    (c.getLsbD 4 = false → ∃ t, exec (.watch a b) s = .next t ∧ sets none t)
    ∧ (watchFits (s.getS a) c → ∃ t, exec (.watch a b) s = .next t ∧ sets (some (watchSlot (s.getS a) c)) t)
    ∧ (c.getLsbD 4 = true → ¬watchFits (s.getS a) c → ∃ t, exec (.watch a b) s = .next t ∧ Trapped s t 139 0#32 ∧ TrapOnly s t)

/-- R334: a privileged word in a group that is not privileged raises a privilege fault with no effect. -/
def Obligations.PrivilegedWordsNeedAPrivilegedGroup : Prop :=
  ∀ (i : Instr) (s : State), isPrivileged i = true → s.cur.id.privileged = false →
    ∃ t, exec i s = .next t ∧ Trapped s t 137 0#32 ∧ TrapOnly s t

/-- R329 to R333: GSTOP, GRESUME and GKILL act on exactly the live groups of their job that the selection names: at once, or at
its next boundary on a group that is inside a run or a word, that has such a word waiting, or, for GSTOP, that is about to
take a trap; the issuing fragment goes on; GKILL marks the launches of killed groups killed; a reserved selection raises an
engine-operand fault. -/
def Obligations.SelectionWordsActOnTheirGroups : Prop :=
  ∀ (i : Instr) (s : State) (a b : BitVec 6) (act : Group → Group), selectionWord i = some (a, b, act) →
    s.cur.id.privileged = true → DistinctGroups s →
    (selectionReserved (s.getS a) (s.getS b) → ∃ t, exec i s = .next t ∧ Trapped s t 480 0#32 ∧ TrapOnly s t)
    ∧ (¬selectionReserved (s.getS a) (s.getS b) →
        let u : Group := { s.cur with frag := s.cur.frag.movedTo (after s) }
        let later : Group → Prop := fun g => (g.run.isSome = true ∧ g.stop = none) ∨ g.part.isSome = true ∨ g.due ≠ []
          ∨ (i = .gstop a b ∧ g.swapped = false ∧ g.stop = none ∧ g.cmdFaults ≠ [])
        let pick : Group → Group → Prop := fun g h =>
          if chosen s (s.getS a) (s.getS b) g = true then
            (later g → ∃ w, h = { g with due := g.due ++ [w] } ∧ w.sel = s.getS a ∧ w.member = s.getS b)
              ∧ (¬later g → h = act g)
          else h = g
        ∃ t, exec i s = .next t ∧ pick u t.cur ∧ t.others.length = s.others.length
          ∧ (∀ (n : Nat) (g h : Group), s.others[n]? = some g → t.others[n]? = some h → pick g h) ∧ SameBytes s t
          ∧ (∀ x y, i = .gkill x y → ∀ g ∈ u :: s.others, chosen s (s.getS a) (s.getS b) g = true →
              ¬later g → ∀ l ∈ t.sched.launches, l.grid = g.id.grid → l.killed = true))

/-- R7, R334, R335: in a privileged group CSRRD writes the register into sd and CSRWR stores the bits that the register's map
lets a write store; a number that names no CSR, or bits above 15, raise a CSR fault. The host and management ports write by
CSR_WRITE. -/
def Obligations.CsrWordsReachTheirRegister : Prop :=
  ∀ (s : State) (a d b : BitVec 6) (num : Nat) (who : Writer) (v : BitVec 64), s.cur.id.privileged = true →
    let named := (s.getS a).toNat < 2 ^ 16
    let value : State → Nat → Option (BitVec 64) := fun t n => t.csrRead (some s.cur.id.core) s.cur.id.job n
    ((s.getS a).toNat = num → named → num ≠ 0x144 → ∀ x, value s num = some x →
      ∃ t, exec (.csrrd a d) s = .next t ∧ t.getS d = x ∧ (∀ e, e ≠ d → t.getS e = s.getS e) ∧ MovedTo s t (after s)
        ∧ SameBytes s t ∧ OnlyMemory s t)
    ∧ ((s.getS a).toNat = 0x144 →
        (s.fault.head = s.fault.tail → ∃ t, exec (.csrrd a d) s = .next t ∧ WaitsFor s t .frwait)
        ∧ (s.fault.head ≠ s.fault.tail → ∃ t, exec (.csrrd a d) s = .next t
            ∧ t.getS d = BitVec.ofNat 64 s.fault.tail.toNat ∧ MovedTo s t (after s)))
    ∧ (¬named ∨ ((s.getS a).toNat = num ∧ value s num = none) →
        (∃ t, exec (.csrrd a d) s = .next t ∧ Trapped s t 138 0#32) ∧ (∃ t, exec (.csrwr a b) s = .next t ∧ Trapped s t 138 0#32))
    ∧ ((s.getS a).toNat = num → NoStoreOut s →
        (∀ m, csrStores num = some m → ∃ t, exec (.csrwr a b) s = .next t ∧ value t num = some (s.getS b &&& m)
          ∧ t.cur = { s.cur with frag := s.cur.frag.movedTo (after s) } ∧ SameBytes s t)
        ∧ (csrReadOnly num = true → ∃ t, exec (.csrwr a b) s = .next t ∧ Jumped s t (after s)))
    ∧ (num < 2 ^ 16 → num < 0x1000 → s.sec.slots.any (·.isSome) = false →
        (∀ m, csrStores num = some m → ∃ t, exec (.csrWrite who (BitVec.ofNat 16 num) v) s = .next t
          ∧ value t num = some (v &&& m) ∧ t.cur = s.cur ∧ SameBytes s t)
        ∧ (csrReadOnly num = true → exec (.csrWrite who (BitVec.ofNat 16 num) v) s = .next s))

/-- R178, R336: with no access under way TLBINV drops the cached translations of the package that cover its address, leaves and
entries of its walk alike, or all of them, and goes on; with accesses under way its fragment waits, stores of the package on
their way to its own memory having been performed. -/
def Obligations.TlbinvDropsTranslations : Prop :=
  ∀ (s : State) (a : BitVec 6) (r : BitVec 2), s.cur.id.privileged = true → r ≠ 3#2 →
    (NoStoreOut s → ∃ t, exec (.tlbinv a r) s = .next t ∧ t.cur = { s.cur with frag := s.cur.frag.movedTo (after s) }
      ∧ t = { s with cur := t.cur, mem := { s.mem with tlb := t.mem.tlb } }
      ∧ (r ≠ 0#2 → t.mem.tlb = [])
      ∧ (r = 0#2 → ∀ k l, (k, some l) ∈ t.mem.tlb ↔
          (k, some l) ∈ s.mem.tlb ∧ k % 2 ^ 45 * 4096 / 2 ^ l.lg ≠ (s.getS a).toNat / 2 ^ l.lg))
    ∧ (s.fabric.txns ≠ [] → s.fabric.held = [] → ∃ t, exec (.tlbinv a r) s = .next t ∧ t.cur.frag.wait = .performed
        ∧ t.cur.frag.pc = s.unitPc ∧ t.cur.regs = s.cur.regs ∧ t.mem.late = [] ∧ (s.mem.late = [] → SameBytes s t))

/-- R317, R321, R322: FAULT_RECORD_POST writes the oldest record's 64 bytes into entry tail modulo the ring's size and advances
tail; a ring that is full, disabled or not mapped holds the record; FRWAIT ends the holds on an empty ring. -/
def Obligations.FaultRecordsReachTheirRing : Prop :=
  ∀ (s : State) (r : Record) (rest : List Record) (l : Leaf), s.fault.records = r :: rest →
    let va := s.fault.base.toNat + 64 * (s.fault.tail.toNat % 2 ^ (s.fault.logEntries.toNat + 4))
    (RingOpen s → va + 64 ≤ 2 ^ 57 → MapsTo s va l → l.kind = 1 → l.write = true →
      ∃ t, exec .faultRecordPost s = .next t
        ∧ (∀ k x, (recordWords r)[k]? = some x → bytesAt (pkgByte t) (leafPhys l va + 8 * k) 8 = x)
        ∧ (∀ a, a < leafPhys l va ∨ leafPhys l va + 64 ≤ a → pkgByte t a = pkgByte s a)
        ∧ (∀ a, tileByte t a = tileByte s a)
        ∧ t.fault = { s.fault with records := rest, tail := s.fault.tail + 1#32, heldBit := false }
        ∧ t.cur = s.cur ∧ t.others = s.others)
    ∧ (¬RingOpen s → exec .faultRecordPost s = .next s ∧ s.fault.held = true)
    ∧ (RingOpen s → va + 64 ≤ 2 ^ 57 → MapsTo s va l → ¬(l.kind = 1 ∧ l.write = true) →
        ∃ t, exec .faultRecordPost s = .next t ∧ t.fault = { s.fault with heldBit := true } ∧ SameBytes s t
          ∧ (s.fault.heldBit = false → t.msi = s.msi ++ [0]))
    ∧ (s.fault.head ≠ s.fault.tail → ∃ t, exec .frwait s = .next t ∧ t.cur.frag.wait ≠ .frwait ∧ t.cur.regs = s.cur.regs
        ∧ (∀ g ∈ t.others, g.frag.wait ≠ .frwait) ∧ SameBytes s t)

/-- R424: a sag lowers the clock step by one down to 4 and counts it, its end raises the step up to the limit of the
temperature, min_n keeps the lowest step until MIN_RST, and at 110 °C a die's core clocks stop until it has fallen to 100. -/
def Obligations.PowerStepsFollowSagAndTemperature : Prop :=
  ∀ (s : State) (d : BitVec 2) (temp : BitVec 8),
    let p := powerAt s d
    let lim := if 100 ≤ p.temp.toNat then 6 else 8
    let others : State → Prop := fun t => (∀ e, e ≠ d → powerAt t e = powerAt s e) ∧ t.cur = s.cur ∧ SameBytes s t
    (∃ t, exec (.minRst d) s = .next t ∧ powerAt t d = { p with minN := p.n } ∧ others t)
    ∧ (4 < p.n.toNat → ∃ t, exec (.supplySag d) s = .next t ∧ (powerAt t d).n = p.n - 1#4
        ∧ (powerAt t d).minN.toNat = min p.minN.toNat (p.n.toNat - 1) ∧ (powerAt t d).sags.toNat = min (2 ^ 32 - 1) (p.sags.toNat + 1)
        ∧ (powerAt t d).temp = p.temp ∧ others t)
    ∧ (p.n.toNat ≤ 4 → exec (.supplySag d) s = .next s)
    ∧ (p.n.toNat < lim → ∃ t, exec (.clockStepUp d) s = .next t ∧ powerAt t d = { p with n := p.n + 1#4 } ∧ others t)
    ∧ (lim ≤ p.n.toNat → exec (.clockStepUp d) s = .next s)
    ∧ (∃ t, exec (.thermalLimit d temp) s = .next t ∧ (powerAt t d).temp = temp ∧ others t
        ∧ (100 ≤ temp.toNat → (powerAt t d).n.toNat = min p.n.toNat 6) ∧ (temp.toNat < 100 → p.n.toNat ≤ 8 → (powerAt t d).n = p.n)
        ∧ (110 ≤ temp.toNat → (powerAt t d).stopped = true) ∧ (temp.toNat ≤ 100 → (powerAt t d).stopped = false)
        ∧ (100 < temp.toNat → temp.toNat < 110 → (powerAt t d).stopped = p.stopped))

/-- R425 to R427, R8, R405: while no key slot is occupied the host reads and writes every byte of package memory; a management
frame is answered once for each sequence number, a lost one is sent again; package reset leaves what State.reset holds but
for the node number, far memory, the fuses, the tags and the safe tier, the lasers' kept fields, and the model's own
counters. -/
def Obligations.PortsAndPackageReset : Prop :=
  ∀ (s : State) (addr : Nat) (bs : List Byte) (seq num : BitVec 16) (v : BitVec 64) (f : Frame),
    (s.sec.slots.any (·.isSome) = false → addr + bs.length ≤ 2 ^ 31 →
      (∃ t, exec (.hostMemoryAccess true addr bs) s = .next t
        ∧ (∀ a, pkgByte t a = if addr ≤ a ∧ a < addr + bs.length then bs.getD (a - addr) 0#8 else pkgByte s a)
        ∧ (∀ a, tileByte t a = tileByte s a ∧ farByte t a = farByte s a) ∧ t.cur = s.cur)
      ∧ (∃ t, exec (.hostMemoryAccess false addr bs) s = .next t ∧ t.hostRead = readBytes s.mem.pkg addr bs.length
        ∧ t = { s with hostRead := t.hostRead }))
    ∧ (s.mgmt.seen.find? (fun x => x.1 == seq) = none →
        (∃ t g, exec (.mgmtCsrRead seq num) s = .next t ∧ t = { s with mgmt := t.mgmt } ∧ t.mgmt.out = s.mgmt.out ++ [g]
          ∧ g.op = 4 ∧ g.seq = seq ∧ g.num = num ∧ g.value = (s.csrRead none s.fault.job num.toNat).getD 0#64
          ∧ t.mgmt.seen = s.mgmt.seen ++ [(seq, g)])
        ∧ (∀ m, csrStores num.toNat = some m → s.sec.slots.any (·.isSome) = false →
            ∃ t g, exec (.mgmtCsrWrite seq num v) s = .next t ∧ t.mgmt.out = s.mgmt.out ++ [g] ∧ g.op = 4 ∧ g.seq = seq
              ∧ t.mgmt.seen = s.mgmt.seen ++ [(seq, g)] ∧ t.csrRead none s.fault.job num.toNat = some (v &&& m)
              ∧ SameBytes s t))
    ∧ (∀ x, s.mgmt.seen.find? (fun x => x.1 == seq) = some x → ∀ i, i = Instr.mgmtCsrRead seq num ∨ i = .mgmtCsrWrite seq num v →
        ∃ t, exec i s = .next t ∧ t = { s with mgmt := { s.mgmt with out := s.mgmt.out ++ [x.2] } })
    ∧ (s.mgmt.unanswered.find? (fun g => g.seq == seq) = some f →
        ∃ t, exec (.mgmtFrameRetry seq) s = .next t ∧ t = { s with mgmt := { s.mgmt with out := s.mgmt.out ++ [f] } })
    ∧ (∃ t, exec (.mgmtReply (.reply seq)) s = .next t ∧ (∀ g ∈ t.mgmt.unanswered, g.seq ≠ seq)
        ∧ t = { s with mgmt := { s.mgmt with unanswered := t.mgmt.unanswered } })
    ∧ (∃ t, exec .packageReset s = .next t
        ∧ t = { State.reset with
            node := s.node, agenda := s.agenda, fresh := s.fresh, nextId := s.nextId,
            mem := { State.reset.mem with far := s.mem.far, farPoison := s.mem.farPoison },
            link := { State.reset.link with lasers := t.link.lasers },
            sec := { State.reset.sec with keyDigest := s.sec.keyDigest, svnMin := s.sec.svnMin, device := s.sec.device,
                                          tags := s.sec.tags, safe := s.sec.safe } }
        ∧ (∀ n x, (n, x) ∈ t.link.lasers → x = { Laser.reset with bias := x.bias, hours := x.hours }))

/-- R405 to R407: BOOT_GO of a waiting ROM checks the image: a bad header, key digest, signature or security version leaves
stage 7; a good image is measured and runs. -/
def Obligations.BootChecksItsImage : Prop :=
  ∀ (s : State), s.sec.stage = 1#3 →
    let base := s.sec.image.toNat * 4096
    let h := readBytes s.mem.pkg base 4096
    let num (o n : Nat) : Nat := bytesAt (pkgByte s) (base + o) n
    let msg := readBytes s.mem.pkg base 0x80 ++ readBytes s.mem.pkg (base + 4096) (num 8 8)
    let big (o n : Nat) : Nat := leNat ((readBytes s.mem.pkg (base + o) n).reverse)
    let good := headerOk h base = true ∧ Config.sm3 (readBytes s.mem.pkg (base + 0x40) 64) = s.sec.keyDigest
      ∧ Config.sm2Verify (BitVec.ofNat 512 (big 0x40 64)) msg (BitVec.ofNat 512 (big 0x80 64)) = true
      ∧ s.sec.svnMin.toNat ≤ num 6 1
    (good → ∃ t, exec .bootGo s = .next t ∧ t = { s with sec := { s.sec with stage := 2#3, meas := Config.sm3 msg } })
    ∧ (¬good → ∃ t, exec .bootGo s = .next t ∧ t = { s with sec := { s.sec with stage := 7#3 } })
    ∧ (headerOk h base = true → num 0 4 = 0x4639514B ∧ num 4 2 = 1 ∧ num 8 8 % 4096 = 0 ∧ 4096 ≤ num 8 8
        ∧ num 8 8 ≤ 268435456 ∧ num 0x10 8 % 4 = 0 ∧ num 0x10 8 < num 8 8 ∧ base + 4096 + num 8 8 ≤ 2 ^ 31)

/-- R409, R410, R408: BIND takes a free slot for its job and makes every queue signed, UNBIND erases the slot, QUOTE writes the
device's public point and a signature, PAIR waits for its peer and ends by the peer's message or by a timeout, and a
reserved code ends with result 1. R427: MGMT_SECURITY_COMMAND completes: the command of its block runs while no other does,
and its result and block are answered in a frame, of a PAIR when it ends. -/
def Obligations.SecurityCommandsBindPairAndQuote : Prop :=
  ∀ (s : State) (k : KeySlot) (node : BitVec 12) (job : BitVec 16) (m : BitVec 256) (svn : BitVec 4) (ok has : Bool)
    (keys : BitVec 384) (w : PairWait) (seq : BitVec 16) (block : List Byte),
    (CommandStarted s 0 [(9, 16), (144, 256)] → commandNum s 8 1 ≤ 1 →
      (∀ x ∈ bindWindows s, x.1 % 2 ^ 21 = 0 ∧ x.2 % 2 ^ 21 = 0) →
      (s.sec.slots.any (·.isNone) = true → s.keySlot (commandJob s) = none →
        ∃ t q, exec .secBind s = .next t ∧ CommandEnds s t 0#4 ∧ t.keySlot (commandJob s) = some q
          ∧ q.join = decide (commandNum s 8 1 = 1) ∧ (q.keys.isSome = true ↔ commandNum s 8 1 = 0) ∧ q.pairs = [] ∧ q.sealed_ = []
          ∧ q.windows = (bindWindows s).filter (fun x => x.2 != 0)
          ∧ (∀ i, (t.queue i).signed = true) ∧ SameBytes s t)
      ∧ (s.sec.slots.any (·.isNone) = false → ∃ t, exec .secBind s = .next t ∧ CommandFails s t 2#4)
      ∧ (s.sec.slots.any (·.isNone) = true → s.keySlot (commandJob s) = some k →
          ∃ t, exec .secBind s = .next t ∧ CommandFails s t 3#4))
    ∧ (∀ code, 8 ≤ code → CommandStarted s code [] → ∃ t, exec .secBind s = .next t ∧ CommandFails s t 1#4)
    ∧ (CommandStarted s 7 [(8, 256)] → s.keySlot (commandJob s) = some k →
        s.ctx.saved.any (fun c => c.job == commandJob s) = false →
        s.clusters.any (fun c => s.clusterJob c == commandJob s && !(s.clusterGroups c).isEmpty) = false →
        ∃ t, exec .secUnbind s = .next t ∧ CommandEnds s t 0#4 ∧ t.keySlot (commandJob s) = none ∧ SameBytes s t)
    ∧ (CommandStarted s 2 [(40, 64), (192, 256)] →
        ∃ t, exec .secQuote s = .next t ∧ CommandEnds s t 0#4
          ∧ (∀ a, a < s.sec.block.toNat * 256 + 64 ∨ s.sec.block.toNat * 256 + 192 ≤ a → pkgByte t a = pkgByte s a)
          ∧ leNat ((readBytes t.mem.pkg (s.sec.block.toNat * 256 + 64) 64).reverse) = s.sec.device.toNat)
    ∧ (CommandStarted s 1 [(10, 16), (49, 256)] →
        (commandJob s = 0#16 ∨ s.keySlot (commandJob s) = some k) →
        ∃ t f, exec .secPair s = .next t ∧ t.sec.start = true ∧ t.mgmt.out = s.mgmt.out ++ [f] ∧ f.op = 2
          ∧ t.sec.pair = some (PairWait.mk (commandNum s 8 2) (commandJob s)
              (BitVec.ofNat 256 (commandNum s 16 32)) (BitVec.ofNat 8 (commandNum s 48 1)) s.time.toNat none))
    ∧ (s.sec.pair = some w → w.node = node.toNat → w.job = job →
        (ok = true → m = w.measurement → w.svn.toNat ≤ svn.toNat → job = 0#16 →
          ∃ t, exec (.mgmtReply (.pair node job m svn ok has keys)) s = .next t ∧ CommandEnds s t 0#4 ∧ node ∈ t.sec.podPairs)
        ∧ (ok = true → m = w.measurement → w.svn.toNat ≤ svn.toNat → job ≠ 0#16 → s.keySlot job = some k →
            ∃ t q, exec (.mgmtReply (.pair node job m svn ok has keys)) s = .next t ∧ CommandEnds s t 0#4
              ∧ t.keySlot job = some q ∧ node ∈ q.pairs
              ∧ q.keys = if k.keys = none ∧ k.join = true ∧ has = true then some keys else k.keys)
        ∧ (ok = false ∨ m ≠ w.measurement ∨ svn.toNat < w.svn.toNat →
            ∃ t, exec (.mgmtReply (.pair node job m svn ok has keys)) s = .next t ∧ CommandFails s t 4#4))
    ∧ (s.sec.pair = some w →
        (w.at_ + 1000000000 ≤ s.time.toNat → ∃ t, exec .pairTimeout s = .next t ∧ CommandFails s t 5#4
          ∧ ∀ q, w.frame = some q → ∃ g, FrameAnswered s t q g 5#64)
        ∧ (s.time.toNat < w.at_ + 1000000000 → ∃ t, exec .pairTimeout s = .next t ∧ t = s))
    ∧ (s.sec.start = false → s.sec.pair = none → s.mgmt.seen.find? (fun x => x.1 == seq) = none →
        let job := BitVec.ofNat 16 (frameNum block 2 2)
        let windows := (List.range 4).map (fun i => (frameNum block (80 + 16 * i) 8, frameNum block (88 + 16 * i) 8))
        (frameNum block 0 1 = 0 → frameZero block 9 16 → frameZero block 144 256 → frameNum block 8 1 ≤ 1 →
          (∀ x ∈ windows, x.1 % 2 ^ 21 = 0 ∧ x.2 % 2 ^ 21 = 0) → s.sec.slots.any (·.isNone) = true → s.keySlot job = none →
          ∃ t q g, exec (.mgmtSecurityCommand seq block) s = .next t ∧ CommandEnds s t 0#4 ∧ FrameAnswered s t seq g 0#64
            ∧ t.keySlot job = some q ∧ q.join = decide (frameNum block 8 1 = 1)
            ∧ (q.keys.isSome = true ↔ frameNum block 8 1 = 0) ∧ q.pairs = [] ∧ q.sealed_ = []
            ∧ q.windows = windows.filter (fun x => x.2 != 0) ∧ (∀ i, (t.queue i).signed = true) ∧ SameBytes s t)
        ∧ (frameNum block 0 1 = 1 → frameZero block 10 16 → frameZero block 49 256 → job = 0#16 ∨ s.keySlot job = some k →
          ∃ t f, exec (.mgmtSecurityCommand seq block) s = .next t ∧ t.sec.start = true ∧ t.mgmt.out = s.mgmt.out ++ [f] ∧ f.op = 2
            ∧ t.mgmt.seen = s.mgmt.seen
            ∧ t.sec.pair = some (PairWait.mk (frameNum block 8 2) job (BitVec.ofNat 256 (frameNum block 16 32))
                (BitVec.ofNat 8 (frameNum block 48 1)) s.time.toNat (some seq)))
        ∧ (frameNum block 0 1 = 2 → frameZero block 40 64 → frameZero block 192 256 →
          ∃ t g, exec (.mgmtSecurityCommand seq block) s = .next t ∧ CommandEnds s t 0#4 ∧ FrameAnswered s t seq g 0#64
            ∧ t.sec.slots = s.sec.slots ∧ SameBytes s t
            ∧ leNat ((g.block.drop 64).take 64).reverse = s.sec.device.toNat
            ∧ ∀ i, i < 64 ∨ (192 ≤ i ∧ i < 256) → g.block.getD i 0#8 = block.getD i 0#8)
        ∧ (frameNum block 0 1 = 7 → frameZero block 8 256 → s.keySlot job = some k →
          s.ctx.saved.any (fun c => c.job == job) = false →
          s.clusters.any (fun c => s.clusterJob c == job && !(s.clusterGroups c).isEmpty) = false →
          ∃ t g, exec (.mgmtSecurityCommand seq block) s = .next t ∧ CommandEnds s t 0#4 ∧ FrameAnswered s t seq g 0#64
            ∧ t.keySlot job = none ∧ SameBytes s t)
        ∧ (8 ≤ frameNum block 0 1 →
          ∃ t g, exec (.mgmtSecurityCommand seq block) s = .next t ∧ CommandFails s t 1#4 ∧ FrameAnswered s t seq g 1#64))
    ∧ (s.sec.start = true → exec (.mgmtSecurityCommand seq block) s = .next s)

/-- R410, R415, R417: SEAL records a region within the limits and tags each of its lines at version 1, UNSEAL drops it and
re-tags them at version 0; CKSAVE keeps the job's lines and tags of each module in the safe tier and CKREST brings them
back; failures leave the security state. -/
def Obligations.SealsAndCheckpointsKeepTheirLines : Prop :=
  ∀ (s : State) (k : KeySlot) (keys : BitVec 384) (r : Sealed) (failed : Bool),
    s.keySlot (commandJob s) = some k → k.keys = some keys →
    (CommandStarted s 3 [(32, 256)] →
      (s.sealOk k (commandNum s 8 8) (commandNum s 16 8) (commandNum s 24 8) = true →
        ∃ t q, exec .secSeal s = .next t ∧ CommandEnds s t 0#4 ∧ t.keySlot (commandJob s) = some q
          ∧ q.sealed_ = k.sealed_ ++ [{ base := commandNum s 8 8, size := commandNum s 16 8, area := commandNum s 24 8 }]
          ∧ ∀ l ∈ s.regionLines (commandNum s 8 8) (commandNum s 16 8), sget none t.sec.tags l = some (keys, 1)
              ∧ sget 0 q.versions l = 1)
      ∧ (s.sealOk k (commandNum s 8 8) (commandNum s 16 8) (commandNum s 24 8) = false →
          ∃ t, exec .secSeal s = .next t ∧ CommandFails s t 6#4))
    ∧ (CommandStarted s 4 [(16, 256)] →
        (k.sealed_.find? (fun x => x.base == commandNum s 8 8) = some r →
          ∃ t q, exec .secUnseal s = .next t ∧ CommandEnds s t 0#4 ∧ t.keySlot (commandJob s) = some q
            ∧ (∀ x ∈ q.sealed_, x.base ≠ commandNum s 8 8) ∧ SameBytes s t
            ∧ ∀ l ∈ s.regionLines (commandNum s 8 8) r.size, sget none t.sec.tags l = some (keys, 0))
        ∧ (k.sealed_.find? (fun x => x.base == commandNum s 8 8) = none →
            ∃ t, exec .secUnseal s = .next t ∧ CommandFails s t 3#4))
    ∧ (CommandStarted s 5 [(16, 256)] →
        (∃ t, exec (.cksave false) s = .next t ∧ CommandEnds s t 0#4 ∧ SameBytes s t ∧ t.sec.slots = s.sec.slots
          ∧ ∀ m ∈ commandModules s, ∃ c ∈ t.sec.safe, c.slot = commandNum s 12 4 ∧ c.job = k.job ∧ c.module = m
              ∧ ∀ line v, taggedLine s m keys line v → (line, some (keys, v)) ∈ c.tags)
        ∧ (∃ t, exec (.cksave true) s = .next t ∧ CommandFails s t 5#4))
    ∧ (CommandStarted s 6 [(16, 256)] →
        ((∀ m ∈ commandModules s, ∃ c, checkpointOf s m = some c ∧ c.key = none ∧ swf none c.tags = true
            ∧ ∀ e ∈ c.tags, e.1 / 2 ^ 33 = m) →
          ∃ t, exec (.ckrest false) s = .next t ∧ CommandEnds s t 0#4 ∧ t.sec.slots = s.sec.slots
            ∧ ∀ m ∈ commandModules s, ∀ c, checkpointOf s m = some c → ∀ line x, (line, x) ∈ c.tags →
                sget none t.sec.tags line = x
                  ∧ ∀ i, i < 256 → farByte t (256 * line + i) = sget 0#8 c.lines (256 * line + i))
        ∧ (failed = true ∨ (∃ m ∈ commandModules s, checkpointOf s m = none) →
            ∃ t, exec (.ckrest failed) s = .next t ∧ CommandFails s t 5#4))

/-- R215 to R223, R226 to R229, R235, R236: a matrix word that passes its checks enters its group's open batch with what it
read at issue, and the fragment goes on; only the registers it names may differ until the MWAIT; a tile in another state or
a full queue holds it, and a row-stat word elsewhere traps. R233: in a run an MRD writes its destinations at once, and a failed
one defers its fault to HEND. -/
def Obligations.MatrixWordsEnterTheQueue : Prop :=
  ∀ (s : State),
    (NoRun s →
      (∀ (i : Instr) (op : MOp) (a b : BitVec 6) (reuse : Bool) (e : TileEntry), multiplyWord i = some (op, a, b, reuse) →
        let x := s.getS a
        let y := s.getS b
        let regs := multiplyRegs s op x y
        MultiplyFits s op x y e →
        (HasTile s (bitsOf x 16 8) e [.ready, .draining] → EngineRoom s → MetadataFits s op x y →
          ∃ t w, exec i s = .next t ∧ Enqueued s t w regs ∧ w.op = op ∧ w.ow = x ∧ w.fb = y
            ∧ (s.cur.matrix.results = [] → s.cur.matrix.latch = none →
                w.a = (blockOf s (bitsOf x 0 7) 8).map (fun r => s.getRef (.reg r))
                  ∧ (bitsOf y 8 3 ≠ 0 → w.scale = some (s.getRef (.reg (bitsOf y 13 7 + s.xw))))
                  ∧ w.metas = (blockOf s (bitsOf x 56 7) (metasOf y (decide (op = .mmas)))).map (fun r => s.getRef (.reg r)))
            ∧ (∀ l, s.cur.matrix.latch = some l → w.a = l.a ∧ (∀ v, l.scale = some v → bitsOf y 8 3 ≠ 0 → w.scale = some v)
                ∧ (s.cur.matrix.results = [] → l.scale = none → bitsOf y 8 3 ≠ 0 →
                    w.scale = some (s.getRef (.reg (bitsOf y 13 7 + s.xw))))
                ∧ (s.cur.matrix.results = [] → op = .mmas →
                    w.metas = (l.metas.getD []).take (metasOf y true)
                      ++ ((blockOf s (bitsOf x 56 7) (metasOf y true)).drop (l.metas.getD []).length).map
                          (fun r => s.getRef (.reg r))))
            ∧ (reuse = false → t.cur.matrix.latch = none)
            ∧ (reuse = true → ∀ l, s.cur.matrix.latch = some l → t.cur.matrix.latch = some l)
            ∧ (reuse = true → s.cur.matrix.latch = none → ∃ l, t.cur.matrix.latch = some l ∧ l.a = w.a))
        ∧ (HasTile s (bitsOf x 16 8) e [.empty, .filling] →
            ∃ t, exec i s = .next t ∧ WaitsFor s t (.tile (bitsOf x 16 8) [2, 3]))
        ∧ (HasTile s (bitsOf x 16 8) e [.ready, .draining] → ¬EngineRoom s → MetadataFits s op x y →
            ∃ t, exec i s = .next t ∧ WaitsFor s t .matrix)
        ∧ (HasTile s (bitsOf x 16 8) e [.ready, .draining] → op = .mmas → bitsOf y 23 1 = 1 → s.cur.matrix.latch = none →
            s.cur.matrix.results = [] → reservedLanes s x y ≠ 0#32 →
            ∃ t, exec i s = .next t ∧ Trapped s t 449 (reservedLanes s x y) ∧ TrapOnly s t))
      ∧ (∀ n : BitVec 4,
          (n.toNat < s.cur.id.accs → EngineRoom s →
            ∃ t w, exec (.mzero n) s = .next t ∧ Enqueued s t w [] ∧ w.op = .zero ∧ bitsOf w.ow 8 4 = n.toNat)
          ∧ (s.cur.id.accs ≤ n.toNat → ∃ t, exec (.mzero n) s = .next t ∧ Trapped s t 66 0#32))
      ∧ (∀ (a : BitVec 6) (r : BitVec 1) (l : BitVec 2),
          let x := s.getS a
          let n := (columnsAt l.toNat).length * (if r = 1#1 then 2 else 1)
          let src := (blockOf s (bitsOf x 0 7) n).map (fun q => s.getRef (.reg q))
          bitsOf x 8 4 < s.cur.id.accs → BlockFits s (bitsOf x 0 7) n → bitsOf x 7 1 = 0 → bitsOf x 12 52 = 0 → EngineRoom s →
          (∀ i k, i < 32 → s.active.getLsbD i = true → r = 1#1 → k % 2 = 1 → (laneOf (src.getD k zeroLanes) i).toNat < 2 ^ 24) →
          ∃ t w, exec (.mwr a r l) s = .next t ∧ Enqueued s t w [] ∧ w.op = .wr ∧ w.ow = x ∧ w.cols = l.toNat
            ∧ w.raw = decide (r = 1#1) ∧ w.src = src)
      ∧ (∀ (a b c : BitVec 6) (l : BitVec 2),
          let x := s.getS a
          let y := s.getS b
          let z := s.getS c
          let n := (columnsAt l.toNat).length * widthOf (bitsOf y 4 3)
          let regs := blockOf s (bitsOf x 0 7) (n / 4)
          bitsOf x 8 4 < s.cur.id.accs → CommandFits y z → StagesReady s y z → EngineRoom s →
          (BlockFits s (bitsOf x 0 7) (n / 4) → bitsOf x 7 1 = 0 → bitsOf x 12 52 = 0 →
            ∃ t w, exec (.mrd a b c l) s = .next t ∧ Enqueued s t w regs ∧ w.op = .rd ∧ w.ow = x ∧ w.cmd = y ∧ w.offw = z
              ∧ w.cols = l.toNat ∧ w.dst.map (·.1) = regs)
          ∧ (∀ e, bitsOf x 0 8 = 0 → bitsOf x 12 4 = 0 → bitsOf x 48 16 = 0 → bitsOf x 24 24 % 16 = 0 →
              HasTile s (bitsOf x 16 8) e [.ready] → RowsInside s (bitsOf x 24 24) n e.size →
              ∃ t w, exec (.mepi a b c l) s = .next t ∧ Enqueued s t w [] ∧ w.op = .epi ∧ w.ow = x ∧ w.cmd = y ∧ w.offw = z
                ∧ w.cols = l.toNat ∧ s.team.entryKey (bitsOf x 16 8) ∈ w.tiles))
      ∧ (∀ (i : Instr) (op : MOp) (a : BitVec 6) (n : Nat), statWord i = some (op, a, n) →
          let x := s.getS a
          let regs := blockOf s (bitsOf x 0 7) n
          StatFits s op x n → EngineRoom s →
          ∃ t w, exec i s = .next t ∧ Enqueued s t w regs ∧ w.op = op ∧ w.ow = x ∧ w.dst.map (·.1) = regs))
    ∧ (∀ (r : Run) (a b c : BitVec 6) (l : BitVec 2) (ds : List RegRef),
        let x := s.getS a
        let y := s.getS b
        let z := s.getS c
        let n := (columnsAt l.toNat).length * widthOf (bitsOf y 4 3) / 4
        let st := stageBytesOf s y z
        s.cur.run = some r →
        (bitsOf x 8 4 < s.cur.id.accs → bitsOf x 7 1 = 0 → bitsOf x 12 52 = 0 → CommandFits y z → bitsOf y 4 3 ≠ 6 →
          StagesReady s y z → NoPoison s → TilesSettled s s.cur.mrdy s.mem.tileOld.length → bitsOf x 0 7 + n ≤ 128 → s.straddles (bitsOf x 0 7) n = false →
          s.refs (bitsOf x 0 7) n = some ds → RowsWhole s →
          (∀ w ∈ s.cur.matrix.words, bitsOf w.ow 8 4 ≠ bitsOf x 8 4 ∧ bitsOf w.ow 12 4 ≠ bitsOf x 8 4) →
          ∃ t, exec (.mrd a b c l) s = .next t ∧ t = { s with cur := t.cur, fresh := t.fresh } ∧ OnlyWord s t
            ∧ MovedTo s t (after s) ∧ OnlyVectors s t
            ∧ (∀ (k : Nat) (d : RegRef), ds[k]? = some d → ∀ i, i < 32 → laneOf (t.getRef d) i =
                if s.active.getLsbD i = true then
                  BitVec.ofNat 32 (leNat (((chainBytes s y st.1 st.2 (bitsOf x 8 4) l.toNat i).drop (4 * k)).take 4))
                else laneOf (s.getRef d) i)
            ∧ ∀ d, d ∉ ds → t.getRef d = s.getRef d)
        ∧ (s.cur.id.accs ≤ bitsOf x 8 4 → r.deferred = none →
            ∃ t q, exec (.mrd a b c l) s = .next t ∧ MovedTo s t (after s) ∧ t.cur.run = some q
              ∧ q.deferred = some (452, s.unitPc) ∧ t.cur.regs.v = s.cur.regs.v
              ∧ (bitsOf y 4 3 ≤ 6 → ∀ k, k < n → bitsOf x 0 7 + k < 128 →
                  (∀ j, s.ref (bitsOf x 0 7 + k) = some (.temp j) → sget 0#32 q.twritten j = 0#32)
                  ∧ (∀ j, s.ref (bitsOf x 0 7 + k) = some (.reg j) → sget 0#32 q.lost j = 0xFFFFFFFF#32))))

/-- R21, R71, R72, R219, R220, R228, R231, R232, R235: a matrix word that completes writes the rows of its active lanes as its
kind says: the zeros, the columns, the update of every element, the row sums, the statistics, the output bytes of its tile,
or the results that its registers will hold; every other row and byte is as before. -/
def Obligations.MatrixWordsTakeEffect : Prop :=
  ∀ (s : State) (w : MWord), OnlyMatrixWord s w → NoPoison s → NoWatch s → RowsWhole s →
    let acc := bitsOf w.ow 8 4
    let on : Nat → Prop := fun i => i < 32 ∧ w.exec.getLsbD i = true
    let done : State → Flags → Prop := fun t F => exec .matrixWordComplete s = .next t ∧ WordGone s t ∧ RaisesInBatch s t w F
    let noTile : State → Prop := fun t => ∀ a, tileByte t a = tileByte s a
    let sides : State → Prop := fun t => t.cur.regs.rmax = s.cur.regs.rmax ∧ t.cur.regs.rsum = s.cur.regs.rsum
    let old : Nat → Nat := fun i => (sget 0xFF800000#32 s.cur.regs.rmax (32 * acc + i)).toNat
    let top : Nat → Nat := fun i => (fMax .fp32 { mode := 0, ftz := false, sat := false } (old i)
      (maxF32 ((sget zeroRow s.cur.regs.ac (32 * bitsOf w.ow 12 4 + i)).map a56ToF32))).1
    (w.op = .zero → ∃ t, done t 0#8 ∧ noTile t ∧ sides t ∧ OtherRows s t acc w.exec
      ∧ ∀ i j, on i → j < 16 → accAt t acc i j = 0#56)
    ∧ (w.op = .wr → ∃ t, done t 0#8 ∧ noTile t ∧ sides t ∧ OtherRows s t acc w.exec
        ∧ ∀ i j, on i → j < 16 → accAt t acc i j =
            (match (columnsAt w.cols).findIdx? (· == j) with
             | none => accAt s acc i j
             | some c =>
               if w.raw then (laneOf (w.src.getD (2 * c + 1) zeroLanes) i).extractLsb' 0 24
                 ++ laneOf (w.src.getD (2 * c) zeroLanes) i
               else
                 let n := unpack .fp32 (laneOf (w.src.getD c zeroLanes) i).toNat
                 if numIsNan n then BitVec.ofNat 56 (fmtDefaultNan .a56)
                 else BitVec.ofNat 56 (roundNum .a56 { mode := 0, ftz := false, sat := false } n).1))
    ∧ ((w.op = .mma ∨ w.op = .mmas ∨ w.op = .mmao) → ∀ e, HasTile s (bitsOf w.ow 16 8) e [.ready, .draining] →
        FormatFits w.fb (decide (w.op = .mmas)) → (∀ r ∈ s.cur.matrix.results, r.id ∈ w.live → r.touched = 0#32) →
        TilesSettled s w.since w.issued →
        ∃ t F, done t F ∧ noTile t ∧ OtherRows s t acc w.exec ∧ OtherSides s t acc w.exec
          ∧ t.cur.regs.rmax = s.cur.regs.rmax
          ∧ (∀ i j, on i → j < 16 → accAt t acc i j = updated s w e i j)
          ∧ (w.op ≠ .mmao → t.cur.regs.rsum = s.cur.regs.rsum)
          ∧ (w.op = .mmao → ∀ i, on i → sget 0#56 t.cur.regs.rsum (32 * acc + i) = rowSum s w i)
          ∧ (w.op ≠ .mmas → F = 0#8) ∧ (F = 0#8 ∨ F = 0x80#8))
    ∧ (w.op = .rd → StagesReady s w.cmd w.offw → CommandFits w.cmd w.offw →
        TilesSettled s w.since w.issued →
        let st := stageBytesOf s w.cmd w.offw
        ∃ t, done t (orFlags ((lanesIn w.exec).flatMap (fun i => (chainRow s w.cmd st.1 st.2 acc w.cols i).map (·.2))))
          ∧ noTile t ∧ t.cur.regs.ac = s.cur.regs.ac ∧ sides t
          ∧ Delivers s t w (fun k i =>
              BitVec.ofNat 32 (leNat (((chainBytes s w.cmd st.1 st.2 acc w.cols i).drop (4 * k)).take 4))))
    ∧ (w.op = .epi → ∀ e, HasTile s (bitsOf w.ow 16 8) e [.ready] → StagesReady s w.cmd w.offw → CommandFits w.cmd w.offw →
        TilesSettled s w.since w.issued →
        let n := (columnsAt w.cols).length * widthOf (bitsOf w.cmd 4 3)
        let at_ : Nat → Nat := fun i => s.team.key (e.off + bitsOf w.ow 24 24 + i * n)
        let st := stageBytesOf s w.cmd w.offw
        ∃ t, done t (orFlags ((lanesIn w.exec).flatMap (fun i => (chainRow s w.cmd st.1 st.2 acc w.cols i).map (·.2))))
          ∧ t.cur.regs.ac = s.cur.regs.ac ∧ sides t
          ∧ (∀ i b, on i → b < n →
              tileByte t (at_ i + b) = (chainBytes s w.cmd st.1 st.2 acc w.cols i).getD b 0#8)
          ∧ (∀ a, (∀ i, on i → a < at_ i ∨ at_ i + n ≤ a) → tileByte t a = tileByte s a))
    ∧ (w.op = .statReset → ∃ t, done t 0#8 ∧ noTile t ∧ t.cur.regs.ac = s.cur.regs.ac ∧ OtherSides s t acc w.exec
        ∧ ∀ i, on i → sget 0xFF800000#32 t.cur.regs.rmax (32 * acc + i) = 0xFF800000#32
            ∧ sget 0#56 t.cur.regs.rsum (32 * acc + i) = 0#56)
    ∧ (w.op = .statMax → ∃ t, done t 0#8 ∧ noTile t ∧ OtherRows s t acc w.exec ∧ OtherSides s t acc w.exec
        ∧ Delivers s t w (fun _ i => BitVec.ofNat 32 (top i))
        ∧ ∀ i, on i → sget 0xFF800000#32 t.cur.regs.rmax (32 * acc + i) = BitVec.ofNat 32 (top i)
            ∧ sget 0#56 t.cur.regs.rsum (32 * acc + i) = rescale (old i) (top i) (sget 0#56 s.cur.regs.rsum (32 * acc + i))
            ∧ sget zeroRow t.cur.regs.ac (32 * acc + i)
                = (sget zeroRow s.cur.regs.ac (32 * acc + i)).map (rescale (old i) (top i)))
    ∧ (w.op = .statRead → ∃ t, done t 0#8 ∧ noTile t ∧ t.cur.regs.ac = s.cur.regs.ac ∧ sides t
        ∧ Delivers s t w (fun k i => if k = 0 then BitVec.ofNat 32 (a56ToF32 (sget 0#56 s.cur.regs.rsum (32 * acc + i)))
            else sget 0xFF800000#32 s.cur.regs.rmax (32 * acc + i)))

/-- R21, R209, R223 to R225, R227, R238: MFEN closes the open batch into batch b and binds its flag; MWAIT holds its fragment
while a word of the batch is incomplete, and then the registers of the batch hold its results and the fragment goes on, with
a matrix-poison fault instead where the batch read poison; MRDY goes on. -/
def Obligations.BatchesCloseAndEnd : Prop :=
  ∀ (s : State) (a : BitVec 6) (b : BitVec 4), NoRun s →
    let f := bitsOf (s.getS a) 0 4
    let m := s.cur.matrix
    let mine := m.results.filter (fun r => r.batch == some b.toNat)
    let incomplete := m.words.any (fun w => w.batch == some b.toNat)
    (¬(12 ≤ f ∧ f ≤ 14) →
      ∃ t, exec (.mfen a b) s = .next t ∧ MovedTo s t (after s) ∧ SameBytes s t ∧ t.cur.regs.v = s.cur.regs.v
        ∧ t = { s with cur := t.cur, mem := { s.mem with epi := t.mem.epi } }
        ∧ t.cur.matrix.words = m.words.map (fun w => if w.batch = none then { w with batch := some b.toNat } else w)
        ∧ t.cur.matrix.results = m.results.map (fun r => if r.batch = none then { r with batch := some b.toNat } else r)
        ∧ sget 0#8 t.cur.matrix.flags 16 = 0#8
        ∧ ((∃ w ∈ m.words, w.batch = none ∨ w.batch = some b.toNat) → t.cur.regs = s.cur.regs.bindFlag f
            ∧ sget 0#8 t.cur.matrix.flags b.toNat = sget 0#8 m.flags b.toNat ||| sget 0#8 m.flags 16)
        ∧ ((∀ w ∈ m.words, w.batch ≠ none ∧ w.batch ≠ some b.toNat) →
            t.cur.regs.fstat = s.cur.regs.fstat ||| (sget 0#8 m.flags b.toNat ||| sget 0#8 m.flags 16)))
    ∧ (12 ≤ f → f ≤ 14 → ∃ t, exec (.mfen a b) s = .next t ∧ Trapped s t 448 0#32)
    ∧ (incomplete = true → ∃ t, exec (.mwait b) s = .next t ∧ WaitsFor s t (.batch b.toNat))
    ∧ (incomplete = false → sget false m.poison b.toNat = false →
        ∃ t, exec (.mwait b) s = .next t ∧ MovedTo s t (after s) ∧ SameBytes s t
          ∧ t.cur.matrix.results.map (·.id) = (m.results.filter (fun r => r.batch != some b.toNat)).map (·.id)
          ∧ (∀ e ∈ t.mem.epi, ¬(e.owner = s.cur.id.key ∧ e.batch = b.toNat))
          ∧ (∀ r, (∀ q ∈ mine, r ≠ .reg q.reg) → t.getRef r = s.getRef r)
          ∧ ((∀ r ∈ mine, r.touched = 0#32) → OnlyVectors s t)
          ∧ ((mine.map (·.reg)).Nodup → (∀ r ∈ mine, ∀ q ∈ m.results, q.reg = r.reg → q.batch = some b.toNat) →
              ∀ r ∈ mine, ∀ l, l < 32 → r.touched.getLsbD l = false → laneOf (t.getRef (.reg r.reg)) l =
                if r.operand = true ∨ r.mask.getLsbD l = true then laneOf r.value l else laneOf (s.getRef (.reg r.reg)) l))
    ∧ (incomplete = false → sget false m.poison b.toNat = true →
        ∃ t, exec (.mwait b) s = .next t ∧ (∃ st, t.cur.stop = some st ∧ st.cause = 451) ∧ t.cur.frag.pc = s.unitPc
          ∧ t.cur.regs.fmask = 0#32 ∧ sget false t.cur.matrix.poison b.toNat = false)
    ∧ (∃ t, exec .mrdy s = .next t
        ∧ t = { s with cur := { s.cur with frag := s.cur.frag.movedTo (after s), mrdy := s.mem.tileOld.length } })

/-- R167 to R169, R226, R246 to R248, R255, R267, R268: TDEF defines a tile in an undefined entry, TREL makes it undefined again
once it is empty or ready and not in use, TSTATE reads it, TWIN sets and reads the fetch window, and VDECODE expands a block
into the active lanes; each names its faults. -/
def Obligations.TileWordsKeepTheTable : Prop :=
  ∀ (s : State) (a b d : BitVec 6) (r : BitVec 1) (e : TileEntry), NoRun s → Placed s →
    let x := s.getS a
    let y := s.getS b
    let n := bitsOf x 0 8
    let size := bitsOf x 32 24
    let off := bitsOf x 8 24
    let wordOk := bitsOf x 56 8 = 0 ∧ size ≠ 0 ∧ size % 16 = 0 ∧ off % 16 = 0 ∧ bitsOf y 20 44 = 0 ∧ bitsOf y 0 20 % 16 = 0
    let free := n < s.team.tabCount ∧ (sget TileEntry.reset s.mem.table (s.team.entryKey n)).defined = false
    (wordOk → free → off + size ≤ s.team.bytes → ∃ t, exec (.tdef a b r) s = .next t
      ∧ EntryBecomes s t n (TileEntry.mk true off size (bitsOf y 0 20) (if r = 1#1 then .ready else .empty)))
    ∧ (wordOk → free → s.team.bytes < off + size → ∃ t, exec (.tdef a b r) s = .next t ∧ Trapped s t 484 0#32 ∧ TrapOnly s t)
    ∧ (wordOk → ¬free → ∃ t, exec (.tdef a b r) s = .next t ∧ Trapped s t 483 0#32 ∧ TrapOnly s t)
    ∧ (bitsOf x 8 56 = 0 → HasTile s n e [.empty, .ready, .filling, .draining] →
        (¬inRing s n → ¬inUse s n → (e.st = .empty ∨ e.st = .ready) →
          ∃ t, exec (.trel a) s = .next t ∧ EntryBecomes s t n TileEntry.reset)
        ∧ (¬inRing s n → inUse s n → (e.st = .empty ∨ e.st = .ready) →
            ∃ t, exec (.trel a) s = .next t ∧ WaitsFor s t (.tileIdle n))
        ∧ (¬inRing s n → (e.st = .filling ∨ e.st = .draining) → ∃ t, exec (.trel a) s = .next t ∧ WaitsFor s t (.tile n [0, 2]))
        ∧ (inRing s n → ∃ t, exec (.trel a) s = .next t ∧ Trapped s t 487 0#32 ∧ TrapOnly s t)
        ∧ ∃ t v, exec (.tstate a d) s = .next t ∧ TeamBecomes s t s.team (some d) ∧ t.getS d = BitVec.ofNat 64 v
            ∧ v % 4 = stateNum e.st ∧ v / 4 % 2 = 1 ∧ (v / 8 % 2 = 1 ↔ inUse s n) ∧ (v / 16 % 2 = 1 ↔ inRing s n) ∧ v < 32)
    ∧ (bitsOf x 8 56 = 0 → free → ∃ t, exec (.tstate a d) s = .next t ∧ TeamBecomes s t s.team (some d) ∧ t.getS d = 0#64)
    ∧ (bitsOf x 31 33 = 0 → bitsOf x 9 7 = 0 → 1 ≤ bitsOf x 16 15 → bitsOf x 16 15 ≤ 16384 → 1 ≤ bitsOf x 0 9 → bitsOf x 0 9 ≤ 256 →
        ∃ t, exec (.twin a) s = .next t
          ∧ TeamBecomes s t { s.team with kibMax := bitsOf x 16 15, reqMax := bitsOf x 0 9 } none)
    ∧ (∃ t, exec (.twinRd a) s = .next t ∧ TeamBecomes s t s.team (some a)
        ∧ t.getS a = BitVec.ofNat 64 (s.team.kibMax * 2 ^ 16 + s.team.reqMax))
    ∧ (∀ v0 v1, s.straddles (bitsOf x 32 7) 2 = false → s.refs (bitsOf x 32 7) 2 = some [v0, v1] → bitsOf x 32 7 < 127 →
        bitsOf x 39 25 = 0 → off % 128 = 0 → HasTile s n e [.ready, .draining] → off + 128 ≤ e.size → NoPoison s →
        s.mem.epi = [] →
        let at_ := s.team.key (e.off + off)
        let escape := bytesAt (tileByte s) (at_ + 1) 1 % 2 = 1
        let raw := bytesAt (tileByte s) (at_ + 4) 3
        let E := bytesAt (tileByte s) at_ 1
        let value : Nat → Nat := fun q =>
          if escape then bytesAt (tileByte s) (s.team.key (e.off + raw) + 2 * q) 2 else bf16Of E (mantissaAt (tileByte s) at_ q)
        let good := if escape then raw % 16 = 0 ∧ raw + 256 ≤ e.size else E ≠ 255
        (good → ∃ t, exec (.vdecode a) s = .next t ∧ MovedTo s t (after s) ∧ OnlyGroup s t ∧ OnlyVectors s t
          ∧ (∀ l, l < 32 → s.active.getLsbD l = true →
              laneOf (t.getRef v0) l = BitVec.ofNat 32 (value (4 * l) + 2 ^ 16 * value (4 * l + 1))
                ∧ laneOf (t.getRef v1) l = BitVec.ofNat 32 (value (4 * l + 2) + 2 ^ 16 * value (4 * l + 3)))
          ∧ (∀ l q, l < 32 → s.active.getLsbD l = false → laneOf (t.getRef q) l = laneOf (s.getRef q) l)
          ∧ (∀ q, q ≠ v0 → q ≠ v1 → t.getRef q = s.getRef q))
        ∧ (¬good → ∃ t, exec (.vdecode a) s = .next t ∧ Trapped s t 488 0#32 ∧ TrapOnly s t))

/-- R257 to R262: ABAR arms an idle or fired barrier, ABWAIT goes on unless it is armed, RGINIT makes or dissolves a ring,
RGAWAIT claims the next published slot and hands out its handle, and RGREL releases a claimed sequence; the counters of a
ring advance as their table says, and each word names its faults. -/
def Obligations.BarriersAndRingsCount : Prop :=
  ∀ (s : State) (a d : BitVec 6), NoRun s → Placed s → NoStoreOut s →
    let x := s.getS a
    let n := bitsOf x 0 5
    let bar := abarOf s n
    let barOk := bitsOf x 24 40 = 0 ∧ bitsOf x 5 3 = 0
    let withBar : ABar → Team := fun y => { s.team with abars := sput ABar.reset s.team.abars n y }
    let withRing : Nat → Ring → Team := fun k y => { s.team with rings := sput Ring.reset s.team.rings k y }
    let traps : Instr → Nat → Prop := fun i c => ∃ t, exec i s = .next t ∧ Trapped s t c 0#32 ∧ TrapOnly s t
    (barOk → bitsOf x 8 16 ≠ 0 →
      (bar.st ≠ 1 → ∃ t, exec (.abar a) s = .next t ∧ TeamBecomes s t (withBar (ABar.mk 1 (bitsOf x 8 16) 0 0)) none)
      ∧ (bar.st = 1 → traps (.abar a) 486))
    ∧ (¬(barOk ∧ bitsOf x 8 16 ≠ 0) → traps (.abar a) 480)
    ∧ (barOk → (bar.st ≠ 1 ∨ s.cur.frag.wait = .abar (32 + n) → ∃ t, exec (.abwait a) s = .next t ∧ Jumped s t (after s))
        ∧ (bar.st = 1 → s.cur.frag.wait ≠ .abar (32 + n) → ∃ t, exec (.abwait a) s = .next t ∧ WaitsFor s t (.abar n)))
    ∧ (bitsOf x 24 40 = 0 → bitsOf x 15 1 = 0 → bitsOf x 5 3 = 0 →
        let k := bitsOf x 0 4
        let first := bitsOf x 16 8
        let m := bitsOf x 8 7
        let old := ringOf s k
        let busy := old.live = true ∧ (old.res ≠ old.rd ∨ old.cl ≠ old.rd)
        let slots := ∃ size, ∀ i, i < m → ∃ e, HasTile s (first + i) e [.ready] ∧ e.size = size
          ∧ ¬∃ kr ∈ s.team.rings, kr.1 ≠ k ∧ kr.2.live = true ∧ kr.2.first ≤ first + i ∧ first + i < kr.2.first + kr.2.n
        (¬busy → m = 0 → ∃ t, exec (.rginit a) s = .next t ∧ TeamBecomes s t (withRing k Ring.reset) none)
        ∧ (¬busy → 2 ≤ m → m ≤ 64 → slots → ∃ t, exec (.rginit a) s = .next t
            ∧ TeamBecomes s t (withRing k (Machine.Ring.mk true (bitsOf x 4 1) first m 0 0 0 0 [] [])) none)
        ∧ (busy ∨ m = 1 ∨ 64 < m ∨ ¬slots → traps (.rginit a) 487))
    ∧ (let k := bitsOf x 0 4
       let r := ringOf s k
       (r.live = false → traps (.rgawait a d) 487)
        ∧ (r.live = true → r.cl = r.wr → ∃ t, exec (.rgawait a d) s = .next t ∧ WaitsFor s t (.ringData k))
        ∧ (r.live = true → r.cl ≠ r.wr → ∃ t, exec (.rgawait a d) s = .next t
            ∧ TeamBecomes s { t with mem := s.mem } (withRing k { r with cl := (r.cl + 1) % 2 ^ 32 }) (some d)
            ∧ SameBytes s t ∧ (r.mode = 1 → AcquiredL1 s t 6) ∧ (r.mode ≠ 1 → t.mem = s.mem)
            ∧ t.getS d = BitVec.ofNat 64 (r.cl * 2 ^ 32 + k * 2 ^ 8 + (r.first + r.cl % r.n))))
    ∧ (bitsOf x 12 20 = 0 →
        let k := bitsOf x 8 4
        let q := bitsOf x 32 32
        let r := ringOf s k
        let good := r.live = true ∧ bitsOf x 0 8 = r.first + q % r.n ∧ ringGap q r.rd < ringGap r.cl r.rd ∧ q ∉ r.released
        (good → ∃ t u, exec (.rgrel a) s = .next t ∧ TeamBecomes s t (withRing k u) none
          ∧ u = { r with rd := u.rd, released := u.released }
          ∧ (q ≠ r.rd → r.rd ∉ r.released → u.rd = r.rd ∧ u.released = q :: r.released)
          ∧ (q = r.rd → (r.rd + 1) % 2 ^ 32 ∉ r.released → u.rd = (r.rd + 1) % 2 ^ 32 ∧ u.released = r.released)
          ∧ (r.released.length < 65 → u.rd ∉ u.released))
        ∧ (¬good → traps (.rgrel a) 487))

/-- R243 to R246, R250 to R254, R258, R260, R261, R264 to R266: a command whose control word, descriptor, origin block, tile
and window pass their checks is accepted with what it read; its flag is bound, its tile is filling or draining or a slot of
its ring is reserved, its barrier counts it bound; a command beyond its limits waits. -/
def Obligations.EngineCommandsAreAccepted : Prop :=
  ∀ (s : State), NoRun s → Placed s → NoPoison s → NoStoreOut s →
    (∀ (i : Instr) (kind : CmdKind) (a b c : BitVec 6) (ring : Bool) (d : Desc) (o : List Nat) (e : TileEntry) (iv : RegRef),
      fetchWord i = some (kind, a, b, c, ring) →
      let x := s.getS a
      let k := bitsOf x 0 4
      let r := ringOf s k
      let n := if ring then r.first + r.res % r.n else bitsOf x 0 8
      let abEn := bitsOf x 13 1 = 1
      let bar := abarOf s (bitsOf x 8 5)
      let rows := if kind = .tgath then 32 * laneRows d else rowsOfDesc d
      let bytes := if kind = .tgath then (lanesIn s.active).length * (laneRows d * rowBytesOf d) else rowsOfDesc d * rowBytesOf d
      ControlFits x (fetchMask kind ring) → NamesDesc s b d → OriginAt s c d.dims.length o →
      (kind = .tgath → 2 ≤ d.dims.length ∧ (d.dims.getLast?.map (·.ext)) = some 1 ∧ s.ref (bitsOf x 24 7) = some iv) →
      WindowFits e d rows → (abEn → bar.st = 1 ∧ bar.k < bar.c) → bytes ≠ 0 →
      let counted : Team → Team := fun u =>
        if abEn then { u with abars := sput ABar.reset u.abars (bitsOf x 8 5) { bar with k := bar.k + 1 } } else u
      let same : Cmd → Prop := fun q => q.src = d ∧ q.origin = o ∧ q.tile = some n ∧ q.key = s.team.key e.off
        ∧ q.pitch = pitchIn e d ∧ q.bytes = bytes ∧ q.chunks = chunkList ((rows - 1) * pitchIn e d + rowBytesOf d)
        ∧ q.ab = (if abEn then some (bitsOf x 8 5) else none) ∧ (kind = .tgath → q.idx = s.getRef iv)
      (ring = false → HasTile s n e [.empty] → WindowAdmits s bytes →
        ∃ t q, exec i s = .next t ∧ Accepted s t q kind (bitsOf x 16 4) ∧ same q ∧ q.ring = none ∧ TileGoes s t n e .filling
          ∧ t.team = counted s.team)
      ∧ (ring = false → HasTile s n e [.filling, .ready, .draining] →
          ∃ t, exec i s = .next t ∧ t.cur.frag.wait = .tile n [0] ∧ t.cur.frag.pc = s.unitPc ∧ t.cur.regs = s.cur.regs ∧ t.cmds = s.cmds)
      ∧ (ring = false → HasTile s n e [.empty] → ¬WindowAdmits s bytes →
          ∃ t, exec i s = .next t ∧ t.cur.frag.wait = .window bytes ∧ t.cur.frag.pc = s.unitPc ∧ t.cur.regs = s.cur.regs
            ∧ t.cmds = s.cmds)
      ∧ (ring = true → r.live = true → r.mode = 0 → HasTile s n e [.ready] → ringGap r.res r.rd < r.n → WindowAdmits s bytes →
          ∃ t q, exec i s = .next t ∧ Accepted s t q kind (bitsOf x 16 4) ∧ same q ∧ q.ring = some (k, r.res)
            ∧ t.mem.table = s.mem.table
            ∧ t.team = counted { s.team with rings := sput Ring.reset s.team.rings k { r with res := (r.res + 1) % 2 ^ 32 } }))
    ∧ (∀ (i : Instr) (kind : CmdKind) (a b c : BitVec 6) (op : Nat) (d : Desc) (o : List Nat) (e : TileEntry),
        commitWord i = some (kind, a, b, c, op) →
        let x := s.getS a
        let n := bitsOf x 0 8
        ControlFits x 0x7F00FF → 2 ≤ bitsOf x 20 3 → NamesDesc s b d → OriginAt s c d.dims.length o →
        (kind = .tredf → d.esize = if op = 1 then 2 else if op = 3 then 8 else 4) → WindowFits e d (rowsOfDesc d) →
        (HasTile s n e [.ready] → outstanding s .tcommit .tredf < 64 → s.mem.epi = [] →
          ∃ t q, exec i s = .next t ∧ Accepted s t q kind (bitsOf x 16 4) ∧ q.dst = d ∧ q.origin = o ∧ q.tile = some n
            ∧ q.key = s.team.key e.off ∧ q.pitch = pitchIn e d ∧ q.op = op ∧ q.read = false
            ∧ q.image = tileSlice s s.team e 0 ((rowsOfDesc d - 1) * pitchIn e d + rowBytesOf d)
            ∧ q.chunks = chunkList ((rowsOfDesc d - 1) * pitchIn e d + rowBytesOf d)
            ∧ (¬inRing s n → TileGoes s t n e .draining) ∧ (inRing s n → t.mem.table = s.mem.table) ∧ t.team = s.team)
        ∧ (HasTile s n e [.ready] → 64 ≤ outstanding s .tcommit .tredf →
            ∃ t, exec i s = .next t ∧ t.cur.frag.wait = .queue 0 ∧ t.cur.frag.pc = s.unitPc ∧ t.cmds = s.cmds))
    ∧ (∀ (a b c : BitVec 6) (d e : Desc), ControlFits (s.getS a) 0xF0000 → NamesDesc s b d → outstanding s .tcopy .tfill < 16 →
        (∃ t q, exec (.tfill a b c) s = .next t ∧ Accepted s t q .tfill (bitsOf (s.getS a) 16 4) ∧ q.dst = d
          ∧ q.pattern = s.getS c ∧ t.team = s.team ∧ t.mem.table = s.mem.table)
        ∧ (NamesDesc s c e → d.esize = e.esize → d.dims.map (·.ext) = e.dims.map (·.ext) →
            ∃ t q, exec (.tcopy a b c) s = .next t ∧ Accepted s t q .tcopy (bitsOf (s.getS a) 16 4) ∧ q.src = d ∧ q.dst = e
              ∧ t.team = s.team ∧ t.mem.table = s.mem.table))

/-- R251, R256, R258, R261, R264, R265, R269 to R271: FETCH_ARRIVAL makes the tile ready or publishes the slot and counts at
the barrier, COMMIT_TILE_READ_DONE makes a draining tile ready with each byte taken as it was at issue, as it is now, or as it stood
between (log 101), the completions end their commands, and a reset of the fetch engine abandons every command with a report and takes back the
reserved slots. -/
def Obligations.EngineEventsEndTheirCommands : Prop :=
  ∀ (s : State) (c : Cmd) (e : TileEntry) (n : Nat), OwnCommand s c → Placed s → c.tile = some n →
    let bar : Nat → ABar := fun b => abarOf s b
    (c.kind = .tfetch ∨ c.kind = .tgath → c.chunks = [] → c.waiting = 0 → c.fail = none →
      (c.ring = none → HasTile s n e [.filling] → ∃ t, exec (.fetchArrival c.id) s = .next t ∧ CommandDone s t c
        ∧ TileGoes s t n e .ready ∧ (∀ a, tileByte t a = tileByte s a)
        ∧ (c.ab = none → t.teams = s.teams)
        ∧ (∀ b, c.ab = some b → abarOf t b = { bar b with
            n := (bar b).n + 1, st := if (bar b).st = 1 ∧ (bar b).n + 1 = (bar b).c then 2 else (bar b).st }))
      ∧ (∀ k q, c.ring = some (k, q) → c.ab = none → ∃ t, exec (.fetchArrival c.id) s = .next t ∧ CommandDone s t c
          ∧ t.mem = s.mem
          ∧ (q ≠ (ringOf s k).wr → (ringOf s k).wr ∉ (ringOf s k).complete →
              ringOf t k = { ringOf s k with complete := q :: (ringOf s k).complete })
          ∧ (q = (ringOf s k).wr → (q + 1) % 2 ^ 32 ∉ (ringOf s k).complete → q ∉ (ringOf s k).complete → q < 2 ^ 32 →
              ringOf t k = { ringOf s k with wr := (q + 1) % 2 ^ 32 })))
    ∧ (c.kind = .tcommit ∨ c.kind = .tredf → c.read = false → NoPoison s → HasTile s n e [.draining] → ¬inRing s n →
        ∃ t q, exec (.commitTileReadDone c.id) s = .next t ∧ TileGoes s t n e .ready ∧ t.cur = s.cur ∧ SameBytes s t
          ∧ t.cmds = s.cmds.map (fun x => if x.id = c.id then q else x) ∧ q = { c with read := true, image := q.image, bad := [] }
          ∧ q.image.length = c.image.length
          ∧ ∀ k, k < c.image.length → q.image.getD k 0#8 = c.image.getD k 0#8 ∨ q.image.getD k 0#8 = tileByte s (c.key + k)
              ∨ q.image.getD k 0#8 ∈ s.mem.lateValues c.at_ (c.key + k) ++ s.mem.epiValues (c.key + k))
    ∧ (c.chunks = [] → c.cur = none → c.waiting = 0 →
        (c.kind = .tcommit ∨ c.kind = .tredf → c.read = true →
          ∃ t, exec (.commitComplete c.id) s = .next t ∧ CommandDone s t c ∧ SameBytes s t ∧ t.mem.table = s.mem.table)
        ∧ (c.kind = .tcopy ∨ c.kind = .tfill →
            ∃ t, exec (.moduleCommandComplete c.id) s = .next t ∧ CommandDone s t c ∧ SameBytes s t ∧ t.mem.table = s.mem.table))
    ∧ (s.cmds = [c] → s.strudel.work = none → c.fail = none → c.ring = none → c.ab = none →
        c.kind ∈ [CmdKind.tfetch, .tgath, .tcommit, .tredf, .tcopy, .tfill] →
        ∃ t, exec .fetchEngineReset s = .next t ∧ t.cmds = [] ∧ t.cur.regs = s.cur.regs.unbindFlag c.flag
          ∧ (∃ unit index addr, t.cur.cmdFaults = s.cur.cmdFaults ++ [.command 530 unit index addr c.pc])
          ∧ (c.kind = .tfetch ∨ c.kind = .tgath → HasTile s n e [.filling] → TileGoes s t n e .empty)
          ∧ (c.kind = .tcommit ∨ c.kind = .tredf → c.read = false → HasTile s n e [.draining] → TileGoes s t n e .ready)
          ∧ (∀ u ∈ t.teams, ∀ k r, (k, r) ∈ u.rings → r.mode = 0 → r.res = r.wr ∧ r.complete = []))

/-- R273, R274, R280 to R289: RSHARD and RSPLAN wait while the engine is busy and are then accepted with the records, the
cursor and the plan area they name; a complete cursor ends the word at issue; RSSTOP stops the re-shard of its cursor;
RSSTAT reports it; planning of an RSPLAN whose area is too small writes 64 bytes and ends; a package without own shards ends
with status 2; and a box that completes has its bytes at their destinations, with the cursor at the next box. -/
def Obligations.StrudelPlansAndCopies : Prop :=
  ∀ (s : State),
    (∀ (i : Instr) (plan : Bool) (a b c : BitVec 6), NoStoreOut s → reshardWord i = some (plan, a, b, c) →
      (s.strudel.busy = true → ∃ t, exec i s = .next t ∧ WaitsFor s t .strudel)
      ∧ (NoRun s → NoPoison s → s.strudel.busy = false → ReshardControl (s.getS a) → b ≠ 63#6 → c ≠ 63#6 →
          ∀ (sb db : List Byte) (p q : Layout) (cpa apa : Nat),
          let srcRec := (s.getS b).toNat
          let dstRec := (s.getS (b + 1#6)).toNat
          let cursor := (s.getS c).toNat
          let flag := bitsOf (s.getS a) 16 4
          RecordAt s srcRec 256 sb → RecordAt s dstRec 256 db → layoutFrom sb = some p → layoutFrom db = some q →
          p.fmt = q.fmt → p.rank = q.rank → p.sizes = q.sizes → OpenPage s (s.getS (c + 1#6)).toNat 4096 apa →
          (plan = true ∨ (OpenPage s cursor 64 cpa ∧ CursorFits s cpa srcRec dstRec)) →
          (plan = true ∨ cursorNum s cpa 0 8 % 4 ≠ 2 →
            ∃ t r x, exec i s = .next t ∧ ReshardIssued s t flag ∧ t.strudel.work = some r ∧ t.strudel.lastCursor = cursor
              ∧ t.strudel.state = 1 ∧ t.cmds = s.cmds ++ [x] ∧ x.id = r.id ∧ x.id = s.nextId ∧ x.flag = flag
              ∧ x.kind = (if plan then .rsplan else .rshard) ∧ r.plan = plan ∧ r.job = s.cur.id.job
              ∧ r.room = bitsOf (s.getS a) 32 16 * 1024 ∧ r.srcRec = srcRec ∧ r.dstRec = dstRec ∧ r.cursor = cursor
              ∧ r.area = (s.getS (c + 1#6)).toNat ∧ r.src = p ∧ r.dst = q ∧ r.planned = false
              ∧ (plan = false → r.from_.status = cursorNum s cpa 0 8 % 4 ∧ r.from_.dst = cursorNum s cpa 2 2
                  ∧ r.from_.src = cursorNum s cpa 4 2 ∧ r.from_.box = cursorNum s cpa 8 8 ∧ r.from_.done = cursorNum s cpa 16 8))
          ∧ (plan = false → cursorNum s cpa 0 8 % 4 = 2 → s.cur.alive = true →
              ∃ t, exec i s = .next t ∧ t.cmds.map (·.id) = (s.cmds.map (·.id)).filter (· != s.nextId)
                ∧ t.cur.regs = (s.cur.regs.bindFlag flag).unbindFlag flag ∧ t.cur.frag = s.cur.frag.movedTo (after s)
                ∧ t.strudel.work = s.strudel.work ∧ t.strudel.state = 5 ∧ t.strudel.lastCursor = cursor ∧ SameBytes s t)))
    ∧ (∀ (a d : BitVec 6), NoStoreOut s → NoRun s →
        (∀ r, s.strudel.work = some r → r.plan = false → r.cursor = (s.getS a).toNat → r.job = s.cur.id.job →
          ∃ t q m, exec (.rsstop a) s = .next t ∧ t.cur = { s.cur with frag := s.cur.frag.movedTo (after s) }
            ∧ t.strudel.work = some q ∧ q = { r with stopping := true, limit := some m, hold := q.hold } ∧ t.strudel.state = 3
            ∧ (∀ n, r.limit = some n → m ≤ n) ∧ (r.planned = true → r.limit = none → m = r.top)
            ∧ q.begun = r.begun ∧ (r.planned = true → q.mayStart = false)
            ∧ SameBytes s t)
        ∧ ((∀ r, s.strudel.work = some r → r.plan = true ∨ r.cursor ≠ (s.getS a).toNat ∨ r.job ≠ s.cur.id.job) →
            ∃ t, exec (.rsstop a) s = .next t ∧ Jumped s t (after s))
        ∧ ∃ t v, exec (.rsstat a d) s = .next t ∧ OnlyGroup s t ∧ MovedTo s t (after s)
            ∧ t.cur.regs = { s.cur.regs with s := t.cur.regs.s } ∧ (∀ e, e ≠ d → t.getS e = s.getS e)
            ∧ t.getS d = BitVec.ofNat 64 v
            ∧ (s.strudel.state < 8 → s.strudel.dst < 2 ^ 16 → reshardState s.strudel (s.getS a).toNat v))
    ∧ (∀ (r : Reshard) (c : Cmd) (xs ys : List Shard) (apa : Nat) (s1 s2 : State),
        NoStoreOut s → s.strudel.work = some r → s.cmds.find? (fun x => x.id == r.id) = some c → c.fail = none → r.planned = false →
        r.resumed = false → r.plan = true → s.strudel.queue = [] → NoWatch s →
        s.readShards r.src 0 r.src.count = (s1, .ok xs) → s1.readShards r.dst 0 r.dst.count = (s2, .ok ys) →
        (∀ x ∈ r.src.extents xs, ∀ y ∈ r.dst.extents ys, extentsMeet x y = false) → (∀ n ∈ r.counts, n ≤ 65535) →
        (∀ k, k < 64 → ∃ l, MapsTo s2 (r.area + k) l ∧ l.kind = 1 ∧ l.write = true ∧ leafPhys l (r.area + k) = apa + k
          ∧ WalkApart s2 (fun a => apa ≤ a ∧ a < apa + 64) (r.area + k)) → r.area + 64 ≤ 2 ^ 57 → r.room < 64 + 16 * r.counts.sum →
        ∃ t n, exec .strudelPlanning s = .next t ∧ t.cmds = s.cmds.filter (fun x => x.id != r.id) ∧ t.strudel.work = none
          ∧ t.strudel.state = 5 ∧ bytesAt (pkgByte t) apa 8 = (64 + 16 * r.counts.sum + 32 * n) % 2 ^ 64
          ∧ bytesAt (pkgByte t) (apa + 8) 8 = n % 2 ^ 64
          ∧ (∀ d, d < 7 → bytesAt (pkgByte t) (apa + 16 + 2 * d) 2 = r.counts.getD d 0)
          ∧ (∀ a, a < apa ∨ apa + 64 ≤ a → pkgByte t a = pkgByte s a) ∧ (∀ a, tileByte t a = tileByte s a ∧ farByte t a = farByte s a))
    ∧ (∀ (r : Reshard) (c : Cmd) (k : Nat) (b n : Box) (src dst : Int → Nat) (l : Leaf), BoxReady s r c k b src dst →
        s.fabric.held = [] → s.mem.late = [] →
        r.boxes[k + 1]? = some n → n.dst < 2 ^ 16 → n.src < 2 ^ 16 → n.idx < 2 ^ 64 →
        r.cursor % 64 = 0 → r.cursor + 64 ≤ 2 ^ 57 → l.kind = 1 → l.write = true →
        (∀ o, o < 64 → MapsTo s (r.cursor + o) l ∧ leafPhys l (r.cursor + o) = leafPhys l r.cursor + o
          ∧ WalkApart s (fun a => leafPhys l r.cursor ≤ a ∧ a < leafPhys l r.cursor + 64) (r.cursor + o)) →
        ∃ t q, exec .boxComplete s = .next t ∧ t.strudel.work = some q
          ∧ q = { r with next := k + 1 } ∧ t.strudel.state = (if r.stopping then 3 else 2)
          ∧ (∀ e ∈ r.boxAddrs b, ∀ o, o < r.dst.esize → farByte t (dst e.2 + o) = farByte s (src e.1 + o))
          ∧ (∀ a, (∀ e ∈ r.boxAddrs b, a < dst e.2 ∨ dst e.2 + r.dst.esize ≤ a) → farByte t a = farByte s a)
          ∧ bytesAt (pkgByte t) (leafPhys l r.cursor) 8 = 1 + n.dst * 2 ^ 16 + n.src * 2 ^ 32
          ∧ bytesAt (pkgByte t) (leafPhys l r.cursor + 8) 8 = n.idx
          ∧ bytesAt (pkgByte t) (leafPhys l r.cursor + 16) 8
              = ((if r.from_.status = 0 then 0 else r.from_.done) + (k + 1 - r.start)) % 2 ^ 64
          ∧ (∀ a, a < leafPhys l r.cursor ∨ leafPhys l r.cursor + 24 ≤ a → pkgByte t a = pkgByte s a)
          ∧ (∀ a, tileByte t a = tileByte s a) ∧ t.cur = s.cur)

/-- R129 to R131, R293 to R302, R305, R306, R309, R311: LAUNCH and QUEUE_TAKE_RECORD enter a checked record into its list with
its grid number, a refused host record is skipped with status 2, an unreadable one stalls its queue; on an idle package the
head record's cluster starts at the first place, its groups at the entry with s0 at the arguments; a cluster that may be
swapped out leaves its cores; a finished launch signals its counters and writes its completion word; a due gang slice
starts. -/
def Obligations.LaunchesEnterStartAndEnd : Prop :=
  ∀ (s : State), NoStoreOut s →
    (∀ (d a : BitVec 6) (bs : List Byte) (r : LaunchRec),
      let q := s.cur.id.grid / 2 ^ 42 % 64
      NoRun s → NoPoison s → (∀ p x, s.cur.frag.wait ≠ .deviceList p x) → RecordAt s (s.getS a).toNat 128 bs →
      (recordFrom bs = some r → s.placeable r = true →
        ((s.queue q).dev.length < 16 →
          ∃ t l, exec (.launch d a) s = .next t ∧ enteredLaunch s l q true s.cur.id.job r 0
            ∧ (t.queue q).dev = (s.queue q).dev ++ [l] ∧ (t.queue q).takenDev = (s.queue q).takenDev + 1
            ∧ (∀ p, p ≠ q → t.queue p = s.queue p) ∧ t.getS d = BitVec.ofNat 64 l.grid
            ∧ (∀ e, e ≠ d → t.getS e = s.getS e) ∧ MovedTo s t (after s) ∧ OnlyScalars s t ∧ SameBytes s t)
        ∧ (16 ≤ (s.queue q).dev.length →
            ∃ t, exec (.launch d a) s = .next t ∧ t.cur.frag.wait = .deviceList q r ∧ t.cur.frag.pc = s.unitPc
              ∧ t.cur.regs = s.cur.regs ∧ t.sched = s.sched ∧ SameBytes s t))
      ∧ (recordFrom bs = none → ∃ t, exec (.launch d a) s = .next t ∧ Trapped s t 135 0#32))
    ∧ (∀ (d a : BitVec 6), (s.getS a).toNat % 128 ≠ 0 → (∀ p x, s.cur.frag.wait ≠ .deviceList p x) →
        ∃ t, exec (.launch d a) s = .next t ∧ Trapped s t 134 0#32)
    ∧ (∀ bs r, recordFrom bs = some r →
        r.entry.toNat = leNat (bs.take 8) ∧ r.entry.toNat % 4 = 0 ∧ r.args.toNat = leNat ((bs.drop 8).take 8)
          ∧ r.clusters = leNat ((bs.drop 0x1C).take 4) ∧ r.clusters ≠ 0 ∧ 1 ≤ r.rows ∧ r.rows ≤ 10 ∧ 1 ≤ r.cols
          ∧ r.rows * r.cols ≤ 12 ∧ 1 ≤ r.groups ∧ r.groups ≤ 16 ∧ r.vregs % 8 = 0 ∧ 8 ≤ r.vregs ∧ r.vregs ≤ 256 ∧ r.accs ≤ 16
          ∧ r.tilePages ≤ 384 ∧ r.tiles ≤ 256 ∧ r.spillEntries ≤ 248 ∧ r.deps.length = 4)
    ∧ (∀ (q : BitVec 6) (l : Leaf),
        let x := s.queue q.toNat
        let entry := x.base.toNat + 128 * (x.head.toNat % 2 ^ x.logEntries.toNat)
        x.enable = true → x.head ≠ x.tail → (x.stalled = false ∨ x.retry = true) → x.signed = false →
        entry < 2 ^ 57 → MapsTo s entry l →
        (l.kind = 1 → l.read = true → NoPoison s →
          let bs := readBytes s.mem.pkg (leafPhys l entry) 128
          let took : Queue → Prop := fun y => ∃ h,
            y = { x with head := x.head + 1#32, takenHost := x.takenHost + 1, stalled := false, retry := false, host := h }
          (x.host ≠ [] → ∃ t w, exec (.queueTakeRecord q) s = .next t
            ∧ t.queue q.toNat = { x with head := x.head + 1#32, takenHost := x.takenHost + 1, stalled := false, retry := false,
                                         taken := x.taken ++ [w] } ∧ w.bytes = bs ∧ w.entry = entry ∧ SameBytes s t)
          ∧ (∀ r, x.host = [] → x.taken = [] → recordFrom bs = some r → s.placeable r = true →
            ∃ t y, exec (.queueTakeRecord q) s = .next t ∧ took (t.queue q.toNat) ∧ (t.queue q.toNat).host = [y]
              ∧ enteredLaunch s y q.toNat false x.job r entry ∧ y.privileged = false
              ∧ (∀ p, p ≠ q.toNat → t.queue p = s.queue p) ∧ t.cur = s.cur ∧ SameBytes s t)
          ∧ (x.host = [] → x.taken = [] → recordFrom bs = none → ∀ m, entry + 0x78 < 2 ^ 57 → MapsTo s (entry + 0x78) m → m.kind = 1 →
              ∃ t, exec (.queueTakeRecord q) s = .next t ∧ took (t.queue q.toNat) ∧ (t.queue q.toNat).host = []
                ∧ WrittenAt s t (entry + 0x78) m (2 ^ 63 + gridNumber q.toNat false x.takenHost / 8 * 8 + 2)))
        ∧ (¬(l.kind = 1 ∧ l.read = true) → ∃ t, exec (.queueTakeRecord q) s = .next t
            ∧ t.queue q.toNat = { x with stalled := true, retry := false } ∧ t.msi = s.msi ++ [0] ∧ SameBytes s t))
    ∧ (∀ (q : Nat) (l : Launch), IdlePackage s → OnlyRecord s q l → Placeable l.record → WaitsMet s l.job l.record →
        l.started = 0 → l.stopped = false → s.sched.nextDie < 4 →
        let r := l.record
        ∃ t c, exec .placeCluster s = .next t ∧ t.clusters = [c]
          ∧ c = { grid := l.grid, clu := 0, rows := r.rows, cols := r.cols, die := s.sched.nextDie, row := 0, col := 0,
                  swapped := false, woken := false, bars := [] }
          ∧ t.teams.length = r.rows * r.cols ∧ t.others.length = r.rows * r.cols * r.groups
          ∧ (∀ (k : Nat) (u : Team), t.teams[k]? = some u → u.grid = l.grid ∧ u.clu = 0 ∧ u.team = k ∧ u.job = l.job
              ∧ u.groups = r.groups ∧ u.tilePages = r.tilePages ∧ u.tabCount = r.tiles
              ∧ u.core = 256 * s.sched.nextDie + 16 * (k / r.cols) + k % r.cols)
          ∧ (∀ (k : Nat) (g : Group), t.others[k]? = some g → g.alive = true ∧ g.id.grid = l.grid ∧ g.id.clu = 0
              ∧ g.id.team = k / r.groups ∧ g.id.grp = k % r.groups ∧ g.id.job = l.job ∧ g.id.vregs = r.vregs ∧ g.id.accs = r.accs
              ∧ g.frag.pc = r.entry ∧ g.frag.exec = 0xFFFFFFFF#32 ∧ g.regs.s = sput 0#64 [] 0 (r.args.zeroExtend 64)
              ∧ g.regs.v = [] ∧ g.regs.fstat = 0#8)
          ∧ (r.clusters = 1 → (t.queue q).host = [])
          ∧ (1 < r.clusters → ∃ y, (t.queue q).host = [y] ∧ y = { l with started := 1 }) ∧ t.sched.nextDie = (s.sched.nextDie + 1) % 4)
    ∧ (∀ (i : Nat) (c : Cluster), s.clusters[i]? = some c → s.canSwap c = true →
        (∀ g ∈ s.cur :: s.others, g.alive = true → g.id.grid = c.grid → g.id.clu = c.clu →
          s.threshold c.grid ≤ g.idle ∧ g.run = none ∧ g.matrix.words = [] ∧ g.part = none
            ∧ ∀ p ∈ s.fabric.peers, p.owner ≠ g.id.key)
        ∧ ∃ t, exec (.swapOut i) s = .next t ∧ { c with swapped := true, woken := false } ∈ t.clusters
            ∧ (∀ g ∈ t.cur :: t.others, g.alive = true → g.id.grid = c.grid → g.id.clu = c.clu → g.swapped = true)
            ∧ t.cur.regs = s.cur.regs ∧ SameBytes s t)
    ∧ (∀ (grid : BitVec 48) (l : Launch), s.launchOf grid.toNat = some l → s.launchDone l = true →
        ∃ t, exec (.launchComplete grid) s = .next t ∧ t.launchOf grid.toNat = none
          ∧ (l.killed = true ∨ l.stopped = true → t.sched.counters = s.sched.counters)
          ∧ (l.killed = false → l.stopped = false → ∀ n, (sget 0#32 t.sched.counters (l.job.toNat * 4096 + n)).toNat =
              min (2 ^ 32 - 1) ((sget 0#32 s.sched.counters (l.job.toNat * 4096 + n)).toNat
                + l.record.deps.countP (fun d => decide (2 ≤ d.1) && d.2.2 == n)))
          ∧ (l.device = true → SameBytes s t)
          ∧ (∀ m, l.device = false → l.entryAddr + 0x78 < 2 ^ 57 → MapsTo s (l.entryAddr + 0x78) m → m.kind = 1 → l.grid < 2 ^ 48 →
              WrittenAt s t (l.entryAddr + 0x78) m
                (2 ^ 63 + l.grid / 8 * 8 + if l.killed = true ∨ l.stopped = true then 3 else 1)))
    ∧ (s.sched.arm = true → s.ctx.stopping = [] → s.ctx.start = false → s.otherJobs s.sliceParts = [] →
        s.sched.gstart.toNat ≤ s.time.toNat → s.frozen = false → s.ctx.saved = [] →
        ∃ t, exec .gangSliceStart s = .next t ∧ t = { s with sched := { s.sched with arm := false, running := true },
                                                                       ctx := { s.ctx with restoring := none } })

/-- R392 to R398, R400: SIGNAL and MCST send the bytes of their source word and leave a command with its flag bound; FFLAG
leaves a command that knows what must come before it; PBAR arrives at its pod barrier and waits, and goes on at once when its
arrival completes the phase; each word names its faults at issue. -/
def Obligations.FabricWordsActOnce : Prop :=
  ∀ (s : State) (a b c : BitVec 6) (f : BitVec 4) (w : BitVec 1), NoRun s → Placed s →
    let traps : Instr → Nat → Prop := fun i cause => ∃ t, exec i s = .next t ∧ Trapped s t cause 0#32
    (let x := s.getS a
     let y := s.getS b
     let z := s.getS c
     let node := bitsOf x 52 12
     let fits := TargetFits x y ∧ SourceFits z 16 1572864 ∧ bitsOf z 56 8 = 0
     (FlagFits f → fits → SourceInside s z → Routed s node → NoStoreOut s → NoPoison s → NoneOver s → s.mem.epi = [] →
        ∃ t q p, exec (.signal a b c f) s = .next t ∧ FabricAccepted s t q .signal f.toNat ∧ q.waiting = 1
          ∧ t.fabric.txns = [p] ∧ Begins s p (.cmd q.id) ∧ Carries s p.pk 15 s.cur.id.job ∧ p.pk.dst = BitVec.ofNat 12 node
          ∧ p.pk.bytes = sourceBytes s z
          ∧ p.pk.args = [bitsOf y 0 48, bitsOf x 0 32, bitsOf x 44 4, bitsOf x 48 4] ∧ Sent s t p.pk)
      ∧ (FlagFits f → fits → SourceInside s z → s.fabric.held = [] → s.drains s.cur.id (.release scopePod false) = true →
          ∃ t, exec (.signal a b c f) s = .next t ∧ WaitsFor s t (.drain (.release scopePod false)))
      ∧ (¬FlagFits f → traps (.signal a b c f) 3)
      ∧ (FlagFits f → ¬fits → traps (.signal a b c f) 480)
      ∧ (FlagFits f → fits → ¬SourceInside s z → traps (.signal a b c f) 192))
    ∧ (∀ (l : Leaf),
        let ea := (s.getS a).toNat
        let n := if w = 1#1 then 8 else 4
        (ea % n = 0 → ea < 2 ^ 57 → MapsTo s ea l → l.write = true → l.kind = 1 ∨ l.kind = 2 → s.fabric.held = [] →
          let node := if l.kind = 2 then l.unit else s.node.toNat
          ∃ t q, exec (.fflag a b w) s = .next t ∧ FabricAccepted s t q .fflag 15 ∧ t.fabric = s.fabric ∧ t.agenda = s.agenda
            ∧ q.dst.base = ea ∧ q.op = node ∧ q.key = leafPhys l ea ∧ q.bytes = n ∧ q.pattern = s.getS b ∧ q.cur = none
            ∧ (∀ tag, tag ∈ q.awaits ↔ ∃ x ∈ s.fabric.txns, x.pk.tag.toNat = tag ∧ effectAt s node x)
            ∧ (∀ id, id ∈ q.after ↔ ∃ x ∈ s.cmds, x.id = id ∧ x.grid = s.cur.id.grid ∧ x.clu = s.cur.id.clu
                ∧ x.team = s.cur.id.team ∧ x.grp = s.cur.id.grp ∧ (x.kind = .mcst ∨ (x.kind = .fflag ∧ x.dst.base = ea))))
        ∧ (ea % n ≠ 0 → traps (.fflag a b w) 169)
        ∧ (ea % n = 0 → 2 ^ 57 ≤ ea → traps (.fflag a b w) 233)
        ∧ (ea % n = 0 → ea < 2 ^ 57 → MapsTo s ea l → l.write = false → traps (.fflag a b w) 329)
        ∧ (ea % n = 0 → ea < 2 ^ 57 → MapsTo s ea l → l.write = true → l.kind = 3 → traps (.fflag a b w) 361))
    ∧ (∀ (l : Leaf),
        let ea := (s.getS a).toNat
        let z := s.getS b
        let n := bitsOf z 32 24
        let group := bitsOf z 56 8
        let members := membersOf s group
        let fits := SourceFits z 8 1024
        let place := ea % 8 = 0 ∧ ea % 4096 + n ≤ 4096
        (FlagFits f → fits → SourceInside s z → place → ea + n ≤ 2 ^ 57 → MapsTo s ea l → l.write = true → l.kind = 1 →
          members ≠ [] → (∀ d ∈ members, d < 2304 ∧ Routed s d) → NodeInPod s → NoStoreOut s → NoPoison s → NoneOver s → s.mem.epi = [] →
          ∃ t q, exec (.mcst a b f) s = .next t ∧ FabricAccepted s t q .mcst f.toNat ∧ q.waiting = t.fabric.txns.length
            ∧ (∀ x ∈ t.fabric.txns, Begins s x (.cmd q.id) ∧ Carries s x.pk 18 s.cur.id.job ∧ x.pk.bytes = sourceBytes s z
                ∧ x.pk.addr = leafPhys l ea ∧ ∃ d ∈ members, x.pk.dst.toNat = wayTo s d)
            ∧ (∀ d ∈ members, ∃ x ∈ t.fabric.txns, x.pk.dst.toNat = wayTo s d
                ∧ ∃ k ds, x.pk.args = group :: k :: ds ∧ (wayTo s d ≠ d → k = if wayTo s d / 48 = s.node.toNat / 48 then 1 else 2)
                  ∧ ∀ e, e ∈ ds ↔ e ∈ members ∧ wayTo s e = wayTo s d ∧ wayTo s e ≠ e)
            ∧ (t.fabric.txns.map (·.pk.dst)).Nodup)
        ∧ (¬FlagFits f → traps (.mcst a b f) 3)
        ∧ (FlagFits f → ¬fits → traps (.mcst a b f) 480)
        ∧ (FlagFits f → fits → ¬SourceInside s z → traps (.mcst a b f) 192)
        ∧ (FlagFits f → fits → SourceInside s z → ¬place → traps (.mcst a b f) 169)
        ∧ (FlagFits f → fits → SourceInside s z → place → ea + n ≤ 2 ^ 57 → MapsTo s ea l → l.write = false →
            traps (.mcst a b f) 329)
        ∧ (FlagFits f → fits → SourceInside s z → place → ea + n ≤ 2 ^ 57 → MapsTo s ea l → l.write = true → l.kind = 1 →
            members = [] → traps (.mcst a b f) 480))
    ∧ (let x := s.getS a
       let pb := bitsOf x 8 3
       let job := s.cur.id.job
       let old := podBar s job pb
       let cfg := (bitsOf x 16 16, bitsOf x 0 8)
       let me := (s.cur.id.grid, s.cur.id.clu, s.cur.id.team, s.cur.id.grp)
       (PodWordFits s x → s.cur.sibs = [] → s.cur.stop = none → (∀ p, s.cur.frag.wait ≠ .phase 2 pb p) → me ∉ old.who →
          NoStoreOut s → old.cfg = none ∨ old.cfg = some cfg → old.members = [] → (old.cfg = none → old.who = []) →
          (old.arrived + 1 < cfg.1 → ∃ t, exec (.pbar a) s = .next t
            ∧ podBar t job pb = { old with cfg := some cfg, arrived := old.arrived + 1, who := me :: old.who }
            ∧ OtherBars s t job pb ∧ t.cur.frag.wait = .phase 2 pb (old.phase + 1) ∧ t.cur.frag.pc = s.unitPc
            ∧ t.cur.regs = s.cur.regs ∧ SameBytes s t)
          ∧ (cfg.1 ≤ old.arrived + 1 → (∃ d ∈ membersOf s cfg.2, d ≠ s.node.toNat ∧ d ∉ old.known) →
              ∃ t y, exec (.pbar a) s = .next t ∧ podBar t job pb = y
                ∧ y = { old with cfg := some cfg, arrived := old.arrived + 1, who := me :: old.who,
                                 members := membersOf s cfg.2, known := y.known }
                ∧ (∀ d, d ∈ y.known ↔ d = s.node.toNat ∨ d ∈ old.known) ∧ OtherBars s t job pb
                ∧ t.cur.frag.wait = .phase 2 pb (old.phase + 1) ∧ t.cur.frag.pc = s.unitPc ∧ t.cur.regs = s.cur.regs
                ∧ SameBytes s t)
          ∧ (cfg.1 ≤ old.arrived + 1 → (∀ d ∈ membersOf s cfg.2, d = s.node.toNat ∨ d ∈ old.known) →
              ∃ t, exec (.pbar a) s = .next t
                ∧ podBar t job pb = { PodBar.reset with phase := old.phase + 1, known := old.later } ∧ OtherBars s t job pb
                ∧ t.cur = { s.cur with frag := s.cur.frag.movedTo (after s) } ∧ AcquiredL1 s t 6 ∧ SameBytes s t))
        ∧ (PodWordFits s x → (∃ p, s.cur.frag.wait = .phase 2 pb p ∧ 0 < p ∧ p ≤ old.phase) →
            ∃ t, exec (.pbar a) s = .next t ∧ t.cur = { s.cur with frag := s.cur.frag.movedTo (after s) } ∧ AcquiredL1 s t 6
              ∧ SameBytes s t)
        ∧ (¬PodWordFits s x → traps (.pbar a) 480))

/-- R376, R390, R391, R394, R396, R397, R419: the first copy of a SIGNAL fills the next slot of its ring and is answered, and is
answered busy or refused without a slot; an FFLAG whose earlier effects are performed stores its value here or sends it;
multicast data is written once at a member, forwarded by a relay, and answered; a SIGNAL answered busy is sent again; an entry
of the group table is installed as one step. -/
def Obligations.FabricDataReachesItsTarget : Prop :=
  ∀ (s : State) (pk : Packet), NoWatch s →
    (Trusted s pk → FirstCopy s pk → Routed s pk.src.toNat →
      (∀ u r e, SignalRing s pk u r → ringGap r.res r.rd < r.n → s.tileOf u (r.first + r.res % r.n) = some e →
          SourceStands s pk → r.wr ∉ r.complete →
          ∃ t v, exec (.signalData pk) s = .next t ∧ Answers s t pk 16 0 ∧ AnswerKept t pk 16 0
            ∧ BytesWritten (tileByte s) (tileByte t) (u.key e.off) (pk.bytes.take e.size)
            ∧ (∀ a, pkgByte t a = pkgByte s a) ∧ t.cur = s.cur ∧ t.cmds = s.cmds
            ∧ t.teams = s.teams.map (fun x => if x.grid == u.grid && x.clu == u.clu && x.team == u.team then
                { u with rings := sput Ring.reset u.rings (pk.args.getD 3 0) v } else x)
            ∧ v = { r with res := (r.res + 1) % 2 ^ 32, wr := v.wr, complete := v.complete }
            ∧ (r.wr ≠ r.res → v.wr = r.wr ∧ v.complete = r.res :: r.complete)
            ∧ (r.wr = r.res → r.complete = [] → v.wr = (r.res + 1) % 2 ^ 32 ∧ v.complete = []))
      ∧ (∀ u r, SignalRing s pk u r → r.n ≤ ringGap r.res r.rd →
          ∃ t, exec (.signalData pk) s = .next t ∧ Answers s t pk 7 1 ∧ OnlyFabric s t ∧ t.fabric.targets = s.fabric.targets)
      ∧ ((∀ u r, ¬SignalRing s pk u r) → pk.args.length = 4 →
          ∃ t, exec (.signalData pk) s = .next t ∧ Answers s t pk 7 0 ∧ OnlyFabric s t ∧ t.fabric.targets = s.fabric.targets))
    ∧ (¬Trusted s pk → Routed s pk.src.toNat → ∀ i, i ∈ [Instr.signalData pk, Instr.mcstData pk] →
        ∃ t, exec i s = .next t ∧ Answers s t pk 7 2 ∧ OnlyFabric s t ∧ t.fabric.targets = s.fabric.targets)
    ∧ (∀ c : Cmd, c ∈ s.cmds → (∀ x ∈ s.cmds, x.id = c.id → x = c) → c.kind = .fflag → c.cur = none → c.fail = none →
        (∀ x ∈ s.fabric.txns, x.pk.tag.toNat ∉ c.awaits) → (∀ x ∈ s.cmds, x.id ∉ c.after) → c.bytes = 4 ∨ c.bytes = 8 →
        (OwnCommand s c → c.op = s.node.toNat → s.mem.late = [] →
          (NoPoison s → ∃ t, exec (.fflagStore c.id) s = .next t ∧ CommandDone s t c
            ∧ BytesWritten (pkgByte s) (pkgByte t) c.key (leBytes c.bytes c.pattern.toNat) ∧ (∀ a, tileByte t a = tileByte s a))
          ∧ (c.bytes = 4 → sget false s.mem.pkgPoison (c.key / 8) = true → ∃ t unit index, exec (.fflagStore c.id) s = .next t
              ∧ CommandDone s t { c with fail := some (10, unit, index, c.dst.base) } ∧ SameBytes s t))
        ∧ (c.op < 2304 → c.op ≠ s.node.toNat → Routed s c.op → NoneOver s →
            ∃ t p o, exec (.fflagStore c.id) s = .next t ∧ SameBytes s t ∧ t.cur = s.cur
              ∧ t.cmds = s.cmds.map (fun x => if x.id == c.id then { c with cur := some 0, waiting := 1 } else x)
              ∧ t.fabric.txns = s.fabric.txns ++ [p] ∧ Begins s p (.cmd c.id) ∧ Carries s p.pk 17 c.job ∧ p.pk.dst.toNat = c.op
              ∧ p.pk.ops = [o]
              ∧ o.addr = c.key ∧ o.size = c.bytes ∧ o.data.toNat = c.pattern.toNat % 2 ^ (8 * c.bytes) ∧ Sent s t p.pk))
    ∧ (Trusted s pk → FirstCopy s pk → Routed s pk.src.toNat → (∀ c ∈ s.ctx.saved, c.job ≠ pk.job) →
        let group := pk.args.getD 0 0
        let dir := pk.args.getD 1 0
        let fans := fansOut s group dir (pk.args.drop 2)
        let mine := s.node.toNat ∈ membersOf s group
        let inside := s.ctxArea.1 < s.ctxArea.2 ∧ pk.addr < s.ctxArea.2 ∧ s.ctxArea.1 < pk.addr + pk.bytes.length
        let status := if mine ∧ inside then 1 else 0
        ∃ t, exec (.mcstData pk) s = .next t ∧ (∀ a, tileByte t a = tileByte s a) ∧ t.cur = s.cur ∧ t.cmds = s.cmds
          ∧ (mine → ¬inside → BytesWritten (pkgByte s) (pkgByte t) pk.addr pk.bytes)
          ∧ (¬mine ∨ inside → ∀ a, pkgByte t a = pkgByte s a)
          ∧ ((∀ d, ¬fans d) → Answers s t pk 19 status ∧ AnswerKept t pk 19 status)
          ∧ ((∃ d, fans d) → (∀ d, fans d → d < 2304 ∧ (s.firstHop d).isSome = true) →
              ∃ x new, t.fabric.combines = s.fabric.combines ++ [x] ∧ x.members = [pk] ∧ x.sent = true ∧ x.left = new.length
                ∧ x.status = status ∧ t.fabric.txns = s.fabric.txns ++ new
                ∧ (∀ p ∈ new, Begins s p (.relay x.id) ∧ Carries s p.pk 18 pk.job ∧ p.pk.bytes = pk.bytes
                    ∧ p.pk.addr = pk.addr ∧ p.pk.args = [group, 0] ∧ fans p.pk.dst.toNat)
                ∧ ∀ d, fans d → ∃ p ∈ new, p.pk.dst.toNat = d))
    ∧ (∀ p : Txn, s.txn p.pk.tag = some p → p.busy = true → Routed s p.pk.dst.toNat → p.pk.dstMod = false →
        ∃ t, exec (.signalBusyRetry p.pk.tag) s = .next t ∧ Sent s t p.pk ∧ OnlyFabric s t
          ∧ t.fabric.txns = s.fabric.txns.map (fun x => if x.pk.tag == p.pk.tag then { p with busy := false, locked := none } else x))
    ∧ (s.fabric.mgBusy = true → NoPoison s →
        let a := s.fabric.mgBase.toNat * 2 ^ 17 + 512 * s.fabric.mgGroup.toNat
        ∃ t m, exec .installEntry s = .next t ∧ t = { s with fabric := { s.fabric with mcast := m, mgBusy := false } }
          ∧ (∀ g, g ≠ s.fabric.mgGroup.toNat → sget none m g = sget none s.fabric.mcast g)
          ∧ (EntryValid s a → ∃ ms, sget none m s.fabric.mgGroup.toNat = some ms
              ∧ ∀ n, n ∈ ms ↔ n < 2304 ∧ entryMember s a n = true)
          ∧ (¬EntryValid s a → sget none m s.fabric.mgGroup.toNat = none))

/-- R364, R381, R382, R389, R399, R401 to R403, R418: at a phase boundary the master sends its time, and every package its
arrivals, to all peers; an arriving pod-barrier state completes a phase when every member is known; TIME follows the master
and is never stepped back; silence freezes the schedule; the successor claims, the lowest claim is accepted, and the claimant
becomes master. -/
def Obligations.PodTimeAndItsElection : Prop :=
  ∀ (s : State), NodeInPod s →
    let h := s.fabric.halley
    let sendsOn : State → Nat → BitVec 12 → List Nat → Prop := fun t op src args => ∃ new,
      t.fabric.urgent = s.fabric.urgent ++ new
        ∧ (src.toNat / 48 = s.node.toNat / 48 → src ≠ s.node →
            (∀ p ∈ new, p.op = BitVec.ofNat 6 op ∧ p.src = src ∧ p.args = args ∧ peerNode s p.dst.toNat
              ∧ p.dst.toNat % 48 = s.node.toNat % 48)
            ∧ ∀ d, peerNode s d → d % 48 = s.node.toNat % 48 → ∃ p ∈ new, p.dst.toNat = d)
        ∧ (src.toNat / 48 ≠ s.node.toNat / 48 → new = [])
    ((∀ d, peerNode s d → s.peerUp d = true) →
      ∃ t, exec .phaseBoundary s = .next t ∧ t.link = { s.link with lit := false, phase := s.time.toNat / 250 }
        ∧ t = { s with link := t.link, fabric := { s.fabric with urgent := t.fabric.urgent } }
        ∧ ∃ times states, t.fabric.urgent = s.fabric.urgent ++ times ++ states
          ∧ (h.enable = true → h.frozen = false → h.curMaster = s.node → ToEveryPeer s times 21 [s.time.toNat])
          ∧ (h.enable = false ∨ h.frozen = true ∨ h.curMaster ≠ s.node → times = [])
          ∧ ∀ key x, (key, x) ∈ s.fabric.bars →
              ToEveryPeer s (states.filter (fun p => p.args == key :: x.phase :: x.known)) 20 (key :: x.phase :: x.known))
    ∧ (∀ (pk : Packet) (job : BitVec 16) (b phase : Nat) (nodes : List Nat), b < 8 →
        pk.args = (job.toNat * 8 + b) :: phase :: nodes → pk.authentic = true → pk.src ∈ s.sec.podPairs →
        let old := podBar s job b
        let knows : List Nat → Nat → Prop := fun l d => d ∈ l ∨ d ∈ nodes
        old.members ≠ [] →
          (phase = old.phase → (∃ d ∈ old.members, ¬knows old.known d) → old.cfg ≠ none →
            ∃ t y, exec (.podBarrierState pk) s = .next t ∧ podBar t job b = { old with known := y }
              ∧ (∀ d, d ∈ y ↔ knows old.known d) ∧ OtherBars s t job b ∧ OnlyFabric s t)
          ∧ (phase = old.phase → (∀ d ∈ old.members, knows old.known d) → old.cfg ≠ none →
              ∃ t, exec (.podBarrierState pk) s = .next t
                ∧ podBar t job b = { PodBar.reset with phase := old.phase + 1, known := old.later } ∧ OtherBars s t job b
                ∧ OnlyFabric s t))
    ∧ (∀ (master : BitVec 12) (time : BitVec 64), h.enable = true → master ≠ s.node →
        (master = h.curMaster → ∃ t, exec (.timePacket master time) s = .next t ∧ OnlyTimeService s t
          ∧ t.time = (if s.time.toNat ≤ time.toNat then time else s.time) ∧ sendsOn t 21 master [time.toNat]
          ∧ t.fabric.halley = { h with slow := decide (time.toNat < s.time.toNat), frozen := false, synced := true, claim := none,
                                       claimed := false, heard := t.time.toNat })
        ∧ (∀ r, master ≠ h.curMaster → h.frozen = true → successorRank h master.toNat r →
            ∃ t, exec (.timePacket master time) s = .next t ∧ OnlyTimeService s t ∧ t.fabric.halley.curMaster = master
              ∧ t.fabric.halley.curRank.toNat = r ∧ t.fabric.halley.frozen = false ∧ t.fabric.halley.synced = true
              ∧ FabricRecord s t 18 master.toNat s.time
              ∧ t.time = (if s.time.toNat ≤ time.toNat then time else s.time) ∧ sendsOn t 21 master [time.toNat]))
    ∧ (h.enable = true → h.curRank ≠ 15#4 →
        (h.frozen = false → h.curMaster ≠ s.node → h.heard + 4000 ≤ s.time.toNat →
          ∃ t, exec .timeSilence s = .next t ∧ OnlyTimeService s t ∧ t.time = s.time
          ∧ t.fabric.halley = { h with frozen := true, synced := false, claimed := false, detected := s.time.toNat }
          ∧ t.fabric.urgent = s.fabric.urgent ∧ FabricRecord s t 17 h.curMaster.toNat s.time)
        ∧ (h.frozen = false → h.curMaster = s.node ∨ s.time.toNat < h.heard + 4000 → ∃ t, exec .timeSilence s = .next t ∧ t = s)
        ∧ (h.frozen = true → h.claim = some 8 → h.claimAt + 4000 ≤ s.time.toNat → ∃ t, exec .timeSilence s = .next t ∧ OnlyTimeService s t
            ∧ t.fabric.halley = { h with curRank := 15#4, claim := none, claimed := false }
            ∧ t.fabric.urgent = s.fabric.urgent ∧ FabricRecord s t 19 0 s.time))
    ∧ (∀ r, h.enable = true → h.curRank ≠ 15#4 → h.frozen = true → successorRank h s.node.toNat r →
        (h.claimed = false → (∀ c, h.claim = some c → r ≤ c) → h.detected + 4000 * (r - 1) ≤ s.time.toNat →
          ∃ t new, exec .electionClaim s = .next t ∧ OnlyTimeService s t ∧ t.time = s.time
            ∧ t.fabric.halley = { h with claimed := true, claim := some r, claimAt := s.time.toNat } ∧ t.fabric.urgent = s.fabric.urgent ++ new
            ∧ ToEveryPeer s new 22 [r])
        ∧ (h.claimed = false → (∃ c, h.claim = some c ∧ c < r) ∨ s.time.toNat < h.detected + 4000 * (r - 1) →
            ∃ t, exec .electionClaim s = .next t ∧ t = s)
        ∧ (h.claimed = true → s.time.toNat < h.claimAt + 2000 → ∃ t, exec .masterInstall s = .next t ∧ t = s)
        ∧ (h.claimed = true → h.claim = some r → h.claimAt + 2000 ≤ s.time.toNat → ∃ t, exec .masterInstall s = .next t ∧ OnlyTimeService s t ∧ t.time = s.time
            ∧ t.fabric.halley = { h with curMaster := s.node, curRank := BitVec.ofNat 4 r, frozen := false, synced := true,
                                         claim := none, claimed := false }
            ∧ FabricRecord s t 18 s.node.toNat s.time))
    ∧ (∀ (rank : BitVec 4) (node : BitVec 12), h.enable = true →
        ((∀ c, h.claim = some c → rank.toNat < c) → ∃ t, exec (.claimReceive rank node) s = .next t ∧ OnlyTimeService s t
          ∧ t.fabric.halley = { h with claim := some rank.toNat, claimAt := s.time.toNat } ∧ sendsOn t 22 node [rank.toNat])
        ∧ ((∃ c, h.claim = some c ∧ c ≤ rank.toNat) → ∃ t, exec (.claimReceive rank node) s = .next t ∧ t = s))

/-- R310, R374, R375, R377, R383, R388, R419: a packet takes the route of R383; a request that gets no answer is sent again three
times and then faults, an effect after a cancel; a refusal is tried again for 128 µs; an answer completes its transaction, and
a refusal, a relay's loss or a failed status ends it as the rules say. -/
def Obligations.RequestsEndOnce : Prop :=
  ∀ (s : State) (p : Txn), Pending s p → NoneOver s → NodeInPod s →
    (∀ d, d < 2304 → d ≠ s.node.toNat →
      let row := 48 * (s.node.toNat / 48) + d % 48
      let col := 48 * (d / 48) + s.node.toNat % 48
      let mark := sget 0 s.fabric.lost d
      let rowOk := s.peerUp row = true ∧ mark.testBit 0 = false
      let colOk := s.peerUp col = true ∧ mark.testBit 1 = false
      (arePeers s.node.toNat d → (s.peerUp d = true → s.firstHop d = some d) ∧ (s.peerUp d = false → s.firstHop d = none))
      ∧ (¬arePeers s.node.toNat d → (rowOk → s.firstHop d = some row) ∧ (¬rowOk → colOk → s.firstHop d = some col)
          ∧ (¬rowOk → ¬colOk → s.firstHop d = none)))
    ∧ (p.cancel = none → p.held = none → p.busy = false → p.started + 24000 ≤ s.time.toNat →
        (p.pk.attempt ≠ 3#2 → RouteOpen s p.pk → ∃ t, exec (.e2eTimerExpiry p.pk.tag) s = .next t ∧ OnlyFabric s t
          ∧ Sent s t { p.pk with attempt := p.pk.attempt + 1#2 }
          ∧ TxnBecomes s t p { p with pk := { p.pk with attempt := p.pk.attempt + 1#2 }, started := s.time.toNat,
                                        locked := none })
        ∧ (p.pk.attempt ≠ 3#2 → ¬RouteOpen s p.pk → ∃ t, exec (.e2eTimerExpiry p.pk.tag) s = .next t ∧ Faults s t p 0 11 false)
        ∧ (p.pk.attempt = 3#2 → noEffect p.pk.op → ∃ t, exec (.e2eTimerExpiry p.pk.tag) s = .next t ∧ Faults s t p 0 11 false)
        ∧ (p.pk.attempt = 3#2 → ¬noEffect p.pk.op → RouteOpen s p.pk →
            ∃ t, exec (.e2eTimerExpiry p.pk.tag) s = .next t ∧ OnlyFabric s t ∧ CancelSent s t p 0 0))
    ∧ (s.time.toNat < p.started + 24000 → ∃ t, exec (.e2eTimerExpiry p.pk.tag) s = .next t ∧ t = s)
    ∧ (∀ reason relay at_, reason < 2 → p.cancel = some (reason, relay, at_) → at_ + 24000 ≤ s.time.toNat →
        ∃ t, exec (.cancelTimeout p.pk.tag) s = .next t ∧ Faults s t p reason (11 + reason) true
          ∧ (reason = 1 → FabricRecord s t 16 relay (BitVec.ofNat 64 (p.pk.dst.toNat + if p.pk.dstMod = true then 2 ^ 63 else 0))))
    ∧ (∀ first at_, p.refused = some first → p.held = some at_ → s.time.toNat < at_ + 1000 →
        ∃ t, exec (.notResidentRetry p.pk.tag) s = .next t ∧ t = s)
    ∧ (∀ first at_, p.refused = some first → p.held = some at_ → at_ + 1000 ≤ s.time.toNat →
        (s.time.toNat < first + 128000 → RouteOpen s p.pk → ∃ t, exec (.notResidentRetry p.pk.tag) s = .next t ∧ OnlyFabric s t
          ∧ Sent s t p.pk ∧ TxnBecomes s t p { p with held := none, started := p.started + (s.time.toNat - at_), locked := none })
        ∧ (first + 128000 ≤ s.time.toNat → ∃ t, exec (.notResidentRetry p.pk.tag) s = .next t ∧ Faults s t p 2 13 false))
    ∧ (∃ t, exec (.holdNotice p.pk.tag) s = .next t ∧ OnlyFabric s t ∧ TxnBecomes s t p { p with started := s.time.toNat })
    ∧ (∀ pk : Packet, pk.tag = p.pk.tag → pk.op ≠ 12#6 ∨ pk.srcMod = true → Genuine s pk →
        p.locked = none ∨ p.locked = some pk.attempt →
        let arrives := exec (.responseReceive pk) s
        (∀ id a, pk.op = 5#6 ∨ pk.op = 6#6 → pk.status = 0 → p.owner = .lanes id → a ∈ s.fabric.peers → a.word.id = id →
          (∀ b ∈ s.fabric.peers, b.word.id = id → b = a) →
          let left := a.open_ &&& ~~~(opsMask p.pk.ops)
          (left ≠ 0#32 → ∃ t, arrives = .next t ∧ TxnEnded s t p ∧ SameBytes s t ∧ t.cur.frag = s.cur.frag
            ∧ t.fabric.peers = s.fabric.peers.map (fun x => if x.word.id == id then { a with open_ := left } else x))
          ∧ (left = 0#32 → a.faults = [] → s.cur.isLive a.owner = true → NoRun s → s.cur.sibs = [] →
              s.cur.frag.member = a.word.frag → ∃ t, arrives = .next t ∧ TxnEnded s t p ∧ SameBytes s t
                ∧ (∀ b ∈ t.fabric.peers, b.word.id ≠ id) ∧ t.cur.frag = s.cur.frag.movedTo (a.pc + 4#57))
          ∧ (∀ rs k q o x, a.acc ≠ 1 → s.cur.isLive a.owner = true → NoRun s → a.target = .block rs → rs.Nodup →
              rs[k]? = some (.reg q) → o ∈ p.pk.ops → (p.pk.ops.map (·.lane)).Nodup → x ∈ pk.ops → (pk.ops.map (·.lane)).Nodup →
              x.lane = o.lane → o.lane < 32 → a.open_.getLsbD o.lane = true →
              ∃ t, arrives = .next t
                ∧ laneOf (t.getRef (.reg q)) o.lane = BitVec.ofNat 32 (x.data.toNat % 2 ^ (8 * o.size) / 2 ^ (32 * k))))
        ∧ (∀ c, pk.op = 16#6 → pk.status = 0 → p.owner = .cmd c.id → OwnCommand s c → c.kind = .signal → c.waiting = 1 →
            c.cur ≠ none → c.fail = none → ∃ t, arrives = .next t ∧ TxnEnded s t p ∧ CommandDone s t c ∧ SameBytes s t)
        ∧ (∀ r : BitVec 6, r ∈ [5#6, 6#6, 16#6, 19#6] → pk.op = r → pk.args = [] →
            (pk.status = 1 → ∃ t, arrives = .next t ∧ TxnEnded s t p ∧ OwnerFails s t p (328 + accessCode p.pk.op) 3 false ∧ SameBytes s t)
            ∧ (pk.status = 2 → ∃ t, arrives = .next t ∧ TxnEnded s t p ∧ OwnerFails s t p (392 + accessCode p.pk.op) 10 false
                ∧ SameBytes s t))
        ∧ (pk.op = 7#6 →
            (pk.status = 0 → (∀ id c, p.owner = .relay id → s.fabric.combines.find? (fun x => x.id == id) = some c →
                (c.members.headD default).op ≠ 18#6 → ∃ t, arrives = .next t ∧ TxnEnded s t p ∧ ∀ x ∈ t.fabric.combines, x.id ≠ id)
              ∧ ((∀ id, p.owner ≠ .relay id) → ∃ t, arrives = .next t ∧ OnlyFabric s t
              ∧ TxnBecomes s t p { p with refused := some (p.refused.getD s.time.toNat), held := some s.time.toNat }))
            ∧ (pk.status = 1 → ∃ t, arrives = .next t ∧ OnlyFabric s t
                ∧ TxnBecomes s t p { p with busy := true, started := s.time.toNat })
            ∧ (pk.status = 2 → ∃ t, arrives = .next t ∧ Faults s t p 3 3 false
                ∧ ((∀ c ∈ s.cmds, c.fail = none) → t.sec.integrity.toNat = min 65535 (s.sec.integrity.toNat + 1)))
            ∧ (pk.status = 3 → ∃ t, arrives = .next t ∧ OnlyFabric s t ∧ TxnBecomes s t p { p with started := s.time.toNat }))
        ∧ (∀ relay op, pk.op = 8#6 → pk.args = [relay, op] → op ∈ [5, 6, 7, 8, 10, 12, 16, 19] → ∃ t, arrives = .next t ∧ t = s)
        ∧ (∀ d relay op, pk.op = 8#6 → pk.args = [relay, op] → op ∉ [5, 6, 7, 8, 10, 12, 16, 19] → p.cancel = none → p.pk.dstMod = false → d = p.pk.dst.toNat →
            ∃ t, arrives = .next t ∧ (∀ n, n ≠ d → sget 0 t.fabric.lost n = sget 0 s.fabric.lost n)
              ∧ (∀ b, (sget 0 t.fabric.lost d).testBit b =
                  ((sget 0 s.fabric.lost d).testBit b || decide (b = if relay = 48 * (s.node.toNat / 48) + d % 48 then 0 else 1)))
              ∧ (noEffect p.pk.op → Faults s t p 1 12 false
                  ∧ FabricRecord s t 16 relay (BitVec.ofNat 64 p.pk.dst.toNat))
              ∧ (¬noEffect p.pk.op → RouteOpen { s with fabric := { s.fabric with lost := t.fabric.lost } } p.pk → CancelSent s t p 1 relay))
        ∧ (∀ reason relay at_, reason < 2 → pk.op = 10#6 → pk.status = 1 → p.cancel = some (reason, relay, at_) →
            ∃ t, arrives = .next t ∧ Faults s t p reason (11 + reason) false))
    ∧ (∀ (pk : Packet) (a : BitVec 2), pk.tag = p.pk.tag → pk.op ≠ 12#6 ∨ pk.srcMod = true → p.locked = some a → a ≠ pk.attempt →
        ∃ t, exec (.responseReceive pk) s = .next t ∧ t = s)

/-- R189, R376, R383, R386 to R388, R413, R420: a target performs a first copy once, in lane order, and answers; a later copy of
a read is read again, of an effect gets the stored answer; a cancel of an unknown request records its tag; a relay forwards,
or says that its onward link is down; it may hold an add and send one for many, and then gives each its answer; marks lapse,
held packets leave, and the late write of a part of a far line fails its command. -/
def Obligations.TargetsAndRelaysAnswer : Prop :=
  ∀ (s : State) (pk : Packet), NoWatch s → NodeInPod s →
    (Trusted s pk → Routed s pk.src.toNat → (∀ c ∈ s.ctx.saved, c.job ≠ pk.job) → pk.op ∈ [0#6, 1#6, 2#6, 3#6, 4#6, 17#6] →
      s.mem.pkgPoison = [] → (∀ o ∈ pk.ops, o.size ≤ 16 ∧ o.addr + o.size ≤ 2 ^ 41 ∧ ¬(s.ctxArea.1 < s.ctxArea.2
        ∧ o.addr < s.ctxArea.2 ∧ s.ctxArea.1 < o.addr + o.size)) →
      FirstCopy s pk ∨ (pk.op = 0#6 ∧ ∃ x, HasRecord s pk x ∧ x.cancelled = false ∧ x.answer ≠ none) →
      let r := opsInTurn pk.op.toNat pk.aop.toNat pk.ops (pkgByte s)
      ∃ t a, exec (.requestArrival pk) s = .next t ∧ (∀ b, pkgByte t b = r.1 b) ∧ (∀ b, tileByte t b = tileByte s b)
        ∧ t.cur = s.cur ∧ t.cmds = s.cmds ∧ Sent s t a ∧ a.op = (if pk.op = 0#6 then 5#6 else 6#6) ∧ a.status = 0
        ∧ a.dst = pk.src ∧ a.tag = pk.tag ∧ a.attempt = pk.attempt ∧ a.ops.map (·.data.toNat) = r.2
        ∧ a.ops.map (·.lane) = pk.ops.map (·.lane) ∧ AnswerKept t pk a.op.toNat 0)
    ∧ (Trusted s pk → ∀ x, HasRecord s pk x →
        (∀ a, x.cancelled = false → x.answer = some a → pk.op ≠ 0#6 → RouteOpen s a → ∀ i, i ∈ [Instr.requestArrival pk, Instr.cancel pk] →
          ∃ t, exec i s = .next t ∧ Sent s t { a with attempt := pk.attempt } ∧ OnlyFabric s t ∧ t.fabric.targets = s.fabric.targets)
        ∧ (x.cancelled = true → ∃ t, exec (.requestArrival pk) s = .next t ∧ t = s))
    ∧ (¬Trusted s pk → Routed s pk.src.toNat → ∀ i, i ∈ [Instr.requestArrival pk, Instr.cancel pk] →
        ∃ t, exec i s = .next t ∧ Answers s t pk 7 2 ∧ OnlyFabric s t)
    ∧ (Trusted s pk → FirstCopy s pk → Routed s pk.src.toNat → s.jobResident pk.job = false →
        ∃ t, exec (.requestArrival pk) s = .next t ∧ Answers s t pk 7 0 ∧ OnlyFabric s t)
    ∧ (Trusted s pk → FirstCopy s pk → Routed s pk.src.toNat →
        ∃ t x, exec (.cancel pk) s = .next t ∧ Answers s t pk 10 1 ∧ OnlyFabric s t ∧ x.cancelled = true ∧ x.src = pk.src.toNat
          ∧ x.tag = pk.tag.toNat ∧ x ∈ t.fabric.targets)
    ∧ (∀ (src : BitVec 12) (tag : BitVec 22), ∃ t, exec (.requestRecordExpiry src tag) s = .next t ∧ OnlyFabric s t
        ∧ ∀ x, x ∈ t.fabric.targets ↔ x ∈ s.fabric.targets
            ∧ ¬(x.src = src.toNat ∧ x.tag = tag.toNat ∧ (x.answer ≠ none ∨ x.cancelled = true) ∧ x.at_ + 128000 ≤ s.time.toNat))
    ∧ (pk.dst ≠ s.node → arePeers s.node.toNat pk.dst.toNat → pk.dstMod = false →
        (¬MayCombine s pk → ∀ n, s.outLink pk = some n →
          ∃ t, exec (.relayForward pk) s = .next t ∧ LeavesBy s t n pk ∧ OnlyFabric s t)
        ∧ (¬MayCombine s pk → s.outLink pk = none → RouteOpen s { pk with dst := pk.src } →
            ∃ t r, exec (.relayForward pk) s = .next t ∧ Sent s t r ∧ r.op = 8#6 ∧ r.args = [s.node.toNat, pk.op.toNat] ∧ r.dst = pk.src
              ∧ r.tag = pk.tag ∧ r.src = s.node ∧ OnlyFabric s t)
        ∧ (MayCombine s pk → FirstCopy s pk → (∀ c ∈ s.fabric.combines, ∀ m ∈ c.members, ¬(m.src = pk.src ∧ m.tag = pk.tag)) →
            ∀ n, s.outLink pk = some n → ∃ t, exec (.relayForward pk) s = .next t ∧ t.cur = s.cur ∧ SameBytes s t
              ∧ (LeavesBy s t n pk ∨ (t.fabric.outbox = s.fabric.outbox ∧ t.fabric.waiting = s.fabric.waiting
                  ∧ ∃ c ∈ t.fabric.combines, pk ∈ c.members ∧ c.sent = false ∧ c.members.length ≤ 16
                    ∧ ∀ m, c.members.head? = some m → m.dst = pk.dst ∧ target1 m = target1 pk))))
    ∧ (∀ (c : Combine) (o : LaneOp), c ∈ s.fabric.combines → (∀ x ∈ s.fabric.combines, x.id = c.id → x = c) → c.sent = false →
        (∃ m, c.members.head? = some m ∧ m.ops = [o] ∧ Routed s m.dst.toNat ∧ m.dst ≠ s.node) →
        ∃ t p q, exec (.combineHoldExpiry c.id) s = .next t ∧ OnlyFabric s t ∧ t.fabric.txns = s.fabric.txns ++ [p]
          ∧ t.fabric.combines = s.fabric.combines.map (fun (x : Combine) => if x.id == c.id then { c with sent := true } else x)
          ∧ Begins s p (.relay c.id) ∧ p.pk.op = 3#6 ∧ p.pk.aop = 3#4 ∧ p.pk.src = s.node ∧ p.pk.ops = [q] ∧ q.addr = o.addr
          ∧ q.size = o.size ∧ q.data.toNat = (c.members.map operand1).sum % 2 ^ (8 * o.size) % 2 ^ 128 ∧ Sent s t p.pk)
    ∧ (∀ (c : Combine) (p : Txn) (o : LaneOp), c ∈ s.fabric.combines → (∀ x ∈ s.fabric.combines, x.id = c.id → x = c) →
        Pending s p → p.owner = .relay c.id → NoneOver s → pk.tag = p.pk.tag → pk.op = 6#6 → pk.status = 0 → Genuine s pk → pk.ops = [o] →
        p.locked = none ∨ p.locked = some pk.attempt →
        (∀ m ∈ c.members, m.op = 3#6 ∧ (target1 m).2 ≤ 8) → (c.members.map (fun m => (m.src, m.tag))).Nodup →
        ∃ t, exec (.responseReceive pk) s = .next t ∧ OnlyFabric s t ∧ TxnEnded s t p ∧ (∀ x ∈ t.fabric.combines, x.id ≠ c.id)
          ∧ ∀ (k : Nat) (m : Packet), c.members[k]? = some m → m.ops.length = 1 →
              ∃ x ∈ t.fabric.targets, x.src = m.src.toNat ∧ x.tag = m.tag.toNat ∧ ∃ a, x.answer = some a ∧ a.op = 6#6
                ∧ a.dst = m.src ∧ a.tag = m.tag
                ∧ operand1 a = (o.data.toNat + ((c.members.take k).map operand1).sum) % 2 ^ (8 * (target1 m).2))
    ∧ (∀ (d : BitVec 12) (col : Bool),
        let due := sget 0 s.fabric.lostAt (2 * d.toNat + if col = true then 1 else 0) + 100000
        (due ≤ s.time.toNat → ∃ t, exec (.routeMarkLapse d col) s = .next t ∧ OnlyFabric s t
          ∧ (∀ b, (sget 0 t.fabric.lost d.toNat).testBit b =
              ((sget 0 s.fabric.lost d.toNat).testBit b && decide (b ≠ if col = true then 1 else 0)))
          ∧ ∀ n, n ≠ d.toNat → sget 0 t.fabric.lost n = sget 0 s.fabric.lost n)
        ∧ (s.time.toNat < due → ∃ t, exec (.routeMarkLapse d col) s = .next t ∧ t = s))
    ∧ (∀ h : Held, h ∈ s.fabric.held → (∀ x ∈ s.fabric.held, x.id = h.id → x = h) →
        (∀ x ∈ s.fabric.held, x.owner = h.owner → x.node = h.node → x = h) → h.node < 2304 → Routed s h.node →
        ∃ t p, exec (.coalesceHoldExpiry h.id) s = .next t ∧ OnlyFabric s t
          ∧ t.fabric.held = s.fabric.held.filter (fun x => x.id != h.id) ∧ t.fabric.txns = s.fabric.txns ++ [p]
          ∧ Begins s p (.weak h.owner h.core h.words) ∧ Carries s p.pk 1 h.job ∧ p.pk.dst.toNat = h.node
          ∧ p.pk.ops = h.ops ∧ Sent s t p.pk)
    ∧ (∀ (c : Cmd) (k : Nat), c ∈ s.cmds → (∀ x ∈ s.cmds, x.id = c.id → x = c) → c.kind ∈ [.tcommit, .tredf, .tcopy, .tfill] →
        c.cur = some k → c.fail = none → c.dst.esize ∈ [1, 2, 4, 8] →
        (∃ x ∈ s.fabric.txns, x.owner = .cmd c.id ∧ x.pk.dstMod = true
          ∧ x.started + 64000 ≤ s.time.toNat + 24000 * x.pk.attempt.toNat) →
        let es := (c.elems c.dst k).filter (·.inb)
        (∀ e ∈ es, 0 ≤ e.addr ∧ e.addr + c.dst.esize ≤ 2 ^ 57 ∧ ∃ l, MapsTo s e.addr.toNat l ∧ l.kind = 3 ∧ l.write = true
          ∧ leafPhys l e.addr.toNat + c.dst.esize ≤ 0x18000000000) →
        (∃ e ∈ es, LinePart es c.dst.esize e.addr) →
        ∃ t e unit index, exec (.mergeHoldLapse c.id) s = .next t ∧ e ∈ es ∧ LinePart es c.dst.esize e.addr ∧ SameBytes s t
          ∧ t.cur = s.cur ∧ (∀ p ∈ t.fabric.txns, p.owner ≠ .cmd c.id)
          ∧ t.cmds = s.cmds.map (fun x => if x.id == c.id then
              { c with cur := none, waiting := 0, chunks := [], fail := some (11, unit, index, e.addr.toNat) } else x))

/-- R362 to R366, R368 to R373, R378 to R380, R382, R385, R432: a peer link is ridden in the plane of the phase; a sound flit with
the expected number is delivered and its ack obeyed, any other is discarded; a replay counts, and after eight without an
advance the link goes down; a lost lane is replaced, narrows the link or takes it down; training, lasers and the lit interval
do what the tables say. -/
def Obligations.LinksReplayRetrainAndReport : Prop :=
  ∀ (s : State) (n : Nat), NodeInPod s → n < 288 →
    let k := s.physical n
    let down : Instr → Link → Prop := fun i k' => ∃ t, exec i s = .next t ∧ OnlyLinks s t ∧ GoesDown s t n k' false
    (∀ d, d < 2304 → d ≠ s.node.toNat → arePeers s.node.toNat d →
      let even := s.time.toNat / 250 % 2 = 0
      let row := s.node.toNat / 48 = d / 48
      let o := if row then (d % 48 + 48 - s.node.toNat % 48) % 48 else (d / 48 + 48 - s.node.toNat / 48) % 48
      let h := o / 16 + if (even ∧ row) ∨ (¬even ∧ ¬row) then 0 else 3
      s.rides (4096 + d) = some (192 + 16 * h + o % 16))
    ∧ (∀ (l : LinkId) (f : BitVec 1024), let r := logicalOf l
        s.rides r = some n → k.state ≠ 0#4 →
        let old := s.logical r
        (flitSound f = false → ∃ t q, exec (.flitReceive l f) s = .next t ∧ LinkBecomes s t n q ∧ q = { k with crcErr := q.crcErr }
          ∧ countUp k.crcErr q.crcErr ∧ FlitDiscarded s t r ∧ t.agenda = s.agenda ∧ OnlyLinks s t)
        ∧ (flitSound f = true → ¬HeaderKnown f → ∃ t, exec (.flitReceive l f) s = .next t
            ∧ FlitDiscarded s t r ∧ (∀ m, t.physical m = s.physical m) ∧ OnlyLinks s t)
        ∧ (flitSound f = true → headerOf f 92 4 = 0 →
            ∃ t, exec (.flitReceive l f) s = .next t ∧ ackedBy (waitClock s r) old (f.extractLsb' 68 12) (t.logical r) ∧ OnlyLinks s t
              ∧ ∀ m, t.physical m = s.physical m)
        ∧ (flitSound f = true → HeaderKnown f → headerOf f 92 4 = 4 → ∀ m : Logical, ackedBy (waitClock s r) old (f.extractLsb' 68 12) m →
            ((∃ u ∈ m.unacked, u.1 = f.extractLsb' 112 12) → m.stalled < 8 →
              ∃ t, exec (.flitReceive l f) s = .next t ∧ ReplayBegins (s.putLogical r m) t r n (f.extractLsb' 112 12) ∧ OnlyLinks s t)
            ∧ ((∀ u ∈ m.unacked, u.1 ≠ f.extractLsb' 112 12) →
              ∃ t, exec (.flitReceive l f) s = .next t ∧ t.logical r = m ∧ (∀ q, t.physical q = s.physical q) ∧ OnlyLinks s t))
        ∧ (flitSound f = true → HeaderKnown f → 1 ≤ headerOf f 92 4 → headerOf f 92 4 ≤ 3 →
            ∀ m : Logical, ackedBy (waitClock s r) old (f.extractLsb' 68 12) m →
            (f.extractLsb' 80 12 ≠ old.expect → ∃ t, exec (.flitReceive l f) s = .next t
              ∧ FlitDiscarded (s.putLogical r m) t r ∧ OnlyLinks s t)
            ∧ (f.extractLsb' 80 12 = old.expect → (∃ x ∈ s.fabric.txns, answersTxn s f x ∧ ∃ a, x.locked = some a ∧ a.toNat ≠ headerOf f 36 2) →
              ∃ t, exec (.flitReceive l f) s = .next t ∧ t.logical r = { m with expect := old.expect + 1#12, nakSent := false }
                ∧ OnlyLinks s t)
            ∧ (f.extractLsb' 80 12 = old.expect → (∀ x ∈ s.fabric.txns, answersTxn s f x → x.locked = none) →
              ∃ t, exec (.flitReceive l f) s = .next t ∧ t.fabric.txns.length = s.fabric.txns.length
                ∧ ∀ (i : Nat) (x y : Txn), s.fabric.txns[i]? = some x → t.fabric.txns[i]? = some y →
                    (answersTxn s f x → y = { x with locked := some (f.extractLsb' 36 2) }) ∧ (¬answersTxn s f x → y = x))
            ∧ (f.extractLsb' 80 12 = old.expect → (∀ x ∈ s.fabric.txns, ¬answersTxn s f x) → headerOf f 6 1 = 0 → ∃ t, exec (.flitReceive l f) s = .next t
                ∧ t.logical r = { m with expect := old.expect + 1#12, nakSent := false, parts := m.parts ++ [f] } ∧ OnlyLinks s t)
            ∧ (f.extractLsb' 80 12 = old.expect → (∀ x ∈ s.fabric.txns, ¬answersTxn s f x) → headerOf f 6 1 = 1 → ∃ t q e, exec (.flitReceive l f) s = .next t
                ∧ t.logical r = { m with expect := old.expect + 1#12, nakSent := false, parts := q }
                ∧ (∀ x, x ∈ q ↔ x ∈ m.parts ∧ ¬samePacket f x) ∧ t.agenda = s.agenda ++ [e]
                ∧ t = { s with link := t.link, agenda := t.agenda } ∧ ∃ pk : Packet, e = deliveryOf s.node pk
                  ∧ pk.op.toNat = headerOf f 0 6 ∧ pk.src.toNat = headerOf f 52 12 ∧ pk.dst.toNat = headerOf f 40 12
                  ∧ pk.tag.toNat = headerOf f 14 22 ∧ pk.attempt.toNat = headerOf f 36 2)))
    ∧ (∀ l : LinkId, let r := logicalOf l
        s.rides r = some n → k.state ≠ 0#4 →
        let due := (s.logical r).since + 2000 ≤ waitClock s r
        (∀ u us, (s.logical r).unacked = u :: us → due → (s.logical r).stalled < 8 →
          ∃ t, exec (.replayTimeout l) s = .next t ∧ ReplayBegins s t r n u.1 ∧ OnlyLinks s t)
        ∧ ((s.logical r).unacked ≠ [] → due → 8 ≤ (s.logical r).stalled → r = n →
            ∃ t, exec (.replayTimeout l) s = .next t ∧ OnlyLinks s t ∧ GoesDown s t n k true)
        ∧ ((s.logical r).unacked = [] ∨ ¬due → ∃ t, exec (.replayTimeout l) s = .next t ∧ t = s))
    ∧ (∀ (p : BitVec 5) (line : Bool), p.toNat ≤ 16 → k.lost.getLsbD p.toNat = false →
        let lost := k.lost ||| (1#17 <<< p.toNat)
        let traffic := k.state = 2#4 ∨ k.state = 3#4 ∨ k.state = 4#4
        let whole := k.lost = 0#17
        let bit : State → Prop := fun t => line = true →
          t.laser (laserAt n p.toNat) = { s.laser (laserAt n p.toNat) with
            linesLost := (s.laser (laserAt n p.toNat)).linesLost ||| (1#16 <<< (n % 16)) }
        (traffic ∨ k.state = 5#4 → 8 ≤ healthyIn lost → p.toNat < 16 ∨ (spareInUse k ∧ ¬whole) →
          ∃ t q, exec (.laneLost n p line) s = .next t ∧ LinkBecomes s t n q ∧ OnlyLinks s t ∧ NoRecord s t ∧ bit t
            ∧ q = { k with lost := lost, changed := true, quiet := false, state := 5#4, toSpare := decide whole,
                           subst := if whole then p else 31#5 })
        ∧ (traffic → 8 ≤ healthyIn lost → p.toNat = 16 → ¬spareInUse k →
            ∃ t, exec (.laneLost n p line) s = .next t ∧ OnlyLinks s t ∧ bit t
              ∧ LinkBecomes s t n { k with lost := lost, changed := true, quiet := false } ∧ LinkRecord s t 3 n)
        ∧ (traffic ∨ k.state = 5#4 → healthyIn lost < 8 → down (.laneLost n p line) { k with lost := lost }))
    ∧ (k.state = 5#4 → (∀ r ∈ s.riders n, (s.logical r).stalled < 8) →
        ∃ t q, exec (.retrainingEnd n) s = .next t ∧ LinkBecomes s t n q ∧ OnlyLinks s t
          ∧ q = { k with state := if k.toSpare = true then 3#4 else 4#4, changed := true, toSpare := false, quiet := false,
                         replays := q.replays }
          ∧ q.replays.toNat = min 4095 (k.replays.toNat + (s.riders n).countP (fun r => (s.logical r).unacked ≠ []))
          ∧ (k.quiet = false → LinkRecord s t (if k.toSpare = true then 0 else 1) n) ∧ (k.quiet = true → NoRecord s t))
    ∧ (k.state = 0#4 → ∃ t, exec (.linkTraining n) s = .next t ∧ OnlyLinks s t ∧ NoRecord s t
        ∧ LinkBecomes s t n { k with state := 1#4, changed := true, began := s.time.toNat }
        ∧ ∀ m, t.laser m = if (List.range 17).any (fun p => m == laserAt n p) && !(s.laser m).lost && !(s.laser m).lit then
              { s.laser m with lit := true, since := s.link.ran }
            else s.laser m)
    ∧ (k.state = 1#4 →
        (∀ dark : BitVec 17, let lost := k.lost ||| dark
          let bad := (List.range 16).filter (fun i => lost.getLsbD i)
          let ends : BitVec 4 → BitVec 5 → Prop := fun st su => ∃ t, exec (.trainingEnd n dark) s = .next t ∧ OnlyLinks s t
            ∧ NoRecord s t ∧ LinkBecomes s t n { k with lost := lost, changed := true, state := st, subst := su }
          (bad = [] → ends 2#4 31#5)
          ∧ (∀ i, bad = [i] → lost.getLsbD 16 = false → ends 3#4 (BitVec.ofNat 5 i))
          ∧ (bad ≠ [] → (bad.length ≠ 1 ∨ lost.getLsbD 16 = true) → 8 ≤ healthyIn lost → ends 4#4 31#5)
          ∧ (bad ≠ [] → healthyIn lost < 8 → down (.trainingEnd n dark) { k with lost := lost }))
        ∧ (k.began + 100000 ≤ s.time.toNat → down (.trainingTimeout n) k)
        ∧ (s.time.toNat < k.began + 100000 → ∃ t, exec (.trainingTimeout n) s = .next t ∧ t = s))
    ∧ (∀ m, m < 306 →
        let l := s.laser m
        let becomes : Instr → Laser → State → Prop := fun i q t => exec i s = .next t ∧ OnlyLinks s t ∧ t.laser m = q
          ∧ ∀ j, j ≠ m → t.laser j = s.laser j
        (l.lost = false → ∃ t q, becomes (.laserLost m) q t ∧ q.lost = true ∧ q.lit = false ∧ q.bias = l.bias
          ∧ q.hours.toNat = (if l.lit = true then min (2 ^ 24 - 1) (l.hours.toNat + (s.link.ran - l.since) / 3600000000000)
              else l.hours.toNat)
          ∧ LinkEvent s t 4 (512 + m) m (fun _ => True)
          ∧ ∀ j, j < 16 → (t.physical (laserPlace m j).2).lost.getLsbD (laserPlace m j).1 = true)
        ∧ (∀ ratio : BitVec 16,
            (ratio.toNat < 0x180 → ∃ t q, becomes (.laserAgeing m ratio) q t ∧ NoRecord s t
              ∧ q = { l with bias := ratio, below := q.below } ∧ (l.aged = false → q.below = true))
            ∧ (0x180 ≤ ratio.toNat → l.below = true → l.aged = false → ∃ t, becomes (.laserAgeing m ratio)
                { l with bias := ratio, aged := true, below := false } t ∧ LinkEvent s t 5 (512 + m) m (fun _ => True))
            ∧ (0x180 ≤ ratio.toNat → l.below = false ∨ l.aged = true →
                ∃ t, becomes (.laserAgeing m ratio) { l with bias := ratio } t ∧ NoRecord s t)))
    ∧ ((∀ p ∈ s.fabric.urgent, p.dstMod = false ∧ p.dst ≠ s.node ∧ s.firstHop p.dst.toNat ≠ none) →
        (∀ w ∈ s.fabric.waiting, 4096 ≤ w.1 ∧ s.peerUp (w.1 - 4096) = true) →
        ∃ t, exec .litIntervalStart s = .next t ∧ t.link.lit = true ∧ t.fabric.urgent = [] ∧ t.fabric.waiting = []
          ∧ t.fabric.outbox = s.fabric.outbox ++ s.fabric.urgent ++ s.fabric.waiting.map (·.2) ∧ OnlyFabric s t)

/-- R338 to R345, R348, R349, R355, R356, R358, R359: SAVE stops the clusters of its job, each class acknowledges, and after the
last the groups leave with every register and byte of their tiles; RESTORE puts them back on free cores; EXPORT writes an
image; IMPORT checks one; DISCARD drops a context; each ends with its result. -/
def Obligations.ContextsAreSavedAndRestored : Prop :=
  ∀ (s : State), NoStoreOut s →
    let job := s.ctx.job
    let parts := s.ctx.parts
    let idle : Prop := s.teams = [] ∧ s.others = [] ∧ s.cur.alive = false ∧ s.cur.matrix.words = []
    (Started s 0#3 →
      ((∀ c, ¬Saves s job parts c) → ∃ t, exec .ctxSave s = .next t
        ∧ t = { s with ctx := { s.ctx with start := false, result := 0#4, kib := 0#24, spanned := 0#16 } })
      ∧ ((∃ c, Saves s job parts c) → s.strudel.work = none → s.strudel.queue = [] → ∃ t m, exec .ctxSave s = .next t
          ∧ t = { s with ctx := { s.ctx with stopping := [job], stopParts := parts, spanned := m, gang := false,
                                             pending := 0x7F#8, sentAt := s.time.toNat, slow := false, result := 1#4 } }
          ∧ (∀ c, Saves s job parts c → c.parts &&& m = c.parts)))
    ∧ (s.classDone 1 = true ↔ ∀ g ∈ s.stoppingGroups, g.matrix.words = [] ∧ g.hend = [] ∧ g.part = none
        ∧ ∀ a ∈ s.fabric.peers, a.owner ≠ g.id.key)
    ∧ (∀ c : BitVec 3, s.ctx.stopping ≠ [] → s.ctx.pending.getLsbD c.toNat = true → s.classDone c.toNat = true →
        s.ctx.pending &&& ~~~(1#8 <<< c.toNat) ≠ 0#8 →
        ∃ t, exec (.classAcknowledge c) s = .next t
          ∧ t = { s with ctx := { s.ctx with pending := s.ctx.pending &&& ~~~(1#8 <<< c.toNat) } })
    ∧ (∀ c : BitVec 3, s.ctx.stopping = [job] → s.ctx.stopParts = parts → s.ctx.gang = false → s.ctx.saved = [] → s.ctx.swaps = [] →
        s.classDone c.toNat = true → c.toNat < 7 → s.ctx.pending = 1#8 <<< c.toNat → (∃ k, Saves s job parts k) →
        let mine : List Group := (s.cur :: s.others).filter (fun g => g.alive && s.clusters.any (fun k =>
          s.clusterJob k == job && k.parts &&& parts != 0#16 && k.grid == g.id.grid && k.clu == g.id.clu))
        mine.length ≤ 16 → (∀ g ∈ mine, g.id.vregs ≤ 256 ∧ g.id.accs ≤ 16) → s.teams.length ≤ 16 →
        (∀ u ∈ s.teams, u.tilePages ≤ 384) → (∀ g ∈ mine, ∀ k ∈ g.regs.ac, k.2.length = 16) → NoPoison s →
        ∃ t x, exec (.classAcknowledge c) s = .next t ∧ t.ctx.saved = [x] ∧ t.ctx.result = 0#4 ∧ t.ctx.start = false
          ∧ t.ctx.stopping = [] ∧ x.job = job ∧ x.time = s.time ∧ x.mode = s.ctx.mode.toNat
          ∧ (∀ k, k ∈ x.clusters ↔ Saves s job parts k) ∧ x.groups = mine
          ∧ (∀ g ∈ t.others, g ∈ s.others ∧ ¬SavedGroup s job parts g)
          ∧ (SavedGroup s job parts s.cur → t.cur.alive = false) ∧ (¬SavedGroup s job parts s.cur → t.cur = s.cur)
          ∧ (∀ k, k ∈ t.clusters ↔ k ∈ s.clusters ∧ ∀ q, Saves s job parts q → ¬(k.grid = q.grid ∧ k.clu = q.clu))
          ∧ (∀ u ∈ s.teams, (∃ q, Saves s job parts q ∧ u.grid = q.grid ∧ u.clu = q.clu) → u ∈ x.teams ∧ u ∉ t.teams
              ∧ ∀ o, o < u.bytes → sget 0#8 x.tile (u.key o) = tileByte s (u.key o))
          ∧ SameBytes s t)
    ∧ (∀ c : BitVec 3, s.ctx.stopping = [job] → s.ctx.stopParts = parts → s.ctx.gang = false → s.ctx.swaps = [] →
        s.classDone c.toNat = true → c.toNat < 7 → s.ctx.pending = 1#8 <<< c.toNat → (∃ k, Saves s job parts k) →
        (∀ d, d < 4 → 128 ≤ s.shadowUsed d) → s.ctx.mib = 0#12 → NoPoison s →
        ∃ t, exec (.classAcknowledge c) s = .next t ∧ t.ctx.result = 4#4 ∧ t.ctx.saved = s.ctx.saved ∧ t.ctx.stopping = []
          ∧ t.ctx.start = false ∧ CtxRecord s t 3 job 0#64 ∧ t.cur = s.cur ∧ t.others = s.others ∧ SameBytes s t)
    ∧ (∀ j js, s.ctx.stopping = j :: js → s.ctx.pending ≠ 0#8 →
        (s.ctx.slow = false → s.ctx.sentAt + 100000 ≤ s.time.toNat → ∃ t, exec .slowAcknowledgement s = .next t
          ∧ CtxRecord s t 4 j (s.ctx.pending.zeroExtend 64) ∧ t = { s with fault := t.fault, ctx := { s.ctx with slow := true } })
        ∧ (s.ctx.slow = true ∨ s.time.toNat < s.ctx.sentAt + 100000 → ∃ t, exec .slowAcknowledgement s = .next t ∧ t = s))
    ∧ ((∀ c ∈ s.ctx.saved, ¬(c.job = job ∧ c.spanned &&& parts ≠ 0#16)) →
        ∀ i op, (i, op) ∈ [(Instr.ctxRestore, 1#3), (Instr.ctxExport, 2#3), (Instr.ctxDiscard, 4#3)] → Started s op →
          ∃ t, exec i s = .next t ∧ OpFails s t 2)
    ∧ (∀ (c : Context) (u : Team) (v a : Nat), s.ctx.saved = [c] → c.job = job → c.spanned &&& parts ≠ 0#16 → SmallContext c u v a →
        idle → s.cmds = [] →
        (Started s 1#3 → u.tilePages ≤ 384 → s.coreExcluded u.core = false → s.ctx.flawed = [] →
          ∃ t, exec .ctxRestore s = .next t ∧ t.ctx.result = 0#4 ∧ t.ctx.start = false ∧ t.ctx.saved = []
            ∧ t.ctx.spanned = c.spanned ∧ t.clusters = s.clusters ++ c.clusters.map (fun k => { k with woken := false })
            ∧ t.teams = [{ u with tileBase := 0, tabBase := 0 }] ∧ t.others.length = c.groups.length ∧ t.cur = s.cur
            ∧ (∀ (k : Nat) (g : Group), c.groups[k]? = some g → ∃ h slot pos, t.others[k]? = some h
                ∧ h = { g with swapped := false, idle := 0, mrdy := s.mem.tileOld.length, id := { g.id with core := u.core, slot := slot, pos := pos } })
            ∧ (∀ o, o < u.bytes → tileByte t (Team.key { u with tileBase := 0, tabBase := 0 } o) = sget 0#8 c.tile (u.key o)))
        ∧ (Started s 1#3 → 384 < u.tilePages → ∃ t, exec .ctxRestore s = .next t ∧ OpFails s t 3)
        ∧ (Started s 2#3 → s.keySlot job = none →
            ∃ t n, exec .ctxExport s = .next t
              ∧ (s.ctxArea.2 < s.imageAt + n ∨ (∃ b ∈ c.overflow, s.imageAt < s.ctxArea.1 + (b + 1) * 2 ^ 20
                    ∧ s.ctxArea.1 + b * 2 ^ 20 < s.imageAt + n) → OpFails s t 4)
              ∧ (s.imageAt + n ≤ s.ctxArea.2 → (∀ b ∈ c.overflow, s.ctxArea.1 + (b + 1) * 2 ^ 20 ≤ s.imageAt
                    ∨ s.imageAt + n ≤ s.ctxArea.1 + b * 2 ^ 20) →
                  t.ctx.result = 0#4 ∧ t.ctx.start = false ∧ t.ctx.saved = [c] ∧ t.ctx.spanned = c.spanned ∧ 64 ≤ n
                    ∧ (c.mode < 3 → n < 2 ^ 64 → c.impl < 2 ^ 16 → imageNum t 0 8 = job.toNat * 2 ^ 48 + c.impl * 2 ^ 32 + 2 ^ 16 + c.spanned.toNat
                        ∧ imageNum t 8 8 = n ∧ imageNum t 0x10 8 % 2 ^ 32 = c.mode ∧ imageNum t 0x18 8 = c.time.toNat)
                    ∧ (∀ o, 0x20 ≤ o → o < 0x40 → pkgByte t (s.imageAt + o) = 0#8)
                    ∧ (∀ b, b < s.imageAt ∨ s.imageAt + n ≤ b → pkgByte t b = pkgByte s b)
                    ∧ t.ctx.kib = BitVec.ofNat 24 ((n + 1023) / 1024) ∧ t.cur = s.cur ∧ t.others = s.others))
        ∧ (Started s 4#3 → s.ctx.restoring = some job → ∃ t, exec .ctxDiscard s = .next t ∧ OpFails s t 9)
        ∧ (Started s 4#3 → s.ctx.restoring ≠ some job → ∃ t, exec .ctxDiscard s = .next t ∧ t.ctx.kib = 0#24 ∧ t.ctx.result = 0#4 ∧ t.ctx.start = false ∧ t.ctx.saved = []
            ∧ t.sched.launches = s.sched.launches.map (fun l =>
                { l with killed := l.killed || c.groups.any (fun g => g.id.grid == l.grid) })
            ∧ t.cur = s.cur ∧ t.others = s.others ∧ SameBytes s t))
    ∧ (Started s 3#3 →
        (¬HeaderFits s → ∃ t, exec .ctxImport s = .next t ∧ OpFails s t 5 ∧ CtxRecord s t 2 job 0#64)
        ∧ (HeaderFits s → imageNum s 5 1 ≠ 9 → ∃ t, exec .ctxImport s = .next t ∧ OpFails s t 7 ∧ CtxRecord s t 1 job 0#64)
        ∧ (∀ c, s.checkImage = .ok c → s.restoreContext c = none → ∃ t, exec .ctxImport s = .next t ∧ OpFails s t 3)
        ∧ (∀ c, s.checkImage = .ok c → s.restoreContext c ≠ none → s.ctx.saved = [] → s.ctx.swaps = [] → c.size 0 ≤ 2 ^ 27 → c.spanned ≠ 0#16 →
            ∃ t x, exec .ctxImport s = .next t ∧ t.ctx.result = 0#4 ∧ t.ctx.start = false ∧ t.ctx.saved = [x]
              ∧ x = { c with shadow := x.shadow, overflow := [] } ∧ x.shadow.sum = (c.size 0 + 2 ^ 20 - 1) / 2 ^ 20
              ∧ t.ctx.spanned = c.spanned ∧ t.cur = s.cur ∧ t.others = s.others ∧ SameBytes s t))

/-- Decoding and encoding agree for every instruction word (R25, R33, R34): the word that a well-formed instruction is
encoded as decodes to that instruction, with every operand at every value its field admits. Events have no word. -/
def Obligations.EveryWordDecodesToItsInstruction : Prop :=
  ∀ i : Instr, Sys2Proof.Laws.RoundTrip.Statement i

/-- Words written out from the encodings of the manual decode to the instructions they stand for, for every major opcode
group: hints, control, scalar, predicate, vector, memory, tile, matrix, engine and system words (R33, R34). -/
def Obligations.WordsOfTheManualDecode : Prop :=
  decode 0x503041BF#32 = .ok (.vrotw 3#7 2#7 5#3 31#5)
    ∧ decode 0x381040D9#32 = .ok (.vicmp 1#3 2#7 3#7 1#3)
    ∧ decode 0x58102081#32 = .ok (.por 1#3 1#3 2#3)
    ∧ decode 0x58502006#32 = .ok (.ppop 5#6 1#3)
    ∧ decode 0x50400901#32 = .ok (.vcomp 4#7 0#7 1#3)
    ∧ decode 0x28402082#32 = .ok (.vmul 4#7 1#7 2#7)
    ∧ decode 0x40430000#32 = .ok (.vmaxImm 4#7 0#16)
    ∧ decode 0xFC000020#32 = .ok (.himm 0x20#25)
    ∧ decode 0x184D0000#32 = .ok (.sli 2#6 0#16)
    ∧ decode 0x18280000#32 = .ok (.scmpi 1#2 1#3 0#16)
    ∧ decode 0x603080A8#32 = .ok (.ld 3#7 2#6 1#7 2#3 8#4)
    ∧ decode 0x682080A8#32 = .ok (.st 2#7 2#6 1#7 2#3 8#4)
    ∧ decode 0x70504263#32 = .ok (.atomAdd 5#7 1#6 4#7 6#3)
    ∧ decode 0x013FFFFB#32 = .ok (.bk 1#2 0x3FFFFB#22)
    ∧ decode 0x07800000#32 = .ok .exit
    ∧ decode 0x00080002#32 = .ok (.waitf 2#12)
    ∧ decode 0x80041400#32 = .ok (.mma 4#6 5#6 0#1)
    ∧ decode 0x81072400#32 = .ok (.mrd 7#6 9#6 0#6 0#2)
    ∧ decode 0x88460000#32 = .ok (.mfen 6#6 0#4)
    ∧ decode 0xA0010840#32 = .ok (.rshard 1#6 2#6 4#6)
    ∧ decode 0xA8441800#32 = .ok (.fflag 4#6 6#6 0#1)

/-- Package reset leaves the control registers at the reset column of their tables (R7, R166, R174, R293, R296, R308, R320,
R340, R379, R390, R402, R407, R409, R423, R424), no group, team, cluster, engine command or record present, every installed
multicast entry invalid (R390) and the start of the firmware waited for (R407). Registers whose reset value the manual leaves
open, fuses and values kept in non-volatile storage are not spoken of. -/
def Obligations.ResetLeavesTheTablesValues : Prop :=
  (∀ core job, State.reset.csrRead (some core) job 0x120 = some 0#64)
    ∧ (∀ own job, ∀ num ∈ [0x121, 0x130, 0x131, 0x132, 0x140, 0x142, 0x143, 0x144, 0x150, 0x151, 0x152, 0x153, 0x154, 0x161,
          0x162, 0x163, 0x164, 0x165, 0x166, 0x170, 0x171, 0x172, 0x173, 0x174, 0x175, 0x177],
        State.reset.csrRead own job num = some 0#64)
    ∧ (∀ own job, State.reset.csrRead own job 0x141 = some 0x600#64)
    ∧ (∀ own job, ∃ x : BitVec 64, State.reset.csrRead own job 0x176 = some x ∧ x &&& ~~~0xF0#64 = 0#64)
    ∧ (∀ own job, ∀ d < 4, ∃ x : BitVec 64, State.reset.csrRead own job (0x180 + d) = some x
        ∧ x &&& ~~~(0xFF#64 <<< 40) = 0x8800000000#64)
    ∧ (∀ own job, ∀ q < 64, State.reset.csrRead own job (0x800 + 4 * q) = some 0#64
        ∧ State.reset.csrRead own job (0x801 + 4 * q) = some 0x400000002#64
        ∧ State.reset.csrRead own job (0x802 + 4 * q) = some 0#64
        ∧ State.reset.csrRead own job (0x803 + 4 * q) = some 0#64)
    ∧ (∀ own job, ∀ n < 4096, State.reset.csrRead own job (0x1000 + n) = some 0#64)
    ∧ (∀ own job, ∀ n < 306, ∃ x : BitVec 64, State.reset.csrRead own job (0x2000 + n) = some x
        ∧ x &&& 0xFFFFF7#64 = 0#64)
    ∧ (∀ own job, ∀ n < 288, State.reset.csrRead own job (0x2200 + n) = some 0x1F0000#64)
    ∧ (∀ own job n, coreExists n = true → n < 1024 → State.reset.csrRead own job (0x3000 + n) = some 0#64)
    ∧ (∀ g ∈ State.reset.groups, g.alive = false)
    ∧ State.reset.teams = [] ∧ State.reset.clusters = [] ∧ State.reset.cmds = [] ∧ State.reset.fault.records = []
    ∧ (∀ g, State.reset.fabric.mcast.find? (fun x => x.1 == g) = none)
    ∧ State.reset.sec.stage = 0#3

/-- What every step keeps holds right after reset: the memories are in their canonical form, and the node number is one that a
pod has (R23). That the unlisted bytes of a memory read 0, and the node number of the reset state, are the model's choices
(logs 1, 2 and 4). -/
def Obligations.ResetStateIsCanonical : Prop :=
  Canonical State.reset ∧ NodeInPod State.reset

/-- Every step goes on, and keeps the form of the machine: from every state whose memories are in their canonical form, the
next step answers a next state, with its memories in their canonical form, so that equal contents are equal data, and with the
node number of the package unchanged (NODE is fixed by its place in the pod, R23). No instruction and no event ends the
machine. -/
def Obligations.EveryStepGoesOnAndKeepsTheForm : Prop :=
  ∀ s : State, Canonical s → NodeInPod s →
    ∃ t, step s = .next t ∧ Canonical t ∧ NodeInPod t ∧ t.node = s.node

/-- A step runs the decoded instruction. First: a fragment that has no hint latched, no run open, no execute watch set and no
split entry off the chip, at a PC whose page is executable package memory that holds no poison and no older line, issues the
instruction that the four bytes at its PC, read little-endian, decode to (R25, R33, R48): its meaning runs on a state that
differs from the present one in cached leaves and lines and in the number of free values drawn, and in nothing else. A word
that decodes to no instruction takes the illegal-opcode trap of class 0 (R25, R44). In a run the word of the run is issued
(R80). Then, what a step does: it keeps which swapped-out clusters have woken (R307); it goes on with a unit that has begun (R48, R88); else it runs the oldest event of the agenda;
else one of the things that may happen next: a unit of the ready fragment that R303 chooses in its slot (the largest starve count
of 64 or more; otherwise the highest priority, the first resident, the largest starve count, the lowest lane), a report, or an
event that a unit of the package offers; with none, a clock passes. An event runs as its constructor of Instr. -/
def Obligations.StepRunsTheDecodedInstruction : Prop :=
  (∀ (s : State) (l : Leaf), AtPlainWord s → s.cur.watch = [] → s.cur.frag.back = [] → s.needsRefill = false →
      MapsTo s s.cur.frag.pc.toNat l → l.kind = 1 → l.exec = true →
      pkgPoisoned s.mem (leafPhys l s.cur.frag.pc.toNat) 4 = false →
      (∀ x, sget none s.mem.icache (icKey s.cur.id.core (leafPhys l s.cur.frag.pc.toNat / 128)) = some x →
        x = homeLine s.mem (leafPhys l s.cur.frag.pc.toNat / 128)) →
      (∀ x, sget none s.mem.older (leafPhys l s.cur.frag.pc.toNat / 128) = some x →
        x = homeLine s.mem (leafPhys l s.cur.frag.pc.toNat / 128)) →
      leafPhys l s.cur.frag.pc.toNat % 128 ≤ 124 →
      ∀ w : Word, w.toNat = (pkgByte s (leafPhys l s.cur.frag.pc.toNat)).toNat
          + 2 ^ 8 * (pkgByte s (leafPhys l s.cur.frag.pc.toNat + 1)).toNat
          + 2 ^ 16 * (pkgByte s (leafPhys l s.cur.frag.pc.toNat + 2)).toNat
          + 2 ^ 24 * (pkgByte s (leafPhys l s.cur.frag.pc.toNat + 3)).toNat →
        ∃ u : State, u = { s with fresh := u.fresh, mem := { s.mem with tlb := u.mem.tlb, icache := u.mem.icache } }
          ∧ (∀ i, decode w = .ok i → s.issue = exec i u)
          ∧ (∀ e, decode w = .error e → ∃ t, s.issue = .next t ∧ Trapped u t (illegalDetail e) 0#32 ∧ TrapOnly u t))
    ∧ (∀ (s : State) r i, s.needsRefill = false → s.cur.watch = [] → s.cur.frag.back = [] → s.cur.run = some r →
        r.words[r.index s.cur.frag.pc - 1]? = some i → s.issue = exec i s)
    ∧ (∀ s : State, s.noteWakes = { s with clusters := s.clusters.map (fun c => if s.wakes c then { c with woken := true } else c) })
    ∧ (∀ s : State, let w := s.noteWakes
        (w.inUnit = true → step s = w.issue)
        ∧ (∀ e rest, w.inUnit = false → w.agenda = e :: rest → step s = runEvent e { w with agenda := rest })
        ∧ (∀ r, w.inUnit = false → w.agenda = [] → w.choices = [.unit r] → step s = (w.took r).issue)
        ∧ (w.inUnit = false → w.agenda = [] → w.choices ≠ [] →
            ∃ c ∈ w.choices, ∃ u : State, u = { w with fresh := u.fresh } ∧ step s = u.happen c)
        ∧ (w.inUnit = false → w.agenda = [] → w.choices = [] → step s = .next w.idleStep))
    ∧ (∀ (s : State) r x, Choice.unit r ∈ s.choices → x ∈ s.ready → x.core = r.core → x.slot = r.slot →
        x.yields s.ready = false → r.inRun = false → x.inRun = false →
        r ∈ s.ready
          ∧ (64 ≤ x.starve → x.starve ≤ r.starve)
          ∧ (64 ≤ r.starve → x.starve = r.starve → r.order ≤ x.order ∧ (x.order = r.order → r.lane ≤ x.lane))
          ∧ (r.starve < 64 → x.starve < 64 → x.priority ≤ r.priority
              ∧ (x.priority = r.priority → r.order ≤ x.order
                ∧ (x.order = r.order → x.starve ≤ r.starve ∧ (x.starve = r.starve → r.lane ≤ x.lane)))))
    ∧ (∀ e : Event, ∃ i : Instr, ∀ s : State, runEvent e s = exec i s)
end

