-- ==== Sys2Proof/Laws/SMap.lean ====
section
/-! SUPPORT. Laws of sparse maps: what a read gives after a write, and that every operation keeps the canonical form. -/

namespace Sys2Proof.Machine

variable {α : Type}

/-! ## Reads -/

@[simp] theorem sget_nil (d : α) (k : Nat) : sget d [] k = d := rfl

theorem sget_cons (d : α) (j : Nat) (x : α) (m : SMap α) (k : Nat) :
    sget d ((j, x) :: m) k = if j = k then x else sget d m k := rfl

@[simp] theorem sget_sdel_same (d : α) (m : SMap α) (k : Nat) : sget d (sdel m k) k = d := by
  induction m with
  | nil => rfl
  | cons e m ih => obtain ⟨j, x⟩ := e; simp only [sdel]; split <;> simp_all [sget]

theorem sget_sdel_ne (d : α) (m : SMap α) {k j : Nat} (h : j ≠ k) : sget d (sdel m k) j = sget d m j := by
  induction m with
  | nil => rfl
  | cons e m ih =>
    obtain ⟨i, x⟩ := e
    simp only [sdel]
    split
    · simp_all [sget, Ne.symm h]
    · simp only [sget]; split <;> simp_all

theorem sget_sins_same (d : α) (m : SMap α) (k : Nat) (x : α) (h : ∀ y, (k, y) ∉ m) :
    sget d (sins k x m) k = x := by
  induction m with
  | nil => simp [sins, sget]
  | cons e m ih =>
    obtain ⟨j, y⟩ := e
    have hj : j ≠ k := fun e => h y (e ▸ .head _)
    simp only [sins]
    split
    · simp [sget]
    · simpa [sget, hj] using ih (fun z hz => h z (.tail _ hz))

theorem sget_sins_ne (d : α) (m : SMap α) {k j : Nat} (x : α) (h : j ≠ k) : sget d (sins k x m) j = sget d m j := by
  induction m with
  | nil => simp [sins, sget, Ne.symm h]
  | cons e m ih =>
    obtain ⟨i, y⟩ := e
    simp only [sins]
    split
    · simp [sget, Ne.symm h]
    · simp only [sget, ih]

theorem not_mem_sdel (m : SMap α) (k : Nat) (y : α) : (k, y) ∉ sdel m k := by
  induction m with
  | nil => simp [sdel]
  | cons e m ih => obtain ⟨j, x⟩ := e; simp only [sdel]; split <;> simp_all [eq_comm]

variable [DecidableEq α]

/-- A read of the key just written. -/
@[simp] theorem sget_sput_same (d : α) (m : SMap α) (k : Nat) (x : α) : sget d (sput d m k x) k = x := by
  unfold sput
  split
  · simp_all
  · exact sget_sins_same _ _ _ _ (not_mem_sdel _ _)

/-- A read of another key. -/
theorem sget_sput_ne (d : α) (m : SMap α) {k j : Nat} (x : α) (h : j ≠ k) : sget d (sput d m k x) j = sget d m j := by
  unfold sput
  split
  · exact sget_sdel_ne _ _ h
  · rw [sget_sins_ne _ _ _ h, sget_sdel_ne _ _ h]

theorem sget_sput (d : α) (m : SMap α) (k j : Nat) (x : α) :
    sget d (sput d m k x) j = if j = k then x else sget d m j := by
  split
  · simp_all
  · exact sget_sput_ne _ _ _ ‹_›

/-! ## The canonical form -/

theorem swfFrom_mono (d : α) (m : SMap α) {lo lo' : Nat} (h : lo' ≤ lo) (w : swfFrom d lo m = true) :
    swfFrom d lo' m = true := by
  cases m with
  | nil => rfl
  | cons e m =>
    simp only [swfFrom, Bool.and_eq_true, decide_eq_true_eq] at *
    exact ⟨⟨by omega, w.1.2⟩, w.2⟩

theorem swfFrom_sdel (d : α) (m : SMap α) (k lo : Nat) (w : swfFrom d lo m = true) :
    swfFrom d lo (sdel m k) = true := by
  induction m generalizing lo with
  | nil => rfl
  | cons e m ih =>
    simp only [swfFrom, Bool.and_eq_true, decide_eq_true_eq] at w
    simp only [sdel]
    split
    · exact swfFrom_mono _ _ (by omega) (ih _ w.2)
    · simp only [swfFrom, Bool.and_eq_true, decide_eq_true_eq]
      exact ⟨w.1, ih _ w.2⟩

theorem swfFrom_sins (d : α) (m : SMap α) (k lo : Nat) (x : α) (hx : x ≠ d) (hk : ∀ y, (k, y) ∉ m) (hl : lo ≤ k)
    (w : swfFrom d lo m = true) : swfFrom d lo (sins k x m) = true := by
  induction m generalizing lo with
  | nil => simp [sins, swfFrom, hx, hl]
  | cons e m ih =>
    obtain ⟨j, y⟩ := e
    simp only [swfFrom, Bool.and_eq_true, decide_eq_true_eq] at w
    have hj : j ≠ k := fun h => hk y (h ▸ .head _)
    simp only [sins]
    split
    · simp only [swfFrom, Bool.and_eq_true, decide_eq_true_eq]
      exact ⟨⟨hl, hx⟩, ⟨by omega, w.1.2⟩, w.2⟩
    · simp only [swfFrom, Bool.and_eq_true, decide_eq_true_eq]
      exact ⟨w.1, ih _ (fun z hz => hk z (.tail _ hz)) (by omega) w.2⟩

/-- A write keeps the canonical form. -/
theorem swf_sput (d : α) (m : SMap α) (k : Nat) (x : α) (w : swf d m = true) : swf d (sput d m k x) = true := by
  unfold sput swf at *
  split
  · exact swfFrom_sdel _ _ _ _ w
  · exact swfFrom_sins _ _ _ _ _ ‹_› (not_mem_sdel _ _) (Nat.zero_le _) (swfFrom_sdel _ _ _ _ w)

/-- Unlisting a key keeps the canonical form. -/
theorem swf_sdel (d : α) (m : SMap α) (k : Nat) (w : swf d m = true) : swf d (sdel m k) = true :=
  swfFrom_sdel _ _ _ _ w

/-- Two maps in canonical form that read alike are equal data. -/
theorem swfFrom_ext (d : α) : ∀ (m n : SMap α) (lo : Nat), swfFrom d lo m = true → swfFrom d lo n = true →
    (∀ k, sget d m k = sget d n k) → m = n := by
  have low : ∀ (m : SMap α) (lo k : Nat), swfFrom d lo m = true → k < lo → sget d m k = d := by
    intro m
    induction m with
    | nil => intros; rfl
    | cons e m ih =>
      intro lo k w hk
      simp only [swfFrom, Bool.and_eq_true, decide_eq_true_eq] at w
      rw [sget_cons, if_neg (by omega)]
      exact ih _ _ w.2 (by omega)
  intro m
  induction m with
  | nil =>
    intro n lo _ wn h
    cases n with
    | nil => rfl
    | cons e n =>
      simp only [swfFrom, Bool.and_eq_true, decide_eq_true_eq] at wn
      exact absurd (by simpa [sget] using (h e.1).symm) wn.1.2
  | cons e m ih =>
    obtain ⟨j, x⟩ := e
    intro n lo wm wn h
    simp only [swfFrom, Bool.and_eq_true, decide_eq_true_eq] at wm
    cases n with
    | nil => exact absurd (by simpa [sget] using h j) wm.1.2
    | cons f n =>
      obtain ⟨i, y⟩ := f
      simp only [swfFrom, Bool.and_eq_true, decide_eq_true_eq] at wn
      have hji : j = i := by
        rcases Nat.lt_trichotomy j i with hlt | heq | hgt
        · have := h j
          rw [sget_cons, sget_cons, if_pos rfl, if_neg (by omega), low _ _ _ wn.2 (by omega)] at this
          exact absurd this wm.1.2
        · exact heq
        · have := h i
          rw [sget_cons, sget_cons, if_pos rfl, if_neg (by omega), low _ _ _ wm.2 (by omega)] at this
          exact absurd this.symm wn.1.2
      subst hji
      have hxy : x = y := by simpa [sget] using h j
      subst hxy
      have : m = n := ih n (j + 1) wm.2 wn.2 (fun k => by
        by_cases hk : k = j
        · subst hk; rw [low _ _ _ wm.2 (by omega), low _ _ _ wn.2 (by omega)]
        · have := h k
          rwa [sget_cons, sget_cons, if_neg (Ne.symm hk), if_neg (Ne.symm hk)] at this)
      rw [this]

end Sys2Proof.Machine
end

