-- ==== Sys2Proof/Laws/State.lean ====
section
/-! SUPPORT. One lemma for each field of the state after each of the small updates that the meanings share, so that no
proof unfolds a record update. -/

namespace Sys2Proof.Machine


/-! ## State.setRegs -/

@[simp] theorem State.setRegs_others (s : State) (r : Regs) : (s.setRegs r).others = s.others := rfl
@[simp] theorem State.setRegs_teams (s : State) (r : Regs) : (s.setRegs r).teams = s.teams := rfl
@[simp] theorem State.setRegs_clusters (s : State) (r : Regs) : (s.setRegs r).clusters = s.clusters := rfl
@[simp] theorem State.setRegs_cmds (s : State) (r : Regs) : (s.setRegs r).cmds = s.cmds := rfl
@[simp] theorem State.setRegs_sched (s : State) (r : Regs) : (s.setRegs r).sched = s.sched := rfl
@[simp] theorem State.setRegs_fault (s : State) (r : Regs) : (s.setRegs r).fault = s.fault := rfl
@[simp] theorem State.setRegs_mem (s : State) (r : Regs) : (s.setRegs r).mem = s.mem := rfl
@[simp] theorem State.setRegs_fabric (s : State) (r : Regs) : (s.setRegs r).fabric = s.fabric := rfl
@[simp] theorem State.setRegs_link (s : State) (r : Regs) : (s.setRegs r).link = s.link := rfl
@[simp] theorem State.setRegs_strudel (s : State) (r : Regs) : (s.setRegs r).strudel = s.strudel := rfl
@[simp] theorem State.setRegs_ctx (s : State) (r : Regs) : (s.setRegs r).ctx = s.ctx := rfl
@[simp] theorem State.setRegs_sec (s : State) (r : Regs) : (s.setRegs r).sec = s.sec := rfl
@[simp] theorem State.setRegs_power (s : State) (r : Regs) : (s.setRegs r).power = s.power := rfl
@[simp] theorem State.setRegs_mgmt (s : State) (r : Regs) : (s.setRegs r).mgmt = s.mgmt := rfl
@[simp] theorem State.setRegs_node (s : State) (r : Regs) : (s.setRegs r).node = s.node := rfl
@[simp] theorem State.setRegs_msi (s : State) (r : Regs) : (s.setRegs r).msi = s.msi := rfl
@[simp] theorem State.setRegs_hostRead (s : State) (r : Regs) : (s.setRegs r).hostRead = s.hostRead := rfl
@[simp] theorem State.setRegs_time (s : State) (r : Regs) : (s.setRegs r).time = s.time := rfl
@[simp] theorem State.setRegs_agenda (s : State) (r : Regs) : (s.setRegs r).agenda = s.agenda := rfl
@[simp] theorem State.setRegs_fresh (s : State) (r : Regs) : (s.setRegs r).fresh = s.fresh := rfl
@[simp] theorem State.setRegs_nextId (s : State) (r : Regs) : (s.setRegs r).nextId = s.nextId := rfl
@[simp] theorem State.setRegs_cur_alive (s : State) (r : Regs) : (s.setRegs r).cur.alive = s.cur.alive := rfl
@[simp] theorem State.setRegs_cur_swapped (s : State) (r : Regs) : (s.setRegs r).cur.swapped = s.cur.swapped := rfl
@[simp] theorem State.setRegs_cur_id (s : State) (r : Regs) : (s.setRegs r).cur.id = s.cur.id := rfl
@[simp] theorem State.setRegs_regs (s : State) (r : Regs) : (s.setRegs r).cur.regs = r := rfl
@[simp] theorem State.setRegs_cur_frag (s : State) (r : Regs) : (s.setRegs r).cur.frag = s.cur.frag := rfl
@[simp] theorem State.setRegs_cur_sibs (s : State) (r : Regs) : (s.setRegs r).cur.sibs = s.cur.sibs := rfl
@[simp] theorem State.setRegs_cur_entries (s : State) (r : Regs) : (s.setRegs r).cur.entries = s.cur.entries := rfl
@[simp] theorem State.setRegs_cur_run (s : State) (r : Regs) : (s.setRegs r).cur.run = s.cur.run := rfl
@[simp] theorem State.setRegs_cur_hend (s : State) (r : Regs) : (s.setRegs r).cur.hend = s.cur.hend := rfl
@[simp] theorem State.setRegs_cur_watch (s : State) (r : Regs) : (s.setRegs r).cur.watch = s.cur.watch := rfl
@[simp] theorem State.setRegs_cur_stop (s : State) (r : Regs) : (s.setRegs r).cur.stop = s.cur.stop := rfl
@[simp] theorem State.setRegs_cur_cmdFaults (s : State) (r : Regs) : (s.setRegs r).cur.cmdFaults = s.cur.cmdFaults := rfl
@[simp] theorem State.setRegs_cur_due (s : State) (r : Regs) : (s.setRegs r).cur.due = s.cur.due := rfl
@[simp] theorem State.setRegs_cur_facq (s : State) (r : Regs) : (s.setRegs r).cur.facq = s.cur.facq := rfl
@[simp] theorem State.setRegs_cur_yield (s : State) (r : Regs) : (s.setRegs r).cur.yield = s.cur.yield := rfl
@[simp] theorem State.setRegs_cur_idle (s : State) (r : Regs) : (s.setRegs r).cur.idle = s.cur.idle := rfl
@[simp] theorem State.setRegs_cur_matrix (s : State) (r : Regs) : (s.setRegs r).cur.matrix = s.cur.matrix := rfl

/-! ## State.setFrag -/

@[simp] theorem State.setFrag_others (s : State) (f : Frag) : (s.setFrag f).others = s.others := rfl
@[simp] theorem State.setFrag_teams (s : State) (f : Frag) : (s.setFrag f).teams = s.teams := rfl
@[simp] theorem State.setFrag_clusters (s : State) (f : Frag) : (s.setFrag f).clusters = s.clusters := rfl
@[simp] theorem State.setFrag_cmds (s : State) (f : Frag) : (s.setFrag f).cmds = s.cmds := rfl
@[simp] theorem State.setFrag_sched (s : State) (f : Frag) : (s.setFrag f).sched = s.sched := rfl
@[simp] theorem State.setFrag_fault (s : State) (f : Frag) : (s.setFrag f).fault = s.fault := rfl
@[simp] theorem State.setFrag_mem (s : State) (f : Frag) : (s.setFrag f).mem = s.mem := rfl
@[simp] theorem State.setFrag_fabric (s : State) (f : Frag) : (s.setFrag f).fabric = s.fabric := rfl
@[simp] theorem State.setFrag_link (s : State) (f : Frag) : (s.setFrag f).link = s.link := rfl
@[simp] theorem State.setFrag_strudel (s : State) (f : Frag) : (s.setFrag f).strudel = s.strudel := rfl
@[simp] theorem State.setFrag_ctx (s : State) (f : Frag) : (s.setFrag f).ctx = s.ctx := rfl
@[simp] theorem State.setFrag_sec (s : State) (f : Frag) : (s.setFrag f).sec = s.sec := rfl
@[simp] theorem State.setFrag_power (s : State) (f : Frag) : (s.setFrag f).power = s.power := rfl
@[simp] theorem State.setFrag_mgmt (s : State) (f : Frag) : (s.setFrag f).mgmt = s.mgmt := rfl
@[simp] theorem State.setFrag_node (s : State) (f : Frag) : (s.setFrag f).node = s.node := rfl
@[simp] theorem State.setFrag_msi (s : State) (f : Frag) : (s.setFrag f).msi = s.msi := rfl
@[simp] theorem State.setFrag_hostRead (s : State) (f : Frag) : (s.setFrag f).hostRead = s.hostRead := rfl
@[simp] theorem State.setFrag_time (s : State) (f : Frag) : (s.setFrag f).time = s.time := rfl
@[simp] theorem State.setFrag_agenda (s : State) (f : Frag) : (s.setFrag f).agenda = s.agenda := rfl
@[simp] theorem State.setFrag_fresh (s : State) (f : Frag) : (s.setFrag f).fresh = s.fresh := rfl
@[simp] theorem State.setFrag_nextId (s : State) (f : Frag) : (s.setFrag f).nextId = s.nextId := rfl
@[simp] theorem State.setFrag_cur_alive (s : State) (f : Frag) : (s.setFrag f).cur.alive = s.cur.alive := rfl
@[simp] theorem State.setFrag_cur_swapped (s : State) (f : Frag) : (s.setFrag f).cur.swapped = s.cur.swapped := rfl
@[simp] theorem State.setFrag_cur_id (s : State) (f : Frag) : (s.setFrag f).cur.id = s.cur.id := rfl
@[simp] theorem State.setFrag_cur_regs (s : State) (f : Frag) : (s.setFrag f).cur.regs = s.cur.regs := rfl
@[simp] theorem State.setFrag_frag (s : State) (f : Frag) : (s.setFrag f).cur.frag = f := rfl
@[simp] theorem State.setFrag_cur_sibs (s : State) (f : Frag) : (s.setFrag f).cur.sibs = s.cur.sibs := rfl
@[simp] theorem State.setFrag_cur_entries (s : State) (f : Frag) : (s.setFrag f).cur.entries = s.cur.entries := rfl
@[simp] theorem State.setFrag_cur_run (s : State) (f : Frag) : (s.setFrag f).cur.run = s.cur.run := rfl
@[simp] theorem State.setFrag_cur_hend (s : State) (f : Frag) : (s.setFrag f).cur.hend = s.cur.hend := rfl
@[simp] theorem State.setFrag_cur_watch (s : State) (f : Frag) : (s.setFrag f).cur.watch = s.cur.watch := rfl
@[simp] theorem State.setFrag_cur_stop (s : State) (f : Frag) : (s.setFrag f).cur.stop = s.cur.stop := rfl
@[simp] theorem State.setFrag_cur_cmdFaults (s : State) (f : Frag) : (s.setFrag f).cur.cmdFaults = s.cur.cmdFaults := rfl
@[simp] theorem State.setFrag_cur_due (s : State) (f : Frag) : (s.setFrag f).cur.due = s.cur.due := rfl
@[simp] theorem State.setFrag_cur_facq (s : State) (f : Frag) : (s.setFrag f).cur.facq = s.cur.facq := rfl
@[simp] theorem State.setFrag_cur_yield (s : State) (f : Frag) : (s.setFrag f).cur.yield = s.cur.yield := rfl
@[simp] theorem State.setFrag_cur_idle (s : State) (f : Frag) : (s.setFrag f).cur.idle = s.cur.idle := rfl
@[simp] theorem State.setFrag_cur_matrix (s : State) (f : Frag) : (s.setFrag f).cur.matrix = s.cur.matrix := rfl

/-! ## State.drawn -/

@[simp] theorem State.drawn_others (s : State) : (s.drawn).others = s.others := rfl
@[simp] theorem State.drawn_teams (s : State) : (s.drawn).teams = s.teams := rfl
@[simp] theorem State.drawn_clusters (s : State) : (s.drawn).clusters = s.clusters := rfl
@[simp] theorem State.drawn_cmds (s : State) : (s.drawn).cmds = s.cmds := rfl
@[simp] theorem State.drawn_sched (s : State) : (s.drawn).sched = s.sched := rfl
@[simp] theorem State.drawn_fault (s : State) : (s.drawn).fault = s.fault := rfl
@[simp] theorem State.drawn_mem (s : State) : (s.drawn).mem = s.mem := rfl
@[simp] theorem State.drawn_fabric (s : State) : (s.drawn).fabric = s.fabric := rfl
@[simp] theorem State.drawn_link (s : State) : (s.drawn).link = s.link := rfl
@[simp] theorem State.drawn_strudel (s : State) : (s.drawn).strudel = s.strudel := rfl
@[simp] theorem State.drawn_ctx (s : State) : (s.drawn).ctx = s.ctx := rfl
@[simp] theorem State.drawn_sec (s : State) : (s.drawn).sec = s.sec := rfl
@[simp] theorem State.drawn_power (s : State) : (s.drawn).power = s.power := rfl
@[simp] theorem State.drawn_mgmt (s : State) : (s.drawn).mgmt = s.mgmt := rfl
@[simp] theorem State.drawn_node (s : State) : (s.drawn).node = s.node := rfl
@[simp] theorem State.drawn_msi (s : State) : (s.drawn).msi = s.msi := rfl
@[simp] theorem State.drawn_hostRead (s : State) : (s.drawn).hostRead = s.hostRead := rfl
@[simp] theorem State.drawn_time (s : State) : (s.drawn).time = s.time := rfl
@[simp] theorem State.drawn_agenda (s : State) : (s.drawn).agenda = s.agenda := rfl
@[simp] theorem State.drawn_fresh (s : State) : (s.drawn).fresh = s.fresh + 1 := rfl
@[simp] theorem State.drawn_nextId (s : State) : (s.drawn).nextId = s.nextId := rfl
@[simp] theorem State.drawn_cur (s : State) : (s.drawn).cur = s.cur := rfl

/-! ## State.drew -/

@[simp] theorem State.drew_others (s : State) (n : Nat) : (s.drew n).others = s.others := rfl
@[simp] theorem State.drew_teams (s : State) (n : Nat) : (s.drew n).teams = s.teams := rfl
@[simp] theorem State.drew_clusters (s : State) (n : Nat) : (s.drew n).clusters = s.clusters := rfl
@[simp] theorem State.drew_cmds (s : State) (n : Nat) : (s.drew n).cmds = s.cmds := rfl
@[simp] theorem State.drew_sched (s : State) (n : Nat) : (s.drew n).sched = s.sched := rfl
@[simp] theorem State.drew_fault (s : State) (n : Nat) : (s.drew n).fault = s.fault := rfl
@[simp] theorem State.drew_mem (s : State) (n : Nat) : (s.drew n).mem = s.mem := rfl
@[simp] theorem State.drew_fabric (s : State) (n : Nat) : (s.drew n).fabric = s.fabric := rfl
@[simp] theorem State.drew_link (s : State) (n : Nat) : (s.drew n).link = s.link := rfl
@[simp] theorem State.drew_strudel (s : State) (n : Nat) : (s.drew n).strudel = s.strudel := rfl
@[simp] theorem State.drew_ctx (s : State) (n : Nat) : (s.drew n).ctx = s.ctx := rfl
@[simp] theorem State.drew_sec (s : State) (n : Nat) : (s.drew n).sec = s.sec := rfl
@[simp] theorem State.drew_power (s : State) (n : Nat) : (s.drew n).power = s.power := rfl
@[simp] theorem State.drew_mgmt (s : State) (n : Nat) : (s.drew n).mgmt = s.mgmt := rfl
@[simp] theorem State.drew_node (s : State) (n : Nat) : (s.drew n).node = s.node := rfl
@[simp] theorem State.drew_msi (s : State) (n : Nat) : (s.drew n).msi = s.msi := rfl
@[simp] theorem State.drew_hostRead (s : State) (n : Nat) : (s.drew n).hostRead = s.hostRead := rfl
@[simp] theorem State.drew_time (s : State) (n : Nat) : (s.drew n).time = s.time := rfl
@[simp] theorem State.drew_agenda (s : State) (n : Nat) : (s.drew n).agenda = s.agenda := rfl
@[simp] theorem State.drew_fresh (s : State) (n : Nat) : (s.drew n).fresh = s.fresh + n := rfl
@[simp] theorem State.drew_nextId (s : State) (n : Nat) : (s.drew n).nextId = s.nextId := rfl
@[simp] theorem State.drew_cur (s : State) (n : Nat) : (s.drew n).cur = s.cur := rfl

/-! ## State.putS -/

@[simp] theorem State.putS_others (s : State) (i : BitVec 6) (x : DWord) : (s.putS i x).others = s.others := rfl
@[simp] theorem State.putS_teams (s : State) (i : BitVec 6) (x : DWord) : (s.putS i x).teams = s.teams := rfl
@[simp] theorem State.putS_clusters (s : State) (i : BitVec 6) (x : DWord) : (s.putS i x).clusters = s.clusters := rfl
@[simp] theorem State.putS_cmds (s : State) (i : BitVec 6) (x : DWord) : (s.putS i x).cmds = s.cmds := rfl
@[simp] theorem State.putS_sched (s : State) (i : BitVec 6) (x : DWord) : (s.putS i x).sched = s.sched := rfl
@[simp] theorem State.putS_fault (s : State) (i : BitVec 6) (x : DWord) : (s.putS i x).fault = s.fault := rfl
@[simp] theorem State.putS_mem (s : State) (i : BitVec 6) (x : DWord) : (s.putS i x).mem = s.mem := rfl
@[simp] theorem State.putS_fabric (s : State) (i : BitVec 6) (x : DWord) : (s.putS i x).fabric = s.fabric := rfl
@[simp] theorem State.putS_link (s : State) (i : BitVec 6) (x : DWord) : (s.putS i x).link = s.link := rfl
@[simp] theorem State.putS_strudel (s : State) (i : BitVec 6) (x : DWord) : (s.putS i x).strudel = s.strudel := rfl
@[simp] theorem State.putS_ctx (s : State) (i : BitVec 6) (x : DWord) : (s.putS i x).ctx = s.ctx := rfl
@[simp] theorem State.putS_sec (s : State) (i : BitVec 6) (x : DWord) : (s.putS i x).sec = s.sec := rfl
@[simp] theorem State.putS_power (s : State) (i : BitVec 6) (x : DWord) : (s.putS i x).power = s.power := rfl
@[simp] theorem State.putS_mgmt (s : State) (i : BitVec 6) (x : DWord) : (s.putS i x).mgmt = s.mgmt := rfl
@[simp] theorem State.putS_node (s : State) (i : BitVec 6) (x : DWord) : (s.putS i x).node = s.node := rfl
@[simp] theorem State.putS_msi (s : State) (i : BitVec 6) (x : DWord) : (s.putS i x).msi = s.msi := rfl
@[simp] theorem State.putS_hostRead (s : State) (i : BitVec 6) (x : DWord) : (s.putS i x).hostRead = s.hostRead := rfl
@[simp] theorem State.putS_time (s : State) (i : BitVec 6) (x : DWord) : (s.putS i x).time = s.time := rfl
@[simp] theorem State.putS_agenda (s : State) (i : BitVec 6) (x : DWord) : (s.putS i x).agenda = s.agenda := rfl
@[simp] theorem State.putS_fresh (s : State) (i : BitVec 6) (x : DWord) : (s.putS i x).fresh = s.fresh := rfl
@[simp] theorem State.putS_nextId (s : State) (i : BitVec 6) (x : DWord) : (s.putS i x).nextId = s.nextId := rfl
@[simp] theorem State.putS_cur_alive (s : State) (i : BitVec 6) (x : DWord) : (s.putS i x).cur.alive = s.cur.alive := rfl
@[simp] theorem State.putS_cur_swapped (s : State) (i : BitVec 6) (x : DWord) : (s.putS i x).cur.swapped = s.cur.swapped := rfl
@[simp] theorem State.putS_cur_id (s : State) (i : BitVec 6) (x : DWord) : (s.putS i x).cur.id = s.cur.id := rfl
@[simp] theorem State.putS_regs_v (s : State) (i : BitVec 6) (x : DWord) : (s.putS i x).cur.regs.v = s.cur.regs.v := rfl
@[simp] theorem State.putS_regs_s (s : State) (i : BitVec 6) (x : DWord) : (s.putS i x).cur.regs.s = sput 0#64 s.cur.regs.s i.toNat x := rfl
@[simp] theorem State.putS_regs_k (s : State) (i : BitVec 6) (x : DWord) : (s.putS i x).cur.regs.k = s.cur.regs.k := rfl
@[simp] theorem State.putS_regs_p (s : State) (i : BitVec 6) (x : DWord) : (s.putS i x).cur.regs.p = s.cur.regs.p := rfl
@[simp] theorem State.putS_regs_ac (s : State) (i : BitVec 6) (x : DWord) : (s.putS i x).cur.regs.ac = s.cur.regs.ac := rfl
@[simp] theorem State.putS_regs_rmax (s : State) (i : BitVec 6) (x : DWord) : (s.putS i x).cur.regs.rmax = s.cur.regs.rmax := rfl
@[simp] theorem State.putS_regs_rsum (s : State) (i : BitVec 6) (x : DWord) : (s.putS i x).cur.regs.rsum = s.cur.regs.rsum := rfl
@[simp] theorem State.putS_regs_fpend (s : State) (i : BitVec 6) (x : DWord) : (s.putS i x).cur.regs.fpend = s.cur.regs.fpend := rfl
@[simp] theorem State.putS_regs_window (s : State) (i : BitVec 6) (x : DWord) : (s.putS i x).cur.regs.window = s.cur.regs.window := rfl
@[simp] theorem State.putS_regs_ftz (s : State) (i : BitVec 6) (x : DWord) : (s.putS i x).cur.regs.ftz = s.cur.regs.ftz := rfl
@[simp] theorem State.putS_regs_roundMode (s : State) (i : BitVec 6) (x : DWord) : (s.putS i x).cur.regs.roundMode = s.cur.regs.roundMode := rfl
@[simp] theorem State.putS_regs_fstat (s : State) (i : BitVec 6) (x : DWord) : (s.putS i x).cur.regs.fstat = s.cur.regs.fstat := rfl
@[simp] theorem State.putS_regs_fmask (s : State) (i : BitVec 6) (x : DWord) : (s.putS i x).cur.regs.fmask = s.cur.regs.fmask := rfl
@[simp] theorem State.putS_cur_frag (s : State) (i : BitVec 6) (x : DWord) : (s.putS i x).cur.frag = s.cur.frag := rfl
@[simp] theorem State.putS_cur_sibs (s : State) (i : BitVec 6) (x : DWord) : (s.putS i x).cur.sibs = s.cur.sibs := rfl
@[simp] theorem State.putS_cur_entries (s : State) (i : BitVec 6) (x : DWord) : (s.putS i x).cur.entries = s.cur.entries := rfl
@[simp] theorem State.putS_cur_run (s : State) (i : BitVec 6) (x : DWord) : (s.putS i x).cur.run = s.cur.run := rfl
@[simp] theorem State.putS_cur_hend (s : State) (i : BitVec 6) (x : DWord) : (s.putS i x).cur.hend = s.cur.hend := rfl
@[simp] theorem State.putS_cur_watch (s : State) (i : BitVec 6) (x : DWord) : (s.putS i x).cur.watch = s.cur.watch := rfl
@[simp] theorem State.putS_cur_stop (s : State) (i : BitVec 6) (x : DWord) : (s.putS i x).cur.stop = s.cur.stop := rfl
@[simp] theorem State.putS_cur_cmdFaults (s : State) (i : BitVec 6) (x : DWord) : (s.putS i x).cur.cmdFaults = s.cur.cmdFaults := rfl
@[simp] theorem State.putS_cur_due (s : State) (i : BitVec 6) (x : DWord) : (s.putS i x).cur.due = s.cur.due := rfl
@[simp] theorem State.putS_cur_facq (s : State) (i : BitVec 6) (x : DWord) : (s.putS i x).cur.facq = s.cur.facq := rfl
@[simp] theorem State.putS_cur_yield (s : State) (i : BitVec 6) (x : DWord) : (s.putS i x).cur.yield = s.cur.yield := rfl
@[simp] theorem State.putS_cur_idle (s : State) (i : BitVec 6) (x : DWord) : (s.putS i x).cur.idle = s.cur.idle := rfl
@[simp] theorem State.putS_cur_matrix (s : State) (i : BitVec 6) (x : DWord) : (s.putS i x).cur.matrix = s.cur.matrix := rfl

/-! ## State.putK -/

@[simp] theorem State.putK_others (s : State) (k : BitVec 2) (b : Bool) : (s.putK k b).others = s.others := rfl
@[simp] theorem State.putK_teams (s : State) (k : BitVec 2) (b : Bool) : (s.putK k b).teams = s.teams := rfl
@[simp] theorem State.putK_clusters (s : State) (k : BitVec 2) (b : Bool) : (s.putK k b).clusters = s.clusters := rfl
@[simp] theorem State.putK_cmds (s : State) (k : BitVec 2) (b : Bool) : (s.putK k b).cmds = s.cmds := rfl
@[simp] theorem State.putK_sched (s : State) (k : BitVec 2) (b : Bool) : (s.putK k b).sched = s.sched := rfl
@[simp] theorem State.putK_fault (s : State) (k : BitVec 2) (b : Bool) : (s.putK k b).fault = s.fault := rfl
@[simp] theorem State.putK_mem (s : State) (k : BitVec 2) (b : Bool) : (s.putK k b).mem = s.mem := rfl
@[simp] theorem State.putK_fabric (s : State) (k : BitVec 2) (b : Bool) : (s.putK k b).fabric = s.fabric := rfl
@[simp] theorem State.putK_link (s : State) (k : BitVec 2) (b : Bool) : (s.putK k b).link = s.link := rfl
@[simp] theorem State.putK_strudel (s : State) (k : BitVec 2) (b : Bool) : (s.putK k b).strudel = s.strudel := rfl
@[simp] theorem State.putK_ctx (s : State) (k : BitVec 2) (b : Bool) : (s.putK k b).ctx = s.ctx := rfl
@[simp] theorem State.putK_sec (s : State) (k : BitVec 2) (b : Bool) : (s.putK k b).sec = s.sec := rfl
@[simp] theorem State.putK_power (s : State) (k : BitVec 2) (b : Bool) : (s.putK k b).power = s.power := rfl
@[simp] theorem State.putK_mgmt (s : State) (k : BitVec 2) (b : Bool) : (s.putK k b).mgmt = s.mgmt := rfl
@[simp] theorem State.putK_node (s : State) (k : BitVec 2) (b : Bool) : (s.putK k b).node = s.node := rfl
@[simp] theorem State.putK_msi (s : State) (k : BitVec 2) (b : Bool) : (s.putK k b).msi = s.msi := rfl
@[simp] theorem State.putK_hostRead (s : State) (k : BitVec 2) (b : Bool) : (s.putK k b).hostRead = s.hostRead := rfl
@[simp] theorem State.putK_time (s : State) (k : BitVec 2) (b : Bool) : (s.putK k b).time = s.time := rfl
@[simp] theorem State.putK_agenda (s : State) (k : BitVec 2) (b : Bool) : (s.putK k b).agenda = s.agenda := rfl
@[simp] theorem State.putK_fresh (s : State) (k : BitVec 2) (b : Bool) : (s.putK k b).fresh = s.fresh := rfl
@[simp] theorem State.putK_nextId (s : State) (k : BitVec 2) (b : Bool) : (s.putK k b).nextId = s.nextId := rfl
@[simp] theorem State.putK_cur_alive (s : State) (k : BitVec 2) (b : Bool) : (s.putK k b).cur.alive = s.cur.alive := rfl
@[simp] theorem State.putK_cur_swapped (s : State) (k : BitVec 2) (b : Bool) : (s.putK k b).cur.swapped = s.cur.swapped := rfl
@[simp] theorem State.putK_cur_id (s : State) (k : BitVec 2) (b : Bool) : (s.putK k b).cur.id = s.cur.id := rfl
@[simp] theorem State.putK_regs_v (s : State) (k : BitVec 2) (b : Bool) : (s.putK k b).cur.regs.v = s.cur.regs.v := rfl
@[simp] theorem State.putK_regs_s (s : State) (k : BitVec 2) (b : Bool) : (s.putK k b).cur.regs.s = s.cur.regs.s := rfl
@[simp] theorem State.putK_regs_k (s : State) (k : BitVec 2) (b : Bool) : (s.putK k b).cur.regs.k = putBit s.cur.regs.k k.toNat b := rfl
@[simp] theorem State.putK_regs_p (s : State) (k : BitVec 2) (b : Bool) : (s.putK k b).cur.regs.p = s.cur.regs.p := rfl
@[simp] theorem State.putK_regs_ac (s : State) (k : BitVec 2) (b : Bool) : (s.putK k b).cur.regs.ac = s.cur.regs.ac := rfl
@[simp] theorem State.putK_regs_rmax (s : State) (k : BitVec 2) (b : Bool) : (s.putK k b).cur.regs.rmax = s.cur.regs.rmax := rfl
@[simp] theorem State.putK_regs_rsum (s : State) (k : BitVec 2) (b : Bool) : (s.putK k b).cur.regs.rsum = s.cur.regs.rsum := rfl
@[simp] theorem State.putK_regs_fpend (s : State) (k : BitVec 2) (b : Bool) : (s.putK k b).cur.regs.fpend = s.cur.regs.fpend := rfl
@[simp] theorem State.putK_regs_window (s : State) (k : BitVec 2) (b : Bool) : (s.putK k b).cur.regs.window = s.cur.regs.window := rfl
@[simp] theorem State.putK_regs_ftz (s : State) (k : BitVec 2) (b : Bool) : (s.putK k b).cur.regs.ftz = s.cur.regs.ftz := rfl
@[simp] theorem State.putK_regs_roundMode (s : State) (k : BitVec 2) (b : Bool) : (s.putK k b).cur.regs.roundMode = s.cur.regs.roundMode := rfl
@[simp] theorem State.putK_regs_fstat (s : State) (k : BitVec 2) (b : Bool) : (s.putK k b).cur.regs.fstat = s.cur.regs.fstat := rfl
@[simp] theorem State.putK_regs_fmask (s : State) (k : BitVec 2) (b : Bool) : (s.putK k b).cur.regs.fmask = s.cur.regs.fmask := rfl
@[simp] theorem State.putK_cur_frag (s : State) (k : BitVec 2) (b : Bool) : (s.putK k b).cur.frag = s.cur.frag := rfl
@[simp] theorem State.putK_cur_sibs (s : State) (k : BitVec 2) (b : Bool) : (s.putK k b).cur.sibs = s.cur.sibs := rfl
@[simp] theorem State.putK_cur_entries (s : State) (k : BitVec 2) (b : Bool) : (s.putK k b).cur.entries = s.cur.entries := rfl
@[simp] theorem State.putK_cur_run (s : State) (k : BitVec 2) (b : Bool) : (s.putK k b).cur.run = s.cur.run := rfl
@[simp] theorem State.putK_cur_hend (s : State) (k : BitVec 2) (b : Bool) : (s.putK k b).cur.hend = s.cur.hend := rfl
@[simp] theorem State.putK_cur_watch (s : State) (k : BitVec 2) (b : Bool) : (s.putK k b).cur.watch = s.cur.watch := rfl
@[simp] theorem State.putK_cur_stop (s : State) (k : BitVec 2) (b : Bool) : (s.putK k b).cur.stop = s.cur.stop := rfl
@[simp] theorem State.putK_cur_cmdFaults (s : State) (k : BitVec 2) (b : Bool) : (s.putK k b).cur.cmdFaults = s.cur.cmdFaults := rfl
@[simp] theorem State.putK_cur_due (s : State) (k : BitVec 2) (b : Bool) : (s.putK k b).cur.due = s.cur.due := rfl
@[simp] theorem State.putK_cur_facq (s : State) (k : BitVec 2) (b : Bool) : (s.putK k b).cur.facq = s.cur.facq := rfl
@[simp] theorem State.putK_cur_yield (s : State) (k : BitVec 2) (b : Bool) : (s.putK k b).cur.yield = s.cur.yield := rfl
@[simp] theorem State.putK_cur_idle (s : State) (k : BitVec 2) (b : Bool) : (s.putK k b).cur.idle = s.cur.idle := rfl
@[simp] theorem State.putK_cur_matrix (s : State) (k : BitVec 2) (b : Bool) : (s.putK k b).cur.matrix = s.cur.matrix := rfl

/-! ## State.putP -/

@[simp] theorem State.putP_others (s : State) (p : BitVec 3) (m : Mask) : (s.putP p m).others = s.others := rfl
@[simp] theorem State.putP_teams (s : State) (p : BitVec 3) (m : Mask) : (s.putP p m).teams = s.teams := rfl
@[simp] theorem State.putP_clusters (s : State) (p : BitVec 3) (m : Mask) : (s.putP p m).clusters = s.clusters := rfl
@[simp] theorem State.putP_cmds (s : State) (p : BitVec 3) (m : Mask) : (s.putP p m).cmds = s.cmds := rfl
@[simp] theorem State.putP_sched (s : State) (p : BitVec 3) (m : Mask) : (s.putP p m).sched = s.sched := rfl
@[simp] theorem State.putP_fault (s : State) (p : BitVec 3) (m : Mask) : (s.putP p m).fault = s.fault := rfl
@[simp] theorem State.putP_mem (s : State) (p : BitVec 3) (m : Mask) : (s.putP p m).mem = s.mem := rfl
@[simp] theorem State.putP_fabric (s : State) (p : BitVec 3) (m : Mask) : (s.putP p m).fabric = s.fabric := rfl
@[simp] theorem State.putP_link (s : State) (p : BitVec 3) (m : Mask) : (s.putP p m).link = s.link := rfl
@[simp] theorem State.putP_strudel (s : State) (p : BitVec 3) (m : Mask) : (s.putP p m).strudel = s.strudel := rfl
@[simp] theorem State.putP_ctx (s : State) (p : BitVec 3) (m : Mask) : (s.putP p m).ctx = s.ctx := rfl
@[simp] theorem State.putP_sec (s : State) (p : BitVec 3) (m : Mask) : (s.putP p m).sec = s.sec := rfl
@[simp] theorem State.putP_power (s : State) (p : BitVec 3) (m : Mask) : (s.putP p m).power = s.power := rfl
@[simp] theorem State.putP_mgmt (s : State) (p : BitVec 3) (m : Mask) : (s.putP p m).mgmt = s.mgmt := rfl
@[simp] theorem State.putP_node (s : State) (p : BitVec 3) (m : Mask) : (s.putP p m).node = s.node := rfl
@[simp] theorem State.putP_msi (s : State) (p : BitVec 3) (m : Mask) : (s.putP p m).msi = s.msi := rfl
@[simp] theorem State.putP_hostRead (s : State) (p : BitVec 3) (m : Mask) : (s.putP p m).hostRead = s.hostRead := rfl
@[simp] theorem State.putP_time (s : State) (p : BitVec 3) (m : Mask) : (s.putP p m).time = s.time := rfl
@[simp] theorem State.putP_agenda (s : State) (p : BitVec 3) (m : Mask) : (s.putP p m).agenda = s.agenda := rfl
@[simp] theorem State.putP_fresh (s : State) (p : BitVec 3) (m : Mask) : (s.putP p m).fresh = s.fresh := rfl
@[simp] theorem State.putP_nextId (s : State) (p : BitVec 3) (m : Mask) : (s.putP p m).nextId = s.nextId := rfl
@[simp] theorem State.putP_cur_alive (s : State) (p : BitVec 3) (m : Mask) : (s.putP p m).cur.alive = s.cur.alive := rfl
@[simp] theorem State.putP_cur_swapped (s : State) (p : BitVec 3) (m : Mask) : (s.putP p m).cur.swapped = s.cur.swapped := rfl
@[simp] theorem State.putP_cur_id (s : State) (p : BitVec 3) (m : Mask) : (s.putP p m).cur.id = s.cur.id := rfl
@[simp] theorem State.putP_regs_v (s : State) (p : BitVec 3) (m : Mask) : (s.putP p m).cur.regs.v = s.cur.regs.v := rfl
@[simp] theorem State.putP_regs_s (s : State) (p : BitVec 3) (m : Mask) : (s.putP p m).cur.regs.s = s.cur.regs.s := rfl
@[simp] theorem State.putP_regs_k (s : State) (p : BitVec 3) (m : Mask) : (s.putP p m).cur.regs.k = s.cur.regs.k := rfl
@[simp] theorem State.putP_regs_p (s : State) (p : BitVec 3) (m : Mask) : (s.putP p m).cur.regs.p = sput 0#32 s.cur.regs.p p.toNat m := rfl
@[simp] theorem State.putP_regs_ac (s : State) (p : BitVec 3) (m : Mask) : (s.putP p m).cur.regs.ac = s.cur.regs.ac := rfl
@[simp] theorem State.putP_regs_rmax (s : State) (p : BitVec 3) (m : Mask) : (s.putP p m).cur.regs.rmax = s.cur.regs.rmax := rfl
@[simp] theorem State.putP_regs_rsum (s : State) (p : BitVec 3) (m : Mask) : (s.putP p m).cur.regs.rsum = s.cur.regs.rsum := rfl
@[simp] theorem State.putP_regs_fpend (s : State) (p : BitVec 3) (m : Mask) : (s.putP p m).cur.regs.fpend = s.cur.regs.fpend := rfl
@[simp] theorem State.putP_regs_window (s : State) (p : BitVec 3) (m : Mask) : (s.putP p m).cur.regs.window = s.cur.regs.window := rfl
@[simp] theorem State.putP_regs_ftz (s : State) (p : BitVec 3) (m : Mask) : (s.putP p m).cur.regs.ftz = s.cur.regs.ftz := rfl
@[simp] theorem State.putP_regs_roundMode (s : State) (p : BitVec 3) (m : Mask) : (s.putP p m).cur.regs.roundMode = s.cur.regs.roundMode := rfl
@[simp] theorem State.putP_regs_fstat (s : State) (p : BitVec 3) (m : Mask) : (s.putP p m).cur.regs.fstat = s.cur.regs.fstat := rfl
@[simp] theorem State.putP_regs_fmask (s : State) (p : BitVec 3) (m : Mask) : (s.putP p m).cur.regs.fmask = s.cur.regs.fmask := rfl
@[simp] theorem State.putP_cur_frag (s : State) (p : BitVec 3) (m : Mask) : (s.putP p m).cur.frag = s.cur.frag := rfl
@[simp] theorem State.putP_cur_sibs (s : State) (p : BitVec 3) (m : Mask) : (s.putP p m).cur.sibs = s.cur.sibs := rfl
@[simp] theorem State.putP_cur_entries (s : State) (p : BitVec 3) (m : Mask) : (s.putP p m).cur.entries = s.cur.entries := rfl
@[simp] theorem State.putP_cur_run (s : State) (p : BitVec 3) (m : Mask) : (s.putP p m).cur.run = s.cur.run := rfl
@[simp] theorem State.putP_cur_hend (s : State) (p : BitVec 3) (m : Mask) : (s.putP p m).cur.hend = s.cur.hend := rfl
@[simp] theorem State.putP_cur_watch (s : State) (p : BitVec 3) (m : Mask) : (s.putP p m).cur.watch = s.cur.watch := rfl
@[simp] theorem State.putP_cur_stop (s : State) (p : BitVec 3) (m : Mask) : (s.putP p m).cur.stop = s.cur.stop := rfl
@[simp] theorem State.putP_cur_cmdFaults (s : State) (p : BitVec 3) (m : Mask) : (s.putP p m).cur.cmdFaults = s.cur.cmdFaults := rfl
@[simp] theorem State.putP_cur_due (s : State) (p : BitVec 3) (m : Mask) : (s.putP p m).cur.due = s.cur.due := rfl
@[simp] theorem State.putP_cur_facq (s : State) (p : BitVec 3) (m : Mask) : (s.putP p m).cur.facq = s.cur.facq := rfl
@[simp] theorem State.putP_cur_yield (s : State) (p : BitVec 3) (m : Mask) : (s.putP p m).cur.yield = s.cur.yield := rfl
@[simp] theorem State.putP_cur_idle (s : State) (p : BitVec 3) (m : Mask) : (s.putP p m).cur.idle = s.cur.idle := rfl
@[simp] theorem State.putP_cur_matrix (s : State) (p : BitVec 3) (m : Mask) : (s.putP p m).cur.matrix = s.cur.matrix := rfl

/-! ## State.orFstat -/

@[simp] theorem State.orFstat_others (s : State) (f : Flags) : (s.orFstat f).others = s.others := rfl
@[simp] theorem State.orFstat_teams (s : State) (f : Flags) : (s.orFstat f).teams = s.teams := rfl
@[simp] theorem State.orFstat_clusters (s : State) (f : Flags) : (s.orFstat f).clusters = s.clusters := rfl
@[simp] theorem State.orFstat_cmds (s : State) (f : Flags) : (s.orFstat f).cmds = s.cmds := rfl
@[simp] theorem State.orFstat_sched (s : State) (f : Flags) : (s.orFstat f).sched = s.sched := rfl
@[simp] theorem State.orFstat_fault (s : State) (f : Flags) : (s.orFstat f).fault = s.fault := rfl
@[simp] theorem State.orFstat_mem (s : State) (f : Flags) : (s.orFstat f).mem = s.mem := rfl
@[simp] theorem State.orFstat_fabric (s : State) (f : Flags) : (s.orFstat f).fabric = s.fabric := rfl
@[simp] theorem State.orFstat_link (s : State) (f : Flags) : (s.orFstat f).link = s.link := rfl
@[simp] theorem State.orFstat_strudel (s : State) (f : Flags) : (s.orFstat f).strudel = s.strudel := rfl
@[simp] theorem State.orFstat_ctx (s : State) (f : Flags) : (s.orFstat f).ctx = s.ctx := rfl
@[simp] theorem State.orFstat_sec (s : State) (f : Flags) : (s.orFstat f).sec = s.sec := rfl
@[simp] theorem State.orFstat_power (s : State) (f : Flags) : (s.orFstat f).power = s.power := rfl
@[simp] theorem State.orFstat_mgmt (s : State) (f : Flags) : (s.orFstat f).mgmt = s.mgmt := rfl
@[simp] theorem State.orFstat_node (s : State) (f : Flags) : (s.orFstat f).node = s.node := rfl
@[simp] theorem State.orFstat_msi (s : State) (f : Flags) : (s.orFstat f).msi = s.msi := rfl
@[simp] theorem State.orFstat_hostRead (s : State) (f : Flags) : (s.orFstat f).hostRead = s.hostRead := rfl
@[simp] theorem State.orFstat_time (s : State) (f : Flags) : (s.orFstat f).time = s.time := rfl
@[simp] theorem State.orFstat_agenda (s : State) (f : Flags) : (s.orFstat f).agenda = s.agenda := rfl
@[simp] theorem State.orFstat_fresh (s : State) (f : Flags) : (s.orFstat f).fresh = s.fresh := rfl
@[simp] theorem State.orFstat_nextId (s : State) (f : Flags) : (s.orFstat f).nextId = s.nextId := rfl
@[simp] theorem State.orFstat_cur_alive (s : State) (f : Flags) : (s.orFstat f).cur.alive = s.cur.alive := rfl
@[simp] theorem State.orFstat_cur_swapped (s : State) (f : Flags) : (s.orFstat f).cur.swapped = s.cur.swapped := rfl
@[simp] theorem State.orFstat_cur_id (s : State) (f : Flags) : (s.orFstat f).cur.id = s.cur.id := rfl
@[simp] theorem State.orFstat_regs_v (s : State) (f : Flags) : (s.orFstat f).cur.regs.v = s.cur.regs.v := rfl
@[simp] theorem State.orFstat_regs_s (s : State) (f : Flags) : (s.orFstat f).cur.regs.s = s.cur.regs.s := rfl
@[simp] theorem State.orFstat_regs_k (s : State) (f : Flags) : (s.orFstat f).cur.regs.k = s.cur.regs.k := rfl
@[simp] theorem State.orFstat_regs_p (s : State) (f : Flags) : (s.orFstat f).cur.regs.p = s.cur.regs.p := rfl
@[simp] theorem State.orFstat_regs_ac (s : State) (f : Flags) : (s.orFstat f).cur.regs.ac = s.cur.regs.ac := rfl
@[simp] theorem State.orFstat_regs_rmax (s : State) (f : Flags) : (s.orFstat f).cur.regs.rmax = s.cur.regs.rmax := rfl
@[simp] theorem State.orFstat_regs_rsum (s : State) (f : Flags) : (s.orFstat f).cur.regs.rsum = s.cur.regs.rsum := rfl
@[simp] theorem State.orFstat_regs_fpend (s : State) (f : Flags) : (s.orFstat f).cur.regs.fpend = s.cur.regs.fpend := rfl
@[simp] theorem State.orFstat_regs_window (s : State) (f : Flags) : (s.orFstat f).cur.regs.window = s.cur.regs.window := rfl
@[simp] theorem State.orFstat_regs_ftz (s : State) (f : Flags) : (s.orFstat f).cur.regs.ftz = s.cur.regs.ftz := rfl
@[simp] theorem State.orFstat_regs_roundMode (s : State) (f : Flags) : (s.orFstat f).cur.regs.roundMode = s.cur.regs.roundMode := rfl
@[simp] theorem State.orFstat_regs_fstat (s : State) (f : Flags) : (s.orFstat f).cur.regs.fstat = s.cur.regs.fstat ||| f := rfl
@[simp] theorem State.orFstat_regs_fmask (s : State) (f : Flags) : (s.orFstat f).cur.regs.fmask = s.cur.regs.fmask := rfl
@[simp] theorem State.orFstat_cur_frag (s : State) (f : Flags) : (s.orFstat f).cur.frag = s.cur.frag := rfl
@[simp] theorem State.orFstat_cur_sibs (s : State) (f : Flags) : (s.orFstat f).cur.sibs = s.cur.sibs := rfl
@[simp] theorem State.orFstat_cur_entries (s : State) (f : Flags) : (s.orFstat f).cur.entries = s.cur.entries := rfl
@[simp] theorem State.orFstat_cur_run (s : State) (f : Flags) : (s.orFstat f).cur.run = s.cur.run := rfl
@[simp] theorem State.orFstat_cur_hend (s : State) (f : Flags) : (s.orFstat f).cur.hend = s.cur.hend := rfl
@[simp] theorem State.orFstat_cur_watch (s : State) (f : Flags) : (s.orFstat f).cur.watch = s.cur.watch := rfl
@[simp] theorem State.orFstat_cur_stop (s : State) (f : Flags) : (s.orFstat f).cur.stop = s.cur.stop := rfl
@[simp] theorem State.orFstat_cur_cmdFaults (s : State) (f : Flags) : (s.orFstat f).cur.cmdFaults = s.cur.cmdFaults := rfl
@[simp] theorem State.orFstat_cur_due (s : State) (f : Flags) : (s.orFstat f).cur.due = s.cur.due := rfl
@[simp] theorem State.orFstat_cur_facq (s : State) (f : Flags) : (s.orFstat f).cur.facq = s.cur.facq := rfl
@[simp] theorem State.orFstat_cur_yield (s : State) (f : Flags) : (s.orFstat f).cur.yield = s.cur.yield := rfl
@[simp] theorem State.orFstat_cur_idle (s : State) (f : Flags) : (s.orFstat f).cur.idle = s.cur.idle := rfl
@[simp] theorem State.orFstat_cur_matrix (s : State) (f : Flags) : (s.orFstat f).cur.matrix = s.cur.matrix := rfl

/-! ## State.goto -/

@[simp] theorem State.goto_others (s : State) (pc : Addr) : (s.goto pc).others = s.others := rfl
@[simp] theorem State.goto_teams (s : State) (pc : Addr) : (s.goto pc).teams = s.teams := rfl
@[simp] theorem State.goto_clusters (s : State) (pc : Addr) : (s.goto pc).clusters = s.clusters := rfl
@[simp] theorem State.goto_cmds (s : State) (pc : Addr) : (s.goto pc).cmds = s.cmds := rfl
@[simp] theorem State.goto_sched (s : State) (pc : Addr) : (s.goto pc).sched = s.sched := rfl
@[simp] theorem State.goto_fault (s : State) (pc : Addr) : (s.goto pc).fault = s.fault := rfl
@[simp] theorem State.goto_mem (s : State) (pc : Addr) : (s.goto pc).mem = s.mem := rfl
@[simp] theorem State.goto_fabric (s : State) (pc : Addr) : (s.goto pc).fabric = s.fabric := rfl
@[simp] theorem State.goto_link (s : State) (pc : Addr) : (s.goto pc).link = s.link := rfl
@[simp] theorem State.goto_strudel (s : State) (pc : Addr) : (s.goto pc).strudel = s.strudel := rfl
@[simp] theorem State.goto_ctx (s : State) (pc : Addr) : (s.goto pc).ctx = s.ctx := rfl
@[simp] theorem State.goto_sec (s : State) (pc : Addr) : (s.goto pc).sec = s.sec := rfl
@[simp] theorem State.goto_power (s : State) (pc : Addr) : (s.goto pc).power = s.power := rfl
@[simp] theorem State.goto_mgmt (s : State) (pc : Addr) : (s.goto pc).mgmt = s.mgmt := rfl
@[simp] theorem State.goto_node (s : State) (pc : Addr) : (s.goto pc).node = s.node := rfl
@[simp] theorem State.goto_msi (s : State) (pc : Addr) : (s.goto pc).msi = s.msi := rfl
@[simp] theorem State.goto_hostRead (s : State) (pc : Addr) : (s.goto pc).hostRead = s.hostRead := rfl
@[simp] theorem State.goto_time (s : State) (pc : Addr) : (s.goto pc).time = s.time := rfl
@[simp] theorem State.goto_agenda (s : State) (pc : Addr) : (s.goto pc).agenda = s.agenda := rfl
@[simp] theorem State.goto_fresh (s : State) (pc : Addr) : (s.goto pc).fresh = s.fresh := rfl
@[simp] theorem State.goto_nextId (s : State) (pc : Addr) : (s.goto pc).nextId = s.nextId := rfl
@[simp] theorem State.goto_cur_alive (s : State) (pc : Addr) : (s.goto pc).cur.alive = s.cur.alive := rfl
@[simp] theorem State.goto_cur_swapped (s : State) (pc : Addr) : (s.goto pc).cur.swapped = s.cur.swapped := rfl
@[simp] theorem State.goto_cur_id (s : State) (pc : Addr) : (s.goto pc).cur.id = s.cur.id := rfl
@[simp] theorem State.goto_cur_regs (s : State) (pc : Addr) : (s.goto pc).cur.regs = s.cur.regs := rfl
@[simp] theorem State.goto_frag_pc (s : State) (pc : Addr) : (s.goto pc).cur.frag.pc = pc := rfl
@[simp] theorem State.goto_frag_member (s : State) (pc : Addr) : (s.goto pc).cur.frag.member = s.cur.frag.member := rfl
@[simp] theorem State.goto_frag_exec (s : State) (pc : Addr) : (s.goto pc).cur.frag.exec = s.cur.frag.exec := rfl
@[simp] theorem State.goto_frag_wait (s : State) (pc : Addr) : (s.goto pc).cur.frag.wait = .ready := rfl
@[simp] theorem State.goto_frag_entry (s : State) (pc : Addr) : (s.goto pc).cur.frag.entry = s.cur.frag.entry := rfl
@[simp] theorem State.goto_frag_starve (s : State) (pc : Addr) : (s.goto pc).cur.frag.starve = s.cur.frag.starve := rfl
@[simp] theorem State.goto_frag_hint (s : State) (pc : Addr) : (s.goto pc).cur.frag.hint = none := rfl
@[simp] theorem State.goto_frag_limit (s : State) (pc : Addr) : (s.goto pc).cur.frag.limit = none := rfl
@[simp] theorem State.goto_frag_nowatch (s : State) (pc : Addr) : (s.goto pc).cur.frag.nowatch = false := rfl
@[simp] theorem State.goto_frag_fuse (s : State) (pc : Addr) : (s.goto pc).cur.frag.fuse = .none := rfl
@[simp] theorem State.goto_cur_sibs (s : State) (pc : Addr) : (s.goto pc).cur.sibs = s.cur.sibs := rfl
@[simp] theorem State.goto_cur_entries (s : State) (pc : Addr) : (s.goto pc).cur.entries = s.cur.entries := rfl
@[simp] theorem State.goto_cur_run (s : State) (pc : Addr) : (s.goto pc).cur.run = s.cur.run := rfl
@[simp] theorem State.goto_cur_hend (s : State) (pc : Addr) : (s.goto pc).cur.hend = s.cur.hend := rfl
@[simp] theorem State.goto_cur_watch (s : State) (pc : Addr) : (s.goto pc).cur.watch = s.cur.watch := rfl
@[simp] theorem State.goto_cur_stop (s : State) (pc : Addr) : (s.goto pc).cur.stop = s.cur.stop := rfl
@[simp] theorem State.goto_cur_cmdFaults (s : State) (pc : Addr) : (s.goto pc).cur.cmdFaults = s.cur.cmdFaults := rfl
@[simp] theorem State.goto_cur_due (s : State) (pc : Addr) : (s.goto pc).cur.due = s.cur.due := rfl
@[simp] theorem State.goto_cur_facq (s : State) (pc : Addr) : (s.goto pc).cur.facq = s.cur.facq := rfl
@[simp] theorem State.goto_cur_yield (s : State) (pc : Addr) : (s.goto pc).cur.yield = s.cur.yield := rfl
@[simp] theorem State.goto_cur_idle (s : State) (pc : Addr) : (s.goto pc).cur.idle = s.cur.idle := rfl
@[simp] theorem State.goto_cur_matrix (s : State) (pc : Addr) : (s.goto pc).cur.matrix = s.cur.matrix := rfl

/-! ## State.advance -/

@[simp] theorem State.advance_others (s : State) : (s.advance).others = s.others := rfl
@[simp] theorem State.advance_teams (s : State) : (s.advance).teams = s.teams := rfl
@[simp] theorem State.advance_clusters (s : State) : (s.advance).clusters = s.clusters := rfl
@[simp] theorem State.advance_cmds (s : State) : (s.advance).cmds = s.cmds := rfl
@[simp] theorem State.advance_sched (s : State) : (s.advance).sched = s.sched := rfl
@[simp] theorem State.advance_fault (s : State) : (s.advance).fault = s.fault := rfl
@[simp] theorem State.advance_mem (s : State) : (s.advance).mem = s.mem := rfl
@[simp] theorem State.advance_fabric (s : State) : (s.advance).fabric = s.fabric := rfl
@[simp] theorem State.advance_link (s : State) : (s.advance).link = s.link := rfl
@[simp] theorem State.advance_strudel (s : State) : (s.advance).strudel = s.strudel := rfl
@[simp] theorem State.advance_ctx (s : State) : (s.advance).ctx = s.ctx := rfl
@[simp] theorem State.advance_sec (s : State) : (s.advance).sec = s.sec := rfl
@[simp] theorem State.advance_power (s : State) : (s.advance).power = s.power := rfl
@[simp] theorem State.advance_mgmt (s : State) : (s.advance).mgmt = s.mgmt := rfl
@[simp] theorem State.advance_node (s : State) : (s.advance).node = s.node := rfl
@[simp] theorem State.advance_msi (s : State) : (s.advance).msi = s.msi := rfl
@[simp] theorem State.advance_hostRead (s : State) : (s.advance).hostRead = s.hostRead := rfl
@[simp] theorem State.advance_time (s : State) : (s.advance).time = s.time := rfl
@[simp] theorem State.advance_agenda (s : State) : (s.advance).agenda = s.agenda := rfl
@[simp] theorem State.advance_fresh (s : State) : (s.advance).fresh = s.fresh := rfl
@[simp] theorem State.advance_nextId (s : State) : (s.advance).nextId = s.nextId := rfl
@[simp] theorem State.advance_cur_alive (s : State) : (s.advance).cur.alive = s.cur.alive := rfl
@[simp] theorem State.advance_cur_swapped (s : State) : (s.advance).cur.swapped = s.cur.swapped := rfl
@[simp] theorem State.advance_cur_id (s : State) : (s.advance).cur.id = s.cur.id := rfl
@[simp] theorem State.advance_cur_regs (s : State) : (s.advance).cur.regs = s.cur.regs := rfl
@[simp] theorem State.advance_frag_pc (s : State) : (s.advance).cur.frag.pc = s.cur.frag.pc + 4#57 := rfl
@[simp] theorem State.advance_frag_member (s : State) : (s.advance).cur.frag.member = s.cur.frag.member := rfl
@[simp] theorem State.advance_frag_exec (s : State) : (s.advance).cur.frag.exec = s.cur.frag.exec := rfl
@[simp] theorem State.advance_frag_wait (s : State) : (s.advance).cur.frag.wait = .ready := rfl
@[simp] theorem State.advance_frag_entry (s : State) : (s.advance).cur.frag.entry = s.cur.frag.entry := rfl
@[simp] theorem State.advance_frag_starve (s : State) : (s.advance).cur.frag.starve = s.cur.frag.starve := rfl
@[simp] theorem State.advance_frag_hint (s : State) : (s.advance).cur.frag.hint = none := rfl
@[simp] theorem State.advance_frag_limit (s : State) : (s.advance).cur.frag.limit = none := rfl
@[simp] theorem State.advance_frag_nowatch (s : State) : (s.advance).cur.frag.nowatch = false := rfl
@[simp] theorem State.advance_frag_fuse (s : State) : (s.advance).cur.frag.fuse = .none := rfl
@[simp] theorem State.advance_cur_sibs (s : State) : (s.advance).cur.sibs = s.cur.sibs := rfl
@[simp] theorem State.advance_cur_entries (s : State) : (s.advance).cur.entries = s.cur.entries := rfl
@[simp] theorem State.advance_cur_run (s : State) : (s.advance).cur.run = s.cur.run := rfl
@[simp] theorem State.advance_cur_hend (s : State) : (s.advance).cur.hend = s.cur.hend := rfl
@[simp] theorem State.advance_cur_watch (s : State) : (s.advance).cur.watch = s.cur.watch := rfl
@[simp] theorem State.advance_cur_stop (s : State) : (s.advance).cur.stop = s.cur.stop := rfl
@[simp] theorem State.advance_cur_cmdFaults (s : State) : (s.advance).cur.cmdFaults = s.cur.cmdFaults := rfl
@[simp] theorem State.advance_cur_due (s : State) : (s.advance).cur.due = s.cur.due := rfl
@[simp] theorem State.advance_cur_facq (s : State) : (s.advance).cur.facq = s.cur.facq := rfl
@[simp] theorem State.advance_cur_yield (s : State) : (s.advance).cur.yield = s.cur.yield := rfl
@[simp] theorem State.advance_cur_idle (s : State) : (s.advance).cur.idle = s.cur.idle := rfl
@[simp] theorem State.advance_cur_matrix (s : State) : (s.advance).cur.matrix = s.cur.matrix := rfl

/-! ## State.waitAt -/

@[simp] theorem State.waitAt_others (s : State) (w : Wait) : (s.waitAt w).others = s.others := rfl
@[simp] theorem State.waitAt_teams (s : State) (w : Wait) : (s.waitAt w).teams = s.teams := rfl
@[simp] theorem State.waitAt_clusters (s : State) (w : Wait) : (s.waitAt w).clusters = s.clusters := rfl
@[simp] theorem State.waitAt_cmds (s : State) (w : Wait) : (s.waitAt w).cmds = s.cmds := rfl
@[simp] theorem State.waitAt_sched (s : State) (w : Wait) : (s.waitAt w).sched = s.sched := rfl
@[simp] theorem State.waitAt_fault (s : State) (w : Wait) : (s.waitAt w).fault = s.fault := rfl
@[simp] theorem State.waitAt_mem (s : State) (w : Wait) : (s.waitAt w).mem = s.mem := rfl
@[simp] theorem State.waitAt_fabric (s : State) (w : Wait) : (s.waitAt w).fabric = s.fabric := rfl
@[simp] theorem State.waitAt_link (s : State) (w : Wait) : (s.waitAt w).link = s.link := rfl
@[simp] theorem State.waitAt_strudel (s : State) (w : Wait) : (s.waitAt w).strudel = s.strudel := rfl
@[simp] theorem State.waitAt_ctx (s : State) (w : Wait) : (s.waitAt w).ctx = s.ctx := rfl
@[simp] theorem State.waitAt_sec (s : State) (w : Wait) : (s.waitAt w).sec = s.sec := rfl
@[simp] theorem State.waitAt_power (s : State) (w : Wait) : (s.waitAt w).power = s.power := rfl
@[simp] theorem State.waitAt_mgmt (s : State) (w : Wait) : (s.waitAt w).mgmt = s.mgmt := rfl
@[simp] theorem State.waitAt_node (s : State) (w : Wait) : (s.waitAt w).node = s.node := rfl
@[simp] theorem State.waitAt_msi (s : State) (w : Wait) : (s.waitAt w).msi = s.msi := rfl
@[simp] theorem State.waitAt_hostRead (s : State) (w : Wait) : (s.waitAt w).hostRead = s.hostRead := rfl
@[simp] theorem State.waitAt_time (s : State) (w : Wait) : (s.waitAt w).time = s.time := rfl
@[simp] theorem State.waitAt_agenda (s : State) (w : Wait) : (s.waitAt w).agenda = s.agenda := rfl
@[simp] theorem State.waitAt_fresh (s : State) (w : Wait) : (s.waitAt w).fresh = s.fresh := rfl
@[simp] theorem State.waitAt_nextId (s : State) (w : Wait) : (s.waitAt w).nextId = s.nextId := rfl
@[simp] theorem State.waitAt_cur_alive (s : State) (w : Wait) : (s.waitAt w).cur.alive = s.cur.alive := rfl
@[simp] theorem State.waitAt_cur_swapped (s : State) (w : Wait) : (s.waitAt w).cur.swapped = s.cur.swapped := rfl
@[simp] theorem State.waitAt_cur_id (s : State) (w : Wait) : (s.waitAt w).cur.id = s.cur.id := rfl
@[simp] theorem State.waitAt_cur_regs (s : State) (w : Wait) : (s.waitAt w).cur.regs = s.cur.regs := rfl
@[simp] theorem State.waitAt_frag_pc (s : State) (w : Wait) : (s.waitAt w).cur.frag.pc = s.unitPc := rfl
@[simp] theorem State.waitAt_frag_member (s : State) (w : Wait) : (s.waitAt w).cur.frag.member = s.cur.frag.member := rfl
@[simp] theorem State.waitAt_frag_exec (s : State) (w : Wait) : (s.waitAt w).cur.frag.exec = s.cur.frag.exec := rfl
@[simp] theorem State.waitAt_frag_wait (s : State) (w : Wait) : (s.waitAt w).cur.frag.wait = w := rfl
@[simp] theorem State.waitAt_frag_entry (s : State) (w : Wait) : (s.waitAt w).cur.frag.entry = s.cur.frag.entry := rfl
@[simp] theorem State.waitAt_frag_starve (s : State) (w : Wait) : (s.waitAt w).cur.frag.starve = s.cur.frag.starve := rfl
@[simp] theorem State.waitAt_frag_hint (s : State) (w : Wait) : (s.waitAt w).cur.frag.hint = none := rfl
@[simp] theorem State.waitAt_frag_limit (s : State) (w : Wait) : (s.waitAt w).cur.frag.limit = s.cur.frag.limit := rfl
@[simp] theorem State.waitAt_frag_nowatch (s : State) (w : Wait) : (s.waitAt w).cur.frag.nowatch = s.cur.frag.nowatch := rfl
@[simp] theorem State.waitAt_frag_fuse (s : State) (w : Wait) : (s.waitAt w).cur.frag.fuse = .none := rfl
@[simp] theorem State.waitAt_cur_sibs (s : State) (w : Wait) : (s.waitAt w).cur.sibs = s.cur.sibs := rfl
@[simp] theorem State.waitAt_cur_entries (s : State) (w : Wait) : (s.waitAt w).cur.entries = s.cur.entries := rfl
@[simp] theorem State.waitAt_cur_run (s : State) (w : Wait) : (s.waitAt w).cur.run = s.cur.run := rfl
@[simp] theorem State.waitAt_cur_hend (s : State) (w : Wait) : (s.waitAt w).cur.hend = s.cur.hend := rfl
@[simp] theorem State.waitAt_cur_watch (s : State) (w : Wait) : (s.waitAt w).cur.watch = s.cur.watch := rfl
@[simp] theorem State.waitAt_cur_stop (s : State) (w : Wait) : (s.waitAt w).cur.stop = s.cur.stop := rfl
@[simp] theorem State.waitAt_cur_cmdFaults (s : State) (w : Wait) : (s.waitAt w).cur.cmdFaults = s.cur.cmdFaults := rfl
@[simp] theorem State.waitAt_cur_due (s : State) (w : Wait) : (s.waitAt w).cur.due = s.cur.due := rfl
@[simp] theorem State.waitAt_cur_facq (s : State) (w : Wait) : (s.waitAt w).cur.facq = s.cur.facq := rfl
@[simp] theorem State.waitAt_cur_yield (s : State) (w : Wait) : (s.waitAt w).cur.yield = s.cur.yield := rfl
@[simp] theorem State.waitAt_cur_idle (s : State) (w : Wait) : (s.waitAt w).cur.idle = s.cur.idle := rfl
@[simp] theorem State.waitAt_cur_matrix (s : State) (w : Wait) : (s.waitAt w).cur.matrix = s.cur.matrix := rfl

/-! ## State.fusing -/

@[simp] theorem State.fusing_others (s : State) (f : Fuse) : (s.fusing f).others = s.others := rfl
@[simp] theorem State.fusing_teams (s : State) (f : Fuse) : (s.fusing f).teams = s.teams := rfl
@[simp] theorem State.fusing_clusters (s : State) (f : Fuse) : (s.fusing f).clusters = s.clusters := rfl
@[simp] theorem State.fusing_cmds (s : State) (f : Fuse) : (s.fusing f).cmds = s.cmds := rfl
@[simp] theorem State.fusing_sched (s : State) (f : Fuse) : (s.fusing f).sched = s.sched := rfl
@[simp] theorem State.fusing_fault (s : State) (f : Fuse) : (s.fusing f).fault = s.fault := rfl
@[simp] theorem State.fusing_mem (s : State) (f : Fuse) : (s.fusing f).mem = s.mem := rfl
@[simp] theorem State.fusing_fabric (s : State) (f : Fuse) : (s.fusing f).fabric = s.fabric := rfl
@[simp] theorem State.fusing_link (s : State) (f : Fuse) : (s.fusing f).link = s.link := rfl
@[simp] theorem State.fusing_strudel (s : State) (f : Fuse) : (s.fusing f).strudel = s.strudel := rfl
@[simp] theorem State.fusing_ctx (s : State) (f : Fuse) : (s.fusing f).ctx = s.ctx := rfl
@[simp] theorem State.fusing_sec (s : State) (f : Fuse) : (s.fusing f).sec = s.sec := rfl
@[simp] theorem State.fusing_power (s : State) (f : Fuse) : (s.fusing f).power = s.power := rfl
@[simp] theorem State.fusing_mgmt (s : State) (f : Fuse) : (s.fusing f).mgmt = s.mgmt := rfl
@[simp] theorem State.fusing_node (s : State) (f : Fuse) : (s.fusing f).node = s.node := rfl
@[simp] theorem State.fusing_msi (s : State) (f : Fuse) : (s.fusing f).msi = s.msi := rfl
@[simp] theorem State.fusing_hostRead (s : State) (f : Fuse) : (s.fusing f).hostRead = s.hostRead := rfl
@[simp] theorem State.fusing_time (s : State) (f : Fuse) : (s.fusing f).time = s.time := rfl
@[simp] theorem State.fusing_agenda (s : State) (f : Fuse) : (s.fusing f).agenda = s.agenda := rfl
@[simp] theorem State.fusing_fresh (s : State) (f : Fuse) : (s.fusing f).fresh = s.fresh := rfl
@[simp] theorem State.fusing_nextId (s : State) (f : Fuse) : (s.fusing f).nextId = s.nextId := rfl
@[simp] theorem State.fusing_cur_alive (s : State) (f : Fuse) : (s.fusing f).cur.alive = s.cur.alive := rfl
@[simp] theorem State.fusing_cur_swapped (s : State) (f : Fuse) : (s.fusing f).cur.swapped = s.cur.swapped := rfl
@[simp] theorem State.fusing_cur_id (s : State) (f : Fuse) : (s.fusing f).cur.id = s.cur.id := rfl
@[simp] theorem State.fusing_cur_regs (s : State) (f : Fuse) : (s.fusing f).cur.regs = s.cur.regs := rfl
@[simp] theorem State.fusing_frag_pc (s : State) (f : Fuse) : (s.fusing f).cur.frag.pc = s.cur.frag.pc := rfl
@[simp] theorem State.fusing_frag_member (s : State) (f : Fuse) : (s.fusing f).cur.frag.member = s.cur.frag.member := rfl
@[simp] theorem State.fusing_frag_exec (s : State) (f : Fuse) : (s.fusing f).cur.frag.exec = s.cur.frag.exec := rfl
@[simp] theorem State.fusing_frag_wait (s : State) (f : Fuse) : (s.fusing f).cur.frag.wait = s.cur.frag.wait := rfl
@[simp] theorem State.fusing_frag_entry (s : State) (f : Fuse) : (s.fusing f).cur.frag.entry = s.cur.frag.entry := rfl
@[simp] theorem State.fusing_frag_starve (s : State) (f : Fuse) : (s.fusing f).cur.frag.starve = s.cur.frag.starve := rfl
@[simp] theorem State.fusing_frag_hint (s : State) (f : Fuse) : (s.fusing f).cur.frag.hint = s.cur.frag.hint := rfl
@[simp] theorem State.fusing_frag_limit (s : State) (f : Fuse) : (s.fusing f).cur.frag.limit = s.cur.frag.limit := rfl
@[simp] theorem State.fusing_frag_nowatch (s : State) (f : Fuse) : (s.fusing f).cur.frag.nowatch = s.cur.frag.nowatch := rfl
@[simp] theorem State.fusing_frag_fuse (s : State) (f : Fuse) : (s.fusing f).cur.frag.fuse = f := rfl
@[simp] theorem State.fusing_cur_sibs (s : State) (f : Fuse) : (s.fusing f).cur.sibs = s.cur.sibs := rfl
@[simp] theorem State.fusing_cur_entries (s : State) (f : Fuse) : (s.fusing f).cur.entries = s.cur.entries := rfl
@[simp] theorem State.fusing_cur_run (s : State) (f : Fuse) : (s.fusing f).cur.run = s.cur.run := rfl
@[simp] theorem State.fusing_cur_hend (s : State) (f : Fuse) : (s.fusing f).cur.hend = s.cur.hend := rfl
@[simp] theorem State.fusing_cur_watch (s : State) (f : Fuse) : (s.fusing f).cur.watch = s.cur.watch := rfl
@[simp] theorem State.fusing_cur_stop (s : State) (f : Fuse) : (s.fusing f).cur.stop = s.cur.stop := rfl
@[simp] theorem State.fusing_cur_cmdFaults (s : State) (f : Fuse) : (s.fusing f).cur.cmdFaults = s.cur.cmdFaults := rfl
@[simp] theorem State.fusing_cur_due (s : State) (f : Fuse) : (s.fusing f).cur.due = s.cur.due := rfl
@[simp] theorem State.fusing_cur_facq (s : State) (f : Fuse) : (s.fusing f).cur.facq = s.cur.facq := rfl
@[simp] theorem State.fusing_cur_yield (s : State) (f : Fuse) : (s.fusing f).cur.yield = s.cur.yield := rfl
@[simp] theorem State.fusing_cur_idle (s : State) (f : Fuse) : (s.fusing f).cur.idle = s.cur.idle := rfl
@[simp] theorem State.fusing_cur_matrix (s : State) (f : Fuse) : (s.fusing f).cur.matrix = s.cur.matrix := rfl

/-! ## State.putTeam -/

@[simp] theorem State.putTeam_others (s : State) (t : Team) : (s.putTeam t).others = s.others := rfl
@[simp] theorem State.putTeam_teams (s : State) (t : Team) : (s.putTeam t).teams = s.teams.map (fun u => if isTeam t.grid t.clu t.team u then t else u) := rfl
@[simp] theorem State.putTeam_clusters (s : State) (t : Team) : (s.putTeam t).clusters = s.clusters := rfl
@[simp] theorem State.putTeam_cmds (s : State) (t : Team) : (s.putTeam t).cmds = s.cmds := rfl
@[simp] theorem State.putTeam_sched (s : State) (t : Team) : (s.putTeam t).sched = s.sched := rfl
@[simp] theorem State.putTeam_fault (s : State) (t : Team) : (s.putTeam t).fault = s.fault := rfl
@[simp] theorem State.putTeam_mem (s : State) (t : Team) : (s.putTeam t).mem = s.mem := rfl
@[simp] theorem State.putTeam_fabric (s : State) (t : Team) : (s.putTeam t).fabric = s.fabric := rfl
@[simp] theorem State.putTeam_link (s : State) (t : Team) : (s.putTeam t).link = s.link := rfl
@[simp] theorem State.putTeam_strudel (s : State) (t : Team) : (s.putTeam t).strudel = s.strudel := rfl
@[simp] theorem State.putTeam_ctx (s : State) (t : Team) : (s.putTeam t).ctx = s.ctx := rfl
@[simp] theorem State.putTeam_sec (s : State) (t : Team) : (s.putTeam t).sec = s.sec := rfl
@[simp] theorem State.putTeam_power (s : State) (t : Team) : (s.putTeam t).power = s.power := rfl
@[simp] theorem State.putTeam_mgmt (s : State) (t : Team) : (s.putTeam t).mgmt = s.mgmt := rfl
@[simp] theorem State.putTeam_node (s : State) (t : Team) : (s.putTeam t).node = s.node := rfl
@[simp] theorem State.putTeam_msi (s : State) (t : Team) : (s.putTeam t).msi = s.msi := rfl
@[simp] theorem State.putTeam_hostRead (s : State) (t : Team) : (s.putTeam t).hostRead = s.hostRead := rfl
@[simp] theorem State.putTeam_time (s : State) (t : Team) : (s.putTeam t).time = s.time := rfl
@[simp] theorem State.putTeam_agenda (s : State) (t : Team) : (s.putTeam t).agenda = s.agenda := rfl
@[simp] theorem State.putTeam_fresh (s : State) (t : Team) : (s.putTeam t).fresh = s.fresh := rfl
@[simp] theorem State.putTeam_nextId (s : State) (t : Team) : (s.putTeam t).nextId = s.nextId := rfl
@[simp] theorem State.putTeam_cur (s : State) (t : Team) : (s.putTeam t).cur = s.cur := rfl

/-! ## State.putCluster -/

@[simp] theorem State.putCluster_others (s : State) (c : Cluster) : (s.putCluster c).others = s.others := rfl
@[simp] theorem State.putCluster_teams (s : State) (c : Cluster) : (s.putCluster c).teams = s.teams := rfl
@[simp] theorem State.putCluster_clusters (s : State) (c : Cluster) : (s.putCluster c).clusters = s.clusters.map (fun d => if isCluster c.grid c.clu d then c else d) := rfl
@[simp] theorem State.putCluster_cmds (s : State) (c : Cluster) : (s.putCluster c).cmds = s.cmds := rfl
@[simp] theorem State.putCluster_sched (s : State) (c : Cluster) : (s.putCluster c).sched = s.sched := rfl
@[simp] theorem State.putCluster_fault (s : State) (c : Cluster) : (s.putCluster c).fault = s.fault := rfl
@[simp] theorem State.putCluster_mem (s : State) (c : Cluster) : (s.putCluster c).mem = s.mem := rfl
@[simp] theorem State.putCluster_fabric (s : State) (c : Cluster) : (s.putCluster c).fabric = s.fabric := rfl
@[simp] theorem State.putCluster_link (s : State) (c : Cluster) : (s.putCluster c).link = s.link := rfl
@[simp] theorem State.putCluster_strudel (s : State) (c : Cluster) : (s.putCluster c).strudel = s.strudel := rfl
@[simp] theorem State.putCluster_ctx (s : State) (c : Cluster) : (s.putCluster c).ctx = s.ctx := rfl
@[simp] theorem State.putCluster_sec (s : State) (c : Cluster) : (s.putCluster c).sec = s.sec := rfl
@[simp] theorem State.putCluster_power (s : State) (c : Cluster) : (s.putCluster c).power = s.power := rfl
@[simp] theorem State.putCluster_mgmt (s : State) (c : Cluster) : (s.putCluster c).mgmt = s.mgmt := rfl
@[simp] theorem State.putCluster_node (s : State) (c : Cluster) : (s.putCluster c).node = s.node := rfl
@[simp] theorem State.putCluster_msi (s : State) (c : Cluster) : (s.putCluster c).msi = s.msi := rfl
@[simp] theorem State.putCluster_hostRead (s : State) (c : Cluster) : (s.putCluster c).hostRead = s.hostRead := rfl
@[simp] theorem State.putCluster_time (s : State) (c : Cluster) : (s.putCluster c).time = s.time := rfl
@[simp] theorem State.putCluster_agenda (s : State) (c : Cluster) : (s.putCluster c).agenda = s.agenda := rfl
@[simp] theorem State.putCluster_fresh (s : State) (c : Cluster) : (s.putCluster c).fresh = s.fresh := rfl
@[simp] theorem State.putCluster_nextId (s : State) (c : Cluster) : (s.putCluster c).nextId = s.nextId := rfl
@[simp] theorem State.putCluster_cur (s : State) (c : Cluster) : (s.putCluster c).cur = s.cur := rfl

end Sys2Proof.Machine
end

