-- ==== Sys2Proof/Laws/Words.lean ====
section
/-! SUPPORT. What the end of a word can do, and what the shapes of the scalar, predicate and vector words can do: one lemma
for each shared operation. -/

namespace Sys2Proof.Machine

open Sys2Proof.Safety

theorem OnlyGroup.of_mem {s t : State} (h : t = { s with cur := t.cur }) : OnlyGroup s t := by
  refine ⟨h, fun a => ?_⟩
  rw [h]
  exact ⟨rfl, rfl, rfl⟩

theorem or_and_self (a b : BitVec 8) : (a ||| b) &&& a = a := by
  ext i
  simp
  tauto

theorem Regs.unbindFlag_eq (r : Regs) (i : Nat) : r.unbindFlag i = { r with fpend := (r.unbindFlag i).fpend } := by
  unfold Regs.unbindFlag; split <;> rfl

/-- What the flags of a run's loads do to the registers: only f0 to f11. -/
theorem Run.flagsAfter_regs (r : Run) (x : Regs) (l a b : Bool) :
    (r.flagsAfter x l a b).2 = { x with fpend := (r.flagsAfter x l a b).2.fpend } := by
  unfold Run.flagsAfter
  simp only
  split <;> split <;> simp [Regs.unbindFlag] <;> (repeat' split) <;> rfl

@[simp] theorem Run.flagsAfter_temp (r : Run) (x : Regs) (l a b : Bool) (i : Nat) :
    (r.flagsAfter x l a b).1.temp i = r.temp i := rfl

@[simp] theorem Run.flagsAfter_sees (r : Run) (x : Regs) (l a b : Bool) (n : Nat) (y : Lanes) :
    (r.flagsAfter x l a b).1.sees n y = r.sees n y := rfl

theorem SameResults.refl (x : MatrixState) : SameResults x x := ⟨rfl, rfl⟩

/-- The end of a word: the program counter advances, FSTAT and f0 to f11 follow, no other register changes. -/
theorem State.finish_ends (s : State) (tm : Timing) (j : Option Loc) (srcs : List Loc) (dests : List Dest)
    (fl : List (BitVec 8)) (dec : Option Decision) :
    let t := s.finish tm j srcs dests fl dec
    Passed s t ∧ Ended s t (orFlags fl) ∧ NoRegs s t ∧ t.cur.frag.fuse = .none := by
  unfold State.finish
  cases hr : s.cur.run with
  | none =>
    refine ⟨⟨OnlyGroup.of_mem rfl, ?_, ?_⟩, ⟨?_, fun _ => ⟨?_, rfl, rfl⟩⟩, ⟨rfl, ?_, rfl⟩, rfl⟩
    · exact ⟨rfl, SameResults.refl _⟩
    · simp only [MovedTo]; rfl
    · exact or_and_self _ _
    · simpa using hr
    · intro r; cases r <;> simp [State.getRef, hr]
  | some r =>
    simp only
    refine ⟨⟨OnlyGroup.of_mem rfl, ?_, ?_⟩, ⟨?_, fun h => by simp [hr] at h⟩, ⟨?_, ?_, rfl⟩, rfl⟩
    · exact ⟨rfl, SameResults.refl _⟩
    · simp only [MovedTo]; rfl
    · simp only [State.advance_cur_regs]
      rw [Run.flagsAfter_regs]
      exact or_and_self _ _
    · simp only [State.advance_cur_regs]
      rw [Run.flagsAfter_regs]
    · intro x
      cases x with
      | reg n =>
        simp only [State.getRef, State.advance_cur_regs, hr]
        rw [Run.flagsAfter_regs]
        rfl
      | temp i => simp only [State.getRef, hr]; rfl

/-! ## A register written before the end of a word -/

/-- The frame of a word whose state before its end differs from `s` in registers and temporaries only. -/
theorem Passed.of_regs {s u t : State}
    (hu : u = { s with cur := { s.cur with regs := u.cur.regs, run := u.cur.run, matrix := u.cur.matrix } })
    (hm : SameResults s.cur.matrix u.cur.matrix) (h : Passed u t) : Passed s t := by
  obtain ⟨⟨h1, -⟩, ⟨h2, h4⟩, h3⟩ := h
  refine ⟨OnlyGroup.of_mem ?_, ⟨?_, ?_, h4.2.trans hm.2⟩, ?_⟩
  · rw [h1, hu]
  · rw [h2, hu]
  · rw [h4.1, hm.1]
  · unfold MovedTo at *; rw [h3, hu]

/-- What a scalar form can do. -/
theorem State.scalar_spec (s : State) (d : BitVec 6) (x : DWord) (tm : Timing) (srcs : List Loc) (dests : List Dest)
    (fl : List (BitVec 8)) :
    let t := (s.putS d x).finish tm none srcs dests fl none
    t.getS d = x ∧ (∀ e, e ≠ d → t.getS e = s.getS e) ∧ Passed s t ∧ OnlyScalars s t ∧ Ended s t (orFlags fl) := by
  intro t
  obtain ⟨h1, h2, ⟨h3, h4, h5⟩, -⟩ := State.finish_ends (s.putS d x) tm none srcs dests fl none
  have hs : t.cur.regs.s = sput 0#64 s.cur.regs.s d.toNat x := by
    show ((s.putS d x).finish tm none srcs dests fl none).cur.regs.s = _
    rw [h3]; rfl
  refine ⟨?_, fun e he => ?_, Passed.of_regs rfl (SameResults.refl _) h1, ⟨?_, fun r => ?_, h5⟩, h2.1, fun hr => ?_⟩
  · simp [State.getS, hs]
  · simp only [State.getS, hs]
    exact sget_sput_ne _ _ _ (fun h => he (BitVec.eq_of_toNat_eq h))
  · show ((s.putS d x).finish tm none srcs dests fl none).cur.regs = _
    rw [h3]; rfl
  · rw [h4 r]; cases r <;> rfl
  · exact h2.2 hr

/-- What a compare into a condition flag can do. -/
theorem State.cond_spec (s : State) (k : BitVec 2) (b : Bool) (tm : Timing) (srcs : List Loc) (dests : List Dest)
    (fl : List (BitVec 8)) :
    let t := (s.putK k b).finish tm none srcs dests fl none
    t.getK k = b ∧ (∀ j, j ≠ k → t.getK j = s.getK j) ∧ Passed s t ∧ OnlyConds s t ∧ Ended s t (orFlags fl) := by
  intro t
  obtain ⟨h1, h2, ⟨h3, h4, h5⟩, -⟩ := State.finish_ends (s.putK k b) tm none srcs dests fl none
  have hs : t.cur.regs.k = putBit s.cur.regs.k k.toNat b := by
    show ((s.putK k b).finish tm none srcs dests fl none).cur.regs.k = _
    rw [h3]; rfl
  have bit : ∀ (x : BitVec 4) (k j : BitVec 2) (b : Bool),
      (putBit x k.toNat b).getLsbD j.toNat = if j = k then b else x.getLsbD j.toNat := by decide
  refine ⟨?_, fun e he => ?_, Passed.of_regs rfl (SameResults.refl _) h1, ⟨?_, fun r => ?_, h5⟩, h2.1, fun hr => ?_⟩
  · simp [State.getK, hs, bit]
  · simp [State.getK, hs, bit, he]
  · show ((s.putK k b).finish tm none srcs dests fl none).cur.regs = _
    rw [h3]; rfl
  · rw [h4 r]; cases r <;> rfl
  · exact h2.2 hr

/-- What a word that writes a predicate can do. -/
theorem State.pred_spec (s : State) (d : BitVec 3) (m : Mask) (tm : Timing) (srcs : List Loc) (dests : List Dest)
    (fl : List (BitVec 8)) (dec : Option Decision) :
    let t := (s.putP d m).finish tm none srcs dests fl dec
    t.getP d = m ∧ (∀ q, q ≠ d → t.getP q = s.getP q) ∧ Passed s t ∧ OnlyPreds s t ∧ Ended s t (orFlags fl) := by
  intro t
  obtain ⟨h1, h2, ⟨h3, h4, h5⟩, -⟩ := State.finish_ends (s.putP d m) tm none srcs dests fl dec
  have hs : t.cur.regs.p = sput 0#32 s.cur.regs.p d.toNat m := by
    show ((s.putP d m).finish tm none srcs dests fl dec).cur.regs.p = _
    rw [h3]; rfl
  refine ⟨?_, fun e he => ?_, Passed.of_regs rfl (SameResults.refl _) h1, ⟨?_, fun r => ?_, h5⟩, h2.1, fun hr => ?_⟩
  · simp [State.getP, hs]
  · simp only [State.getP, hs]
    exact sget_sput_ne _ _ _ (fun h => he (BitVec.eq_of_toNat_eq h))
  · show ((s.putP d m).finish tm none srcs dests fl dec).cur.regs = _
    rw [h3]; rfl
  · rw [h4 r]; cases r <;> rfl
  · exact h2.2 hr

/-! ## Vector registers and temporaries -/

theorem mkLanes_congr {f g : Nat → Word} (h : ∀ l, l < 32 → f l = g l) : mkLanes f = mkLanes g :=
  List.map_congr_left (fun l hl => h l (List.mem_range.mp hl))

@[simp] theorem laneOf_mkLanes (f : Nat → Word) {l : Nat} (h : l < 32) : laneOf (mkLanes f) l = f l := by
  simp [laneOf, mkLanes, h]

theorem laneOf_map {f : Nat → Word} {l : Nat} (h : l < 32) : laneOf ((List.range 32).map f) l = f l := laneOf_mkLanes f h

theorem laneOf_mergeLanes (m : Mask) (x y : Lanes) {l : Nat} (h : l < 32) :
    laneOf (mergeLanes m x y) l = if m.getLsbD l then laneOf y l else laneOf x l := laneOf_mkLanes _ h

/-- A register that can be written: a temporary only inside a run. -/
def State.holds (s : State) (r : RegRef) : Prop := ∀ i, r = .temp i → s.cur.run.isSome = true

theorem State.holds_of_ref {s : State} {n : Nat} {r : RegRef} (h : s.ref n = some r) : s.holds r := by
  intro i hi
  subst hi
  unfold State.ref at h
  split at h
  · rename_i hc; simp_all
  · split at h <;> simp at h

theorem Run.temp_put (r : Run) (m : Mask) (n k : Nat) (x : Lanes) :
    Run.temp { r with temps := sput zeroLanes r.temps n (mergeLanes m (sget zeroLanes r.temps n) x),
                      twritten := sput 0#32 r.twritten n (sget 0#32 r.twritten n ||| m) } k
      = if k = n then mergeLanes m (r.temp n) x else r.temp k := by
  unfold Run.temp
  by_cases h : k = n
  · subst h
    simp only [sget_sput_same, if_true]
    refine mkLanes_congr (fun l hl => ?_)
    simp only [laneOf_mergeLanes _ _ _ hl, BitVec.getLsbD_or]
    cases m.getLsbD l <;> simp
  · simp [sget_sput_ne _ _ _ h, h]

theorem Run.sees_found (r : Run) (m : Mask) (n : Nat) (old x : Lanes) :
    (r.found n m).sees n (mergeLanes m old x) = mergeLanes m (r.sees n old) x := by
  unfold Run.sees Run.found
  simp only [sget_sput_same]
  refine mkLanes_congr (fun l hl => ?_)
  simp only [laneOf_mergeLanes _ _ _ hl, BitVec.getLsbD_and, BitVec.getLsbD_not, hl]
  cases m.getLsbD l <;> simp

theorem Run.sees_found_ne (r : Run) (m : Mask) {n k : Nat} (h : k ≠ n) (x : Lanes) : (r.found n m).sees k x = r.sees k x := by
  simp [Run.sees, Run.found, sget_sput_ne _ _ _ h]

/-- What a register holds after a write of the lanes `m` of a register. -/
theorem State.getRef_putRef (s : State) (m : Mask) (r q : RegRef) (x : Lanes) (hr : s.holds r) :
    (s.putRef m r x).getRef q = if q = r then mergeLanes m (s.getRef r) x else s.getRef q := by
  cases hrun : s.cur.run with
  | none =>
    cases r with
    | reg n => cases q <;> simp [State.putRef, State.getRef, hrun, sget_sput]
    | temp n => simpa [hrun] using hr n rfl
  | some run =>
    cases r with
    | reg n =>
      cases q with
      | reg k =>
        by_cases h : k = n
        · subst h; simp [State.putRef, State.getRef, hrun, Run.sees_found]
        · simp [State.putRef, State.getRef, hrun, sget_sput_ne _ _ _ h, Run.sees_found_ne _ _ h, h]
      | temp k => simp [State.putRef, State.getRef, hrun, Run.temp, Run.found]
    | temp n =>
      cases q with
      | reg k => simp [State.putRef, State.getRef, hrun, Run.sees]
      | temp k => simp [State.putRef, State.getRef, hrun, Run.temp_put]

theorem MatrixState.wrote_same (x : MatrixState) (n : Nat) (m : Mask) : SameResults x (x.wrote n m) := by
  unfold MatrixState.wrote
  split
  · exact SameResults.refl _
  · refine ⟨rfl, ?_⟩
    simp only [List.map_map]
    refine List.map_congr_left (fun e _ => ?_)
    simp only [Function.comp_apply]
    split <;> rfl

/-- A write of a register changes vector registers and temporaries only, and the record of which lanes were written. -/
theorem State.putRef_frame (s : State) (m : Mask) (r : RegRef) (x : Lanes) :
    s.putRef m r x = { s with cur := { s.cur with regs := (s.putRef m r x).cur.regs, run := (s.putRef m r x).cur.run,
                                                  matrix := (s.putRef m r x).cur.matrix } }
      ∧ (s.putRef m r x).cur.regs = { s.cur.regs with v := (s.putRef m r x).cur.regs.v }
      ∧ SameResults s.cur.matrix (s.putRef m r x).cur.matrix
      ∧ (s.cur.run = none → (s.putRef m r x).cur.run = none) := by
  cases r with
  | reg n => exact ⟨rfl, rfl, MatrixState.wrote_same _ _ _, fun h => by simp [State.putRef, h]⟩
  | temp n =>
    by_cases hrun : s.cur.run = none
    · have h : s.putRef m (.temp n) x = s := by simp [State.putRef, hrun]
      rw [h]
      exact ⟨rfl, rfl, SameResults.refl _, id⟩
    · obtain ⟨run, hr⟩ := Option.ne_none_iff_exists'.mp hrun
      have h : SameResults s.cur.matrix (s.putRef m (.temp n) x).cur.matrix := by
        simp only [State.putRef, hr]; exact SameResults.refl _
      refine ⟨?_, ?_, h, fun h => absurd h hrun⟩ <;> simp only [State.putRef, hr]

/-- What a vector word with one destination can do. -/
theorem State.vector_spec (s : State) (tm : Timing) (j : Option Loc) (srcs : List RegRef) (rd : RegRef) (extra : List Loc)
    (f : Nat → List Word → LaneOut) (dec : Option Decision) (hd : s.holds rd) :
    let t := s.vector tm j srcs [rd] extra f dec
    (∀ l, l < 32 → laneOf (t.getRef rd) l =
      if s.active.getLsbD l then (f l (srcs.map (fun r => laneOf (s.getRef r) l))).1.getD 0 0#32 else laneOf (s.getRef rd) l)
      ∧ (∀ r, r ≠ rd → t.getRef r = s.getRef r) ∧ Passed s t ∧ OnlyVectors s t
      ∧ Ended s t (orFlags ((List.range 32).map (fun l =>
          if s.active.getLsbD l then (f l (srcs.map (fun r => laneOf (s.getRef r) l))).2 else 0#8))) := by
  intro t
  have ht : t = (s.putRef s.active rd ((List.range 32).map (fun l =>
      (if s.active.getLsbD l then f l (srcs.map (fun r => laneOf (s.getRef r) l)) else ([], 0#8)).1.getD 0 0#32))).finish tm j
        (srcs.map Loc.vec ++ extra) [Dest.vec rd (s.getRef rd)] ((List.range 32).map (fun l =>
          if s.active.getLsbD l then (f l (srcs.map (fun r => laneOf (s.getRef r) l))).2 else 0#8)) dec := by
    simp only [t, State.vector, List.zipIdx_cons, List.zipIdx_nil, List.foldl_cons, List.foldl_nil, List.map_map,
      List.map_cons, List.map_nil, Function.comp_def]
    congr 1
    apply List.map_congr_left
    intro l _
    split <;> rfl
  obtain ⟨g1, g2, g3, g4⟩ := State.putRef_frame s s.active rd ((List.range 32).map (fun l =>
      (if s.active.getLsbD l then f l (srcs.map (fun r => laneOf (s.getRef r) l)) else ([], 0#8)).1.getD 0 0#32))
  have hg := fun q => State.getRef_putRef s s.active rd q ((List.range 32).map (fun l =>
      (if s.active.getLsbD l then f l (srcs.map (fun r => laneOf (s.getRef r) l)) else ([], 0#8)).1.getD 0 0#32)) hd
  generalize s.putRef s.active rd _ = u at ht g1 g2 g3 g4 hg
  obtain ⟨h1, h2, ⟨h3, h4, h5⟩, -⟩ := State.finish_ends u tm j (srcs.map Loc.vec ++ extra) [Dest.vec rd (s.getRef rd)]
    ((List.range 32).map (fun l =>
      if s.active.getLsbD l then (f l (srcs.map (fun r => laneOf (s.getRef r) l))).2 else 0#8)) dec
  rw [ht]
  refine ⟨fun l hl => ?_, fun r hr => ?_, Passed.of_regs g1 g3 h1, ?_, ?_, fun hr => ?_⟩
  · rw [h4, hg, if_pos rfl, mergeLanes, laneOf_mkLanes _ hl]
    split
    · rw [laneOf_map hl, if_pos ‹_›]
    · rfl
  · rw [h4, hg, if_neg hr]
  · unfold OnlyVectors; rw [h3, g2]
  · have := h2.1; rwa [show u.cur.regs.fstat = s.cur.regs.fstat by rw [g2]] at this
  · have := h2.2 (g4 hr)
    rwa [show u.cur.regs.fstat = s.cur.regs.fstat by rw [g2], show u.cur.regs.fpend = s.cur.regs.fpend by rw [g2]] at this

end Sys2Proof.Machine
end

