-- ==== Sys2Proof/Laws/Traps.lean ====
section
/-! SUPPORT. What taking a trap can do (R312 to R321), and what a jump or a wait can do. -/

namespace Sys2Proof.Machine

open Sys2Proof.Safety

theorem insertRecord_mem (r : Record) (xs : List Record) : r ∈ insertRecord r xs := by
  induction xs with
  | nil => simp [insertRecord]
  | cons x xs ih => unfold insertRecord; split <;> simp [ih]

theorem insertRecord_keeps (r x : Record) (xs : List Record) (h : x ∈ xs) : x ∈ insertRecord r xs := by
  induction xs with
  | nil => simp at h
  | cons y ys ih =>
    unfold insertRecord
    split
    · simp [h]
    · rcases List.mem_cons.mp h with rfl | h
      · simp
      · simp [ih h]

/-- The fault unit takes a record or counts it as lost. -/
theorem State.accept_spec (s : State) (r : Record) :
    (s.accept r = { s with fault := (s.accept r).fault })
      ∧ (r ∈ (s.accept r).fault.records ∨ (s.accept r).fault.lost = min 255 (s.fault.lost + 1)) := by
  unfold State.accept
  split
  · exact ⟨rfl, .inr rfl⟩
  · exact ⟨rfl, .inl (insertRecord_mem r _)⟩

theorem State.report_spec (s : State) (r : Record) (p : Bool) :
    (s.report r p = { s with fault := (s.report r p).fault, msi := (s.report r p).msi })
      ∧ (r ∈ (s.report r p).fault.records ∨ (s.report r p).fault.lost = min 255 (s.fault.lost + 1)) := by
  obtain ⟨h1, h2⟩ := State.accept_spec s r
  unfold State.report
  cases p
  · simp only [Bool.false_eq_true, if_false]
    refine ⟨?_, h2⟩
    rw [h1]
  · simp only [if_true]
    refine ⟨?_, h2⟩
    rw [h1]

theorem Group.settleRun_frame (g : Group) :
    g.settleRun = { g with regs := { g.regs with fstat := g.settleRun.regs.fstat }, run := g.settleRun.run } := by
  unfold Group.settleRun
  cases h : g.run with
  | none => cases g; simp_all
  | some r => rfl

/-- Taking a trap: everything it can do. -/
theorem State.trapSkip_spec (s : State) (cause : Nat) (a : TrapArgs) (next : Addr) :
    Trapped s (s.trapSkip cause a next) cause a.fmask ∧ TrapOnly s (s.trapSkip cause a next)
      ∧ (s.trapSkip cause a next).cur.sibs = s.cur.sibs ∧ (s.trapSkip cause a next).cur.entries = s.cur.entries := by
  obtain ⟨h1, h2⟩ := State.report_spec
    { ({ s.atUnit with cur := s.atUnit.cur.settleRun } : State) with
      cur := s.atUnit.cur.settleRun.stopped cause a.fmask s.cur.run.isNone next s.cur.frag.member }
    (({ s.atUnit with cur := s.atUnit.cur.settleRun } : State).recordOf s.atUnit.cur.settleRun cause s.unitPc.toNat a.fmask
      a.addr a.aux) s.atUnit.cur.settleRun.id.privileged
  have hs := Group.settleRun_frame s.atUnit.cur
  generalize hg : s.atUnit.cur.settleRun = g at *
  have e : s.trapSkip cause a next = State.report
    { ({ s.atUnit with cur := g } : State) with
      cur := g.stopped cause a.fmask s.cur.run.isNone next s.cur.frag.member }
    (({ s.atUnit with cur := g } : State).recordOf g cause s.unitPc.toNat a.fmask a.addr a.aux) g.id.privileged := by
    unfold State.trapSkip State.stopWith
    rw [hg]
  rw [e]
  generalize State.report _ _ _ = t at *
  subst_vars
  refine ⟨⟨⟨{ cause := cause, frag := s.cur.frag.member, modal := s.cur.run.isNone, skipTo := next }, ?_, rfl⟩, ?_, ?_, ?_, ?_, ?_⟩,
    ?_, ?_, ?_⟩
  · rw [h1]; rfl
  · rw [h1]; simp only [Group.stopped]; rw [hs]; rfl
  · rw [h1]; simp only [Group.stopped]; rw [hs]; rfl
  · rw [h1]; simp only [Group.stopped]; rw [hs]; rfl
  · intro a; rw [h1]; exact ⟨rfl, rfl, rfl⟩
  · rcases h2 with h2 | h2
    · refine .inl ⟨_, h2, ?_⟩
      simp only [State.recordOf]
      rw [hs]
      exact ⟨rfl, rfl, rfl, rfl, rfl, rfl, rfl, rfl, rfl, rfl, rfl⟩
    · exact .inr h2
  · unfold TrapOnly; rw [h1]; rfl
  · rw [h1]; simp only [Group.stopped]; rw [hs]; rfl
  · rw [h1]; simp only [Group.stopped]; rw [hs]; rfl

theorem State.trap_spec (s : State) (cause : Nat) (a : TrapArgs) :
    Trapped s (s.trap cause a) cause a.fmask ∧ TrapOnly s (s.trap cause a) :=
  ⟨(State.trapSkip_spec s cause a _).1, (State.trapSkip_spec s cause a _).2.1⟩

theorem State.trap0_spec (s : State) (cls detail : Nat) :
    Trapped s (s.trap0 cls detail) (32 * cls + detail) 0#32 ∧ TrapOnly s (s.trap0 cls detail) :=
  State.trap_spec s _ _

theorem State.goto_spec (s : State) (pc : Addr) : Jumped s (s.goto pc) pc := rfl

theorem State.advance_spec (s : State) : Jumped s s.advance (s.cur.frag.pc + 4#57) := rfl

theorem State.waitAt_spec (s : State) (w : Wait) : WaitsFor s (s.waitAt w) w := rfl

end Sys2Proof.Machine
end

