-- ==== Sys2Proof/Laws/Memory.lean ====
section
/-! SUPPORT. What the operations on memory can do: bytes read after a write, the canonical form, the frame of a translation. -/

namespace Sys2Proof.Machine

open Sys2Proof.Safety

@[simp] theorem readBytes_length (m : Memory) (a n : Nat) : (readBytes m a n).length = n := by
  induction n generalizing a with
  | zero => rfl
  | succ n ih => simp [readBytes, ih]

/-- A byte of `n` bytes read from `a` on. -/
theorem readBytes_getD (m : Memory) (a n i : Nat) (h : i < n) : (readBytes m a n).getD i 0#8 = sget 0#8 m (a + i) := by
  induction n generalizing a i with
  | zero => omega
  | succ n ih =>
    cases i with
    | zero => simp [readBytes]
    | succ i =>
      simp only [readBytes, List.getD_cons_succ]
      rw [ih (a + 1) i (by omega)]
      congr 1
      omega

/-- Writing bytes: a byte of the range is the byte written, every other byte is as before. -/
theorem sget_writeBytes (m : Memory) (a : Nat) (bs : List Byte) (k : Nat) :
    sget 0#8 (writeBytes m a bs) k = if a ≤ k ∧ k < a + bs.length then bs.getD (k - a) 0#8 else sget 0#8 m k := by
  induction bs generalizing m a with
  | nil =>
    simp [writeBytes]
  | cons b bs ih =>
    simp only [writeBytes, ih, sget_sput, List.length_cons]
    rcases Nat.lt_trichotomy k a with h | h | h
    · rw [if_neg (by omega), if_neg (by omega), if_neg (by omega)]
    · subst h; simp
    · by_cases h2 : k < a + 1 + bs.length
      · rw [if_pos (by omega), if_pos (by omega)]
        have e : k - a = (k - (a + 1)) + 1 := by omega
        rw [e, List.getD_cons_succ]
      · rw [if_neg (by omega), if_neg (by omega), if_neg (by omega)]

/-- Writing bytes keeps the canonical form. -/
theorem writeBytes_wf (m : Memory) (a : Nat) (bs : List Byte) (w : m.wf = true) : (writeBytes m a bs).wf = true := by
  induction bs generalizing m a with
  | nil => exact w
  | cons b bs ih => exact ih _ _ (swf_sput _ _ _ _ w)

/-- A write to package memory reaches its bytes and no other byte of any memory. -/
theorem Mem.pkgWrite_bytes (m : Mem) (a : Nat) (bs : List Byte) :
    (∀ k, sget 0#8 (m.pkgWrite a bs).pkg k = if a ≤ k ∧ k < a + bs.length then bs.getD (k - a) 0#8 else sget 0#8 m.pkg k)
      ∧ (m.pkgWrite a bs).tile = m.tile ∧ (m.pkgWrite a bs).far = m.far :=
  ⟨fun k => sget_writeBytes m.pkg a bs k, rfl, rfl⟩

/-- A write to tile memory reaches its bytes and no other byte of any memory. -/
theorem Mem.tileWrite_bytes (m : Mem) (a : Nat) (bs : List Byte) :
    (∀ k, sget 0#8 (m.tileWrite a bs).tile k = if a ≤ k ∧ k < a + bs.length then bs.getD (k - a) 0#8 else sget 0#8 m.tile k)
      ∧ (m.tileWrite a bs).pkg = m.pkg ∧ (m.tileWrite a bs).far = m.far :=
  ⟨fun k => sget_writeBytes m.tile a bs k, rfl, rfl⟩

theorem Mem.pkgWrite_wf (m : Mem) (a : Nat) (bs : List Byte) (w : m.pkg.wf = true) : (m.pkgWrite a bs).pkg.wf = true :=
  writeBytes_wf _ _ _ w

theorem Mem.tileWrite_wf (m : Mem) (a : Nat) (bs : List Byte) (w : m.tile.wf = true) : (m.tileWrite a bs).tile.wf = true :=
  writeBytes_wf _ _ _ w

theorem markWords_nil (w n : Nat) : markWords [] w false n = [] := by
  induction n generalizing w with
  | zero => rfl
  | succ n ih => simp [markWords, sput, sdel, ih]

theorem anyMarked_nil (w n : Nat) : anyMarked [] w n = false := by
  induction n generalizing w with
  | zero => rfl
  | succ n ih => simp [anyMarked, ih]

/-- The reset state's memories are in their canonical form. -/
theorem State.reset_canonical : Canonical State.reset := ⟨rfl, rfl, rfl⟩

/-- A translation changes nothing but the cached translations and the number of free values drawn. -/
theorem State.translate_frame (s : State) (va : Nat) :
    (s.translate va).1 = { s with mem := { s.mem with tlb := (s.translate va).1.mem.tlb }, fresh := (s.translate va).1.fresh } := by
  unfold State.translate State.cacheWalk
  dsimp only
  repeat' split
  all_goals rfl

/-- A translation whose result is settled gives that leaf. -/
theorem State.translate_maps {s : State} {va : Nat} {l : Leaf} (h : MapsTo s va l) : (s.translate va).2 = .ok l := by
  obtain ⟨h1, h2, h3⟩ := h
  have he : (s.mem.leavesFor va).filter (fun x => x != l) = [] :=
    List.filter_eq_nil_iff.mpr (fun x hx => by simp [h1 x hx])
  unfold State.translate
  simp only [h2, h3, he, List.isEmpty_nil, Bool.and_self, if_true]
  split <;> rfl

/-- A walk that reads every entry and ends at a page larger than 64 KiB does not depend on the entry that a 64 KiB page
would test. -/
theorem walkFrom_pick (m : Mem) (c : Nat × Nat) (va p q : Nat) (l : Leaf) (n : Nat) :
    ∀ table, walkFrom (fun _ => none) m c va p n table = .ok l → 16 < l.lg →
      walkFrom (fun _ => none) m c va q n table = .ok l := by
  induction n with
  | zero =>
    intro table h hl
    exfalso
    have small : ∀ e, (leafOf 0 e).lg ≤ 16 := by
      intro e; simp only [leafOf, leafLg]; split <;> omega
    unfold walkFrom at h
    simp only at h
    split at h
    · simp at h
    · split at h
      · split at h
        · simp at h
        · simp only [Except.ok.injEq] at h; subst h; exact absurd hl (by have := small ‹_›; omega)
      · simp only [Except.ok.injEq] at h; subst h; exact absurd hl (by have := small ‹_›; omega)
  | succ n ih =>
    intro table h hl
    unfold walkFrom at h ⊢
    simp only at h ⊢
    split at h
    · simp at h
    · split at h
      · rename_i hk; simp [hk, ih _ h hl]
      · rename_i hk; simp [hk, h]

/-- A settled translation of a page larger than 64 KiB, from one walk; nothing is cached. -/
theorem mapsTo_of_walk {s : State} {va : Nat} {l : Leaf} (h1 : s.mem.tlb = [])
    (h2 : (walk s.mem s.ctxArea va 0).toOption = some l) (h3 : 16 < l.lg) : MapsTo s va l := by
  refine ⟨fun x hx => by simp [Mem.leavesFor, h1] at hx, by simp [State.staleTables, Mem.tableFor, h1], fun q => ?_⟩
  have h : walk s.mem s.ctxArea va 0 = .ok l := by
    cases hw : walk s.mem s.ctxArea va 0 with
    | error e => rw [hw] at h2; simp [Except.toOption] at h2
    | ok x => rw [hw] at h2; simp [Except.toOption] at h2; rw [h2]
  exact walkFrom_pick _ _ _ 0 q l _ _ h h3

end Sys2Proof.Machine
end

