-- ==== Sys2Proof/Tests/States.lean ====
section
/-! SUPPORT. Small states for the tests: a group of 32 lanes on core 0 of node 50, its team with 16 KiB of tile memory at page 0
and eight table entries, its cluster, and a job space whose first 2 MiB page maps package memory from 2 MiB on. -/

namespace Sys2Proof.Tests

set_option Elab.async false

open Sys2Proof.Machine Sys2Proof.Safety Sys2Proof.Claims

/-- The next state of an outcome; the reset state where there is none. -/
def nextOf (o : Out) : State := match o with | .next t => t | _ => State.reset

/-- A group with 128 vector registers and 2 accumulators at 0x100, not privileged. -/
def calm : State :=
  let s := State.reset.withGroup
  { s with
    node := 50#12,
    cur := { s.cur with
      id := { s.cur.id with privileged := false },
      regs := { s.cur.regs with s := [] },
      frag := { s.cur.frag with pc := 0x100#57 } } }

/-- The group has been launched privileged (R334). -/
def chief : State := { calm with cur := { calm.cur with id := { calm.cur.id with privileged := true } } }

/-- Scalar registers, by number. -/
def withS (s : State) (xs : SMap DWord) : State := { s with cur := { s.cur with regs := { s.cur.regs with s := xs } } }

/-- Predicates, by number. -/
def withP (s : State) (xs : SMap Mask) : State := { s with cur := { s.cur with regs := { s.cur.regs with p := xs } } }

/-- Vector registers, by effective number. -/
def withV (s : State) (xs : SMap Lanes) : State := { s with cur := { s.cur with regs := { s.cur.regs with v := xs } } }

/-- The current fragment changed. -/
def withFrag (s : State) (f : Frag → Frag) : State := { s with cur := { s.cur with frag := f s.cur.frag } }

/-- A vector register whose lane `l` holds `f l`. -/
def lanes (f : Nat → Nat) : Lanes := (List.range 32).map (fun l => BitVec.ofNat 32 (f l))

/-- A run at 0x100 of the words given, with its first word issued. -/
def runOf (ws : List Instr) : Run :=
  { base := 0x100#57, len := ws.length, clock := 1, flagLd := 15, flagMrd := 15, words := ws, temps := [], seed := 0, lost := [], twritten := [],
    flight := [], deferred := none, loadsLeft := 0, mrdsLeft := 0, ldDone := false, mrdDone := false }

/-- `calm` inside an open run. -/
def inRunOf (ws : List Instr) : State :=
  { calm with cur := { calm.cur with run := some (runOf ws), frag := { calm.cur.frag with pc := 0x104#57 } } }

/-- The leaf of the page that `calm` maps. -/
def page0 : Leaf := { kind := 1, read := true, write := true, exec := true, unit := 0, addr := 0x200000, lg := 21 }

/-! ## The page at 0 -/

theorem ok_of {ε α : Type} (x : Except ε α) (y : α) (h : x.toOption = some y) : x = .ok y := by
  cases x with
  | error _ => simp [Except.toOption] at h
  | ok z => simp [Except.toOption] at h; rw [h]

theorem readBytes_same (m n : Memory) (k : Nat) : ∀ a, (∀ i, i < k → sget 0#8 m (a + i) = sget 0#8 n (a + i)) →
    readBytes m a k = readBytes n a k := by
  induction k with
  | zero => exact fun _ _ => rfl
  | succ k ih =>
    intro a h
    have h0 : sget 0#8 m a = sget 0#8 n a := h 0 (by omega)
    have ht := ih (a + 1) (fun i hi => by have := h (i + 1) (by omega); rwa [← Nat.add_assoc, Nat.add_right_comm] at this)
    rw [readBytes, readBytes, h0, ht]

theorem pkgWord_same (m n : Mem) (a : Nat) (h : ∀ k, k < 8 → sget 0#8 m.pkg (a + k) = sget 0#8 n.pkg (a + k)) :
    pkgWord m a = pkgWord n a := by
  rw [pkgWord, pkgWord, readBytes_same _ _ _ a h]

theorem checkEntry_same (m n : Mem) (c : Nat × Nat) (a level : Nat) (hm : m.pkgPoison = []) (hn : n.pkgPoison = [])
    (h : ∀ k, k < 8 → sget 0#8 m.pkg (a + k) = sget 0#8 n.pkg (a + k)) : checkEntry m c a level = checkEntry n c a level := by
  unfold checkEntry pkgPoisoned
  rw [hm, hn, pkgWord_same m n a h]

/-- The four table entries of the page at 0, in place with no poison about. -/
def Tables (m : Mem) (c : Nat × Nat) : Prop :=
  m.pkgPoison = [] ∧ m.jptb.toNat / 4096 % 2 ^ 19 * 4096 = 0x1000
    ∧ (checkEntry m c 0x1000 4).toOption = some (2 ^ 63 + 0x2000) ∧ (checkEntry m c 0x2000 3).toOption = some (2 ^ 63 + 0x3000)
    ∧ (checkEntry m c 0x3000 2).toOption = some (2 ^ 63 + 0x4000)
    ∧ (checkEntry m c 0x4000 1).toOption = some (2 ^ 63 + 2 ^ 61 + 2 ^ 60 + 2 ^ 59 + 2 ^ 58 + 0x200000)

theorem walk_page0 (m : Mem) (c : Nat × Nat) (h : Tables m c) (va pick : Nat) (hv : va < 2 ^ 21) : walk m c va pick = .ok page0 := by
  obtain ⟨-, j, e4, e3, e2, e1⟩ := h
  have d (n : Nat) (hn : 21 ≤ n) : va / 2 ^ n % 512 = 0 := by
    have : va / 2 ^ n = 0 := Nat.div_eq_of_lt (lt_of_lt_of_le hv (Nat.pow_le_pow_right (by decide) hn))
    rw [this]
  rw [walk, Mem.root, j, walkFrom, d (12 + 9 * (3 + 1)) (by decide), Nat.mul_zero, Nat.add_zero, ok_of _ _ e4]
  simp only [show entryKind (2 ^ 63 + 0x2000) = 0 from by decide, if_true, show entryAddr (2 ^ 63 + 0x2000) = 0x2000 from by decide]
  rw [walkFrom, d (12 + 9 * (2 + 1)) (by decide), Nat.mul_zero, Nat.add_zero, ok_of _ _ e3]
  simp only [show entryKind (2 ^ 63 + 0x3000) = 0 from by decide, if_true, show entryAddr (2 ^ 63 + 0x3000) = 0x3000 from by decide]
  rw [walkFrom, d (12 + 9 * (1 + 1)) (by decide), Nat.mul_zero, Nat.add_zero, ok_of _ _ e2]
  simp only [show entryKind (2 ^ 63 + 0x4000) = 0 from by decide, if_true, show entryAddr (2 ^ 63 + 0x4000) = 0x4000 from by decide]
  rw [walkFrom, d (12 + 9 * (0 + 1)) (by decide), Nat.mul_zero, Nat.add_zero, ok_of _ _ e1]
  rfl

theorem tables_page0 (m : Mem) (c : Nat × Nat) (h : Tables m c) (va : Nat) (hv : va < 2 ^ 21) :
    walkTables m c va 4 m.root = [(4, 0x2000), (3, 0x3000), (2, 0x4000)] := by
  obtain ⟨-, j, e4, e3, e2, e1⟩ := h
  have d (n : Nat) (hn : 21 ≤ n) : va / 2 ^ n % 512 = 0 := by
    rw [Nat.div_eq_of_lt (lt_of_lt_of_le hv (Nat.pow_le_pow_right (by decide) hn))]
  rw [Mem.root, j, walkTables, d (12 + 9 * (3 + 1)) (by decide), Nat.mul_zero, Nat.add_zero, ok_of _ _ e4]
  simp only [show entryKind (2 ^ 63 + 0x2000) = 0 from by decide, if_true, show entryAddr (2 ^ 63 + 0x2000) = 0x2000 from by decide]
  rw [walkTables, d (12 + 9 * (2 + 1)) (by decide), Nat.mul_zero, Nat.add_zero, ok_of _ _ e3]
  simp only [show entryKind (2 ^ 63 + 0x3000) = 0 from by decide, if_true, show entryAddr (2 ^ 63 + 0x3000) = 0x3000 from by decide]
  rw [walkTables, d (12 + 9 * (1 + 1)) (by decide), Nat.mul_zero, Nat.add_zero, ok_of _ _ e2]
  simp only [show entryKind (2 ^ 63 + 0x4000) = 0 from by decide, if_true, show entryAddr (2 ^ 63 + 0x4000) = 0x4000 from by decide]
  rw [walkTables, d (12 + 9 * (0 + 1)) (by decide), Nat.mul_zero, Nat.add_zero, ok_of _ _ e1]
  rfl

theorem page0_maps (s : State) (h : Tables s.mem s.ctxArea) (ht : s.mem.tlb = []) (va : Nat) (hv : va < 2 ^ 21) : MapsTo s va page0 := by
  refine ⟨fun x hx => ?_, ?_, fun q => walk_page0 _ _ h va q hv⟩
  · simp [Mem.leavesFor, ht] at hx
  · simp [State.staleTables, Mem.tableFor, ht]

/-- Those translations read nothing at 0x5000 or above. -/
theorem page0_apart (s : State) (h : Tables s.mem s.ctxArea) (touched : Nat → Prop) (ha : ∀ a, touched a → 0x5000 ≤ a) (va : Nat)
    (hv : va < 2 ^ 21) : WalkApart s touched va := by
  intro m hj hp hb
  have low : ∀ a, a < 0x5000 → sget 0#8 m.pkg a = sget 0#8 s.mem.pkg a := fun a ha' => hb a (fun t => by have := ha a t; omega)
  have same (a level : Nat) (ha' : a + 8 ≤ 0x5000) : checkEntry m s.ctxArea a level = checkEntry s.mem s.ctxArea a level :=
    checkEntry_same m s.mem _ a level hp h.1 (fun k hk => low _ (by omega))
  have hm : Tables m s.ctxArea := by
    refine ⟨hp, by rw [hj]; exact h.2.1, ?_, ?_, ?_, ?_⟩
    · rw [same _ _ (by decide)]; exact h.2.2.1
    · rw [same _ _ (by decide)]; exact h.2.2.2.1
    · rw [same _ _ (by decide)]; exact h.2.2.2.2.1
    · rw [same _ _ (by decide)]; exact h.2.2.2.2.2
  exact ⟨fun pick => by rw [walk_page0 m _ hm va pick hv, walk_page0 s.mem _ h va pick hv],
    by rw [tables_page0 m _ hm va hv, tables_page0 s.mem _ h va hv]⟩

theorem calm_tables : Tables calm.mem calm.ctxArea := by
  unfold Tables
  decide +kernel

theorem calm_maps (va : Nat) (hv : va < 2 ^ 21) : MapsTo calm va page0 := page0_maps calm calm_tables rfl va hv

theorem calm_apart (touched : Nat → Prop) (h : ∀ a, touched a → 0x5000 ≤ a) (va : Nat) (hv : va < 2 ^ 21) : WalkApart calm touched va :=
  page0_apart calm calm_tables touched h va hv

end Sys2Proof.Tests
end

