-- ==== Sys2Proof/Tests/Hold1.lean ====
section
/-! SUPPORT. States and operands that meet the hypotheses of the statements about scalar, predicate, vector, control, run and
barrier words, clause by clause, at the ends of their ranges. -/

namespace Sys2Proof.Tests

set_option Elab.async false

open Sys2Proof.Machine Sys2Proof.Safety Sys2Proof.Claims

/-- The largest quotient that overflows, a compare, and the last register that a form names (R93, R94). -/
theorem test_holds_ScalarFormsWriteTheirResults :
    scalarResult (withS calm [(1, 0x8000000000000000#64), (2, -1#64)]) (.sdiv 63#6 1#6 2#6) = some (63#6, 0x8000000000000000#64)
      ∧ scalarResult (withS calm [(1, 7#64)]) (.srem 0#6 1#6 2#6) = some (0#6, 7#64) := by
  decide +kernel

theorem test_holds_SpecialRegistersReadAndWrite :
    selected calm 0#8 = some 0#64 ∧ selected calm 0x17#8 = some 50#64 ∧ selected calm 0x18#8 = some 0#64
      ∧ (0x18#8 : BitVec 8) ≠ 1#8 ∧ (withS calm []).cur.hend = [] := by
  decide +kernel

theorem test_holds_PredicatesAndExecFollowTheirWords :
    predResult (withP calm [(1, 0xF0#32), (2, 0x0F#32)]) (.por 7#3 1#3 2#3) = some (7#3, 0xFF#32) := by
  decide +kernel

/-- The last register of the allotment is a destination, the lane numbers a source of none. -/
theorem test_holds_IntegerVectorWordWritesActiveLanes : ∃ d fs f rd rs,
    intLanes calm (.vbfi 127#7 0#7 1#7) = some (d, fs, f) ∧ calm.ref d.toNat = some rd
      ∧ fs.mapM (fun n => calm.ref n.toNat) = some rs ∧ rd = .reg 127 ∧ rs = [.reg 0, .reg 1, .reg 127] :=
  ⟨_, _, _, .reg 127, [.reg 0, .reg 1, .reg 127], rfl, by decide +kernel, by decide +kernel, rfl, rfl⟩

theorem test_holds_RoundingVectorWordWritesActiveLanes :
    (∃ d fs f rd rs, floatLanes calm (.vfnms 127#7 0#7 1#7) = some (d, fs, f) ∧ calm.ref d.toNat = some rd
      ∧ fs.mapM (fun n => calm.ref n.toNat) = some rs ∧ rd = .reg 127 ∧ rs = [.reg 0, .reg 1, .reg 127])
    ∧ (∃ d fs f rd rs, packedLanes (inRunOf [.vaddPair 120#7 127#7 1#7 3#2]) (.vaddPair 120#7 127#7 1#7 3#2) = some (d, fs, f)
      ∧ (inRunOf [.vaddPair 120#7 127#7 1#7 3#2]).ref d.toNat = some rd
      ∧ fs.mapM (fun n => (inRunOf [.vaddPair 120#7 127#7 1#7 3#2]).ref n.toNat) = some rs ∧ rd = .temp 0
      ∧ rs = [.temp 7, .reg 1]) :=
  ⟨⟨_, _, _, .reg 127, [.reg 0, .reg 1, .reg 127], rfl, by decide +kernel, by decide +kernel, rfl, rfl⟩,
    ⟨_, _, _, .temp 0, [.temp 7, .reg 1], rfl, by decide +kernel, by decide +kernel, rfl, rfl⟩⟩

theorem test_holds_VectorCompareWritesItsPredicate : calm.ref 0 = some (.reg 0) ∧ calm.ref 127 = some (.reg 127) := by
  decide +kernel

/-- A conversion from .i64 to .f32 whose source block ends at the last register, and one between integers (R110, R125). -/
theorem test_holds_ConversionWritesItsElement :
    calm.straddles 0 (typeRegs 0#4) = false ∧ calm.straddles 126 (typeRegs 11#4) = false
      ∧ calm.refs 0 (typeRegs 0#4) = some [.reg 0] ∧ calm.refs 126 (typeRegs 11#4) = some [.reg 126, .reg 127]
      ∧ intType 11#4 = some (64, true) ∧ intType 0#4 = none ∧ intType 12#4 = some (8, false)
      ∧ calm.active.getLsbD 31 = true ∧ (withFrag calm (fun f => { f with exec := 1#32 })).active.getLsbD 31 = false := by
  decide +kernel

theorem test_holds_PermutationCopiesItsSourceLane :
    permFields (.vshfl 127#7 0#7 1#7) = some (127#7, 0#7, 1#7) ∧ permFields (.vbcstFirst 127#7 0#7) = some (127#7, 0#7, 0#7)
      ∧ calm.ref 127 = some (.reg 127) ∧ calm.ref 0 = some (.reg 0) ∧ calm.ref 1 = some (.reg 1) := by
  decide +kernel

theorem test_holds_ReductionsCombineActiveLanes :
    (11#4 : BitVec 4).toNat < 12 ∧ (4#3 : BitVec 3).toNat < 5 ∧ calm.refs 126 (opRegs 11#4) = some [.reg 126, .reg 127]
      ∧ calm.refs 0 (opRegs 11#4) = some [.reg 0, .reg 1] ∧ calm.refs 127 (opRegs 0#4) = some [.reg 127] := by
  decide +kernel

theorem test_holds_MatchWritesTheMaskOfEqualKeys :
    (2#2 : BitVec 2) ≠ 3#2 ∧ calm.ref 127 = some (.reg 127) ∧ calm.refs 126 2 = some [.reg 126, .reg 127]
      ∧ calm.refs 0 1 = some [.reg 0] := by
  decide +kernel

/-- The first temporary of a run, the last register of the allotment, and the first number past it. -/
theorem test_holds_RegisterFieldNamesOneRegister :
    ((inRunOf [.nop]).cur.run.isSome = true ∧ 120 ≤ (120#7 : BitVec 7).toNat)
      ∧ (calm.cur.run = none ∧ (127#7 : BitVec 7).toNat + 8 * calm.cur.regs.window.toNat < calm.cur.id.vregs)
      ∧ ((127#7 : BitVec 7).toNat < 120 ∨ calm.cur.run = none)
      ∧ (let s := { calm with cur := { calm.cur with regs := { calm.cur.regs with window := 1#5 } } }
         (119#7 : BitVec 7).toNat < 120 ∧ (119#7 : BitVec 7).toNat + 8 * s.cur.regs.window.toNat < s.cur.id.vregs
          ∧ s.cur.id.vregs ≤ (120#7 : BitVec 7).toNat + 8 * s.cur.regs.window.toNat ∧ s.cur.run = none) := by
  decide +kernel

/-- Backwards past address 0, a target at the last word of the job space, and the values just outside. -/
theorem test_holds_UniformControlGoesToItsTarget :
    goesOn calm (.bra 0x3FFFBF#22) = some 0x1FFFFFFFFFFFFFC#57 ∧ goesOn calm (.bpAll 1#3 5#22) = some 0x104#57
      ∧ (let s := withS calm [(1, 0x1FFFFFFFFFFFFFC#64), (2, 0x200000000000000#64), (3, 2#64)]
         ((s.getS 1#6).toNat % 4 = 0 ∧ (s.getS 1#6).toNat < 2 ^ 57)
          ∧ ¬((s.getS 2#6).toNat % 4 = 0 ∧ (s.getS 2#6).toNat < 2 ^ 57)
          ∧ ¬((s.getS 3#6).toNat % 4 = 0 ∧ (s.getS 3#6).toNat < 2 ^ 57)) := by
  decide +kernel

theorem test_holds_WaitfHoldsAndYieldGoesOn :
    (∀ i, i < 12 → (0xFFF#12 : BitVec 12).getLsbD i = true → calm.cur.regs.flagDone i = true)
      ∧ (let s := { calm with cur := { calm.cur with regs := calm.cur.regs.bindFlag 11 } }
         ∃ i, i < 12 ∧ (0x800#12 : BitVec 12).getLsbD i = true ∧ s.cur.regs.flagDone i = false) :=
  ⟨by decide +kernel, 11, by decide +kernel⟩

/-- Taken by no lane, by every lane, by one lane; with room in the split table, and with none: eight entries on the chip and
eight in the spill area. -/
theorem test_holds_DivergentBranchSplitsTheFragment :
    (calm.cur.frag.exec &&& calm.getP 1#3 = 0#32)
      ∧ (let s := withP calm [(1, 0xFFFFFFFF#32)]
         s.cur.frag.exec &&& s.getP 1#3 ≠ 0#32 ∧ s.cur.frag.exec &&& ~~~s.getP 1#3 = 0#32)
      ∧ (let s := withP calm [(1, 0x80000000#32)]
         s.cur.frag.exec &&& s.getP 1#3 ≠ 0#32 ∧ s.cur.frag.exec &&& ~~~s.getP 1#3 ≠ 0#32
          ∧ s.cur.entries.length + 2 ≤ 8 + s.launchRec.spillEntries ∧ s.cur.onChip < 8)
      ∧ (let es := (List.range 15).map (fun i => (SplitEntry.mk (i + 1) 0x200#57 0#32 i none))
         let s := { withP calm [(1, 0x80000000#32)] with
            cur := { (withP calm [(1, 0x80000000#32)]).cur with entries := es } }
         s.cur.frag.exec &&& s.getP 1#3 ≠ 0#32 ∧ s.cur.frag.exec &&& ~~~s.getP 1#3 ≠ 0#32
          ∧ 8 + s.launchRec.spillEntries < s.cur.entries.length + 2) := by
  decide +kernel

/-- The fragment of lanes 0 to 15 of entry 1, which reconverges at 0x100 and holds lane 31; its sibling of lanes 16 to 30. -/
def split1 (sibWait : Wait) (sibEntry : Nat) : State :=
  { calm with cur := { calm.cur with
      frag := { calm.cur.frag with member := 0xFFFF#32, exec := 0xFF#32, entry := 1 },
      sibs := [{ calm.cur.frag with member := 0x7FFF0000#32, exec := 0x7FFF0000#32, entry := sibEntry, wait := sibWait }],
      entries := [SplitEntry.mk 1 0x100#57 0x80000000#32 0 none] } }

theorem test_holds_JoinFusesAndExitEnds :
    (calm.cur.entries.find? (fun x => x.id == calm.cur.frag.entry && x.join == calm.cur.frag.pc) = none)
      ∧ (atJoin (split1 .ready 1) (SplitEntry.mk 1 0x100#57 0x80000000#32 0 none)
          ∧ ¬mayFuse (split1 .ready 1) (SplitEntry.mk 1 0x100#57 0x80000000#32 0 none))
      ∧ (atJoin (split1 .join 1) (SplitEntry.mk 1 0x100#57 0x80000000#32 0 none)
          ∧ mayFuse (split1 .join 1) (SplitEntry.mk 1 0x100#57 0x80000000#32 0 none))
      ∧ calm.cur.sibs = []
      ∧ (let s := split1 .ready 1
         ∃ f, s.cur.sibs = [f] ∧ gatherOf f = none ∧ f.entry = s.cur.frag.entry ∧ f.wait ≠ .join)
      ∧ (let s := split1 .join 1
         ∃ f en, s.cur.sibs = [f] ∧ s.cur.entries.find? (fun x => x.id == s.cur.frag.entry) = some en
          ∧ (∀ x ∈ s.cur.entries, x.parent ≠ s.cur.frag.entry) ∧ en.spilled = none ∧ f.entry = s.cur.frag.entry ∧ f.wait = .join)
      ∧ (let s := split1 .ready 0
         ∃ f en, s.cur.sibs = [f] ∧ gatherOf f = none ∧ s.cur.entries.find? (fun x => x.id == s.cur.frag.entry) = some en
          ∧ (∀ x ∈ s.cur.entries, x.parent ≠ s.cur.frag.entry) ∧ f.entry ≠ s.cur.frag.entry ∧ f.entry = en.parent
          ∧ f.wait ≠ .join) := by
  refine ⟨by decide +kernel, ⟨by unfold atJoin; decide +kernel, by unfold mayFuse; decide +kernel⟩,
    ⟨by unfold atJoin; decide +kernel, by unfold mayFuse; decide +kernel⟩, by decide +kernel, ?_, ?_, ?_⟩
  · exact ⟨(split1 .ready 1).cur.sibs.headD Frag.reset, by decide +kernel⟩
  · exact ⟨(split1 .join 1).cur.sibs.headD Frag.reset, SplitEntry.mk 1 0x100#57 0x80000000#32 0 none, by decide +kernel⟩
  · exact ⟨(split1 .ready 0).cur.sibs.headD Frag.reset, SplitEntry.mk 1 0x100#57 0x80000000#32 0 none, by decide +kernel⟩

end Sys2Proof.Tests
end

