-- ==== Sys2Proof/Tests/Hold5.lean ====
section
/-! SUPPORT. States and operands that meet the hypotheses of the statements about matrix words, batches, tile words, barriers and
rings, clause by clause, at the ends of their ranges. -/

namespace Sys2Proof.Tests

set_option Elab.async false

open Sys2Proof.Machine Sys2Proof.Safety Sys2Proof.Claims

/-- Tile 7, the last of the team's table: 4 KiB from byte 256 on. -/
def tile7 (st : TileState) : TileEntry := { defined := true, off := 256, size := 4096, pitch := 0, st := st }

/-- `calm` with that tile in a state, and scalar registers. -/
def tiled (st : TileState) (xs : SMap DWord) : State :=
  { withS calm xs with mem := { calm.mem with table := [(7, tile7 st)] } }

/-- Operand words: accumulator 1, registers 120 on, B at the end of tile 7; B at its start for MMAS, with metadata from v127 on. -/
def owDense : DWord := BitVec.ofNat 64 (120 + 2 ^ 8 + 7 * 2 ^ 16 + 2048 * 2 ^ 24 + 2 ^ 48)
def owSparse : DWord := BitVec.ofNat 64 (120 + 2 ^ 8 + 7 * 2 ^ 16 + 2 * 2 ^ 48 + 124 * 2 ^ 56)

/-- A word of a matrix, as it stands in an engine. -/
def someWord (op : MOp) (ow fb cmd offw : DWord) (tiles : List Nat) (batch : Option Nat) : MWord :=
  { op := op, pc := 0x100#57, ow := ow, fb := fb, cmd := cmd, offw := offw, cols := 0, raw := false, exec := 0xFFFFFFFF#32,
    a := List.replicate 8 zeroLanes, scale := none, metas := List.replicate 4 zeroLanes, live := [], src := List.replicate 16 zeroLanes,
    dst := [], tiles := tiles, since := 0, issued := 0, batch := batch }

def withWords (s : State) (ws : List MWord) : State := { s with cur := { s.cur with matrix := { s.cur.matrix with words := ws } } }

theorem multiply_fits :
    MultiplyFits (tiled .ready [(1, owDense)]) .mma owDense 0#64 (tile7 .ready)
      ∧ MultiplyFits (tiled .ready [(1, owDense)]) .mmao owDense 0#64 (tile7 .ready)
      ∧ MultiplyFits (tiled .ready [(1, owSparse)]) .mmas owSparse 0x800000#64 (tile7 .ready) := by
  unfold MultiplyFits FormatFits BlockFits
  refine ⟨by decide +kernel, by decide +kernel, by decide +kernel⟩

/-- A state in which lane 31 of the metadata holds a reserved code in its last group (R220). -/
def reservedState : State := withV (tiled .ready [(1, owSparse), (2, 0x800000#64)]) [(124, (List.replicate 31 0#32) ++ [0x60000000#32])]

theorem test_holds_MultiplyWordsEnter :
    NoRun calm ∧ multiplyWord (.mma 1#6 0#6 1#1) = some (.mma, 1#6, 0#6, true)
      ∧ HasTile (tiled .ready [(1, owDense)]) 7 (tile7 .ready) [.ready, .draining]
      ∧ HasTile (tiled .filling [(1, owDense)]) 7 (tile7 .filling) [.empty, .filling]
      ∧ EngineRoom (tiled .ready []) ∧ MetadataFits (tiled .ready [(1, owDense)]) .mma owDense 0#64
      ∧ EngineRoom (withWords (tiled .ready []) (List.replicate 63 (someWord .zero 0 0 0 0 [] none)))
      ∧ ¬EngineRoom (withWords (tiled .ready []) (List.replicate 64 (someWord .zero 0 0 0 0 [] none)))
      ∧ (reservedLanes reservedState owSparse 0x800000#64 = 0x80000000#32 ∧ bitsOf 0x800000#64 23 1 = 1
          ∧ reservedState.cur.matrix.latch = none ∧ reservedState.cur.matrix.results = []) := by
  unfold HasTile EngineRoom MetadataFits
  refine ⟨rfl, by decide +kernel, by decide +kernel, by decide +kernel, by decide +kernel, by decide +kernel, by decide +kernel,
    by decide +kernel, by decide +kernel⟩

/-- A command of quant with bias and table, the bias in the last 64 bytes of tile 7 and the table before it; one of raw rows. -/
def cmdWord : DWord := BitVec.ofNat 64 (3 + 4 + 5 * 2 ^ 4 + 7 * 2 ^ 8 + 7 * 2 ^ 16 + 0x3F800000 * 2 ^ 32)
def offWord : DWord := BitVec.ofNat 64 (4032 + 3504 * 2 ^ 24)

theorem stages_ready : StagesReady (tiled .ready []) cmdWord offWord := by
  intro g hg
  refine ⟨tile7 .ready, ?_⟩
  have h : stageList cmdWord offWord = [(7, 4032, 64), (7, 3504, 520)] := by decide +kernel
  rw [h] at hg
  simp only [List.mem_cons, List.not_mem_nil, or_false] at hg
  rcases hg with rfl | rfl <;> exact ⟨by unfold HasTile; decide +kernel, by decide⟩

/-- MZERO at both sides of the allotment, a raw MWR of 32 registers, MRD and MEPI of eight-bit outputs, every MSTAT. -/
theorem test_holds_OtherMatrixWordsEnter :
    ((1#4 : BitVec 4).toNat < calm.cur.id.accs ∧ calm.cur.id.accs ≤ (2#4 : BitVec 4).toNat)
    ∧ (let x : DWord := BitVec.ofNat 64 (96 + 2 ^ 8)
       bitsOf x 8 4 < calm.cur.id.accs ∧ BlockFits calm (bitsOf x 0 7) 32 ∧ bitsOf x 7 1 = 0 ∧ bitsOf x 12 52 = 0
        ∧ (columnsAt 0).length * 2 = 32)
    ∧ (let x : DWord := BitVec.ofNat 64 (124 + 2 ^ 8)
       CommandFits cmdWord offWord ∧ (columnsAt 0).length * widthOf (bitsOf cmdWord 4 3) / 4 = 4 ∧ BlockFits calm (bitsOf x 0 7) 4)
    ∧ (let x : DWord := BitVec.ofNat 64 (2 ^ 8 + 7 * 2 ^ 16 + 3584 * 2 ^ 24)
       bitsOf x 0 8 = 0 ∧ bitsOf x 12 4 = 0 ∧ bitsOf x 48 16 = 0 ∧ bitsOf x 24 24 % 16 = 0
        ∧ HasTile (tiled .ready []) (bitsOf x 16 8) (tile7 .ready) [.ready] ∧ RowsInside (tiled .ready []) (bitsOf x 24 24) 16 4096)
    ∧ StatFits calm .statReset (BitVec.ofNat 64 (2 ^ 8)) 0 ∧ StatFits calm .statMax (BitVec.ofNat 64 (127 + 2 ^ 8 + 2 ^ 12)) 1
    ∧ StatFits calm .statRead (BitVec.ofNat 64 (126 + 2 ^ 8)) 2 := by
  unfold BlockFits CommandFits HasTile RowsInside StatFits BlockFits
  refine ⟨?_, ?_, ?_, ?_, ?_, ?_, ?_⟩ <;> decide +kernel

/-- With no overwritten byte on record and no MEPI under way every tile byte is settled. -/
theorem settled_of (s : State) (since issued : Nat) (h : s.mem.tileOld = [] ∧ s.mem.epi = []) : TilesSettled s since issued := by
  intro k
  simp [Mem.earlyValues, Mem.lateValues, Mem.epiValues, h.1, h.2]

/-- MRD inside a run, into the last temporaries, and of an accumulator that the group does not have (R233). -/
theorem test_holds_RunMrdReads :
    let x : DWord := BitVec.ofNat 64 (124 + 2 ^ 8)
    let s : State := { inRunOf [.nop, .nop] with mem := { calm.mem with table := [(7, tile7 .ready)] } }
    (inRunOf [.nop, .nop]).cur.run = some (runOf [.nop, .nop]) ∧ (bitsOf x 8 4 < s.cur.id.accs ∧ bitsOf x 7 1 = 0 ∧ bitsOf x 12 52 = 0)
      ∧ CommandFits cmdWord offWord ∧ bitsOf cmdWord 4 3 ≠ 6 ∧ StagesReady s cmdWord offWord ∧ NoPoison s ∧ TilesSettled s s.cur.mrdy s.mem.tileOld.length ∧ bitsOf x 0 7 + 4 ≤ 128
      ∧ s.straddles (bitsOf x 0 7) 4 = false ∧ s.refs (bitsOf x 0 7) 4 = some [.temp 4, .temp 5, .temp 6, .temp 7]
      ∧ RowsWhole s ∧ s.cur.matrix.words = [] ∧ s.cur.id.accs ≤ bitsOf (BitVec.ofNat 64 (2 * 2 ^ 8)) 8 4
      ∧ (runOf [.nop, .nop]).deferred = none := by
  intro x s
  refine ⟨rfl, by decide +kernel, by unfold CommandFits; decide +kernel, by decide +kernel, stages_ready,
    ⟨rfl, rfl, rfl, rfl, fun _ h => absurd h List.not_mem_nil⟩, settled_of _ _ _ ⟨rfl, rfl⟩, by decide +kernel,
    by decide +kernel, by decide +kernel, ?_, rfl, by decide +kernel, rfl⟩
  unfold RowsWhole
  decide +kernel

/-! ## Completions -/

/-- The only word of every engine; `calm` holds poison nowhere and watches nothing. -/
theorem only_word (s : State) (w : MWord) (h : s.cur.matrix.words = [w] ∧ s.others = [] ∧ s.mem.pkgPoison = [] ∧ s.mem.tilePoison = []
    ∧ s.mem.farPoison = [] ∧ s.mem.tileFlaw = [] ∧ s.mem.tileErrors = [] ∧ s.cur.watch = [] ∧ s.ctx.saved = [] ∧ s.cur.regs.ac = []) :
    OnlyMatrixWord s w ∧ NoPoison s ∧ NoWatch s ∧ RowsWhole s := by
  obtain ⟨h1, h2, h3, h4, h5, hf, he, h6, hc, h7⟩ := h
  refine ⟨⟨h1, fun g hg => ?_⟩, ⟨h3, h4, h5, hf, fun e h => absurd (he ▸ h) List.not_mem_nil⟩, fun g hg => ?_, fun k hk => ?_⟩
  · rw [h2] at hg; simp at hg
  · rw [h2, hc] at hg; simp at hg; rw [hg]; exact h6
  · rw [h7] at hk; simp at hk

def completing (w : MWord) : State := withWords (tiled .ready []) [w]

/-- A word of every kind that has no tile; a multiply of each kind in the open batch and in batch 15; MRD and MEPI with both
stages. -/
theorem test_holds_MatrixWordsTakeEffect :
    (∀ op b, let w := someWord op 0 0 0 0 [] b
      OnlyMatrixWord (completing w) w ∧ NoPoison (completing w) ∧ NoWatch (completing w) ∧ RowsWhole (completing w))
    ∧ (let w := someWord .mma owDense 0#64 0 0 [7] none
       OnlyMatrixWord (completing w) w ∧ HasTile (completing w) (bitsOf w.ow 16 8) (tile7 .ready) [.ready, .draining]
        ∧ FormatFits w.fb false ∧ w.live = []
        ∧ TilesSettled (completing w) w.since w.issued)
    ∧ (let w := someWord .mmas owSparse 0x800000#64 0 0 [7] (some 15)
       HasTile (completing w) (bitsOf w.ow 16 8) (tile7 .ready) [.ready, .draining] ∧ FormatFits w.fb true)
    ∧ (let w := someWord .rd 0x100#64 0 cmdWord offWord [7] none
       StagesReady (completing w) w.cmd w.offw ∧ CommandFits w.cmd w.offw
        ∧ w.dst = (completing w).cur.matrix.results.map (fun r => (r.reg, r.id)))
    ∧ (let w := someWord .epi (BitVec.ofNat 64 (2 ^ 8 + 7 * 2 ^ 16 + 3584 * 2 ^ 24)) 0 cmdWord offWord [7] none
       HasTile (completing w) (bitsOf w.ow 16 8) (tile7 .ready) [.ready]) := by
  refine ⟨fun op b => only_word _ _ ⟨rfl, rfl, rfl, rfl, rfl, rfl, rfl, rfl, rfl, rfl⟩,
    ⟨(only_word _ _ ⟨rfl, rfl, rfl, rfl, rfl, rfl, rfl, rfl, rfl, rfl⟩).1, by unfold HasTile; decide +kernel, by unfold FormatFits; decide +kernel, rfl,
      settled_of _ _ _ ⟨rfl, rfl⟩⟩,
    ⟨by unfold HasTile; decide +kernel, by unfold FormatFits; decide +kernel⟩,
    ⟨stages_ready, by unfold CommandFits; decide +kernel, rfl⟩, by unfold HasTile; decide +kernel⟩

/-! ## Batches -/

/-- A result that a batch delivers to v127, and an operand register of the same batch. -/
def result127 : MResult :=
  { batch := some 15, reg := 127, id := 0, mask := 1#32, touched := 0x80000000#32, value := zeroLanes, operand := false, acc := 0, rows := 0#32 }

theorem test_holds_BatchesCloseAndEnd :
    (let s := withWords (withS calm [(1, 11#64)]) [someWord .zero 0 0 0 0 [] none, someWord .zero 0 0 0 0 [] (some 15)]
     NoRun s ∧ ¬(12 ≤ bitsOf (s.getS 1#6) 0 4 ∧ bitsOf (s.getS 1#6) 0 4 ≤ 14)
      ∧ (∃ w ∈ s.cur.matrix.words, w.batch = none ∨ w.batch = some 15)
      ∧ s.cur.matrix.words.any (fun w => w.batch == some 15) = true ∧ s.cur.matrix.words.any (fun w => w.batch == some 14) = false)
    ∧ ((∀ w ∈ calm.cur.matrix.words, w.batch ≠ none ∧ w.batch ≠ some 15)
        ∧ 12 ≤ bitsOf 14#64 0 4 ∧ bitsOf 14#64 0 4 ≤ 14)
    ∧ (let s0 := withV calm [(127, lanes id)]
       let s : State := { s0 with cur := { s0.cur with matrix := { s0.cur.matrix with results := [result127] } } }
       sget false s.cur.matrix.poison 15 = false
        ∧ ((s.cur.matrix.results.filter (fun r => r.batch == some 15)).map (·.reg)).Nodup
        ∧ ∀ r ∈ s.cur.matrix.results.filter (fun r => r.batch == some 15), ∀ q ∈ s.cur.matrix.results,
            q.reg = r.reg → q.batch = some 15)
    ∧ (let s : State := { calm with cur := { calm.cur with matrix := { calm.cur.matrix with poison := [(15, true)] } } }
       sget false s.cur.matrix.poison 15 = true ∧ s.cur.matrix.words.any (fun w => w.batch == some 15) = false) := by
  unfold NoRun
  refine ⟨?_, ?_, ?_, ?_⟩ <;> decide +kernel

/-! ## Tile words, barriers, rings -/

def withTeam (s : State) (f : Team → Team) : State := { s with teams := s.teams.map f }

/-- Tile 7 in a ring; in use by a matrix word; a block without escape and one with (R267). -/
theorem test_holds_TileWordsKeepTheTable :
    NoRun calm ∧ Placed calm
    ∧ (let x : DWord := BitVec.ofNat 64 (7 + 2 ^ 32 * 16 + 2 ^ 8 * 16368)
       bitsOf x 56 8 = 0 ∧ bitsOf x 32 24 ≠ 0 ∧ bitsOf x 32 24 % 16 = 0 ∧ bitsOf x 8 24 % 16 = 0 ∧ bitsOf x 0 8 < calm.team.tabCount
        ∧ (sget TileEntry.reset calm.mem.table (calm.team.entryKey (bitsOf x 0 8))).defined = false
        ∧ bitsOf x 8 24 + bitsOf x 32 24 ≤ calm.team.bytes)
    ∧ (let x : DWord := BitVec.ofNat 64 (7 + 2 ^ 32 * 32 + 2 ^ 8 * 16368)
       calm.team.bytes < bitsOf x 8 24 + bitsOf x 32 24)
    ∧ ¬(bitsOf 8#64 0 8 < calm.team.tabCount
        ∧ (sget TileEntry.reset calm.mem.table (calm.team.entryKey (bitsOf 8#64 0 8))).defined = false)
    ∧ (HasTile (tiled .ready []) 7 (tile7 .ready) [.empty, .ready, .filling, .draining] ∧ ¬inRing (tiled .ready []) 7
        ∧ ¬inUse (tiled .ready []) 7 ∧ inUse (withWords (tiled .ready []) [someWord .mma 0 0 0 0 [7] none]) 7
        ∧ inRing (withTeam (tiled .ready []) (fun t => { t with rings := [(15, Machine.Ring.mk true 0 6 2 0 0 0 0 [] [])] })) 7
        ∧ HasTile (tiled .draining []) 7 (tile7 .draining) [.empty, .ready, .filling, .draining])
    ∧ (let x : DWord := BitVec.ofNat 64 (256 + 16384 * 2 ^ 16)
       bitsOf x 31 33 = 0 ∧ bitsOf x 9 7 = 0 ∧ 1 ≤ bitsOf x 16 15 ∧ bitsOf x 16 15 ≤ 16384 ∧ 1 ≤ bitsOf x 0 9 ∧ bitsOf x 0 9 ≤ 256)
    ∧ (let x : DWord := BitVec.ofNat 64 (7 + 2 ^ 8 * 3968 + 2 ^ 32 * 126)
       calm.straddles (bitsOf x 32 7) 2 = false ∧ calm.refs (bitsOf x 32 7) 2 = some [.reg 126, .reg 127] ∧ bitsOf x 32 7 < 127
        ∧ bitsOf x 39 25 = 0 ∧ bitsOf x 8 24 % 128 = 0 ∧ bitsOf x 8 24 + 128 ≤ (tile7 .ready).size ∧ NoPoison (tiled .ready [])
        ∧ bytesAt (tileByte (tiled .ready [])) (256 + 3968 + 1) 1 % 2 ≠ 1 ∧ bytesAt (tileByte (tiled .ready [])) (256 + 3968) 1 ≠ 255
        ∧ (let s : State := { tiled .ready [] with mem := { (tiled .ready []).mem with tile := [(4225, 1#8), (4229, 15#8)] } }
           bytesAt (tileByte s) (256 + 3968 + 1) 1 % 2 = 1 ∧ bytesAt (tileByte s) (256 + 3968 + 4) 3 = 3840
            ∧ 3840 % 16 = 0 ∧ 3840 + 256 ≤ (tile7 .ready).size)) := by
  unfold NoRun Placed HasTile inRing inUse NoPoison
  refine ⟨?_, ?_, ?_, ?_, ?_, ?_, ?_, ?_⟩ <;> decide +kernel

theorem test_holds_BarriersAndRingsCount :
    NoRun calm ∧ Placed calm ∧ NoStoreOut calm
    ∧ (let x : DWord := BitVec.ofNat 64 (31 + 65535 * 2 ^ 8)
       bitsOf x 24 40 = 0 ∧ bitsOf x 5 3 = 0 ∧ bitsOf x 8 16 ≠ 0 ∧ (abarOf calm 31).st ≠ 1
        ∧ (abarOf (withTeam calm (fun t => { t with abars := [(31, ABar.mk 1 1 0 0)] })) 31).st = 1
        ∧ (withFrag calm (fun f => { f with wait := .abar 63 })).cur.frag.wait = .abar (32 + 31)
        ∧ calm.cur.frag.wait ≠ .abar (32 + 31))
    ∧ ¬(bitsOf 31#64 24 40 = 0 ∧ bitsOf 31#64 5 3 = 0 ∧ bitsOf 31#64 8 16 ≠ 0)
    ∧ (let x : DWord := BitVec.ofNat 64 (15 + 2 ^ 4 + 2 * 2 ^ 8 + 6 * 2 ^ 16)
       bitsOf x 24 40 = 0 ∧ bitsOf x 15 1 = 0 ∧ bitsOf x 5 3 = 0 ∧ bitsOf x 8 7 = 2 ∧ (ringOf calm 15).live = false)
    ∧ (let s : State := { calm with mem := { calm.mem with table := [(6, tile7 .ready), (7, tile7 .ready)] } }
       ∃ size, ∀ i, i < 2 → ∃ e, HasTile s (6 + i) e [.ready] ∧ e.size = size
        ∧ ¬∃ kr ∈ s.team.rings, kr.1 ≠ 15 ∧ kr.2.live = true ∧ kr.2.first ≤ 6 + i ∧ 6 + i < kr.2.first + kr.2.n)
    ∧ (let s := withTeam calm (fun t => { t with rings := [(15, Machine.Ring.mk true 0 6 2 (2 ^ 32 - 1) (2 ^ 32 - 1) (2 ^ 32 - 1) (2 ^ 32 - 2) [] [])] })
       let r := ringOf s 15
       let x : DWord := BitVec.ofNat 64 (6 + 15 * 2 ^ 8 + (2 ^ 32 - 2) * 2 ^ 32)
       r.live = true ∧ (r.res ≠ r.rd ∨ r.cl ≠ r.rd) ∧ r.cl = r.wr ∧ bitsOf x 12 20 = 0 ∧ bitsOf x 8 4 = 15
        ∧ bitsOf x 0 8 = r.first + bitsOf x 32 32 % r.n ∧ ringGap (bitsOf x 32 32) r.rd < ringGap r.cl r.rd
        ∧ bitsOf x 32 32 ∉ r.released ∧ bitsOf x 32 32 = r.rd ∧ (r.rd + 1) % 2 ^ 32 ∉ r.released)
    ∧ (let s := withTeam calm (fun t => { t with rings := [(0, Machine.Ring.mk true 0 6 2 3 3 2 0 [] [])] })
       let r := ringOf s 0
       let x : DWord := BitVec.ofNat 64 (7 + 1 * 2 ^ 32)
       r.live = true ∧ r.cl ≠ r.wr ∧ bitsOf x 0 8 = r.first + bitsOf x 32 32 % r.n
        ∧ ringGap (bitsOf x 32 32) r.rd < ringGap r.cl r.rd ∧ bitsOf x 32 32 ≠ r.rd ∧ r.rd ∉ r.released) := by
  refine ⟨rfl, by unfold Placed; decide +kernel, ⟨rfl, rfl, rfl⟩, by decide +kernel, by decide +kernel, by decide +kernel,
    ⟨4096, fun i hi => ⟨tile7 .ready, ?_, rfl, by rintro ⟨kr, hk, _⟩; cases hk⟩⟩, by decide +kernel, by decide +kernel⟩
  have : i = 0 ∨ i = 1 := by omega
  rcases this with rfl | rfl <;> (unfold HasTile; decide +kernel)

end Sys2Proof.Tests
end

