-- ==== Sys2Proof/Tests/Hold6.lean ====
section
/-! SUPPORT. States and operands that meet the hypotheses of the statements about engine commands, Strudel and launches, clause by
clause, at the ends of their ranges. -/

namespace Sys2Proof.Tests

set_option Elab.async false

open Sys2Proof.Machine Sys2Proof.Safety Sys2Proof.Claims

/-! ## Engine commands -/

/-- A descriptor of two dimensions: rows of 16 elements of 4 bytes, one row. -/
def desc2 : Desc :=
  { base := 0x10000, oob := true, esize := 4,
    dims := [{ stride := 4, size := 16, ext := 16, samp := 1 }, { stride := -64, size := 32, ext := 1, samp := 0 }] }

/-- Its record (R243). -/
def desc2Bytes : List Byte :=
  leBytes 8 0x10000 ++ leBytes 8 (2 + 2 * 16 + 256) ++ leBytes 8 4 ++ leBytes 8 (2 ^ 56 - 64) ++ List.replicate 40 0#8
    ++ leBytes 4 16 ++ leBytes 4 32 ++ List.replicate 20 0#8 ++ leBytes 2 16 ++ leBytes 2 1 ++ List.replicate 10 0#8 ++ [1#8]

/-- The record at 0x40000 in s2, a control word in s1, two origin coordinates in s63; tile 7 in a state. -/
def engine (st : TileState) (x : DWord) : State :=
  { withS calm [(1, x), (2, 0x40000#64), (63, 0x500000003#64)] with
    mem := { calm.mem.pkgWrite 0x240000 desc2Bytes with table := [(7, tile7 st)] } }

/-- What `NamesDesc` asks of `desc2`, in a form that is computed. -/
theorem desc_of (s : State) (h : (s.getS 2#6).toNat = 0x40000 ∧ s.mem.tlb = []
    ∧ (walk s.mem s.ctxArea 0x40000 0).toOption = some page0)
    (n : let num (o n : Nat) : Nat := bytesAt (pkgByte s) (0x240000 + o) n
      num 0 8 = 0x10000 ∧ num 8 8 = 290 ∧ num 16 8 = 4 ∧ num 24 8 = 2 ^ 56 - 64 ∧ num 0x48 4 = 16 ∧ num 0x4C 4 = 32 ∧ num 0x64 2 = 16
        ∧ num 0x66 2 = 1 ∧ num 0x72 1 = 1 ∧ num 0x73 1 = 0
        ∧ (∀ k, k < 7 → 2 ≤ k → num (16 + 8 * k) 8 = 0 ∧ num (0x48 + 4 * k) 4 = 0 ∧ num (0x64 + 2 * k) 2 = 0
            ∧ (k < 3 → num (0x72 + k) 1 = 0))
        ∧ ∀ k, k < 0x80 → 0x75 ≤ k → num k 1 = 0) : NamesDesc s 2#6 desc2 := by
  obtain ⟨h1, h2, h3⟩ := h
  obtain ⟨n0, n8, n16, n24, n48, n4C, n64, n66, n72, n73, ns, nz⟩ := n
  unfold NamesDesc
  rw [h1]
  refine ⟨by decide, by decide, page0, mapsTo_of_walk h2 h3 (by decide), rfl, rfl, ?_⟩
  rw [show leafPhys page0 0x40000 = 0x240000 from by decide]
  refine ⟨by decide, by decide, n0.symm, by decide, by decide, ⟨2, by decide, rfl, n8⟩, fun k x hx => ?_, fun k h1 h2 => ns k h2 h1,
    fun k h1 h2 => nz k h2 h1⟩
  have hk : k < 2 := (List.getElem?_eq_some_iff.mp hx).1
  have : k = 0 ∨ k = 1 := by omega
  rcases this with rfl | rfl
  · cases hx
    dsimp only
    simp only [Nat.mul_zero, Nat.add_zero, n16, n48, n64, n72]
    decide
  · cases hx
    dsimp only
    simp only [Nat.mul_one, show 16 + 8 = 24 from rfl, show 0x48 + 4 = 0x4C from rfl, show 0x64 + 2 = 0x66 from rfl, show 0x72 + 1 = 0x73 from rfl,
      n24, n4C, n66, n73]
    decide

theorem origin_of (s : State) (h : s.getS 63#6 = 0x500000003#64) : OriginAt s 63#6 2 [3, 5] := by
  refine ⟨by decide, rfl, fun k x h' => ?_, fun h => absurd h (by decide)⟩
  have hk : k < 2 := (List.getElem?_eq_some_iff.mp h').1
  have : k = 0 ∨ k = 1 := by omega
  rcases this with rfl | rfl
  · cases h'; rw [show BitVec.ofNat 6 ((63#6).toNat + 0 / 2) = 63#6 from rfl, h]; decide
  · cases h'; rw [show BitVec.ofNat 6 ((63#6).toNat + 1 / 2) = 63#6 from rfl, h]; decide

/-- Sequence numbers of a ring just before they wrap; tile 7 is its next slot. -/
def engineRing : State :=
  withTeam (engine .ready (BitVec.ofNat 64 (15 + 2 ^ 13 + 31 * 2 ^ 8 + 11 * 2 ^ 16)))
    (fun t => { t with rings := [(15, Machine.Ring.mk true 0 6 2 (2 ^ 32 - 1) (2 ^ 32 - 1) (2 ^ 32 - 1) (2 ^ 32 - 2) [] [])],
                       abars := [(31, ABar.mk 1 2 1 0)] })

theorem test_holds_EngineCommandsAreAccepted :
    (NoRun (engine .empty 0#64) ∧ Placed (engine .empty 0#64) ∧ NoPoison (engine .empty 0#64) ∧ NoStoreOut (engine .empty 0#64))
    ∧ (let x : DWord := BitVec.ofNat 64 (7 + 15 * 2 ^ 16)
       ControlFits x (fetchMask .tfetch false) ∧ NamesDesc (engine .empty x) 2#6 desc2 ∧ OriginAt (engine .empty x) 63#6 2 [3, 5]
        ∧ WindowFits (tile7 .empty) desc2 (rowsOfDesc desc2) ∧ ¬bitsOf x 13 1 = 1 ∧ rowsOfDesc desc2 * rowBytesOf desc2 = 64
        ∧ HasTile (engine .empty x) 7 (tile7 .empty) [.empty] ∧ WindowAdmits (engine .empty x) 64)
    ∧ (let x : DWord := BitVec.ofNat 64 (7 + 15 * 2 ^ 16 + 127 * 2 ^ 24)
       ControlFits x (fetchMask .tgath false) ∧ 2 ≤ desc2.dims.length ∧ (desc2.dims.getLast?.map (·.ext)) = some 1
        ∧ (engine .empty x).ref (bitsOf x 24 7) = some (.reg 127) ∧ WindowFits (tile7 .empty) desc2 (32 * laneRows desc2)
        ∧ HasTile (engine .draining x) 7 (tile7 .draining) [.filling, .ready, .draining])
    ∧ (let s0 := withTeam (engine .empty 7#64) (fun t => { t with kibMax := 1 })
       ¬WindowAdmits { s0 with cmds := [{ s0.newCmd .tfetch 15 with bytes := 961 }] } 64
        ∧ WindowAdmits { s0 with cmds := [{ s0.newCmd .tfetch 15 with bytes := 960 }] } 64)
    ∧ (let x := engineRing.getS 1#6
       let r := ringOf engineRing 15
       ControlFits x (fetchMask .tfetch true) ∧ r.live = true ∧ r.first + r.res % r.n = 7 ∧ ringGap r.res r.rd < r.n
        ∧ bitsOf x 13 1 = 1 ∧ (abarOf engineRing (bitsOf x 8 5)).st = 1
        ∧ (abarOf engineRing (bitsOf x 8 5)).k < (abarOf engineRing (bitsOf x 8 5)).c
        ∧ HasTile engineRing 7 (tile7 .ready) [.ready])
    ∧ (let x : DWord := BitVec.ofNat 64 (7 + 11 * 2 ^ 16 + 2 * 2 ^ 20)
       ControlFits x 0x7F00FF ∧ 2 ≤ bitsOf x 20 3 ∧ WindowFits (tile7 .ready) desc2 (rowsOfDesc desc2)
        ∧ HasTile (engine .ready x) 7 (tile7 .ready) [.ready] ∧ outstanding (engine .ready x) .tcommit .tredf < 64
        ∧ 64 ≤ outstanding { engine .ready x with cmds := List.replicate 64 ((engine .ready x).newCmd .tredf 15) } .tcommit .tredf)
    ∧ (ControlFits 0xF0000#64 0xF0000 ∧ outstanding (engine .ready 0xF0000#64) .tcopy .tfill < 16) := by
  refine ⟨⟨rfl, by unfold Placed; decide +kernel, ⟨rfl, rfl, rfl, rfl, fun _ h => absurd h List.not_mem_nil⟩, ⟨rfl, rfl, rfl⟩⟩,
    ⟨by unfold ControlFits; decide +kernel, desc_of _ (by decide +kernel) (by decide +kernel), origin_of _ (by decide +kernel), by unfold WindowFits; decide +kernel, by decide +kernel, by decide +kernel,
      by unfold HasTile; decide +kernel, by unfold WindowAdmits; decide +kernel⟩,
    ⟨by unfold ControlFits; decide +kernel, by decide +kernel, by decide +kernel, by decide +kernel, by unfold WindowFits; decide +kernel,
      by unfold HasTile; decide +kernel⟩,
    by unfold WindowAdmits; decide +kernel, ?_, ?_, by unfold ControlFits; decide +kernel⟩
  · unfold ControlFits HasTile; decide +kernel
  · unfold ControlFits HasTile WindowFits; decide +kernel

/-- A fetch into tile 7 with everything arrived, and a commit of it, of the selected group. -/
def ending (st : TileState) (f : Cmd → Cmd) : State :=
  let s0 := withTeam (engine st 0#64) (fun t => { t with abars := [(31, ABar.mk 1 1 1 0)] })
  { s0 with cmds := [f { s0.newCmd .tfetch 11 with tile := some 7 }] }

theorem own_only (s : State) (c : Cmd) (h : s.cmds = [c]) (h' : s.cur.alive = true ∧ c.grid = s.cur.id.grid ∧ c.clu = s.cur.id.clu
    ∧ c.team = s.cur.id.team ∧ c.grp = s.cur.id.grp) : OwnCommand s c := by
  refine ⟨by rw [h]; exact List.mem_cons_self, fun x hx _ => ?_, h'⟩
  rw [h] at hx; simpa using hx

theorem test_holds_EngineEventsEndTheirCommands :
    (let s := ending .filling (fun c => { c with ab := some 31 })
     ∃ c, OwnCommand s c ∧ Placed s ∧ c.tile = some 7 ∧ c.kind = .tfetch ∧ c.chunks = [] ∧ c.waiting = 0 ∧ c.fail = none ∧ c.ring = none
      ∧ c.ab = some 31 ∧ HasTile s 7 (tile7 .filling) [.filling])
    ∧ (let s0 := ending .ready (fun c => { c with ring := some (15, 2 ^ 32 - 1) })
       let s := withTeam s0 (fun t => { t with rings := [(15, Machine.Ring.mk true 0 6 2 0 (2 ^ 32 - 1) (2 ^ 32 - 1) (2 ^ 32 - 1) [] [])] })
       ∃ c, OwnCommand s c ∧ c.ring = some (15, 2 ^ 32 - 1) ∧ c.ab = none ∧ 2 ^ 32 - 1 = (ringOf s 15).wr
        ∧ (2 ^ 32 - 1 + 1) % 2 ^ 32 ∉ (ringOf s 15).complete ∧ 2 ^ 32 - 1 ∉ (ringOf s 15).complete)
    ∧ (let s := ending .draining (fun c => { c with kind := .tcommit, image := [1#8], chunks := [0] })
       ∃ c, OwnCommand s c ∧ c.kind = .tcommit ∧ c.read = false ∧ NoPoison s ∧ HasTile s 7 (tile7 .draining) [.draining] ∧ ¬inRing s 7)
    ∧ (let s := ending .ready (fun c => { c with kind := .tredf, read := true })
       ∃ c, OwnCommand s c ∧ c.kind = .tredf ∧ c.read = true ∧ c.chunks = [] ∧ c.cur = none ∧ c.waiting = 0)
    ∧ (let s := ending .filling id
       ∃ c, s.cmds = [c] ∧ s.strudel.work = none ∧ c.fail = none ∧ c.ring = none ∧ c.ab = none ∧ c.kind = .tfetch) := by
  refine ⟨⟨_, own_only _ _ rfl (by decide +kernel), by unfold Placed; decide +kernel, rfl, rfl, rfl, rfl, rfl, rfl, rfl,
      by unfold HasTile; decide +kernel⟩,
    ⟨_, own_only _ _ rfl (by decide +kernel), rfl, rfl, by decide +kernel⟩,
    ⟨_, own_only _ _ rfl (by decide +kernel), rfl, rfl, ⟨rfl, rfl, rfl, rfl, fun _ h => absurd h List.not_mem_nil⟩, by unfold HasTile; decide +kernel, ?_⟩,
    ⟨_, own_only _ _ rfl (by decide +kernel), rfl, rfl, rfl, rfl, rfl⟩, ⟨_, rfl, rfl, rfl, rfl, rfl, rfl⟩⟩
  rintro ⟨kr, hk, _⟩
  revert kr
  decide +kernel

end Sys2Proof.Tests
end

