-- ==== Sys2Proof/Tests/Hold4.lean ====
section
/-! SUPPORT. States and operands that meet the hypotheses of the statements about fault records, power, the ports, boot and the
security commands, clause by clause, at the ends of their ranges. -/

namespace Sys2Proof.Tests

set_option Elab.async false

open Sys2Proof.Machine Sys2Proof.Safety Sys2Proof.Claims

/-- A record, and a fault ring of 16 entries at 0x100000 whose last free entry is next. -/
def someRecord : Record :=
  { time := 7#64, source := 0x32000000#32, cause := 192, job := 3#16, grid := 1, clu := 0, core := 0, inRun := false, team := 0,
    grp := 0, pc := 0x100, nfrag := 0, fmask := 1#32, addr := 0x4000, aux := 0#64 }

def ringAt (base : Addr) (head tail : BitVec 32) : State :=
  { calm with fault := { calm.fault with
      enable := true, base := base, head := head, tail := tail, logEntries := 0#4, records := [someRecord] } }

theorem test_holds_FaultRecordsReachTheirRing :
    (ringAt 0x100000#57 0#32 15#32).fault.records = someRecord :: [] ∧ RingOpen (ringAt 0x100000#57 0#32 15#32)
      ∧ MapsTo (ringAt 0x100000#57 0#32 15#32) 0x1003C0 page0 ∧ page0.kind = 1 ∧ page0.write = true
      ∧ ¬RingOpen (ringAt 0x100000#57 0#32 16#32) ∧ (ringAt 0x100000#57 0#32 15#32).fault.head ≠ 15#32
      ∧ (ringAt 0x100000#57 0#32 15#32).fault.heldBit = false :=
  ⟨rfl, by unfold RingOpen; decide +kernel, mapsTo_of_walk rfl (by decide +kernel) (by decide), rfl, rfl,
    by unfold RingOpen; decide +kernel, by decide +kernel, rfl⟩

/-- A step at either end of its range, a temperature at each limit. -/
theorem test_holds_PowerStepsFollowSagAndTemperature :
    (let s : State := { calm with power := [(3, { Power.reset with n := 4#4, temp := 100#8 })] }
     (powerAt s 3#2).n.toNat ≤ 4 ∧ (powerAt s 3#2).n.toNat < (if 100 ≤ (powerAt s 3#2).temp.toNat then 6 else 8))
    ∧ (let s : State := { calm with power := [(3, { Power.reset with n := 5#4, temp := 99#8 })] }
       4 < (powerAt s 3#2).n.toNat)
    ∧ (let s : State := { calm with power := [(3, { Power.reset with n := 6#4, temp := 100#8 })] }
       (if 100 ≤ (powerAt s 3#2).temp.toNat then 6 else 8) ≤ (powerAt s 3#2).n.toNat)
    ∧ 110 ≤ (110#8 : BitVec 8).toNat ∧ (100#8 : BitVec 8).toNat ≤ 100 ∧ 100 < (101#8 : BitVec 8).toNat ∧ (101#8 : BitVec 8).toNat < 110 := by
  decide +kernel

def someFrame : Frame := { op := 1, seq := 9#16, num := 0#16, value := 0#64, block := [] }

theorem test_holds_PortsAndPackageReset :
    calm.sec.slots.any (·.isSome) = false ∧ 0x7FFFFFFF + [0xAB#8].length ≤ 2 ^ 31
      ∧ calm.mgmt.seen.find? (fun x => x.1 == 9#16) = none ∧ (csrStores 0x130).isSome = true
      ∧ (let s : State := { calm with mgmt := { calm.mgmt with seen := [(9#16, someFrame)], unanswered := [someFrame] } }
         s.mgmt.seen.find? (fun x => x.1 == 9#16) = some (9#16, someFrame)
          ∧ s.mgmt.unanswered.find? (fun g => g.seq == 9#16) = some someFrame) := by
  decide +kernel

theorem sget_absent (m : Memory) (k : Nat) (h : ∀ e ∈ m, e.1 ≠ k) : sget 0#8 m k = 0#8 := by
  induction m with
  | nil => rfl
  | cons e m ih =>
    obtain ⟨j, x⟩ := e
    rw [sget, if_neg (h (j, x) List.mem_cons_self), ih (fun e he => h e (List.mem_cons_of_mem _ he))]

theorem readBytes_zero (m : Memory) (n : Nat) : ∀ a, (m.all (fun e => decide (e.1 < a) || decide (a + n ≤ e.1))) = true →
    ∀ x ∈ readBytes m a n, x = 0#8 := by
  induction n with
  | zero => intro a _ x hx; simp [readBytes] at hx
  | succ n ih =>
    intro a h x hx
    have h' := fun e he => List.all_eq_true.mp h e he
    simp only [Bool.or_eq_true, decide_eq_true_eq] at h'
    rw [readBytes, List.mem_cons] at hx
    rcases hx with rfl | hx
    · exact sget_absent m a (fun e he => by have := h' e he; omega)
    · refine ih (a + 1) (List.all_eq_true.mpr fun e he => ?_) x hx
      have := h' e he
      simp only [Bool.or_eq_true, decide_eq_true_eq]
      omega

theorem readBytes_drop (m : Memory) (k : Nat) : ∀ a n, (readBytes m a (k + n)).drop k = readBytes m (a + k) n := by
  induction k with
  | zero => intro a n; simp
  | succ k ih =>
    intro a n
    rw [show k + 1 + n = (k + n) + 1 by omega, readBytes, List.drop_succ_cons, ih, show a + 1 + k = a + (k + 1) by omega]

/-- An image at 0x100000: header, one page of firmware, its entry at the last word (R406). -/
def imageState : State :=
  let s : State := { calm with mem := calm.mem.pkgWrite 0x100000 (leBytes 4 0x4639514B ++ leBytes 2 1 ++ leBytes 2 0 ++ leBytes 8 4096
      ++ leBytes 8 4092) }
  { s with sec := { s.sec with stage := 1#3, image := 0x100#19, keyDigest := Config.sm3 (readBytes s.mem.pkg 0x100040 64) } }

theorem image_tail : zeroFrom (readBytes imageState.mem.pkg 0x100000 4096) 0xC0 0x1000 = true := by
  unfold zeroFrom
  rw [List.take_of_length_le (by rw [readBytes_length]), show (4096 : Nat) = 0xC0 + 3904 from rfl, readBytes_drop]
  refine List.all_eq_true.mpr fun x hx => ?_
  rw [readBytes_zero _ _ _ (by decide +kernel) x hx]
  rfl

theorem image_header : headerOk (readBytes imageState.mem.pkg 0x100000 4096) 0x100000 = true := by
  simp only [headerOk, Bool.and_eq_true]
  refine ⟨⟨⟨⟨⟨⟨⟨⟨⟨⟨⟨?_, ?_⟩, ?_⟩, ?_⟩, ?_⟩, ?_⟩, ?_⟩, ?_⟩, ?_⟩, ?_⟩, image_tail⟩, ?_⟩ <;> decide +kernel

/-- Nothing in Lean tells which signatures verify, so the good image is good if this one's does. -/
theorem test_holds_BootChecksItsImage :
    (imageState.sec.stage = 1#3 ∧ headerOk (readBytes imageState.mem.pkg 0x100000 4096) 0x100000 = true
      ∧ imageState.sec.image.toNat * 4096 = 0x100000
      ∧ Config.sm3 (readBytes imageState.mem.pkg (0x100000 + 0x40) 64) = imageState.sec.keyDigest
      ∧ imageState.sec.svnMin.toNat ≤ bytesAt (pkgByte imageState) (0x100000 + 6) 1)
    ∧ (let s : State := { calm with sec := { calm.sec with stage := 1#3 } }
       s.sec.stage = 1#3 ∧ headerOk (readBytes s.mem.pkg (s.sec.image.toNat * 4096) 4096) (s.sec.image.toNat * 4096) ≠ true) := by
  refine ⟨⟨rfl, image_header, by decide +kernel, rfl, by decide +kernel⟩, by decide +kernel⟩

/-! ## Security commands -/

/-- What `CommandStarted` asks, in a form that is computed. -/
theorem started_of (s : State) (code : Nat) (unused : List (Nat × Nat))
    (h : (s.sec.start = true ∧ s.sec.pair = none ∧ commandNum s 0 1 = code)
      ∧ unused.all (fun r => (List.range r.2).all (fun k => decide (k < r.1) || pkgByte s (s.sec.block.toNat * 256 + k) == 0#8)) = true) :
    CommandStarted s code unused := by
  refine ⟨h.1.1, h.1.2.1, h.1.2.2, fun r hr k h1 h2 => ?_⟩
  have := List.all_eq_true.mp (List.all_eq_true.mp h.2 r hr) k (List.mem_range.mpr h2)
  simp only [Bool.or_eq_true, decide_eq_true_eq, beq_iff_eq] at this
  exact this.resolve_left (by omega)

/-- A key slot of job 3, with keys or without. -/
def slot3 (keys : Option (BitVec 384)) : KeySlot :=
  { job := 3#16, join := decide (keys = none), owner := 0#512, keys := keys, windows := [], pairs := [], sealed_ := [], versions := [] }

/-- A started command whose block at 0x800000 begins with the bytes given; key slots as given. -/
def commandState (bs : List Byte) (slots : List (Option KeySlot)) : State :=
  { calm with
    mem := calm.mem.pkgWrite 0x800000 bs,
    sec := { calm.sec with block := 0x8000#23, start := true, slots := slots } }

def code3 (c : Nat) : List Byte := leBytes 2 c ++ leBytes 2 3

theorem test_holds_SecurityCommandsBindPairAndQuote :
    (let s := commandState (code3 0) (List.replicate 15 (some (slot3 none)) ++ [none])
     CommandStarted s 0 [(9, 16), (144, 256)] ∧ commandNum s 8 1 ≤ 1 ∧ (∀ x ∈ bindWindows s, x.1 % 2 ^ 21 = 0 ∧ x.2 % 2 ^ 21 = 0)
      ∧ s.sec.slots.any (·.isNone) = true ∧ s.keySlot (commandJob s) = some (slot3 none))
    ∧ (let s := commandState (code3 0 ++ leBytes 4 0 ++ [1#8]) (List.replicate 16 none)
       CommandStarted s 0 [(9, 16), (144, 256)] ∧ commandNum s 8 1 ≤ 1 ∧ (∀ x ∈ bindWindows s, x.1 % 2 ^ 21 = 0 ∧ x.2 % 2 ^ 21 = 0)
      ∧ s.sec.slots.any (·.isNone) = true ∧ s.keySlot (commandJob s) = none)
    ∧ (commandState (code3 0) (List.replicate 16 (some (slot3 none)))).sec.slots.any (·.isNone) = false
    ∧ (8 ≤ 255 ∧ CommandStarted (commandState (code3 255) []) 255 [])
    ∧ (let s := commandState (code3 7) [some (slot3 none)]
       CommandStarted s 7 [(8, 256)] ∧ s.keySlot (commandJob s) = some (slot3 none)
        ∧ s.ctx.saved.any (fun c => c.job == commandJob s) = false
        ∧ s.clusters.any (fun c => s.clusterJob c == commandJob s && !(s.clusterGroups c).isEmpty) = false)
    ∧ CommandStarted (commandState (code3 2) []) 2 [(40, 64), (192, 256)]
    ∧ (let s := commandState (code3 1 ++ leBytes 4 0 ++ leBytes 2 65535) [some (slot3 none)]
       CommandStarted s 1 [(10, 16), (49, 256)] ∧ commandNum s 8 2 = 65535 ∧ s.keySlot (commandJob s) = some (slot3 none))
    ∧ (let w : PairWait := { node := 51, job := 3#16, measurement := 5#256, svn := 15#8, at_ := 7, frame := some 9#16 }
       let s : State := { commandState [] [some (slot3 none)] with sec := { (commandState [] [some (slot3 none)]).sec with pair := some w } }
       s.sec.pair = some w ∧ w.node = (51#12 : BitVec 12).toNat ∧ s.time.toNat < w.at_ + 1000000000
        ∧ w.at_ + 1000000000 = ({ s with time := 1000000007#64 } : State).time.toNat ∧ w.svn.toNat ≤ (15#4 : BitVec 4).toNat ∧ w.job ≠ 0#16 ∧ s.keySlot w.job = some (slot3 none)
        ∧ (14#4 : BitVec 4).toNat < w.svn.toNat)
    ∧ (calm.sec.start = false ∧ calm.sec.pair = none ∧ calm.mgmt.seen.find? (fun x => x.1 == 0#16) = none ∧ 8 ≤ ([8#8].getD 0 0#8 : Byte).toNat) := by
  refine ⟨⟨started_of _ _ _ (by decide +kernel), by decide +kernel⟩, ⟨started_of _ _ _ (by decide +kernel), by decide +kernel⟩,
    by decide +kernel, ⟨by decide, started_of _ _ _ (by decide +kernel)⟩, ⟨started_of _ _ _ (by decide +kernel), by decide +kernel⟩,
    started_of _ _ _ (by decide +kernel), ⟨started_of _ _ _ (by decide +kernel), by decide +kernel⟩, by decide +kernel, by decide +kernel⟩

/-- A frame's command: a code, job 3, further bytes, zeros to 256. -/
def frame3 (c : Nat) (bs : List Byte) : List Byte := code3 c ++ bs ++ List.replicate (252 - bs.length) 0#8

/-- What `frameZero` asks, in a form that is computed. -/
theorem zero_of (b : List Byte) (lo hi : Nat) (h : (List.range hi).all (fun k => decide (k < lo) || b.getD k 0#8 == 0#8) = true) :
    frameZero b lo hi := by
  intro k h1 h2
  have := List.all_eq_true.mp h k (List.mem_range.mpr h2)
  simp only [Bool.or_eq_true, decide_eq_true_eq, beq_iff_eq] at this
  exact this.resolve_left (by omega)

/-- A frame that binds job 3, one that pairs, one that quotes, one that unbinds, one of a reserved code; a port that waits (R427). -/
theorem test_holds_SecurityFrames :
    (let s := commandState [] [none]
     (({ s with sec := { s.sec with start := false } } : State).sec.start = false ∧ calm.mgmt.seen.find? (fun x => x.1 == 0#16) = none ∧ s.sec.start = true)
      ∧ (s.sec.slots.any (·.isNone) = true ∧ s.keySlot 3#16 = none))
    ∧ (let b := frame3 0 []
       (frameNum b 0 1 = 0 ∧ frameNum b 2 2 = 3 ∧ frameNum b 8 1 ≤ 1) ∧ frameZero b 9 16 ∧ frameZero b 144 256
        ∧ ∀ x ∈ (List.range 4).map (fun i => (frameNum b (80 + 16 * i) 8, frameNum b (88 + 16 * i) 8)), x.1 % 2 ^ 21 = 0 ∧ x.2 % 2 ^ 21 = 0)
    ∧ (frameNum (frame3 1 []) 0 1 = 1 ∧ frameZero (frame3 1 []) 10 16 ∧ frameZero (frame3 1 []) 49 256)
    ∧ (frameNum (frame3 2 []) 0 1 = 2 ∧ frameZero (frame3 2 []) 40 64 ∧ frameZero (frame3 2 []) 192 256)
    ∧ (frameNum (frame3 7 []) 0 1 = 7 ∧ frameZero (frame3 7 []) 8 256 ∧ (commandState [] [some (slot3 none)]).keySlot 3#16 = some (slot3 none))
    ∧ 8 ≤ frameNum (frame3 8 []) 0 1 :=
  ⟨by decide +kernel, ⟨by decide +kernel, zero_of _ _ _ (by decide +kernel), zero_of _ _ _ (by decide +kernel), by decide +kernel⟩,
    ⟨by decide +kernel, zero_of _ _ _ (by decide +kernel), zero_of _ _ _ (by decide +kernel)⟩,
    ⟨by decide +kernel, zero_of _ _ _ (by decide +kernel), zero_of _ _ _ (by decide +kernel)⟩,
    ⟨by decide +kernel, zero_of _ _ _ (by decide +kernel), by decide +kernel⟩, by decide +kernel⟩

/-- The pages of 2 MiB from 0x200000 and 0x400000 lie in far memory on module 3 (R175). -/
def farState (s : State) : State :=
  { s with mem := { s.mem with
      pkg := putEntry (putEntry s.mem.pkg 0x4008 (2 ^ 63 + 3 * 2 ^ 61 + 2 ^ 60 + 2 ^ 59 + 3 * 2 ^ 43 + 0x200000))
        0x4010 (2 ^ 63 + 3 * 2 ^ 61 + 2 ^ 60 + 2 ^ 59 + 3 * 2 ^ 43 + 0x400000) } }

/-- SEAL of 2 MiB at 0x200000 with its versions at 0x400000. -/
def sealState : State :=
  farState (commandState (code3 3 ++ leBytes 4 0 ++ leBytes 8 0x200000 ++ leBytes 8 0x200000 ++ leBytes 8 0x400000) [some (slot3 (some 9#384))])

/-- The pages of the region and of its versions, found by the walk. -/
theorem seal_leaf (va i : Nat) (hi : va / 2 ^ 21 = i) (h : i = 1 ∨ i = 2) :
    (sealState.leafAt va).any (fun l => l.kind == 3) = true := by
  have d (n : Nat) (hn : 30 ≤ n) : va / 2 ^ n % 512 = 0 := by
    have : va / 2 ^ n = 0 := Nat.div_eq_of_lt (lt_of_lt_of_le (by omega : va < 2 ^ 30) (Nat.pow_le_pow_right (by decide) hn))
    rw [this]
  have e4 : checkEntry sealState.mem sealState.ctxArea 0x1000 4 = .ok (2 ^ 63 + 0x2000) := ok_of _ _ (by decide +kernel)
  have e3 : checkEntry sealState.mem sealState.ctxArea 0x2000 3 = .ok (2 ^ 63 + 0x3000) := ok_of _ _ (by decide +kernel)
  have e2 : checkEntry sealState.mem sealState.ctxArea 0x3000 2 = .ok (2 ^ 63 + 0x4000) := ok_of _ _ (by decide +kernel)
  have e1 : checkEntry sealState.mem sealState.ctxArea (0x4000 + 8 * i) 1
      = .ok (2 ^ 63 + 3 * 2 ^ 61 + 2 ^ 60 + 2 ^ 59 + 3 * 2 ^ 43 + 0x200000 * i) := by
    rcases h with rfl | rfl <;> exact ok_of _ _ (by decide +kernel)
  have j : sealState.mem.jptb.toNat / 4096 % 2 ^ 19 * 4096 = 0x1000 := rfl
  have hw : walk sealState.mem sealState.ctxArea va 0
      = .ok (leafOf 1 (2 ^ 63 + 3 * 2 ^ 61 + 2 ^ 60 + 2 ^ 59 + 3 * 2 ^ 43 + 0x200000 * i)) := by
    rw [walk, Mem.root, j, walkFrom, d (12 + 9 * (3 + 1)) (by decide), Nat.mul_zero, Nat.add_zero, e4]
    simp only [show entryKind (2 ^ 63 + 0x2000) = 0 from by decide, if_true, show entryAddr (2 ^ 63 + 0x2000) = 0x2000 from by decide]
    rw [walkFrom, d (12 + 9 * (2 + 1)) (by decide), Nat.mul_zero, Nat.add_zero, e3]
    simp only [show entryKind (2 ^ 63 + 0x3000) = 0 from by decide, if_true, show entryAddr (2 ^ 63 + 0x3000) = 0x3000 from by decide]
    rw [walkFrom, d (12 + 9 * (1 + 1)) (by decide), Nat.mul_zero, Nat.add_zero, e2]
    simp only [show entryKind (2 ^ 63 + 0x4000) = 0 from by decide, if_true, show entryAddr (2 ^ 63 + 0x4000) = 0x4000 from by decide]
    rw [walkFrom, show va / 2 ^ (12 + 9 * (0 + 1)) % 512 = i by rw [hi]; omega, e1]
    rcases h with rfl | rfl <;> rfl
  unfold State.leafAt
  rw [if_neg (by omega), hw]
  rcases h with rfl | rfl <;> rfl

theorem seal_far (base n : Nat) (h : ∀ i, i < n → (base + 4096 * i) / 2 ^ 21 = 1 ∨ (base + 4096 * i) / 2 ^ 21 = 2) :
    (List.range n).all (fun i => (sealState.leafAt (base + 4096 * i)).any (fun l => l.kind == 3)) = true :=
  List.all_eq_true.mpr fun i hi => seal_leaf _ _ rfl (h i (List.mem_range.mp hi))

theorem seal_ok : sealState.sealOk (slot3 (some 9#384)) 0x200000 0x200000 0x400000 = true := by
  have a : sealState.allFar 0x200000 0x200000 = true := by
    unfold State.allFar
    rw [show (0x200000 : Nat) / 4096 = 512 from rfl, seal_far 0x200000 512 (fun i hi => by omega)]
    decide
  have b : sealState.allFar (0x400000 - 0x400000 % 4096) (0x200000 / 16 + 0x400000 % 4096) = true := by
    unfold State.allFar
    rw [show (0x200000 / 16 + 0x400000 % 4096) / 4096 = 32 from rfl, seal_far _ 32 (fun i hi => by omega)]
    decide
  simp only [State.sealOk, a, b]
  decide +kernel

def sealed1 : Sealed := { base := 0x200000, size := 0x200000, area := 0x400000 }

/-- A checkpoint of module 3 in slot 2 for job 3. -/
def kept3 : Checkpoint := { slot := 2, job := 3#16, module := 3, lines := [], tags := [(3 * 2 ^ 33, some (9#384, 0))], key := none, versions := [] }

def ckBlock (c : Nat) : List Byte := code3 c ++ leBytes 4 0 ++ leBytes 2 3 ++ leBytes 2 1 ++ leBytes 4 2

theorem test_holds_SealsAndCheckpointsKeepTheirLines :
    (sealState.keySlot (commandJob sealState) = some (slot3 (some 9#384)) ∧ (slot3 (some 9#384)).keys = some 9#384
      ∧ CommandStarted sealState 3 [(32, 256)]
      ∧ commandNum sealState 8 8 = 0x200000 ∧ commandNum sealState 16 8 = 0x200000 ∧ commandNum sealState 24 8 = 0x400000
      ∧ sealState.sealOk (slot3 (some 9#384)) 0x200000 0x200000 0x400000 = true)
    ∧ (let s := commandState (code3 3) [some (slot3 (some 9#384))]
       CommandStarted s 3 [(32, 256)]
        ∧ s.sealOk (slot3 (some 9#384)) (commandNum s 8 8) (commandNum s 16 8) (commandNum s 24 8) = false)
    ∧ (let k := { slot3 (some 9#384) with sealed_ := [sealed1] }
       let s := commandState (code3 4 ++ leBytes 4 0 ++ leBytes 8 0x200000) [some k]
       CommandStarted s 4 [(16, 256)] ∧ s.keySlot (commandJob s) = some k
        ∧ k.sealed_.find? (fun x => x.base == commandNum s 8 8) = some sealed1
        ∧ (slot3 (some 9#384)).sealed_.find? (fun x => x.base == commandNum s 8 8) = none)
    ∧ CommandStarted (commandState (ckBlock 5) [some (slot3 (some 9#384))]) 5 [(16, 256)]
    ∧ (let s0 := commandState (ckBlock 6) [some (slot3 (some 9#384))]
       let s : State := { s0 with sec := { s0.sec with safe := [kept3] } }
       CommandStarted s 6 [(16, 256)] ∧ commandModules s = [3] ∧ checkpointOf s 3 = some kept3 ∧ kept3.key = none
        ∧ swf none kept3.tags = true ∧ (∀ e ∈ kept3.tags, e.1 / 2 ^ 33 = 3) ∧ checkpointOf s0 3 = none) := by
  refine ⟨⟨by decide +kernel, rfl, started_of _ _ _ (by decide +kernel), by decide +kernel, by decide +kernel, by decide +kernel, seal_ok⟩,
    ⟨started_of _ _ _ (by decide +kernel), by decide +kernel⟩, ⟨started_of _ _ _ (by decide +kernel), by decide +kernel⟩,
    started_of _ _ _ (by decide +kernel), ⟨started_of _ _ _ (by decide +kernel), by decide +kernel⟩⟩

end Sys2Proof.Tests
end

