-- ==== Sys2Proof/Tests/Hold7.lean ====
section
/-! SUPPORT. States and operands that meet the hypotheses of the statements about Strudel and launches, clause by clause. -/

namespace Sys2Proof.Tests

set_option Elab.async false

open Sys2Proof.Machine Sys2Proof.Safety Sys2Proof.Claims

/-! ## Strudel -/

/-- Eight-byte numbers at addresses. -/
def putNums (m : Memory) (xs : List (Nat × Nat)) : Memory := xs.foldl (fun m x => putEntry m x.1 x.2) m

/-- A layout of four bytes of format 3 in blocks on a mesh of two, at `a`, its table at `table` (R273). -/
def layoutNums (a table : Nat) : List (Nat × Nat) :=
  [(a, 1 + 2 ^ 8 + 3 * 2 ^ 16), (a + 8, table), (a + 0x10, 4), (a + 0x30, 2), (a + 0x38, 2 ^ 32)]

def layout2 (table : Nat) : Layout :=
  { fmt := 3, naxes := 1, rank := 1, table := table, sizes := [4], mesh := [2], parts := [(0, 1, 0)] }

/-- Two entries of a shard table at `a` (R276). -/
def shardNums (a base : Nat) : List (Nat × Nat) :=
  [(a, base), (a + 8, 50), (a + 0x10, 1), (a + 0x80, base + 16), (a + 0x88, 50), (a + 0x90, 1)]

def shards2 (base : Nat) : List Shard :=
  [{ base := base, node := 50, strides := [1] }, { base := base + 16, node := 50, strides := [1] }]

/-- Records at 0x10000 and 0x10100, tables at 0x11000 and 0x11100, a cursor at 0x12000 in a status, a plan area at 0x13000; far pages at
0x200000 and 0x400000. -/
def reshardState2 (status : Nat) : State :=
  let s := farState (withS calm [(1, 0x1000F0000#64), (2, 0x10000#64), (3, 0x10100#64), (4, 0x12000#64), (5, 0x13000#64)])
  { s with mem := { s.mem with
      pkg := putNums s.mem.pkg (layoutNums 0x210000 0x11000 ++ layoutNums 0x210100 0x11100 ++ shardNums 0x211000 0x200000
        ++ shardNums 0x211100 0x400000 ++ [(0x212000, status), (0x212020, 0x10000), (0x212028, 0x10100)]) } }

theorem reshard_tables (k : Nat) (h : k = 1 ∨ k = 2) : Tables (reshardState2 k).mem (reshardState2 k).ctxArea := by
  unfold Tables
  rcases h with rfl | rfl <;> decide +kernel

/-- The engine's work of that re-shard. -/
def work2 : Reshard :=
  { id := 5, plan := false, job := 0#16, room := 1024, srcRec := 0x10000, dstRec := 0x10100, cursor := 0x12000, area := 2 ^ 56,
    src := layout2 0x11000, dst := layout2 0x11100, from_ := { status := 0, dst := 0, src := 0, box := 0, done := 0 },
    srcShards := shards2 0x200000, dstShards := shards2 0x400000, intervals := [[(0, 2, 0, 0), (2, 4, 1, 1)]],
    boxes := [{ dst := 0, src := 0, idx := 0, ivs := [0] }, { dst := 1, src := 1, idx := 0, ivs := [1] }], start := 0, next := 0,
    ahead := [], top := 2, lost := [], limit := none, planned := true, stopping := false, hold := false, resumed := false,
    farSince := 0, homeSince := 0 }

/-- An answer for the second box is still to come. -/
def boxTxn : Txn :=
  { pk := { calm.packet 14 3 0#16 with dstMod := true }, owner := .box 5 1, ea := 0x200010, started := 0, refused := none, held := none,
    cancel := none, busy := false, locked := none }

def working (r : Reshard) : State :=
  let s := reshardState2 1
  { s with strudel := { s.strudel with work := some r },
           cmds := [{ s.newCmd (if r.plan then .rsplan else .rshard) 15 with id := 5, cur := some 0 }] }

/-- The first box of that re-shard is ready, the second waits for its answer. -/
def boxing : State := { working work2 with fabric := { calm.fabric with txns := [boxTxn] } }

theorem record_at (s : State) (h : Tables s.mem s.ctxArea) (ht : s.mem.tlb = []) (va : Nat) (hv : va % 256 = 0 ∧ va < 2 ^ 21) :
    RecordAt s va 256 (readBytes s.mem.pkg (0x200000 + va % 2 ^ 21) 256) :=
  ⟨hv.1, lt_trans hv.2 (by decide), page0, page0_maps s h ht va hv.2, rfl, rfl, rfl⟩

theorem open_page (s : State) (h : Tables s.mem s.ctxArea) (ht : s.mem.tlb = []) (va n : Nat) (hv : va % n = 0 ∧ va < 2 ^ 21) :
    OpenPage s va n (0x200000 + va % 2 ^ 21) :=
  ⟨hv.1, lt_trans hv.2 (by decide), page0, page0_maps s h ht va hv.2, rfl, rfl, rfl, rfl⟩

/-- RSHARD of a fresh, of a complete and of a continuing cursor; RSSTOP of the work; RSSTAT. -/
theorem test_holds_StrudelWordsAreAccepted :
    (let s := reshardState2 2
     NoStoreOut s ∧ NoRun s ∧ NoPoison s ∧ s.strudel.busy = false ∧ reshardWord (.rshard 1#6 2#6 4#6) = some (false, 1#6, 2#6, 4#6)
      ∧ ReshardControl (s.getS 1#6) ∧ (2#6 : BitVec 6) ≠ 63#6 ∧ (4#6 : BitVec 6) ≠ 63#6
      ∧ RecordAt s (s.getS 2#6).toNat 256 (readBytes s.mem.pkg 0x210000 256) ∧ RecordAt s (s.getS 3#6).toNat 256 (readBytes s.mem.pkg 0x210100 256)
      ∧ layoutFrom (readBytes s.mem.pkg 0x210000 256) = some (layout2 0x11000)
      ∧ layoutFrom (readBytes s.mem.pkg 0x210100 256) = some (layout2 0x11100)
      ∧ OpenPage s (s.getS 5#6).toNat 4096 0x213000 ∧ OpenPage s (s.getS 4#6).toNat 64 0x212000 ∧ CursorFits s 0x212000 0x10000 0x10100
      ∧ cursorNum s 0x212000 0 8 % 4 = 2 ∧ s.cur.alive = true)
    ∧ (let s := reshardState2 1
       CursorFits s 0x212000 0x10000 0x10100 ∧ cursorNum s 0x212000 0 8 % 4 = 1)
    ∧ (working work2).strudel.busy = true
    ∧ (let s := withS (working work2) [(1, 0x12000#64)]
       s.strudel.work = some work2 ∧ work2.plan = false ∧ work2.cursor = (s.getS 1#6).toNat ∧ work2.job = s.cur.id.job
        ∧ work2.stopping = false ∧ (∀ n, work2.limit = some n → 0 ≤ n) ∧ calm.strudel.work = none
        ∧ s.strudel.state < 8 ∧ s.strudel.dst < 2 ^ 16) := by
  have r2 : (reshardState2 2).getS 2#6 = 0x10000#64 := by decide +kernel
  have r3 : (reshardState2 2).getS 3#6 = 0x10100#64 := by decide +kernel
  have r4 : (reshardState2 2).getS 4#6 = 0x12000#64 := by decide +kernel
  have r5 : (reshardState2 2).getS 5#6 = 0x13000#64 := by decide +kernel
  have t := reshard_tables 2 (.inr rfl)
  dsimp only
  rw [r2, r3, r4, r5]
  refine ⟨⟨by unfold NoStoreOut; decide +kernel, by unfold NoRun; decide +kernel, by unfold NoPoison; decide +kernel, by decide +kernel, rfl, by unfold ReshardControl; decide +kernel, by decide, by decide,
    record_at _ t (by decide +kernel) _ (by decide), record_at _ t (by decide +kernel) _ (by decide), by decide +kernel, by decide +kernel,
    open_page _ t (by decide +kernel) _ _ (by decide), open_page _ t (by decide +kernel) _ _ (by decide), by unfold CursorFits; decide +kernel, by decide +kernel,
    by decide +kernel⟩, ⟨by unfold CursorFits; decide +kernel, by decide +kernel⟩, by decide +kernel,
    ⟨by decide +kernel, rfl, by decide +kernel, by decide +kernel, rfl, fun n _ => by omega, rfl,
    by decide +kernel⟩⟩

/-- An RSPLAN whose area is a byte too small. -/
def planning2 : Reshard := { work2 with plan := true, planned := false, room := 95, area := 0x13000 }

theorem pair_of {ε α : Type} (x : State × Except ε α) (y : α) (h : x.2.toOption = some y) : x = (x.1, .ok y) := by
  rw [← ok_of _ _ h]

def afterTable (s : State) (l : Layout) : State := (s.readShards l 0 l.count).1

theorem test_holds_StrudelPlanningEndsShort :
    (working planning2).strudel.work = some planning2 ∧ planning2.planned = false ∧ planning2.resumed = false ∧ planning2.plan = true
      ∧ (working planning2).strudel.queue = [] ∧ NoWatch (working planning2)
      ∧ (working planning2).readShards planning2.src 0 2 = (afterTable (working planning2) planning2.src, .ok (shards2 0x200000))
      ∧ (afterTable (working planning2) planning2.src).readShards planning2.dst 0 2
          = (afterTable (afterTable (working planning2) planning2.src) planning2.dst, .ok (shards2 0x400000))
      ∧ (∀ x ∈ planning2.src.extents (shards2 0x200000), ∀ y ∈ planning2.dst.extents (shards2 0x400000), extentsMeet x y = false)
      ∧ (∀ n ∈ planning2.counts, n ≤ 65535)
      ∧ (∀ k, k < 64 → MapsTo (working planning2) (planning2.area + k) page0 ∧ leafPhys page0 (planning2.area + k) = 0x213000 + k
          ∧ WalkApart (working planning2) (fun a => 0x213000 ≤ a ∧ a < 0x213000 + 64) (planning2.area + k))
      ∧ planning2.room < 64 + 16 * planning2.counts.sum := by
  have t : Tables (working planning2).mem (working planning2).ctxArea := reshard_tables 1 (.inl rfl)
  refine ⟨by decide +kernel, rfl, rfl, rfl, by decide +kernel, by unfold NoWatch; decide +kernel, pair_of _ _ (by decide +kernel),
    pair_of _ _ (by decide +kernel), by decide +kernel, by decide +kernel, fun k hk => ?_, by decide +kernel⟩
  have hv : planning2.area + k < 2 ^ 21 := by show 0x13000 + k < 2 ^ 21; omega
  refine ⟨page0_maps _ t (by decide +kernel) _ hv, ?_, page0_apart _ t _ (fun a h => by omega) _ hv⟩
  show 0x200000 + (0x13000 + k) % 2 ^ 21 = 0x213000 + k
  omega

/-- The leaf of a far page of `farState`. -/
def farLeaf (a : Nat) : Leaf := { kind := 3, read := true, write := true, exec := false, unit := 3, addr := a, lg := 21 }

theorem farKeyOf_maps {s : State} {a : Int} {n : Nat} {w : Bool} {l : Leaf} (h : MapsTo s a.toNat l) (hj : inJobSpace a n = true)
    (hp : ((w && !l.write) || (!w && !l.read)) = false) (hk : l.kind = 3) (ht : leafPhys l a.toNat + n - 1 ≤ farTop) :
    s.farKeyOf a n w = some (farKey l.unit (leafPhys l a.toNat)) := by
  have e : s.translate a.toNat = ((s.translate a.toNat).1, .ok l) := Prod.ext rfl (State.translate_maps h)
  unfold State.farKeyOf State.elemLeaf
  rw [hj]
  dsimp only
  rw [e]
  simp [hp, hk, Nat.not_lt.mpr ht]

/-- The elements of both boxes. -/
theorem work2_elements : work2.boxes.flatMap work2.boxAddrs
    = [(0x200000, 0x400000), (0x200001, 0x400001), (0x200010, 0x400010), (0x200011, 0x400011)] := by decide +kernel

theorem boxing_intact (n : Nat) : State.spoiled { boxing with fresh := n } work2 = false := by
  have m (va : Nat) (l : Leaf) (h : (walk boxing.mem boxing.ctxArea va 0).toOption = some l) (hl : 16 < l.lg) :
      MapsTo { boxing with fresh := n } va l := mapsTo_of_walk (s := boxing) (by decide +kernel) h hl
  have f (a : Int) (w : Bool) (l : Leaf) (h : (walk boxing.mem boxing.ctxArea a.toNat 0).toOption = some l) (hl : 16 < l.lg)
      (hj : inJobSpace a 1 = true) (hp : ((w && !l.write) || (!w && !l.read)) = false) (hk : l.kind = 3)
      (ht : leafPhys l a.toNat + 1 - 1 ≤ farTop) :
      State.farKeyOf { boxing with fresh := n } a 1 w = some (farKey l.unit (leafPhys l a.toNat)) :=
    farKeyOf_maps (m a.toNat l h hl) hj hp hk ht
  have src : State.farRanges { boxing with fresh := n } work2 false
      = [0x200000, 0x200001, 0x200010, 0x200011].map (fun a => (farKey 3 a, 1)) := by
    unfold State.farRanges
    rw [work2_elements]
    simp only [show work2.dst.esize = 1 from by decide]
    simp only [List.filterMap_cons, List.filterMap_nil, Bool.false_eq_true, if_false,
      f 0x200000 false (farLeaf 0x200000) (by decide +kernel) (by decide) (by decide) rfl rfl (by decide),
      f 0x200001 false (farLeaf 0x200000) (by decide +kernel) (by decide) (by decide) rfl rfl (by decide),
      f 0x200010 false (farLeaf 0x200000) (by decide +kernel) (by decide) (by decide) rfl rfl (by decide),
      f 0x200011 false (farLeaf 0x200000) (by decide +kernel) (by decide) (by decide) rfl rfl (by decide)]
    rfl
  have dst : State.farRanges { boxing with fresh := n } work2 true
      = [0x400000, 0x400001, 0x400010, 0x400011].map (fun a => (farKey 3 a, 1)) := by
    unfold State.farRanges
    rw [work2_elements]
    simp only [show work2.dst.esize = 1 from by decide]
    simp only [List.filterMap_cons, List.filterMap_nil, if_true,
      f 0x400000 true (farLeaf 0x400000) (by decide +kernel) (by decide) (by decide) rfl rfl (by decide),
      f 0x400001 true (farLeaf 0x400000) (by decide +kernel) (by decide) (by decide) rfl rfl (by decide),
      f 0x400010 true (farLeaf 0x400000) (by decide +kernel) (by decide) (by decide) rfl rfl (by decide),
      f 0x400011 true (farLeaf 0x400000) (by decide +kernel) (by decide) (by decide) rfl rfl (by decide)]
    rfl
  unfold State.spoiled
  rw [src, dst]
  have e : ∀ m, (boxing.mem.farLog.take m).any (meetsAny ([0x200000, 0x200001, 0x200010, 0x200011].map (fun a => (farKey 3 a, 1))
      ++ [0x400000, 0x400001, 0x400010, 0x400011].map (fun a => (farKey 3 a, 1)))) = false := fun m => by
    rw [show boxing.mem.farLog = [] from by decide +kernel, List.take_nil]; rfl
  have h : ∀ m f, (boxing.mem.homeLog.take m).any f = false := fun m f => by
    rw [show boxing.mem.homeLog = [] from by decide +kernel, List.take_nil]; rfl
  dsimp only
  rw [e, h]
  decide +kernel

theorem test_holds_StrudelBoxCompletes :
    ∃ c, BoxReady (boxing) work2 c 0 { dst := 0, src := 0, idx := 0, ivs := [0] } (fun a => farKey 3 a.toNat) (fun a => farKey 3 a.toNat)
      ∧ work2.boxes[0 + 1]? = some { dst := 1, src := 1, idx := 0, ivs := [1] }
      ∧ (work2.cursor % 64 = 0 ∧ work2.cursor + 64 ≤ 2 ^ 57) ∧ (boxing.fabric.held = [] ∧ boxing.mem.late = [])
      ∧ ∀ o, o < 64 → MapsTo (boxing) (work2.cursor + o) page0 ∧ leafPhys page0 (work2.cursor + o) = leafPhys page0 work2.cursor + o
        ∧ WalkApart (boxing) (fun a => leafPhys page0 work2.cursor ≤ a ∧ a < leafPhys page0 work2.cursor + 64) (work2.cursor + o) := by
  have t : Tables (boxing).mem (boxing).ctxArea := reshard_tables 1 (.inl rfl)
  have addrs : work2.boxAddrs { dst := 0, src := 0, idx := 0, ivs := [0] } = [(0x200000, 0x400000), (0x200001, 0x400001)] := by decide +kernel
  refine ⟨(boxing).cmds.headD (calm.newCmd .rshard 15), ⟨by decide +kernel, by decide +kernel, by decide +kernel, ⟨rfl, rfl, by decide⟩,
    ⟨by unfold NoPoison; decide +kernel, by unfold NoWatch; decide +kernel, by decide +kernel, by decide +kernel⟩, boxing_intact, ?_, ?_, ?_, rfl⟩, rfl, by decide, ⟨rfl, rfl⟩, fun o ho => ?_⟩
  · rw [addrs]
    intro e he
    simp only [List.mem_cons, List.not_mem_nil, or_false] at he
    rcases he with rfl | rfl
    · exact ⟨by decide, by decide +kernel, farLeaf 0x200000, mapsTo_of_walk (by decide +kernel) (by decide +kernel) (by decide), rfl, rfl, by decide +kernel, by decide +kernel⟩
    · exact ⟨by decide, by decide +kernel, farLeaf 0x200000, mapsTo_of_walk (by decide +kernel) (by decide +kernel) (by decide), rfl, rfl, by decide +kernel, by decide +kernel⟩
  · rw [addrs]
    intro e he
    simp only [List.mem_cons, List.not_mem_nil, or_false] at he
    rcases he with rfl | rfl
    · exact ⟨by decide, by decide +kernel, by decide +kernel, farLeaf 0x400000, mapsTo_of_walk (by decide +kernel) (by decide +kernel) (by decide), rfl, rfl,
        by decide +kernel, by decide +kernel⟩
    · exact ⟨by decide, by decide +kernel, by decide +kernel, farLeaf 0x400000, mapsTo_of_walk (by decide +kernel) (by decide +kernel) (by decide), rfl, rfl,
        by decide +kernel, by decide +kernel⟩
  · rw [addrs]; decide +kernel
  · have hv : work2.cursor + o < 2 ^ 21 := by show 0x12000 + o < 2 ^ 21; omega
    have e : leafPhys page0 work2.cursor = 0x212000 := by decide
    rw [e]
    refine ⟨page0_maps _ t (by decide +kernel) _ hv, ?_, page0_apart _ t _ (fun a h => by omega) _ hv⟩
    show 0x200000 + (0x12000 + o) % 2 ^ 21 = 0x212000 + o
    omega

end Sys2Proof.Tests
end

