-- ==== Sys2Proof/Tests/Hold9.lean ====
section
/-! SUPPORT. States and operands that meet the hypotheses of the statements about the fabric words, the data they carry, pod
barriers and pod time, clause by clause. -/

namespace Sys2Proof.Tests

set_option Elab.async false

open Sys2Proof.Machine Sys2Proof.Safety Sys2Proof.Claims

/-- The links to nodes 51, 52 and 95, in both planes, carry traffic at full width. -/
def linked : State :=
  { calm with link := { calm.link with links := [193, 194, 237, 241, 242, 285].map (fun n => (n, { Link.reset with state := 2#4 })) } }

/-- Multicast group 255 of the package's pod has a member list. -/
def withMembers (s : State) (ms : List Nat) : State := { s with fabric := { s.fabric with mcast := [(255, some ms)] } }

/-- The page at 0x200000 may be read only. -/
def readOnly : State :=
  { calm with mem := { calm.mem with pkg := putEntry calm.mem.pkg 0x4008 (2 ^ 63 + 2 ^ 61 + 2 ^ 60 + 0x400000) } }

def readLeaf : Leaf := { kind := 1, read := true, write := false, exec := false, unit := 0, addr := 0x400000, lg := 21 }

/-- A page of a peer at 0x400000 (R175). -/
def peerLeaf : Leaf := { kind := 2, read := true, write := true, exec := false, unit := 51, addr := 0x200000, lg := 21 }

def peerAt : State :=
  { linked with mem := { linked.mem with pkg := putEntry linked.mem.pkg 0x4008 (2 ^ 63 + 2 ^ 62 + 2 ^ 60 + 2 ^ 59 + 51 * 2 ^ 43 + 0x200000) } }

/-- The last 16 bytes of the team's tile memory, to ring 15 of team 11 of cluster 2^32 − 1 on node 2303. -/
def sigX : DWord := BitVec.ofNat 64 (2303 * 2 ^ 52 + 15 * 2 ^ 48 + 11 * 2 ^ 44 + (2 ^ 32 - 1))
def sigZ (off n : Nat) : DWord := BitVec.ofNat 64 (off * 2 ^ 8 + n * 2 ^ 32)

theorem test_holds_SignalAndFflagGoOut :
    (NoRun linked ∧ Placed linked ∧ FlagFits 11#4 ∧ FlagFits 15#4 ∧ ¬FlagFits 12#4 ∧ TargetFits sigX 0xFFFFFFFFFFFF#64
      ∧ SourceFits (sigZ 16368 16) 16 1572864 ∧ bitsOf (sigZ 16368 16) 56 8 = 0 ∧ SourceInside linked (sigZ 16368 16)
      ∧ Routed linked 2303 ∧ Routed linked 50 ∧ NoStoreOut linked ∧ NoPoison linked ∧ NoneOver linked ∧ linked.mem.epi = [])
    ∧ ¬TargetFits (BitVec.ofNat 64 (2304 * 2 ^ 52)) 0#64 ∧ ¬SourceFits (sigZ 8 16) 16 1572864 ∧ ¬SourceInside linked (sigZ 16384 16)
    ∧ (let p := { linked.packet 1 51 0#16 with tag := 9#22 }
       let x : Txn := { pk := p, owner := .weak linked.cur.id.key 0 [], ea := 0, started := 0, refused := none, held := none, cancel := none, busy := false, locked := none }
       let s : State := { linked with fabric := { linked.fabric with txns := [x] } }
       s.fabric.held = [] ∧ s.drains s.cur.id (.release scopePod false) = true)
    ∧ (MapsTo linked 0x1FFFF8 page0 ∧ page0.write = true ∧ page0.kind = 1 ∧ 0x1FFFF8 % 8 = 0 ∧ 0x1FFFFC % 8 ≠ 0)
    ∧ (MapsTo peerAt 0x200000 peerLeaf ∧ peerLeaf.write = true ∧ peerLeaf.kind = 2)
    ∧ (MapsTo readOnly 0x200000 readLeaf ∧ readLeaf.write = false)
    ∧ (MapsTo (farState calm) 0x200000 (farLeaf 0x200000) ∧ (farLeaf 0x200000).write = true ∧ (farLeaf 0x200000).kind = 3) := by
  have t : Tables linked.mem linked.ctxArea := calm_tables
  refine ⟨⟨rfl, by unfold Placed; decide +kernel, by unfold FlagFits; decide, by unfold FlagFits; decide, by unfold FlagFits; decide,
      by unfold TargetFits; decide +kernel, by unfold SourceFits; decide +kernel, by decide +kernel, by unfold SourceInside; decide +kernel,
      by unfold Routed; decide +kernel, by unfold Routed; decide +kernel, ⟨rfl, rfl, rfl⟩,
      ⟨rfl, rfl, rfl, rfl, fun _ h => absurd h List.not_mem_nil⟩, by unfold NoneOver; decide +kernel, rfl⟩,
    by unfold TargetFits; decide +kernel, by unfold SourceFits; decide +kernel, by unfold SourceInside; decide +kernel, by decide +kernel,
    ⟨page0_maps _ t rfl _ (by decide), rfl, rfl, by decide, by decide⟩,
    ⟨mapsTo_of_walk (by decide +kernel) (by decide +kernel) (by decide), rfl, rfl⟩,
    ⟨mapsTo_of_walk (by decide +kernel) (by decide +kernel) (by decide), rfl⟩,
    ⟨mapsTo_of_walk (by decide +kernel) (by decide +kernel) (by decide), rfl, rfl⟩⟩

/-- MCST of the last eight bytes of the page to this package and two others; pod barrier 7 of group 255. -/
theorem test_holds_FabricWordsActOnce :
    (let s := withMembers linked [50, 51, 2303]
     let z : DWord := BitVec.ofNat 64 (255 * 2 ^ 56 + 8 * 2 ^ 32 + 16376 * 2 ^ 8)
     SourceFits z 8 1024 ∧ SourceInside s z ∧ (0x1FFFF8 % 8 = 0 ∧ 0x1FFFF8 % 4096 + 8 ≤ 4096) ∧ membersOf s (bitsOf z 56 8) = [50, 51, 2303]
      ∧ (∀ d ∈ membersOf s (bitsOf z 56 8), d < 2304 ∧ Routed s d) ∧ NodeInPod s ∧ membersOf linked (bitsOf z 56 8) = [])
    ∧ ¬SourceFits (BitVec.ofNat 64 (1032 * 2 ^ 32)) 8 1024 ∧ ¬(0x1FFFF8 % 8 = 0 ∧ 0x1FFFF8 % 4096 + 16 ≤ 4096)
    ∧ (let s := withMembers linked [50, 51]
       let x : DWord := BitVec.ofNat 64 (2 * 2 ^ 16 + 7 * 2 ^ 8 + 255)
       PodWordFits s x ∧ s.cur.sibs = [] ∧ s.cur.stop = none ∧ s.cur.frag.wait = .ready ∧ NoStoreOut s
        ∧ (podBar s s.cur.id.job 7).cfg = none ∧ (podBar s s.cur.id.job 7).members = [] ∧ (podBar s s.cur.id.job 7).who = []
        ∧ (podBar s s.cur.id.job 7).arrived + 1 < bitsOf x 16 16 ∧ ¬PodWordFits linked x
        ∧ (∃ d ∈ membersOf s 255, d ≠ s.node.toNat ∧ d ∉ (podBar s s.cur.id.job 7).known)
        ∧ (let s1 : State := { s with fabric := { s.fabric with bars := [(7, { PodBar.reset with arrived := 1, cfg := some (2, 255), known := [51] })] } }
           bitsOf x 16 16 ≤ (podBar s1 s1.cur.id.job 7).arrived + 1 ∧ (podBar s1 s1.cur.id.job 7).cfg = some (2, 255)
            ∧ ∀ d ∈ membersOf s1 255, d = s1.node.toNat ∨ d ∈ (podBar s1 s1.cur.id.job 7).known)
        ∧ (let s2 := withFrag { s with fabric := { s.fabric with bars := [(7, { PodBar.reset with phase := 1 })] } } (fun f => { f with wait := .phase 2 7 1 })
           s2.cur.frag.wait = .phase 2 7 1 ∧ 1 ≤ (podBar s2 s2.cur.id.job 7).phase)) := by
  unfold SourceFits SourceInside Routed PodWordFits NoStoreOut NodeInPod
  refine ⟨by decide +kernel, by decide +kernel, by decide, by decide +kernel⟩

/-! ## Data that arrives -/

/-- The key slot of job 0. -/
def key51 : KeySlot := { slot3 none with job := 0#16, pairs := [51#12, 52#12] }

/-- Job 0 is bound, and node 51 is a pair of it; tile 7 is the next slot of a ring in mode 1. -/
def target (res : Nat) : State :=
  let s := withTeam linked (fun t => { t with rings := [(15, Machine.Ring.mk true 1 6 2 res 0 0 0 [] [])] })
  { s with
    mem := { s.mem with table := [(6, tile7 .ready), (7, tile7 .ready)] },
    sec := { s.sec with slots := [some key51] } }

/-- A SIGNAL from node 51 to that ring. -/
def signal51 : Packet :=
  { linked.packet 15 50 0#16 with src := 51#12, tag := 0x3FFFFF#22, bytes := List.replicate 16 1#8, args := [1, 0, 0, 15] }

/-- Multicast data from node 51: to the row (2), the column (1), or here only (0). -/
def mcst51 (dir : Nat) : Packet :=
  { linked.packet 18 50 0#16 with src := 51#12, tag := 7#22, bytes := List.replicate 16 1#8, addr := 0x200000, args := [255, dir] }

/-- MGCTL has been written for group 255 of a table at 0x400000. -/
def installing (xs : List (Nat × Nat)) : State :=
  { calm with
    fabric := { calm.fabric with mgBusy := true, mgBase := 0x20#14, mgGroup := 255#8 },
    mem := { calm.mem with pkg := putNums calm.mem.pkg xs } }

theorem test_holds_FabricDataReachesItsTarget :
    (let s := target 1
     NoWatch s ∧ Trusted s signal51 ∧ FirstCopy s signal51 ∧ Routed s signal51.src.toNat
      ∧ (∃ u r, SignalRing s signal51 u r ∧ ringGap r.res r.rd < r.n ∧ s.tileOf u (r.first + r.res % r.n) = some (tile7 .ready)
          ∧ r.wr ∉ r.complete) ∧ SourceStands s signal51)
    ∧ (∃ u r, SignalRing (target 2) signal51 u r ∧ r.n ≤ ringGap r.res r.rd)
    ∧ ((∀ u r, ¬SignalRing calm signal51 u r) ∧ signal51.args.length = 4)
    ∧ (¬Trusted linked signal51 ∧ Routed linked signal51.src.toNat)
    ∧ (let c : Cmd := { linked.newCmd .fflag 15 with op := 50, key := 0x200000, bytes := 8 }
       let s : State := { linked with cmds := [c] }
       c ∈ s.cmds ∧ c.kind = .fflag ∧ c.cur = none ∧ c.fail = none ∧ s.fabric.txns = [] ∧ (∀ x ∈ s.cmds, x.id ∉ c.after) ∧ OwnCommand s c
        ∧ c.op = s.node.toNat)
    ∧ (let s : State := { linked with mem := { linked.mem with pkgPoison := [(0x40000, true)] } }
       sget false s.mem.pkgPoison (0x200004 / 8) = true ∧ s.mem.late = [])
    ∧ (let c : Cmd := { linked.newCmd .fflag 15 with op := 2303, bytes := 4 }
       c.op < 2304 ∧ c.op ≠ linked.node.toNat ∧ Routed linked c.op ∧ NoneOver { linked with cmds := [c] })
    ∧ (let s := withMembers (target 1) [50, 52]
       Trusted s (mcst51 2) ∧ FirstCopy s (mcst51 2) ∧ s.ctx.saved = [] ∧ s.node.toNat ∈ membersOf s 255 ∧ fansOut s 255 2 [52] 52
        ∧ (∀ d ∈ membersOf s 255, d ≠ 50 → d < 2304 ∧ (s.firstHop d).isSome = true) ∧ (∀ d ∈ membersOf s 255, ¬fansOut s 255 1 [] d)
        ∧ ¬s.ctxArea.1 < s.ctxArea.2)
    ∧ (let p : Txn := { pk := { linked.packet 15 51 0#16 with tag := 3#22 }, owner := .cmd 0, ea := 0, started := 0, refused := none, held := none, cancel := none, busy := true, locked := some 1#2 }
       let s : State := { linked with fabric := { linked.fabric with txns := [p] } }
       s.txn p.pk.tag = some p ∧ p.busy = true ∧ Routed s p.pk.dst.toNat ∧ p.pk.dstMod = false)
    ∧ (let s := installing [(0x41FE00 + 0x120, 1), (0x41FE00, 2 ^ 63)]
       s.fabric.mgBase.toNat * 2 ^ 17 + 512 * s.fabric.mgGroup.toNat = 0x41FE00 ∧ EntryValid s 0x41FE00 ∧ entryMember s 0x41FE00 63 = true
        ∧ ¬EntryValid (installing []) 0x41FE00) := by
  refine ⟨⟨by unfold NoWatch; decide +kernel, .inr ⟨rfl, key51, rfl, by decide⟩, by unfold FirstCopy; decide +kernel, by unfold Routed; decide +kernel,
      ⟨(target 1).team, _, ⟨rfl, by decide +kernel, rfl, by decide +kernel, by decide +kernel⟩, by decide +kernel, by decide +kernel, by decide +kernel⟩,
      fun h => absurd h (by decide +kernel)⟩,
    ⟨(target 2).team, _, ⟨rfl, by decide +kernel, rfl, by decide +kernel, by decide +kernel⟩, by decide +kernel⟩,
    ⟨fun u r h => ?_, rfl⟩, ⟨?_, by unfold Routed; decide +kernel⟩,
    ⟨List.mem_cons_self, rfl, rfl, rfl, rfl, by decide +kernel, own_only _ _ rfl (by decide +kernel), by decide +kernel⟩, by decide +kernel,
    ⟨by decide, by decide +kernel, by unfold Routed; decide +kernel, by unfold NoneOver; decide +kernel⟩,
    ⟨.inr ⟨rfl, key51, rfl, by decide⟩, by unfold FirstCopy; decide +kernel, rfl, by decide +kernel, by unfold fansOut; decide +kernel, by decide +kernel,
      by unfold fansOut; decide +kernel, by decide +kernel⟩,
    by unfold Routed; decide +kernel, ?_⟩
  · have e : calm.teams.find? (fun t => t.grid == 1 && t.clu == 0 && t.team == 0 && t.job == 0#16) = some calm.team := by decide +kernel
    obtain ⟨-, h2, h3, h4, -⟩ := h
    have h2' : calm.teams.find? (fun t => t.grid == 1 && t.clu == 0 && t.team == 0 && t.job == 0#16) = some u := h2
    rw [e] at h2'
    cases h2'
    rw [h3] at h4
    exact absurd h4 (by decide +kernel)
  · rintro (h | ⟨-, k, h, -⟩)
    · exact absurd h (by decide +kernel)
    · exact absurd h (by rw [show linked.keySlot signal51.job = none by decide +kernel]; simp)
  · refine ⟨by decide +kernel, ⟨by decide +kernel, ?_⟩, by decide +kernel, fun h => absurd h.1 (by decide +kernel)⟩
    have h : ∀ k, k < 0xD8 → pkgByte (installing [(0x41FE00 + 0x120, 1), (0x41FE00, 2 ^ 63)]) (0x41FE00 + 0x128 + k) = 0#8 := by decide +kernel
    intro o h1 h2
    have := h (o - 0x128) (by omega)
    rwa [show 0x41FE00 + 0x128 + (o - 0x128) = 0x41FE00 + o by omega] at this

end Sys2Proof.Tests
end

