-- ==== Sys2Proof/Tests/Hold10.lean ====
section
/-! SUPPORT. States and operands that meet the hypotheses of the statements about pod time, requests, targets and relays, clause by
clause. -/

namespace Sys2Proof.Tests

set_option Elab.async false

open Sys2Proof.Machine Sys2Proof.Safety Sys2Proof.Claims

/-! ## Pod time -/

/-- Every link to a peer carries traffic in one plane. -/
def peered : State :=
  { calm with
    link := { calm.link with links := (List.range 48).map (fun n => (192 + n, { Link.reset with state := 2#4 })) } }

theorem peered_all : ∀ d, peerNode peered d → peered.peerUp d = true := by
  have h : ∀ d, d < 2304 → d ≠ peered.node.toNat → arePeers peered.node.toNat d → peered.peerUp d = true := by decide +kernel
  exact fun d hd => h d hd.1 hd.2.1 hd.2.2

/-- The clock service with the master, the present rank, a freeze, and a claim; the last time packet came at 0, the silence was
detected at 4000, the claim was made at 8000. -/
def hal (s : State) (master : BitVec 12) (rank : BitVec 4) (fz : Bool) (claim : Option Nat) (claimed : Bool) : State :=
  { s with fabric := { s.fabric with halley :=
      { master := 48#12, enable := true, succ0 := BitVec.ofNat 60 (51 + 50 * 2 ^ 12 + 60 * 2 ^ 24), succ1 := BitVec.ofNat 36 (50 * 2 ^ 24),
        curMaster := master, curRank := rank, frozen := fz, synced := !fz, claim := claim, claimed := claimed, slow := false,
        heard := 0, detected := 4000, claimAt := 8000 } } }

/-- Pod barrier 7 of job 65535 in phase 4, with members 50 to 52, of which 50 has arrived. -/
def barred : State :=
  { linked with
    fabric := { linked.fabric with bars := [(65535 * 8 + 7,
      { PodBar.reset with phase := 4, cfg := some (2, 255), members := [50, 51, 52], known := [50], arrived := 2, later := [52] })] },
    sec := { linked.sec with podPairs := [51#12] } }

def barPacket (phase : Nat) (nodes : List Nat) : Packet :=
  { barred.packet 20 50 0#16 with src := 51#12, args := (65535 * 8 + 7) :: phase :: nodes }

theorem test_holds_PodTimeAndItsElection :
    (NodeInPod peered ∧ (∀ d, peerNode peered d → peered.peerUp d = true)
      ∧ (let h := (hal peered 50#12 0#4 false none false).fabric.halley; h.enable = true ∧ h.frozen = false ∧ h.curMaster = peered.node)
      ∧ calm.fabric.halley.enable = false ∧ (∃ kx ∈ barred.fabric.bars, kx.1 = 65535 * 8 + 7))
    ∧ (let pk := barPacket 4 [51]
       pk.args = ((65535#16).toNat * 8 + 7) :: 4 :: [51] ∧ pk.authentic = true ∧ pk.src ∈ barred.sec.podPairs
        ∧ (let old := podBar barred 65535#16 7
           old.members ≠ [] ∧ old.phase = 4 ∧ old.cfg ≠ none ∧ (∃ d ∈ old.members, ¬(d ∈ old.known ∨ d ∈ [51]))
            ∧ (∀ d ∈ old.members, d ∈ old.known ∨ d ∈ [51, 52])))
    ∧ (let h := (hal calm 48#12 0#4 false none false).fabric.halley; h.enable = true ∧ 48#12 = h.curMaster ∧ 48#12 ≠ calm.node
        ∧ h.frozen = false ∧ h.heard + 4000 = ({ calm with time := 4000#64 } : State).time.toNat ∧ calm.time.toNat < h.heard + 4000)
    ∧ (let h := (hal calm 48#12 0#4 true none false).fabric.halley
       51#12 ≠ h.curMaster ∧ h.frozen = true ∧ successorRank h 51 1 ∧ successorRank h 50 2 ∧ 51#12 ≠ calm.node)
    ∧ (let h := (hal calm 48#12 2#4 true none false).fabric.halley; successorRank h 50 8 ∧ h.curRank ≠ 15#4 ∧ h.claimed = false
        ∧ h.detected + 4000 * (8 - 1) = ({ calm with time := 32000#64 } : State).time.toNat ∧ calm.time.toNat < h.detected + 4000 * (8 - 1))
    ∧ (let h := (hal calm 48#12 0#4 true (some 8) false).fabric.halley; h.frozen = true ∧ h.claim = some 8 ∧ h.curRank ≠ 15#4
        ∧ h.claimAt + 4000 = ({ calm with time := 12000#64 } : State).time.toNat)
    ∧ (let h := (hal calm 48#12 0#4 true (some 1) false).fabric.halley
       h.claimed = false ∧ successorRank h calm.node.toNat 2 ∧ (∃ c, h.claim = some c ∧ c < 2) ∧ ∃ c, h.claim = some c ∧ c ≤ (15#4 : BitVec 4).toNat)
    ∧ (let h := (hal calm 48#12 0#4 true (some 2) true).fabric.halley
       h.claimed = true ∧ h.claim = some 2 ∧ h.claimAt + 2000 = ({ calm with time := 10000#64 } : State).time.toNat
        ∧ calm.time.toNat < h.claimAt + 2000 ∧ (∀ c, h.claim = some c → (0#4 : BitVec 4).toNat < c) ∧ ∀ c, h.claim = some c → 2 ≤ c) := by
  refine ⟨⟨by unfold NodeInPod; decide +kernel, peered_all, by decide +kernel, by decide +kernel, ⟨_, List.mem_cons_self, rfl⟩⟩, by decide +kernel,
    by decide +kernel, ⟨by decide +kernel, by decide +kernel, ?_, ?_, by decide +kernel⟩, ⟨?_, by decide +kernel, by decide +kernel, by decide +kernel, by decide +kernel⟩,
    by decide +kernel, ⟨by decide +kernel, ?_, ⟨1, rfl, by decide⟩, ⟨1, rfl, by decide⟩⟩,
    ⟨by decide +kernel, by decide +kernel, by decide +kernel, by decide +kernel, fun c h => ?_, fun c h => ?_⟩⟩
  iterate 4
    refine ⟨by decide, by decide +kernel, by decide +kernel, ?_⟩
    intro q h1 h2
    revert h1
    revert q
    decide +kernel
  all_goals
    cases (show some 2 = some c from h)
    decide

/-! ## Requests -/

/-- A request of lane 3 with op `op` to node `dst`. -/
def asking (dst op : Nat) (attempt : BitVec 2) : Txn :=
  { pk := { linked.packet op dst 0#16 with tag := 0x3FFFFF#22, attempt := attempt, ops := [{ LaneOp.none with lane := 3, addr := 0x40, size := 4 }] },
    owner := .lanes 4, ea := 0x77, started := 76000, refused := none, held := none, cancel := none, busy := false, locked := none }

/-- Word 4: a load of the current group into v9 whose lanes `open_` are still out. -/
def accessOf (open_ : Mask) : PeerAccess :=
  { word := { id := 4, frag := 0xFFFFFFFF#32, unit := 0x100#57, next := 0x104#57 }, owner := linked.cur.id.key, core := 0, acc := 0, size := 4,
    target := .block [.reg 9], ends := { acq := none, load := none }, pc := 0x100#57, hint := none, fuse := .none, single := false,
    open_ := open_, eas := [(3, 0x1234)], faults := [] }

def access4 : PeerAccess := accessOf 0xC#32

/-- The request is pending at TIME 100,000. -/
def asked (s : State) (p : Txn) : State := { s with time := 100000#64, fabric := { s.fabric with txns := [p], peers := [access4] } }

theorem pending_one (s : State) (p : Txn) : Pending (asked s p) p ∧ ((asked s p).cmds = [] → NoneOver (asked s p)) :=
  ⟨⟨List.mem_singleton_self _, fun _ h _ => List.mem_singleton.mp h⟩, fun h c hc => by rw [h] at hc; cases hc⟩

theorem asked_out (s : State) (p : Txn) (q : Packet) : (asked s p).outLink q = s.outLink q := rfl
theorem asking_out (s : State) (op : Nat) (attempt : BitVec 2) : s.outLink (asking 51 op attempt).pk = s.outLink (asking 51 0 0#2).pk := rfl

/-- The answer to the request. -/
def answerTo (op status : Nat) (args : List Nat) : Packet :=
  { linked.packet op 50 0#16 with src := 51#12, tag := 0x3FFFFF#22, status := status, args := args,
                                  ops := [{ LaneOp.none with lane := 3, data := 0x55#128, size := 4 }] }

/-- An answer that leaves a lane open and one that does not; a refusal of what a relay sent on. -/
theorem test_holds_RequestsOfLanesAndRelays :
    (access4.open_ &&& ~~~(opsMask (asking 51 2 0#2).pk.ops) ≠ 0#32 ∧ (accessOf 8#32).open_ &&& ~~~(opsMask (asking 51 2 0#2).pk.ops) = 0#32)
    ∧ ((accessOf 8#32).faults = [] ∧ linked.cur.isLive (accessOf 8#32).owner = true ∧ linked.cur.run = none ∧ linked.cur.sibs = []
        ∧ linked.cur.frag.member = (accessOf 8#32).word.frag)
    ∧ (∃ o ∈ (asking 51 2 0#2).pk.ops, ∃ x ∈ (answerTo 5 0 []).ops, x.lane = o.lane ∧ o.lane < 32 ∧ access4.open_.getLsbD o.lane = true)
    ∧ (let c : Combine := { id := 6, members := [(asking 51 3 0#2).pk], sent := true, left := 1, status := 0 }
       let s : State := { linked with fabric := { linked.fabric with combines := [c] } }
       s.fabric.combines.find? (fun x => x.id == 6) = some c ∧ (c.members.headD default).op ≠ 18#6) :=
  ⟨by decide +kernel, by decide +kernel, ⟨_, List.mem_cons_self, _, List.mem_cons_self, rfl, by decide, by decide⟩, by decide +kernel⟩

theorem test_holds_RequestsEndOnce :
    (∀ op attempt, Pending (asked linked (asking 51 op attempt)) (asking 51 op attempt) ∧ NoneOver (asked linked (asking 51 op attempt))
      ∧ NodeInPod (asked linked (asking 51 op attempt)) ∧ RouteOpen (asked linked (asking 51 op attempt)) (asking 51 op attempt).pk
      ∧ ¬RouteOpen (asked calm (asking 51 op attempt)) (asking 51 op attempt).pk)
    ∧ (let p := asking 51 2 3#2
       p.cancel = none ∧ p.held = none ∧ p.busy = false ∧ p.started + 24000 ≤ (asked linked p).time.toNat ∧ ¬noEffect p.pk.op
        ∧ noEffect (asking 51 0 3#2).pk.op ∧ (asking 51 0 0#2).pk.attempt ≠ 3#2)
    ∧ (arePeers 50 51 ∧ linked.peerUp 51 = true ∧ calm.peerUp 51 = false)
    ∧ (¬arePeers 50 2303 ∧ linked.peerUp 95 = true ∧ linked.peerUp (48 * 47 + 2) = false)
    ∧ (let s := { peered with fabric := { peered.fabric with lost := [(2303, 1)] } }
       (sget 0 s.fabric.lost 2303).testBit 0 = true ∧ s.peerUp (48 * 47 + 2) = true ∧ (sget 0 s.fabric.lost 2303).testBit 1 = false)
    ∧ (let p := { asking 51 2 0#2 with started := 76001 }; (asked linked p).time.toNat < p.started + 24000)
    ∧ (let p := { asking 51 2 3#2 with cancel := some (1, 95, 76000) }; p.cancel = some (1, 95, 76000) ∧ 76000 + 24000 ≤ (asked linked p).time.toNat)
    ∧ (let p := { asking 51 2 0#2 with refused := some 0, held := some 90000 }
       (asked linked p).time.toNat < 0 + 128000 ∧ ({ asked linked p with time := 128000#64 } : State).time.toNat = 0 + 128000)
    ∧ (∀ op status args, (answerTo op status args).tag = (asking 51 2 0#2).pk.tag ∧ (answerTo op status args).op = BitVec.ofNat 6 op
        ∧ (answerTo op status args).status = status ∧ (answerTo op status args).args = args ∧ Genuine linked (answerTo op status args))
    ∧ ((asking 51 2 0#2).owner = .lanes 4 ∧ access4 ∈ (asked linked (asking 51 2 0#2)).fabric.peers ∧ access4.word.id = 4
        ∧ ∀ b ∈ (asked linked (asking 51 2 0#2)).fabric.peers, b.word.id = 4 → b = access4)
    ∧ (let c : Cmd := { linked.newCmd .signal 15 with id := 9, waiting := 1, cur := some 0 }
       let p := { asking 51 15 0#2 with owner := .cmd 9 }
       let s := { asked linked p with cmds := [c] }
       Pending s p ∧ p.owner = .cmd c.id ∧ OwnCommand s c ∧ c.kind = .signal ∧ c.waiting = 1 ∧ c.cur ≠ none ∧ c.fail = none ∧ NoneOver s)
    ∧ ((asking 51 2 0#2).locked = none ∧ ({ asking 51 2 0#2 with locked := some 1#2 } : Txn).locked = some 1#2
        ∧ 1#2 ≠ (answerTo 5 0 []).attempt ∧ 3 ∉ [5, 6, 7, 8, 10, 12, 16, 19])
    ∧ (let p := { asking 51 2 0#2 with cancel := some (0, 0, 90000) }; p.cancel = some (0, 0, 90000) ∧ (0 : Nat) < 2 ∧ p.pk.dstMod = false) := by
  refine ⟨fun op attempt => ⟨(pending_one _ _).1, (pending_one _ _).2 rfl, by unfold NodeInPod; exact (by decide +kernel : linked.node.toNat < 2304),
      .inr (by rw [asked_out, asking_out]; decide +kernel), ?_⟩,
    by unfold noEffect; decide +kernel, by decide +kernel, by decide +kernel, by decide +kernel, by decide +kernel, by decide +kernel, by decide +kernel,
    fun op status args => ⟨rfl, rfl, rfl, rfl, .inr (.inr rfl)⟩, ⟨rfl, List.mem_cons_self, rfl, ?_⟩,
    ⟨⟨List.mem_singleton_self _, fun _ h _ => List.mem_singleton.mp h⟩, rfl, own_only _ _ rfl (by decide +kernel), rfl, rfl, by decide, rfl,
      by unfold NoneOver; decide +kernel⟩, by decide, by decide⟩
  · rintro (h | h)
    · exact absurd h.1 (show (asking 51 0 0#2).pk.dst ≠ calm.node by decide +kernel)
    · have e : calm.outLink (asking 51 0 0#2).pk = none := by decide +kernel
      rw [asked_out, asking_out, e] at h
      cases h
  · intro b hb _
    exact List.mem_singleton.mp hb

end Sys2Proof.Tests
end

