-- ==== Sys2Proof/Tests/Hold11.lean ====
section
/-! SUPPORT. States and operands that meet the hypotheses of the statement about targets and relays, clause by clause. -/

namespace Sys2Proof.Tests

set_option Elab.async false

open Sys2Proof.Machine Sys2Proof.Safety Sys2Proof.Claims

/-- A request from node 51, for the last 16 bytes of package memory. -/
def request51 (op : Nat) : Packet :=
  { linked.packet op 50 0#16 with src := 51#12, tag := 5#22, attempt := 2#2, aop := 7#4,
                                  ops := [{ LaneOp.none with lane := 31, addr := 2 ^ 41 - 16, size := 16, data := 7#128 }] }

/-- An add that a relay may combine, from node 51 or 52 to the other. -/
def addTo (src dst tag : Nat) : Packet :=
  { linked.packet 3 dst 0#16 with src := BitVec.ofNat 12 src, tag := BitVec.ofNat 22 tag, aop := 3#4, args := [0],
                                  ops := [{ LaneOp.none with addr := 0x100, size := 8, data := BitVec.ofNat 128 (2 ^ 64 - 1) }] }

def combine6 : Combine := { id := 6, members := [addTo 51 52 1, addTo 51 52 2], sent := false, left := 0, status := 0 }

def held8 : Held :=
  { id := 8, owner := calm.cur.id.key, core := 0, job := 0#16, words := [], node := 2303, line := 0x100,
    ops := [{ LaneOp.none with addr := 0x100, size := 4 }] }

/-- Two elements of a far line, of a commit. -/
def partial9 : Cmd :=
  { calm.newCmd .tcommit 15 with
    id := 9, cur := some 0, pitch := 16, origin := [0], chunks := [],
    dst := { base := 0x200100, oob := false, esize := 8, dims := [{ stride := 8, size := 2, ext := 2, samp := 0 }] } }

theorem test_holds_TargetsAndRelaysAnswer :
    (∀ op, NoWatch (target 1) ∧ NodeInPod (target 1) ∧ Trusted (target 1) (request51 op) ∧ Routed (target 1) (request51 op).src.toNat
      ∧ FirstCopy (target 1) (request51 op) ∧ (target 1).ctx.saved = [] ∧ (target 1).mem.pkgPoison = []
      ∧ (∀ o ∈ (request51 op).ops, o.size ≤ 16 ∧ o.addr + o.size = 2 ^ 41) ∧ ¬(target 1).ctxArea.1 < (target 1).ctxArea.2
      ∧ (request51 op).op = BitVec.ofNat 6 op)
    ∧ (let x : TargetRecord := { src := 51, tag := 5, answer := some { linked.packet 6 51 0#16 with tag := 5#22 }, cancelled := false, at_ := 0 }
       let y : TargetRecord := { x with answer := none, cancelled := true }
       let s (z : TargetRecord) : State := { target 1 with fabric := { (target 1).fabric with targets := [z] } }
       HasRecord (s x) (request51 1) x ∧ Trusted (s x) (request51 1) ∧ x.cancelled = false ∧ x.answer ≠ none ∧ (request51 1).op ≠ 0#6
        ∧ (∃ a, x.answer = some a ∧ RouteOpen (s x) a) ∧ HasRecord (s y) (request51 1) y ∧ y.cancelled = true)
    ∧ (¬Trusted linked (request51 1) ∧ Routed linked (request51 1).src.toNat)
    ∧ (let s := { target 1 with ctx := { (target 1).ctx with saved := [{ (default : Context) with job := 0#16 }] }, clusters := [] }
       s.jobResident (request51 1).job = false ∧ Trusted s (request51 1) ∧ FirstCopy s (request51 1) ∧ Routed s (request51 1).src.toNat)
    ∧ (let s := target 1
       addTo 51 52 1 ∈ combine6.members ∧ (addTo 51 52 1).dst ≠ s.node ∧ arePeers s.node.toNat (addTo 51 52 1).dst.toNat ∧ (addTo 51 52 1).dstMod = false
        ∧ MayCombine s (addTo 51 52 1) ∧ FirstCopy s (addTo 51 52 1) ∧ s.fabric.combines = [] ∧ (s.outLink (addTo 51 52 1)).isSome = true
        ∧ ¬MayCombine s (request51 3))
    ∧ (let pk : Packet := { request51 1 with dst := 53#12 }
       pk.dst ≠ linked.node ∧ arePeers linked.node.toNat pk.dst.toNat ∧ linked.outLink pk = none ∧ RouteOpen linked { pk with dst := pk.src })
    ∧ (let s : State := { target 1 with fabric := { (target 1).fabric with combines := [combine6] } }
       combine6 ∈ s.fabric.combines ∧ (∀ x ∈ s.fabric.combines, x.id = combine6.id → x = combine6) ∧ combine6.sent = false
        ∧ ∃ m o, combine6.members.head? = some m ∧ m.ops = [o] ∧ Routed s m.dst.toNat ∧ m.dst ≠ s.node)
    ∧ (let p : Txn := { asking 52 3 0#2 with owner := .relay 6 }
       let c : Combine := { combine6 with sent := true }
       let s : State := { linked with fabric := { linked.fabric with combines := [c], txns := [p] } }
       let pk : Packet := { linked.packet 6 50 0#16 with src := 52#12, tag := p.pk.tag, ops := [{ LaneOp.none with data := BitVec.ofNat 128 (2 ^ 64 - 1), size := 8 }] }
       c ∈ s.fabric.combines ∧ (∀ x ∈ s.fabric.combines, x.id = c.id → x = c) ∧ Pending s p ∧ p.owner = .relay c.id ∧ NoneOver s
        ∧ pk.tag = p.pk.tag ∧ pk.op = 6#6 ∧ pk.status = 0 ∧ Genuine s pk ∧ (∃ o, pk.ops = [o]) ∧ p.locked = none
        ∧ (∀ m ∈ c.members, m.op = 3#6 ∧ (target1 m).2 ≤ 8) ∧ (c.members.map (fun m => (m.src, m.tag))).Nodup
        ∧ ∀ m ∈ c.members, m.ops.length = 1)
    ∧ (let s : State := { linked with fabric := { linked.fabric with held := [held8] } }
       held8 ∈ s.fabric.held ∧ (∀ x ∈ s.fabric.held, x.id = held8.id → x = held8)
        ∧ (∀ x ∈ s.fabric.held, x.owner = held8.owner → x.node = held8.node → x = held8) ∧ held8.node < 2304 ∧ Routed s held8.node)
    ∧ (let x : Txn := { asking 3 13 1#2 with owner := .cmd 9, pk := { (asking 3 13 1#2).pk with dstMod := true }, started := 40000 }
       let s : State := { farState calm with cmds := [partial9], time := 80000#64, fabric := { calm.fabric with txns := [x] } }
       (∃ x ∈ s.fabric.txns, x.owner = .cmd partial9.id ∧ x.pk.dstMod = true
          ∧ x.started + 64000 ≤ s.time.toNat + 24000 * x.pk.attempt.toNat) ∧
       let es := (partial9.elems partial9.dst 0).filter (·.inb)
       partial9 ∈ s.cmds ∧ (∀ x ∈ s.cmds, x.id = partial9.id → x = partial9) ∧ partial9.kind = .tcommit ∧ partial9.cur = some 0
        ∧ partial9.fail = none ∧ partial9.dst.esize = 8
        ∧ (∀ e ∈ es, 0 ≤ e.addr ∧ e.addr + (8 : Nat) ≤ 2 ^ 57 ∧ ∃ l, MapsTo s e.addr.toNat l ∧ l.kind = 3 ∧ l.write = true
            ∧ leafPhys l e.addr.toNat + 8 ≤ 0x18000000000)
        ∧ ∃ e ∈ es, LinePart es 8 e.addr) := by
  have tr : ∀ op, Trusted (target 1) (request51 op) := fun op => .inr ⟨rfl, key51, rfl, by show (51#12 : BitVec 12) ∈ [51#12, 52#12]; decide⟩
  have fc : ∀ s : State, s.fabric.targets = [] → ∀ pk, FirstCopy s pk := fun s h pk x hx => by rw [h] at hx; cases hx
  have rt : Routed (target 1) 51 := by unfold Routed; decide +kernel
  refine ⟨fun op => ⟨by unfold NoWatch; decide +kernel, by unfold NodeInPod; decide +kernel, tr op, rt, fc _ rfl _, rfl, rfl, ?_, by decide +kernel, rfl⟩,
    ⟨by unfold HasRecord; decide +kernel, tr 1, rfl, by decide, by decide, ⟨_, rfl, .inr (by decide +kernel)⟩, by unfold HasRecord; decide +kernel, rfl⟩,
    ⟨?_, by unfold Routed; decide +kernel⟩, ⟨by decide +kernel, tr 1, fc _ rfl _, rt⟩,
    ⟨List.mem_cons_self, by decide +kernel, by decide +kernel, rfl, ⟨rfl, rfl, rfl, rfl, ⟨_, rfl, .inr rfl⟩, rfl, key51, rfl, by decide +kernel⟩,
      fc _ rfl _, rfl, by decide +kernel, fun h => absurd h.2.1 (by decide +kernel)⟩,
    ⟨by decide +kernel, by decide +kernel, by decide +kernel, .inr (by decide +kernel)⟩,
    ⟨List.mem_cons_self, by decide +kernel, rfl, ⟨addTo 51 52 1, _, rfl, rfl, by unfold Routed; decide +kernel, by decide +kernel⟩⟩,
    ⟨List.mem_cons_self, by decide +kernel, ⟨List.mem_singleton_self _, fun _ h _ => List.mem_singleton.mp h⟩, rfl, by unfold NoneOver; decide +kernel,
      rfl, rfl, rfl, .inr (.inr rfl), ⟨_, rfl⟩, rfl, by decide +kernel, by decide +kernel, by decide +kernel⟩,
    ⟨List.mem_cons_self, by decide +kernel, by decide +kernel, by decide, by unfold Routed; decide +kernel⟩,
    ⟨⟨_, List.mem_cons_self, rfl, rfl, by decide +kernel⟩, List.mem_cons_self, by decide +kernel, rfl, rfl, rfl, rfl, ?_⟩⟩
  · intro o ho
    rw [List.mem_singleton.mp ho]
    decide
  · rintro (h | ⟨-, k, h, -⟩)
    · exact absurd h (by decide +kernel)
    · exact absurd h (by rw [show linked.keySlot (request51 1).job = none by decide +kernel]; simp)
  · have e : (partial9.elems partial9.dst 0).filter (·.inb) = [{ at_ := 0, addr := 0x200100, inb := true }, { at_ := 8, addr := 0x200108, inb := true }] := by
      decide +kernel
    rw [e]
    refine ⟨fun x hx => ?_, _, List.mem_cons_self, by unfold LinePart; exact ⟨31, by decide +kernel⟩⟩
    simp only [List.mem_cons, List.not_mem_nil, or_false] at hx
    rcases hx with rfl | rfl <;>
      exact ⟨by decide, by decide, farLeaf 0x200000, mapsTo_of_walk (by decide +kernel) (by decide +kernel) (by decide), rfl, rfl, by decide⟩

end Sys2Proof.Tests
end

