-- ==== Sys2Proof/Tests/Hold12.lean ====
section
/-! SUPPORT. States and operands that meet the hypotheses of the statement about optical links, clause by clause. -/

namespace Sys2Proof.Tests

set_option Elab.async false

open Sys2Proof.Machine Sys2Proof.Safety Sys2Proof.Claims

/-- Link `n` of the package is `k`, its logical link at a number (R365) is `l`. -/
def linkAt (n : Nat) (k : Link) (r : Nat) (l : Logical) : State := (calm.putLink n k).putLogical r l

def up (st : BitVec 4) (lost : BitVec 17) : Link := { Link.reset with state := st, lost := lost, replays := 0xFFE#12, crcErr := 0xFFF#12 }

/-- Flits 4095 and 0 are not acknowledged, number 5 is expected. -/
def rider (stalled : Nat) : Logical :=
  { Logical.reset with unacked := [(0xFFF#12, 0#22, 0#4), (0#12, 0#22, 1#4)], expect := 5#12, stalled := stalled }

/-- A flit (R366): 124 bytes, and a CRC in the last four. -/
def flit (c : BitVec 32) (f : BitVec 992) : BitVec 1024 := c ++ f
/-- The CRC of 124 bytes. -/
def crcOf (f : BitVec 992) : BitVec 32 := crc32c (flitBytes (f.zeroExtend 1024) 0 124)

theorem flit_extract (c : BitVec 32) (f : BitVec 992) (lo w : Nat) (h : lo + w ≤ 992) : (flit c f).extractLsb' lo w = f.extractLsb' lo w := by
  apply BitVec.eq_of_getLsbD_eq
  intro i hi
  unfold flit
  simp only [BitVec.getLsbD_extractLsb', BitVec.getLsbD_append, hi, decide_true, Bool.true_and, show lo + i < 992 by omega, if_true]

theorem wide_extract (f : BitVec 992) (lo w : Nat) (h : lo + w ≤ 992) : (f.zeroExtend 1024).extractLsb' lo w = f.extractLsb' lo w := by
  apply BitVec.eq_of_getLsbD_eq
  intro i hi
  simp only [BitVec.truncate_eq_setWidth, BitVec.getLsbD_extractLsb', BitVec.getLsbD_setWidth, hi, decide_true, Bool.true_and, show lo + i < 1024 by omega]

theorem flit_sound (c : BitVec 32) (f : BitVec 992) : flitSound (flit c f) = (crcOf f == c) := by
  have h : flitBytes (flit c f) 0 124 = flitBytes (f.zeroExtend 1024) 0 124 := by
    refine List.map_congr_left (fun i hi => ?_)
    have := List.mem_range.mp hi
    rw [flit_extract c f _ _ (by omega), wide_extract f _ _ (by omega)]
  have e : (flit c f).extractLsb' 992 32 = c := by
    apply BitVec.eq_of_getLsbD_eq
    intro i hi
    unfold flit
    rw [BitVec.getLsbD_extractLsb', BitVec.getLsbD_append, if_neg (by omega), Nat.add_sub_cancel_left]
    simp only [hi, decide_true, Bool.true_and]
  rw [flitSound, h, e]
  rfl

theorem flit_header (c : BitVec 32) (f : BitVec 992) (lo n : Nat) (h : lo + n ≤ 992) : headerOf (flit c f) lo n = f.toNat / 2 ^ lo % 2 ^ n := by
  have := congrArg BitVec.toNat (flit_extract c f lo n h)
  rwa [BitVec.extractLsb'_toNat, BitVec.extractLsb'_toNat, Nat.shiftRight_eq_div_pow, Nat.shiftRight_eq_div_pow] at this

theorem flit_good (f : BitVec 992) : flitSound (flit (crcOf f) f) = true := by rw [flit_sound]; exact beq_self_eq_true _
theorem flit_bad (f : BitVec 992) : flitSound (flit (~~~crcOf f) f) = false := by
  rw [flit_sound, beq_eq_false_iff_ne]
  intro h
  have := congrArg (·.getLsbD 0) h
  simp at this

/-- `HeaderKnown` of the first 124 bytes, as a number. -/
def knownIn (x : Nat) : Prop :=
  let h : Nat → Nat → Nat := fun lo n => x / 2 ^ lo % 2 ^ n
  h 92 4 = 0 ∨ (h 92 4 = 4 ∧ h 96 8 = 0) ∨ (1 ≤ h 92 4 ∧ h 92 4 ≤ 3 ∧ h 7 7 ≤ 112 ∧ h 0 6 ≤ 22)

theorem known_flit (c : BitVec 32) (f : BitVec 992) : HeaderKnown (flit c f) ↔ knownIn f.toNat := by
  unfold HeaderKnown knownIn
  rw [flit_header c f 92 4 (by decide), flit_header c f 96 8 (by decide), flit_header c f 7 7 (by decide), flit_header c f 0 6 (by decide)]

/-- The header fields of a flit (R366), the CRC aside. -/
def bytesOf (kind seq ack last op : Nat) (payload : Nat) : BitVec 992 :=
  BitVec.ofNat 992 (kind * 2 ^ 92 + seq * 2 ^ 80 + ack * 2 ^ 68 + 2 ^ 64 + 2303 * 2 ^ 52 + 50 * 2 ^ 40 + 3 * 2 ^ 36 + 0x3FFFFF * 2 ^ 14 + 112 * 2 ^ 7
    + last * 2 ^ 6 + op + payload * 2 ^ 96)

/-- The flit with its CRC. -/
def whole (f : BitVec 992) : BitVec 1024 := flit (crcOf f) f

theorem whole_extract (f : BitVec 992) (lo w : Nat) (x : BitVec w) (h : lo + w ≤ 992) (e : f.extractLsb' lo w = x) :
    (whole f).extractLsb' lo w = x := (flit_extract _ f lo w h).trans e

theorem whole_header (f : BitVec 992) (lo n x : Nat) (h : lo + n ≤ 992) (e : f.toNat / 2 ^ lo % 2 ^ n = x) : headerOf (whole f) lo n = x :=
  (flit_header _ f lo n h).trans e

theorem whole_fields (f : BitVec 992) (kind ack : Nat) (h : f.toNat / 2 ^ 92 % 2 ^ 4 = kind ∧ f.extractLsb' 68 12 = BitVec.ofNat 12 ack) :
    flitSound (whole f) = true ∧ headerOf (whole f) 92 4 = kind ∧ (whole f).extractLsb' 68 12 = BitVec.ofNat 12 ack
      ∧ (HeaderKnown (whole f) ↔ knownIn f.toNat) :=
  ⟨flit_good f, (flit_header _ f 92 4 (by decide)).trans h.1, (flit_extract _ f 68 12 (by decide)).trans h.2, known_flit _ f⟩

theorem acked_first (k : Nat) : ackedBy 9 (rider k) 0xFFF#12
    { rider k with unacked := [(0#12, 0#22, 1#4)], stalled := 0, since := 9 } := by
  refine ⟨fun h => absurd rfl (h (0xFFF#12, 0#22, 0#4) List.mem_cons_self), fun xs u ys he hu hx => ?_⟩
  have he : [(0xFFF#12, 0#22, 0#4), (0#12, 0#22, 1#4)] = xs ++ u :: ys := he
  cases xs with
  | nil => cases he; rfl
  | cons x xs => injection he with h1 h2; subst h1; exact absurd rfl (hx _ List.mem_cons_self)

theorem acked_none (k : Nat) : ackedBy 9 (rider k) 7#12 (rider k) := by
  refine ⟨fun _ => rfl, fun xs u ys he hu hx => ?_⟩
  have : u ∈ [(0xFFF#12, 0#22, 0#4), (0#12, 0#22, 1#4)] := by
    rw [show [(0xFFF#12, 0#22, 0#4), (0#12, 0#22, 1#4)] = xs ++ u :: ys from he]; exact List.mem_append_right _ List.mem_cons_self
  simp only [List.mem_cons, List.not_mem_nil, or_false] at this
  rcases this with rfl | rfl <;> exact absurd hu (by decide)

theorem test_holds_FlitsOfEveryKind :
    (∃ f : BitVec 1024, flitSound f = false)
    ∧ (∃ f, flitSound f = true ∧ ¬HeaderKnown f)
    ∧ (∃ f, flitSound f = true ∧ headerOf f 92 4 = 0 ∧ f.extractLsb' 68 12 = 0xFFF#12)
    ∧ (∃ f, flitSound f = true ∧ HeaderKnown f ∧ headerOf f 92 4 = 4 ∧ f.extractLsb' 68 12 = 0xFFF#12
        ∧ ∃ u ∈ [((0#12 : BitVec 12), (0#22 : BitVec 22), (1#4 : BitVec 4))], u.1 = f.extractLsb' 112 12)
    ∧ (∃ f, flitSound f = true ∧ HeaderKnown f ∧ headerOf f 92 4 = 4 ∧ f.extractLsb' 68 12 = 7#12
        ∧ ∀ u ∈ (rider 0).unacked, u.1 ≠ f.extractLsb' 112 12)
    ∧ (∀ last, last < 2 → ∃ f, flitSound f = true ∧ HeaderKnown f ∧ headerOf f 92 4 = 3 ∧ f.extractLsb' 80 12 = (rider 0).expect
        ∧ headerOf f 6 1 = last ∧ f.extractLsb' 68 12 = 7#12)
    ∧ (∃ f, flitSound f = true ∧ HeaderKnown f ∧ headerOf f 92 4 = 1 ∧ f.extractLsb' 80 12 ≠ (rider 0).expect ∧ f.extractLsb' 68 12 = 7#12) := by
  refine ⟨⟨_, flit_bad 0#992⟩, ?_, ?_, ?_, ?_, ?_, ?_⟩
  · obtain ⟨h1, -, -, h4⟩ := whole_fields (bytesOf 7 5 7 1 22 3) 7 7 (by decide +kernel)
    exact ⟨_, h1, h4.not.mpr (by unfold knownIn; decide +kernel)⟩
  · obtain ⟨h1, h2, h3, -⟩ := whole_fields (bytesOf 0 0 0xFFF 0 0 0) 0 0xFFF (by decide +kernel)
    exact ⟨_, h1, h2, h3⟩
  · obtain ⟨h1, h2, h3, h4⟩ := whole_fields (bytesOf 4 0 0xFFF 0 0 0) 4 0xFFF (by decide +kernel)
    exact ⟨_, h1, h4.mpr (by unfold knownIn; decide +kernel), h2, h3, _, List.mem_cons_self,
      (whole_extract _ 112 12 0#12 (by decide) (by decide +kernel)).symm⟩
  · obtain ⟨h1, h2, h3, h4⟩ := whole_fields (bytesOf 4 0 7 0 0 (9 * 2 ^ 16)) 4 7 (by decide +kernel)
    refine ⟨_, h1, h4.mpr (by unfold knownIn; decide +kernel), h2, h3, ?_⟩
    have key : ∀ u ∈ (rider 0).unacked, u.1 ≠ 9#12 := by
      intro u hu
      have hu : u ∈ [(0xFFF#12, 0#22, 0#4), (0#12, 0#22, 1#4)] := hu
      simp only [List.mem_cons, List.not_mem_nil, or_false] at hu
      rcases hu with rfl | rfl
      · exact fun h => absurd h (by decide)
      · exact fun h => absurd h (by decide)
    exact fun u hu h => key u hu (h.trans (whole_extract _ 112 12 9#12 (by decide) (by decide +kernel)))
  · intro last hl
    have : last = 0 ∨ last = 1 := by omega
    rcases this with rfl | rfl
    · obtain ⟨h1, h2, h3, h4⟩ := whole_fields (bytesOf 3 5 7 0 22 3) 3 7 (by decide +kernel)
      exact ⟨_, h1, h4.mpr (by unfold knownIn; decide +kernel), h2, whole_extract _ 80 12 5#12 (by decide) (by decide +kernel),
        whole_header _ 6 1 _ (by decide) (by decide +kernel), h3⟩
    · obtain ⟨h1, h2, h3, h4⟩ := whole_fields (bytesOf 3 5 7 1 22 3) 3 7 (by decide +kernel)
      exact ⟨_, h1, h4.mpr (by unfold knownIn; decide +kernel), h2, whole_extract _ 80 12 5#12 (by decide) (by decide +kernel),
        whole_header _ 6 1 _ (by decide) (by decide +kernel), h3⟩
  · obtain ⟨h1, h2, h3, h4⟩ := whole_fields (bytesOf 1 6 7 1 0 3) 1 7 (by decide +kernel)
    refine ⟨_, h1, h4.mpr (by unfold knownIn; decide +kernel), h2, ?_, h3⟩
    rw [whole_extract (bytesOf 1 6 7 1 0 3) 80 12 6#12 (by decide) (by decide +kernel)]
    decide

/-- The expected flit of an answer, with attempt 3, to a request that no attempt or another one locks. -/
theorem test_holds_FlitsOfAnswers :
    let f := whole (bytesOf 3 5 7 1 5 0)
    let x := asking 51 0 0#2
    flitSound f = true ∧ headerOf f 92 4 = 3 ∧ f.extractLsb' 68 12 = 7#12 ∧ HeaderKnown f ∧ f.extractLsb' 80 12 = (rider 0).expect
      ∧ answersTxn linked f x ∧ x.locked = none ∧ (1#2 : BitVec 2).toNat ≠ headerOf f 36 2
      ∧ answersTxn linked f { x with locked := some 1#2 } := by
  obtain ⟨h1, h2, h3, h4⟩ := whole_fields (bytesOf 3 5 7 1 5 0) 3 7 (by decide +kernel)
  have e (lo n v : Nat) (h : lo + n ≤ 992) (k : (bytesOf 3 5 7 1 5 0).toNat / 2 ^ lo % 2 ^ n = v) := whole_header _ lo n v h k
  have a : answersTxn linked (whole (bytesOf 3 5 7 1 5 0)) (asking 51 0 0#2) := by
    refine ⟨?_, ?_, ?_, ?_⟩
    · rw [e 0 6 5 (by decide) (by decide +kernel)]; decide
    · rw [e 40 12 50 (by decide) (by decide +kernel)]; decide +kernel
    · exact e 38 1 0 (by decide) (by decide +kernel)
    · rw [e 14 22 0x3FFFFF (by decide) (by decide +kernel)]; decide +kernel
  refine ⟨h1, h2, h3, h4.mpr (by unfold knownIn; decide +kernel), whole_extract _ 80 12 5#12 (by decide) (by decide +kernel), a, rfl, ?_, a⟩
  rw [e 36 2 3 (by decide) (by decide +kernel)]
  decide

theorem test_holds_LinksReplayRetrainAndReport :
    (NodeInPod calm ∧ arePeers 50 2258 ∧ arePeers 50 95 ∧ 2258 ≠ 50)
    ∧ (let s := linkAt 287 (up 4#4 0x1FF#17) (4096 + 2) (rider 0)
       s.rides (logicalOf (.peer 2#12)) = some 287 ∧ s.physical 287 = up 4#4 0x1FF#17 ∧ s.logical (4096 + 2) = rider 0)
    ∧ (let s := linkAt 191 (up 2#4 0#17) 191 (rider 7)
       s.rides (logicalOf (.memory 191)) = some 191 ∧ (s.physical 191).state ≠ 0#4 ∧ s.logical 191 = rider 7)
    ∧ (let s := { calm with time := 2010#64 }
       (rider 7).since + 2000 ≤ waitClock s 191 ∧ ¬(rider 7).since + 2000 ≤ waitClock s (4096 + 2) ∧ ({ up 1#4 0#17 with began := 0 } : Link).began + 100000 = 100000)
    ∧ ((rider 7).unacked ≠ [] ∧ (rider 7).stalled < 8 ∧ 8 ≤ (rider 8).stalled ∧ Logical.reset.unacked = [] ∧ logicalOf (.memory 191) = 191)
    ∧ (let k := up 2#4 0#17
       let lost := k.lost ||| (1#17 <<< (15#5 : BitVec 5).toNat)
       k.state = 2#4 ∧ k.lost.getLsbD 15 = false ∧ 8 ≤ healthyIn lost ∧ ¬spareInUse k ∧ (16#5 : BitVec 5).toNat = 16)
    ∧ (let k := { up 3#4 0x8000#17 with subst := 15#5 }
       let lost := k.lost ||| (1#17 <<< (16#5 : BitVec 5).toNat)
       k.lost.getLsbD 16 = false ∧ 8 ≤ healthyIn lost ∧ spareInUse k ∧ k.lost ≠ 0#17)
    ∧ (let k := up 5#4 0x1FF#17
       let lost := k.lost ||| (1#17 <<< (16#5 : BitVec 5).toNat)
       healthyIn lost < 8 ∧ k.lost.getLsbD 16 = false)
    ∧ (let s := linkAt 191 { up 5#4 1#17 with toSpare := true } 191 (rider 7)
       (s.physical 191).state = 5#4 ∧ (∀ r ∈ s.riders 191, (s.logical r).stalled < 8) ∧ (s.physical 191).quiet = false)
    ∧ ((calm.physical 287).state = 0#4 ∧ ((linkAt 287 (up 1#4 0#17) 0 (rider 0)).physical 287).state = 1#4)
    ∧ ((List.range 16).filter (fun i => (0x10000#17 : BitVec 17).getLsbD i) = []
        ∧ (List.range 16).filter (fun i => (0x8000#17 : BitVec 17).getLsbD i) = [15] ∧ (0x8000#17 : BitVec 17).getLsbD 16 = false
        ∧ 8 ≤ healthyIn 0x180FE#17 ∧ healthyIn 0x103FF#17 < 8
        ∧ ((List.range 16).filter (fun i => (0x180FE#17 : BitVec 17).getLsbD i)).length ≠ 1)
    ∧ ((calm.laser 305).lost = false ∧ (calm.laser 305).below = true ∧ (calm.laser 305).aged = false ∧ (0x17F#16 : BitVec 16).toNat < 0x180
        ∧ 0x180 ≤ (0x180#16 : BitVec 16).toNat
        ∧ (((calm.putLaser 305 { Laser.reset with aged := true }).laser 305).aged = true))
    ∧ (let s : State := { linked with fabric := { linked.fabric with urgent := [linked.packet 21 51 0#16], waiting := [(4096 + 52, linked.packet 0 52 0#16)] } }
       (∀ p ∈ s.fabric.urgent, p.dstMod = false ∧ p.dst ≠ s.node ∧ s.firstHop p.dst.toNat ≠ none)
        ∧ ∀ w ∈ s.fabric.waiting, 4096 ≤ w.1 ∧ s.peerUp (w.1 - 4096) = true) := by
  unfold NodeInPod spareInUse
  refine ⟨?_, ?_, ?_, ?_, ?_, ?_, ?_, ?_, ?_, ?_, ?_, ?_, ?_⟩ <;> decide +kernel

end Sys2Proof.Tests
end

