-- ==== Sys2Proof/Tests/Hold13.lean ====
section
/-! SUPPORT. States and operands that meet the hypotheses of the statements about contexts, words, the reset state and the step,
clause by clause. -/

namespace Sys2Proof.Tests

set_option Elab.async false

open Sys2Proof.Machine Sys2Proof.Safety Sys2Proof.Claims

/-- PMCTL has started an operation for a job on partition 0; the context area begins at 16 MiB. -/
def started (op : BitVec 3) (job : BitVec 16) : State :=
  { calm with ctx := { calm.ctx with start := true, op := op, job := job, parts := 1#16, base := 16#11, mib := 16#12 } }

/-- The save of job 0 has stopped its clusters, and classes of a mask have not acknowledged. -/
def stopping (pending : BitVec 8) : State :=
  let s := started 0#3 0#16
  { s with ctx := { s.ctx with stopping := [0#16], stopParts := 1#16, pending := pending, result := 1#4 } }

/-- A saved context of job 0 on partition 15: the group of `calm`, and its team with some pages. -/
def saved0 (pages : Nat) : Context :=
  { (default : Context) with
    job := 0#16, spanned := 0x8001#16, mode := 2, groups := [calm.cur], teams := [{ calm.team with tilePages := pages }],
    clusters := calm.clusters, shadow := [1, 0, 0, 0] }

/-- The package is empty, the context is saved, and an operation has started. -/
def idle (op : BitVec 3) (pages : Nat) : State :=
  { started op 0#16 with
    teams := [], clusters := [], others := [], cur := Group.reset, ctx := { (started op 0#16).ctx with saved := [saved0 pages] } }

theorem small_saved (pages : Nat) :
    SmallContext (saved0 pages) { calm.team with tilePages := pages } calm.cur.id.vregs calm.cur.id.accs := by
  have g : (saved0 pages).groups = [calm.cur] := rfl
  have k : (saved0 pages).clusters = calm.clusters := rfl
  refine ⟨rfl, rfl, rfl, rfl, rfl, rfl, rfl, by rw [k]; decide +kernel, fun x hx => ?_, by rw [g]; decide, by rw [g]; decide +kernel, by rw [g]; decide +kernel,
    show calm.team.tabCount ≤ 256 by decide +kernel⟩
  rw [g] at hx
  rw [List.mem_singleton.mp hx]
  exact ⟨show calm.cur.id.grid = calm.team.grid by decide +kernel, show calm.cur.id.clu = calm.team.clu by decide +kernel,
    show calm.cur.id.team = calm.team.team by decide +kernel, rfl, rfl⟩

/-- An image of 64 bytes, of no team, at 3 pages into the area, for the family of a byte. -/
def imaged (family : Nat) : State :=
  let s := started 3#3 0xFFFF#16
  let pkg := putNums s.mem.pkg [(0x1003000, 0xFFFF * 2 ^ 48 + family * 2 ^ 40 + 2 ^ 32 + 2 ^ 16 + 1), (0x1003008, 64), (0x1003010, 2), (0x1003018, 2 ^ 63)]
  { s with mem := { s.mem with pkg := pkg },
           ctx := { s.ctx with off := 3#19, images := [{ bytes := readBytes pkg 0x1003000 64, context := { (default : Context) with mode := 2 } }] } }

theorem header_fits (family : Nat) (h : imageNum (imaged family) 2 2 = 1 ∧ imageNum (imaged family) 6 2 = (imaged family).ctx.job.toNat
    ∧ imageNum (imaged family) 0x10 8 = 2 ∧ (∀ o, o < 0x20 → pkgByte (imaged family) ((imaged family).imageAt + (0x20 + o)) = 0#8)
    ∧ imageNum (imaged family) 8 8 = 64
    ∧ (imaged family).imageAt + 64 ≤ (imaged family).ctx.base.toNat * 2 ^ 20 + (imaged family).ctx.mib.toNat * 2 ^ 20) :
    HeaderFits (imaged family) := by
  obtain ⟨h1, h2, h3, h4, h5, h6⟩ := h
  refine ⟨h1, h2, by rw [h3]; decide, by rw [h3]; decide, fun o l u => ?_, by rw [h5], by rw [h5]; exact h6⟩
  have := h4 (o - 0x20) (by omega)
  rwa [show 0x20 + (o - 0x20) = o by omega] at this

/-- The image was written from a context whose team does not fit a core. -/
def imagedWide : State :=
  let s := imaged 9
  { s with ctx := { s.ctx with images := s.ctx.images.map (fun i => { i with context := { saved0 385 with spanned := 1#16 } }) } }

/-- A discard of a context that is being restored, classes that are slow, a state in which an image finds no room, unchanged statuses. -/
theorem test_holds_ContextRefusals :
    ({ idle 4#3 4 with ctx := { (idle 4#3 4).ctx with restoring := some 0#16 } }.ctx.restoring = some (0#16 : BitVec 16))
    ∧ (let s : State := { stopping 0x41#8 with time := 100000#64 }
       s.ctx.stopping = 0#16 :: [] ∧ s.ctx.slow = false ∧ s.ctx.sentAt + 100000 ≤ s.time.toNat ∧ (stopping 0x41#8).time.toNat < 0 + 100000)
    ∧ (∃ c, imagedWide.checkImage = .ok c ∧ imagedWide.restoreContext c = none) := by
  have h : (imagedWide.checkImage.toOption.map (fun c => (imagedWide.restoreContext c).isNone)) = some true := by decide +kernel
  refine ⟨rfl, by decide +kernel, ?_⟩
  cases e : imagedWide.checkImage with
  | error _ => rw [e] at h; cases h
  | ok c => exact ⟨c, rfl, by rw [e] at h; simpa [Except.toOption] using h⟩

theorem test_holds_ContextsAreSavedAndRestored :
    (NoStoreOut calm ∧ Started (started 0#3 5#16) 0#3 ∧ (∀ c, ¬Saves (started 0#3 5#16) 5#16 1#16 c)
      ∧ (∃ c, Saves (started 0#3 0#16) 0#16 1#16 c) ∧ (started 0#3 0#16).strudel.work = none)
    ∧ (let s := stopping 0x41#8
       s.ctx.stopping ≠ [] ∧ s.ctx.pending.getLsbD 6 = true ∧ s.classDone 6 = true ∧ s.ctx.pending &&& ~~~(1#8 <<< 6) ≠ 0#8 ∧ s.ctx.pending ≠ 0#8)
    ∧ (let s := stopping 0x40#8
       let mine := (s.cur :: s.others).filter (fun g => g.alive && s.clusters.any (fun k =>
          s.clusterJob k == 0#16 && k.parts &&& 1#16 != 0#16 && k.grid == g.id.grid && k.clu == g.id.clu))
       s.ctx.stopping = [s.ctx.job] ∧ s.ctx.stopParts = s.ctx.parts ∧ s.ctx.gang = false ∧ s.ctx.saved = [] ∧ s.ctx.swaps = []
        ∧ s.classDone 6 = true ∧ s.ctx.pending = 1#8 <<< 6 ∧ (∃ k, Saves s 0#16 1#16 k) ∧ mine = [s.cur] ∧ SavedGroup s 0#16 1#16 s.cur
        ∧ (s.cur.id.vregs ≤ 256 ∧ s.cur.id.accs ≤ 16) ∧ s.teams.length ≤ 16 ∧ (∀ u ∈ s.teams, u.tilePages ≤ 384)
        ∧ ∀ k ∈ s.cur.regs.ac, k.2.length = 16)
    ∧ (let s0 := stopping 0x40#8
       let s : State := { s0 with ctx := { s0.ctx with mib := 0#12, saved := [{ saved0 4 with job := 9#16, shadow := [128, 128, 128, 128] }] } }
       (∀ d, d < 4 → 128 ≤ s.shadowUsed d) ∧ s.ctx.mib = 0#12 ∧ s.classDone 6 = true ∧ ∃ k, Saves s 0#16 1#16 k)
    ∧ (Started (started 1#3 0#16) 1#3 ∧ (started 1#3 0#16).ctx.saved = [])
    ∧ (∀ op pages, (idle op pages).ctx.saved = [saved0 pages] ∧ (saved0 pages).job = (idle op pages).ctx.job
        ∧ (saved0 pages).spanned &&& (idle op pages).ctx.parts ≠ 0#16 ∧ Started (idle op pages) op ∧ (idle op pages).teams = []
        ∧ (idle op pages).others = [] ∧ (idle op pages).cur.alive = false ∧ (idle op pages).cur.matrix.words = [] ∧ (idle op pages).cmds = []
        ∧ (idle op pages).keySlot 0#16 = none ∧ NoStoreOut (idle op pages)
        ∧ SmallContext (saved0 pages) { calm.team with tilePages := pages } calm.cur.id.vregs calm.cur.id.accs
        ∧ (idle op pages).ctx.flawed = [] ∧ (idle op pages).ctx.restoring = none)
    ∧ (¬HeaderFits (started 3#3 0#16) ∧ HeaderFits (imaged 9) ∧ HeaderFits (imaged 8) ∧ imageNum (imaged 8) 5 1 ≠ 9 ∧ Started (imaged 9) 3#3)
    ∧ (∃ c, (imaged 9).checkImage = .ok c ∧ (imaged 9).restoreContext c ≠ none ∧ (imaged 9).ctx.saved = [] ∧ (imaged 9).ctx.swaps = [] ∧ c.size 0 ≤ 2 ^ 27 ∧ c.spanned ≠ 0#16) := by
  have sv : Saves (started 0#3 0#16) 0#16 1#16 (calm.clusters.headD (Cluster.absent calm.cur.id)) :=
    ⟨by decide +kernel, by decide +kernel, by decide +kernel, calm.cur, List.mem_cons_self, by decide +kernel⟩
  refine ⟨⟨⟨rfl, rfl, rfl⟩, ⟨rfl, rfl, rfl⟩, ?_, ⟨_, sv⟩, rfl⟩, by decide +kernel,
    ⟨rfl, rfl, rfl, rfl, rfl, by decide +kernel, rfl, ⟨_, sv⟩, by decide +kernel, ⟨_, sv, by decide +kernel, by decide +kernel⟩, by decide +kernel,
      by decide +kernel, by decide +kernel, by decide +kernel⟩,
    ⟨by decide +kernel, rfl, by decide +kernel, _, sv⟩, ⟨⟨rfl, rfl, rfl⟩, rfl⟩,
    fun op pages => ⟨rfl, rfl, show 0x8001#16 &&& 1#16 ≠ 0#16 by decide, ⟨rfl, rfl, rfl⟩, rfl, rfl, rfl, rfl, rfl,
      show calm.keySlot 0#16 = none by decide +kernel, ⟨rfl, rfl, rfl⟩, small_saved pages, rfl, rfl⟩,
    ⟨fun h => absurd h.1 (by decide +kernel), header_fits 9 (by decide +kernel), header_fits 8 (by decide +kernel), by decide +kernel, ⟨rfl, rfl, rfl⟩⟩,
    ⟨{ (default : Context) with mode := 2, job := 0xFFFF#16, spanned := 1#16, shadow := [0, 0, 0, 0] },
      ok_of _ _ (by decide +kernel), by decide +kernel, rfl, rfl, by decide +kernel, by decide⟩⟩
  rintro c ⟨hc, hj, -⟩
  have : ∀ c ∈ calm.clusters, calm.clusterJob c ≠ 5#16 := by decide +kernel
  exact this c hc hj

/-! ## Words, reset, steps -/

/-- A well-formed instruction with a word. -/
theorem test_holds_EveryWordDecodesToItsInstruction :
    (Instr.vaddImm 127#7 0xFFFF#16).wellFormed = true ∧ encode (.vaddImm 127#7 0xFFFF#16) ≠ none := by decide +kernel

theorem test_holds_EveryStepGoesOnAndKeepsTheForm : Canonical calm ∧ NodeInPod calm := by
  unfold Canonical NodeInPod
  decide +kernel

/-- A second group of the slot, whose fragment has starved for some clocks; the first has the higher priority. -/
def rivals (clocks : Nat) : State :=
  let g := calm.cur
  let h : Group := { g with id := { g.id with grp := 1, pos := 1, priority := 0 }, frag := { g.frag with starve := clocks } }
  { calm with cur := { g with id := { g.id with priority := 3 } }, others := [h] }

theorem test_holds_StepRunsTheDecodedInstruction :
    (AtPlainWord calm ∧ calm.cur.watch = [] ∧ calm.needsRefill = false ∧ MapsTo calm calm.cur.frag.pc.toNat page0 ∧ page0.kind = 1
      ∧ page0.exec = true ∧ calm.mem.pkgPoison = [] ∧ calm.mem.icache = [] ∧ leafPhys page0 calm.cur.frag.pc.toNat % 128 ≤ 124)
    ∧ (let s := inRunOf [.nop]
       s.needsRefill = false ∧ s.cur.watch = [] ∧ s.cur.run = some (runOf [.nop])
        ∧ (runOf [.nop]).words[(runOf [.nop]).index s.cur.frag.pc - 1]? = some .nop)
    ∧ ((withFrag calm (fun f => { f with hint := some { first := 0xFC#57, imm := some 3#25, mod := none } })).inUnit = true)
    ∧ (calm.inUnit = false ∧ ({ calm with agenda := [.fetchEngineReset] } : State).agenda = [Event.fetchEngineReset])
    ∧ (calm.agenda = [] ∧ ∃ r, calm.choices = [.unit r])
    ∧ ((rivals 64).inUnit = false ∧ (rivals 64).agenda = [] ∧ (rivals 64).choices ≠ []
        ∧ ∃ r x, Choice.unit r ∈ (rivals 64).choices ∧ x ∈ (rivals 64).ready ∧ x.core = r.core ∧ x.slot = r.slot ∧ x ≠ r
            ∧ x.yields (rivals 64).ready = false ∧ r.inRun = false ∧ x.inRun = false ∧ 64 ≤ r.starve)
    ∧ (∃ r x, Choice.unit r ∈ (rivals 63).choices ∧ x ∈ (rivals 63).ready ∧ x.core = r.core ∧ x.slot = r.slot ∧ x ≠ r ∧ r.starve < 64 ∧ x.starve < 64)
    ∧ (State.reset.inUnit = false ∧ State.reset.agenda = [] ∧ State.reset.choices = []) := by
  have c : calm.choices = [.unit (readyOf calm.cur 0 calm.cur.frag 0)] := by decide +kernel
  have a : (rivals 64).choices = [.unit (readyOf ((rivals 64).others.headD Group.reset) 1 ((rivals 64).others.headD Group.reset).frag 0)] := by decide +kernel
  have b : (rivals 63).choices = [.unit (readyOf (rivals 63).cur 0 (rivals 63).cur.frag 0)] := by decide +kernel
  refine ⟨⟨by unfold AtPlainWord; decide +kernel, rfl, by decide +kernel, calm_maps _ (by decide), rfl, rfl, rfl, rfl, by decide +kernel⟩,
    ⟨by decide +kernel, rfl, rfl, by decide +kernel⟩, by decide +kernel, ⟨by decide +kernel, rfl⟩, ⟨rfl, _, c⟩,
    ⟨by decide +kernel, rfl, by rw [a]; decide, _, readyOf (rivals 64).cur 0 (rivals 64).cur.frag 0, by rw [a]; exact List.mem_cons_self,
      by decide +kernel, by decide +kernel, by decide +kernel, by decide +kernel, by decide +kernel, by decide +kernel, by decide +kernel,
      by decide +kernel⟩,
    ⟨_, readyOf ((rivals 63).others.headD Group.reset) 1 ((rivals 63).others.headD Group.reset).frag 0, by rw [b]; exact List.mem_cons_self,
      by decide +kernel, by decide +kernel, by decide +kernel, by decide +kernel, by decide +kernel, by decide +kernel⟩, by decide +kernel⟩

end Sys2Proof.Tests
end

