-- ==== Sys2Proof/Tests/Hold2.lean ====
section
/-! SUPPORT. States and operands that meet the hypotheses of the statements about split refills, barriers, hints, runs and
memory words, clause by clause, at the ends of their ranges. -/

namespace Sys2Proof.Tests

set_option Elab.async false

open Sys2Proof.Machine Sys2Proof.Safety Sys2Proof.Claims

/-- A page of a peer package at 0: the tables of `calm` with a kind-2 leaf (R175). -/
def peerPage : State :=
  { calm with mem := { calm.mem with
      pkg := putEntry calm.mem.pkg 0x4000 (2 ^ 63 + 2 ^ 62 + 2 ^ 60 + 2 ^ 59 + 51 * 2 ^ 43 + 0x200000) } }

/-- The leaf of that page. -/
def page2 : Leaf := { kind := 2, read := true, write := true, exec := false, unit := 51, addr := 0x200000, lg := 21 }

/-- The fragment's entry 1 lies in slot 0 of the spill area, with the free values of number 0. -/
def spilledOut (s : State) : State :=
  { s with cur := { s.cur with
      frag := { s.cur.frag with entry := 1 }, entries := [SplitEntry.mk 1 0x200#57 0#32 0 (some (0, 0))] } }

theorem test_holds_RefillBringsTheEntryBack :
    (let s0 := spilledOut calm
     let s := { s0 with mem := s0.mem.pkgWrite (0x200000 + s0.spillBase) (freeBytes 0 4) }
     s.cur.entries.find? (fun e => e.id == s.cur.frag.entry) = some (SplitEntry.mk 1 0x200#57 0#32 0 (some (0, 0)))
      ∧ s.spillBase = 0x10000 ∧ s.spillBase + 32 * 0 + 32 ≤ 2 ^ 57 ∧ s.mem.pkgPoison = [] ∧ s.cur.onChip < 8
      ∧ sget none s.mem.tlb (0x10000 / 4096) = none ∧ (s.cur.entries.map (·.id)).Nodup)
    ∧ (let s := spilledOut peerPage
       MapsTo s 0x10000 page2 ∧ page2.kind ≠ 1 ∧ s.spillBase = 0x10000
        ∧ s.cur.entries.find? (fun e => e.id == s.cur.frag.entry) = some (SplitEntry.mk 1 0x200#57 0#32 0 (some (0, 0)))) := by
  refine ⟨by decide +kernel, mapsTo_of_walk rfl (by decide +kernel) (by decide), by decide +kernel⟩

/-- Seven entries and the root are on chip; lane 31 takes the branch. -/
def fullChip (s : State) : State :=
  let s := withP s [(1, 0x80000000#32)]
  { s with cur := { s.cur with entries := (List.range 7).map (fun i => SplitEntry.mk (i + 1) 0x200#57 0#32 i none) } }

/-- A branch that has to spill: where the spill area is memory of this package, and where it is not (R137). -/
theorem test_holds_BranchSpills :
    (∀ s ∈ [fullChip calm, fullChip peerPage],
      s.cur.frag.exec &&& s.getP 1#3 ≠ 0#32 ∧ s.cur.frag.exec &&& ~~~s.getP 1#3 ≠ 0#32
        ∧ s.cur.entries.length + 2 ≤ 8 + s.launchRec.spillEntries ∧ s.spillBase + 32 * freeSlot s.cur.entries = 0x10000
        ∧ 8 ≤ s.cur.onChip ∧ ∃ x ∈ s.cur.entries, x.spilled = none ∧ x.id ≠ 0)
    ∧ MapsTo (fullChip calm) 0x10000 page0 ∧ page0.kind = 1 ∧ MapsTo (fullChip peerPage) 0x10000 page2 ∧ page2.kind ≠ 1 :=
  ⟨by decide +kernel, calm_maps _ (by decide), rfl, mapsTo_of_walk rfl (by decide +kernel) (by decide), by decide⟩

/-- `calm` with barrier 15 of the team at a phase and a number of arrivals. -/
def barAt (phase arrived : Nat) (count : Option (Bool × Nat)) : State :=
  { calm with teams := calm.teams.map (fun t => { t with bars := [(15, Barrier.mk phase count arrived [])] }) }

theorem countFits_some (s : State) (kind b n : Nat) : countFits s kind b (some n) ↔
    (1 ≤ n ∧ n ≤ (if kind = 0 then 16 else 192)) ∧ ((barrierOf s kind b).count.all (fun c =>
      if c.1 then n == c.2 else n == defaultCount s kind)) = true := by
  unfold countFits
  rcases (barrierOf s kind b).count with _ | ⟨_ | _, c⟩ <;> simp

/-- A group of one fragment that has no arrival out and no store on its way. -/
theorem test_holds_BarriersArriveOnceAndWait :
    arrivalWord (withS calm [(5, 16#64)]) (.tbar 1#1 15#4 5#6 2#3) = some (0, 15, 2, some 16, false)
      ∧ calm.cur.sibs = [] ∧ calm.cur.stop = none ∧ calm.cur.frag.phaseOf 0 15 = none
      ∧ calm.arrivalOutstanding calm.cur.id 0 15 = false ∧ NoStoreOut calm ∧ Placed calm := by
  unfold NoStoreOut Placed
  decide +kernel

/-- A count above, at and below what the arrivals reach; counts of 0 and 17 and another count of the phase (R157). -/
theorem test_holds_BarrierCounts :
    countFits calm 0 15 (some 16) ∧ countFits (barAt 3 1 (some (true, 2))) 0 15 (some 2)
      ∧ ¬countFits calm 0 15 (some 17) ∧ ¬countFits calm 0 15 (some 0) ∧ ¬countFits (barAt 3 1 (some (true, 2))) 0 15 (some 3)
      ∧ (barrierOf calm 0 15).arrived + 1 < (some 16).getD (defaultCount calm 0)
      ∧ (some 2).getD (defaultCount calm 0) ≤ (barrierOf (barAt 3 1 (some (true, 2))) 0 15).arrived + 1 := by
  simp only [countFits_some]
  decide +kernel

/-- The current group has arrived at barrier 15 of its team. -/
def arrivedOnce : State :=
  { calm with teams := calm.teams.map (fun t => { t with bars := [(15, Barrier.mk 0 none 1 [(0, 0)])] }) }

/-- The words that name no count (R157). -/
theorem test_holds_BarrierWords :
    arrivalWord calm (.tbara 0#1 0#4 0#6 7#3) = some (0, 0, 7, none, true)
      ∧ arrivalWord calm (.cbar 0#1 0#4 0#6 3#3) = some (1, 0, 3, none, false) ∧ (barrierOf calm 1 0).count = none :=
  ⟨rfl, rfl, rfl⟩

/-- A phase waited for that has passed and one that has not, and arrivals still out (R156, R158). -/
theorem test_holds_BarrierPhases :
    (withFrag calm (fun f => { f with wait := .phase 0 15 1 })).cur.frag.wait = .phase 0 15 1
      ∧ 1 ≤ (barrierOf (barAt 1 0 none) 0 15).phase ∧ (barrierOf calm 0 15).phase < 1
      ∧ calm.cur.gatheredAt 15 = false
      ∧ ((barAt 3 0 none).arrivalOutstanding calm.cur.id 0 15 = false)
      ∧ arrivedOnce.arrivalOutstanding arrivedOnce.cur.id 0 15 = true := by
  decide +kernel

theorem test_holds_HintsAreLatchedForTheNextWord :
    calm.cur.frag.hint = none ∧ calm.hmod = none
      ∧ (let s := withFrag calm (fun f => { f with hint := some { first := 0xFC#57, imm := some 1#25, mod := none } })
         s.cur.frag.hint.isSome = true ∧ s.hmod = none)
      ∧ (let m : ModHint := { gEn := true, gNeg := false, gPred := 1#3, rmEn := false, rm := 0#3, cut := false, xorder := 0#3,
                              xwidth := 0#3, xspace := 0#3 }
         (withFrag calm (fun f => { f with hint := some { first := 0xFC#57, imm := none, mod := some m } })).hmod.isSome = true) := by
  decide +kernel

/-- `calm` with words of package memory where its PC points. -/
def withCode (s : State) (ws : List Nat) : State := { s with mem := s.mem.pkgWrite 0x200100 (ws.flatMap (leBytes 4)) }

/-- HRUN #2 with no flags, VMUL v4, v1, v2, VADD v4, v4, v3 and HEND none, v6 at 0x100 (R43). -/
def runCode : State := withCode calm [0xF82000FF, 0x28402082, 0x284080C0, 0xFBE1BFFF]

theorem test_holds_HrunOpensACheckedRun :
    ((checkWords runCode.cur.id.vregs runCode.xw 1 2 0#8 (none, none) (runCode.fetchRun (after runCode) 3).2).toOption.map (·.length) = some 3)
      ∧ runCode.cur.regs.flagsDone 0xFFF#12 = true
      ∧ ({ runCode with cur := { runCode.cur with regs := runCode.cur.regs.bindFlag 11 } }).cur.regs.flagsDone 0x800#12 = false
      ∧ ¬(1 ≤ (0#5 : BitVec 5).toNat ∧ (0#5 : BitVec 5).toNat ≤ 24) ∧ ¬(1 ≤ (25#5 : BitVec 5).toNat ∧ (25#5 : BitVec 5).toNat ≤ 24)
      ∧ ((match checkWords calm.cur.id.vregs calm.xw 1 24 0#8 (none, none) (calm.fetchRun (after calm) 25).2 with
          | .error e => some e
          | .ok _ => none) = some (34, 1))
      ∧ ((runCode.fetchWord runCode.cur.frag.pc).2.toOption = some 0xF82000FF#32)
      ∧ decodeTableWord 32 0xF82000FF = some (.hrun 2#5 0#12 15#4 15#4) := by
  decide +kernel

end Sys2Proof.Tests
end

