-- ==== Sys2Proof/Tests/Hold3.lean ====
section
/-! SUPPORT. States and operands that meet the hypotheses of the statements about runs that end and about memory words, clause by
clause, at the ends of their ranges. -/

namespace Sys2Proof.Tests

set_option Elab.async false

open Sys2Proof.Machine Sys2Proof.Safety Sys2Proof.Claims

/-- A word of a run that completes after the run ends, and one that completes before. -/
def flying (idx complete : Nat) : InFlight :=
  { idx := idx, first := 2, complete := complete, least := 2, len := 13, srcs := [], dests := [], flags := List.replicate 32 1#8, decides := true,
    open_ := 1#32, returned := [], early := 0#32, active := 0xFFFFFFFF#32, cancelled := 0#32, done := false }

def flyingRun : Run := { runOf [.nop] with flight := [flying 0 1, flying 1 9] }

def inFlight (r : Run) : State := { calm with cur := { calm.cur with run := some r } }

/-- The flag field at both ends, the exit numbers at both ends, a run with none and with a deferred fault (R79, R82). -/
theorem test_holds_HendClosesTheRun :
    ((11#4 : BitVec 4).toNat < 12 ∧ (∀ n ∈ [119#7, 0#7, 127#7], (n : BitVec 7).toNat < 120 ∨ n = 127#7))
      ∧ calm.cur.run = none ∧ (inFlight flyingRun).cur.run = some flyingRun ∧ flyingRun.deferred = none
      ∧ (∃ w ∈ flyingRun.flight, 2 * (flyingRun.clock + 1) < w.complete ∧ w.done = false)
      ∧ (inFlight { flyingRun with deferred := some (128, 0x104#57) }).cur.run.map (·.deferred) = some (some (128, 0x104#57)) := by
  decide +kernel

theorem test_holds_RunWordsCompleteAndDecide :
    (inFlight flyingRun).cur.run = some flyingRun ∧ (inFlight flyingRun).cur.pending[1]? = some (flying 1 9)
      ∧ flying 1 9 ∈ flyingRun.flight ∧ (inFlight flyingRun).cur.deciding[0]? = some (flying 0 1)
      ∧ flying 0 1 ∈ flyingRun.flight := by
  decide +kernel

/-! ## Memory words -/

/-- What `AccessReady` asks, in a form that is computed. -/
theorem access_of (s : State) (h : s.cur.frag.wait = .ready ∧ s.mem.pkgPoison = [] ∧ s.mem.tilePoison = [] ∧ s.mem.farPoison = []
    ∧ s.mem.tileFlaw = [] ∧ s.mem.tileErrors = [] ∧ ((s.cur :: s.others ++ s.ctx.saved.flatMap (·.groups)).all (fun g => g.watch == [])) = true
    ∧ s.fabric.held = [] ∧ s.fabric.txns = [] ∧ s.mem.late = [] ∧ s.mem.epi = [] ∧ s.cur.part = none) : AccessReady s := by
  obtain ⟨h1, h2, h3, h4, hf, he, h5, h6, h7, h8, h9, h10⟩ := h
  refine ⟨fun id e => ?_, ⟨h2, h3, h4, hf, fun e h => absurd (he ▸ h) (List.not_mem_nil)⟩, fun g hg => ?_, ⟨h6, h7, h8⟩, h9, h10⟩
  · rw [h1] at e; cases e
  · simpa using List.all_eq_true.mp h5 g hg

/-- The fields of an HMOD that strong words read: order, width, space (R52). -/
def strongMod (order width space : BitVec 3) : ModHint :=
  { gEn := false, gNeg := false, gPred := 0#3, rmEn := false, rm := 0#3, cut := false, xorder := order, xwidth := width,
    xspace := space }

/-- A state with an HMOD before its word. -/
def withMod (s : State) (m : ModHint) : State :=
  withFrag s (fun f => { f with hint := some { first := 0xFC#57, imm := none, mod := some m } })

/-- 16 bytes at the end of the page for every lane: LD v124 to v127 from s1. -/
def ldEnd : State := withS calm [(1, 0x1FFFF0#64)]

def ldForm : LaneForm :=
  { acc := 0, space := 2, size := 16, scope := 0, order := 0, field := 124#7, regs := 4, base := 1#6, index := none }

/-- The last word of the team's tile memory in lane 31: index register v5, base s1, HMOD of a relaxed read in cluster tile
space (R171, R182). -/
def ldTile : State := withV (withMod (withS calm [(1, 16256#64)]) (strongMod 0#3 0#3 1#3)) [(5, lanes (4 * ·))]

def tileForm : LaneForm :=
  { acc := 0, space := 1, size := 4, scope := 3, order := 0, field := 127#7, regs := 1, base := 1#6, index := some 5#7 }

theorem test_holds_LoadsWriteTheBytesOfTheirLanes :
    (laneForm ldEnd (.ld 124#7 1#6 0#7 4#3 2#4) = some ldForm
      ∧ Resolves ldEnd ldForm [.reg 124, .reg 125, .reg 126, .reg 127] none ∧ AccessReady ldEnd
      ∧ ∀ l ∈ lanesIn ldEnd.active, Reaches ldEnd 2 0 16 (laneEa ldEnd 1#6 none l) (.pkg 0x3FFFF0))
    ∧ (laneForm ldTile (.scopedLd 127#7 1#6 5#7 3#3) = some tileForm ∧ Resolves ldTile tileForm [.reg 127] (some (.reg 5))
      ∧ AccessReady ldTile ∧ ∀ l ∈ lanesIn ldTile.active,
        Reaches ldTile 1 0 4 (laneEa ldTile 1#6 (some (.reg 5)) l) (.tile 0 (16256 + 4 * l))) := by
  refine ⟨⟨rfl, ⟨rfl, by rfl, by decide, rfl⟩, access_of _ (by decide +kernel), fun l _ => ?_⟩,
    ⟨by rfl, ⟨rfl, by rfl, by decide, _, by rfl, rfl⟩, access_of _ (by decide +kernel), fun l hl => ?_⟩⟩
  · have e : laneEa ldEnd 1#6 none l = 0x1FFFF0 := by rfl
    rw [e]
    exact ⟨by decide, .inr (.inr ⟨rfl, by decide, page0, calm_maps _ (by decide), rfl, fun _ => rfl, fun _ => rfl, rfl⟩)⟩
  · have e : ∀ l ∈ lanesIn ldTile.active, laneEa ldTile 1#6 (some (.reg 5)) l = 16256 + 4 * l ∧ l < 32 := by decide +kernel
    obtain ⟨e, hl⟩ := e l hl
    rw [e]
    have hd : (16256 + 4 * l) / 2 ^ 24 = 0 := by omega
    have hm : (16256 + 4 * l) % 2 ^ 24 = 16256 + 4 * l := by omega
    refine ⟨by omega, .inr (.inl ⟨rfl, calm.team, ?_, ?_, ?_, ?_, ?_⟩)⟩
    · rw [hd]; decide +kernel
    · rw [hd]; decide
    · rw [hd]; decide +kernel
    · rw [hm]; show _ ≤ 16384; omega
    · rw [hm]; show Place.tile 0 (16256 + 4 * l) = Place.tile 0 (0 * 2 ^ 21 + (0 * 4096 + (16256 + 4 * l))); congr 1; omega

/-- ST of 16 bytes at the end of the page. -/
def stForm : LaneForm :=
  { acc := 1, space := 2, size := 16, scope := 0, order := 0, field := 124#7, regs := 4, base := 1#6, index := none }

/-- CAS of 16 bytes at the last place of the team's tile memory, acquire and release, at the widest scope (R188). -/
def casTile : State := withMod (withS calm [(1, 16368#64)]) (strongMod 4#3 2#3 0#3)

def casForm : LaneForm :=
  { acc := 3, space := 0, size := 16, scope := 7, order := 4, field := 120#7, regs := 8, base := 1#6, index := none }

theorem test_holds_StoresAndAtomicsActLaneByLane :
    (laneForm ldEnd (.st 124#7 1#6 0#7 4#3 2#4) = some stForm
      ∧ Resolves ldEnd stForm [.reg 124, .reg 125, .reg 126, .reg 127] none ∧ AccessReady ldEnd
      ∧ ∀ l ∈ lanesIn ldEnd.active, Reaches ldEnd 2 1 16 (laneEa ldEnd 1#6 none l) (.pkg 0x3FFFF0)
        ∧ WalkApart ldEnd (fun a => ∃ k ∈ lanesIn ldEnd.active, placeKey (.pkg 0x3FFFF0) ≤ a ∧ a < placeKey (.pkg 0x3FFFF0) + 16 ∧ k < 32)
            (laneEa ldEnd 1#6 none l))
    ∧ (laneForm casTile (.cas 120#7 1#6 127#7 7#3) = some casForm
      ∧ Resolves casTile casForm ((List.range 8).map (fun k => .reg (120 + k))) none ∧ AccessReady casTile
      ∧ ∀ l ∈ lanesIn casTile.active, Reaches casTile 0 3 16 (laneEa casTile 1#6 none l) (.tile 0 16368))
    ∧ (casTile.mem.cut = 0 ∧ ldEnd.mem.delay = false
      ∧ (let s := { casTile with mem := { casTile.mem with cut := 31 } }
         0 < s.mem.cut ∧ s.mem.cut < (lanesIn s.active).length)
      ∧ { ldEnd with mem := { ldEnd.mem with delay := true } }.mem.delay = true) := by
  refine ⟨⟨rfl, ⟨rfl, by rfl, by decide, rfl⟩, access_of _ (by decide +kernel), fun l _ => ?_⟩,
    ⟨by rfl, ⟨rfl, by rfl, by decide, rfl⟩, access_of _ (by decide +kernel), fun l _ => ?_⟩, by decide +kernel⟩
  · have e : laneEa ldEnd 1#6 none l = 0x1FFFF0 := by rfl
    rw [e]
    exact ⟨⟨by decide, .inr (.inr ⟨rfl, by decide, page0, calm_maps _ (by decide), rfl, fun _ => rfl, fun _ => rfl, rfl⟩)⟩,
      calm_apart _ (fun a ⟨_, _, h, _⟩ => le_trans (by decide) h) _ (by decide)⟩
  · have e : laneEa casTile 1#6 none l = 16368 := by rfl
    rw [e]
    exact ⟨by decide, .inl ⟨rfl, by decide +kernel, rfl⟩⟩

theorem test_holds_ScalarLoadAndStoreMoveOneValue :
    AccessReady ldEnd ∧ (2#3 : BitVec 3).toNat ≤ 2 ∧ Reaches ldEnd 2 0 8 (ldEnd.getS 1#6).toNat (.pkg 0x3FFFF0)
      ∧ Reaches ldEnd 2 1 8 (ldEnd.getS 1#6).toNat (.pkg 0x3FFFF0)
      ∧ Reaches casTile 0 0 8 (casTile.getS 1#6).toNat (.tile 0 16368)
      ∧ Reaches casTile 0 1 8 (casTile.getS 1#6).toNat (.tile 0 16368) := by
  have e : (ldEnd.getS 1#6).toNat = 0x1FFFF0 := by decide +kernel
  have f : (casTile.getS 1#6).toNat = 16368 := by decide +kernel
  rw [e, f]
  refine ⟨access_of _ (by decide +kernel), by decide, ?_, ?_, ?_, ?_⟩
  · exact ⟨by decide, .inr (.inr ⟨rfl, by decide, page0, calm_maps _ (by decide), rfl, fun _ => rfl, fun _ => rfl, rfl⟩)⟩
  · exact ⟨by decide, .inr (.inr ⟨rfl, by decide, page0, calm_maps _ (by decide), rfl, fun _ => rfl, fun _ => rfl, rfl⟩)⟩
  · exact ⟨by decide, .inl ⟨rfl, by decide +kernel, rfl⟩⟩
  · exact ⟨by decide, .inl ⟨rfl, by decide +kernel, rfl⟩⟩

/-- ST of words around the end of the team's tile memory: lanes 16 to 31 lie past it. -/
def stPast : State := withV (withS calm [(1, 16320#64)]) [(5, lanes (4 * ·))]

def pastForm : LaneForm :=
  { acc := 1, space := 0, size := 4, scope := 0, order := 0, field := 127#7, regs := 1, base := 1#6, index := some 5#7 }

/-- A load at an unmapped address in every lane (R179 check 3). -/
def ldOff : State := withS calm [(1, 0x100000000000000#64)]

theorem ldOff_walk (pick : Nat) : walk ldOff.mem ldOff.ctxArea 0x100000000000000 pick = .error .translation := by
  have e : checkEntry ldOff.mem ldOff.ctxArea (0x1000 + 8 * (0x100000000000000 / 2 ^ (12 + 9 * (3 + 1)) % 512)) 4 = .error .translation := by
    rfl
  have j : ldOff.mem.jptb.toNat / 4096 % 2 ^ 19 * 4096 = 0x1000 := rfl
  rw [walk, Mem.root, j, walkFrom, e]

/-- A CAS block that passes v127 by one register (R107, R191). -/
theorem test_holds_BlockPastTheEnd : laneForm casTile (.cas 121#7 1#6 127#7 7#3) = some { casForm with field := 121#7 }
    ∧ casForm.scope ≠ 0 ∧ 128 < (121#7 : BitVec 7).toNat + casForm.regs := ⟨rfl, by decide, by decide⟩

theorem test_holds_BadLanesFaultAndGoodLanesAct :
    (laneForm stPast (.st 127#7 1#6 5#7 2#3 8#4) = some pastForm ∧ Resolves stPast pastForm [.reg 127] (some (.reg 5))
      ∧ AccessReady stPast
      ∧ (∀ l ∈ lanesIn stPast.active, if (0xFFFF0000#32).getLsbD l then
            Faulty stPast 0 1 4 (laneEa stPast 1#6 (some (.reg 5)) l) 193
          else Reaches stPast 0 1 4 (laneEa stPast 1#6 (some (.reg 5)) l) (.tile 0 (16320 + 4 * l)))
      ∧ (lanesIn (stPast.active &&& 0xFFFF0000#32)).head? = some 16)
    ∧ (laneForm ldOff (.ld 124#7 1#6 0#7 4#3 2#4) = some ldForm
      ∧ Resolves ldOff ldForm [.reg 124, .reg 125, .reg 126, .reg 127] none ∧ AccessReady ldOff
      ∧ (∀ l ∈ lanesIn ldOff.active, Faulty ldOff 2 0 16 (laneEa ldOff 1#6 none l) 232)
      ∧ (lanesIn (ldOff.active &&& 0xFFFFFFFF#32)).head? = some 0)
    ∧ (Faulty ldOff 0 0 8 (ldOff.getS 1#6).toNat 192 ∧ Faulty ldOff 0 1 8 (ldOff.getS 1#6).toNat 193) := by
  refine ⟨⟨rfl, ⟨rfl, by rfl, by decide, _, by rfl, rfl⟩, access_of _ (by decide +kernel),
      fun l hl => ?_, by decide +kernel⟩,
    ⟨rfl, ⟨rfl, by rfl, by decide, rfl⟩, access_of _ (by decide +kernel), fun l _ => ?_, by decide +kernel⟩, ?_, ?_⟩
  · have e : ∀ l ∈ lanesIn stPast.active, laneEa stPast 1#6 (some (.reg 5)) l = 16320 + 4 * l ∧ l < 32
        ∧ ((0xFFFF0000#32).getLsbD l = decide (16 ≤ l)) := by decide +kernel
    obtain ⟨e, hl, hb⟩ := e l hl
    rw [e, hb]
    have h4 : (16320 + 4 * l) % 4 = 0 := by omega
    by_cases h : 16 ≤ l
    · rw [if_pos (by simpa using h)]
      exact .inr (.inl ⟨h4, rfl, by show 16384 < _; omega, rfl⟩)
    · rw [if_neg (by simpa using h)]
      refine ⟨h4, .inl ⟨rfl, by show _ ≤ 16384; omega, ?_⟩⟩
      show Place.tile 0 (16320 + 4 * l) = Place.tile 0 (0 * 2 ^ 21 + (0 * 4096 + (16320 + 4 * l)))
      congr 1; omega
  · have e : laneEa ldOff 1#6 none l = 0x100000000000000 := by rfl
    rw [e]
    exact .inr (.inr (.inr (.inr (.inl ⟨by decide, rfl, by decide, .translation, rfl, rfl, ldOff_walk, rfl⟩))))
  · exact .inr (.inl ⟨by decide +kernel, rfl, by decide +kernel, rfl⟩)
  · exact .inr (.inl ⟨by decide +kernel, rfl, by decide +kernel, rfl⟩)

/-! ## Fences, traps, selections, control registers -/

theorem test_holds_FencesAndCacheWordsDropLines :
    NoStoreOut calm ∧ calm.immAddr = 0 ∧ (7#3 : BitVec 3) ≠ 2#3
      ∧ (let va := ((ldEnd.getS 1#6).toNat + ldEnd.immAddr) / 128 * 128
         va = 0x1FFF80 ∧ va < 2 ^ 57) ∧ MapsTo ldEnd 0x1FFF80 page0 ∧ page0.kind = 1
      ∧ (withFrag calm (fun f => { f with hint := some { first := 0xFC#57, imm := some 1#25, mod := none } })).immAddr ≠ 0 :=
  ⟨⟨rfl, rfl, rfl⟩, by decide +kernel, by decide, by decide +kernel, calm_maps _ (by decide), rfl, by decide +kernel⟩

theorem test_holds_TrapAndBkptStopTheirGroup : calm.cur.id.privileged = false ∧ chief.cur.id.privileged = true := by
  decide +kernel

/-- The smallest and the largest range, and control words that do not fit: exec outside job space, async without write (R326). -/
theorem test_holds_WatchSetsItsSlot :
    (0x20001#64 : DWord).getLsbD 4 = false ∧ watchFits 0x4#64 0x21010#64 ∧ watchFits 0x40000000#64 0x1E0A10#64
      ∧ (let c : DWord := 0x20810#64
         c.getLsbD 4 = true ∧ ¬watchFits 0x4#64 c) ∧ ¬watchFits 0x4#64 0x28010#64 := by
  unfold watchFits
  decide +kernel

theorem test_holds_PrivilegedWordsNeedAPrivilegedGroup :
    isPrivileged (.tlbinv 0#6 3#2) = true ∧ calm.cur.id.privileged = false := by
  decide +kernel

/-- The group itself, the groups of a grid, of the job; a code and a field that are reserved (R329). -/
theorem test_holds_SelectionWordsActOnTheirGroups :
    (selectionWord (.gkill 1#6 2#6)).isSome = true ∧ chief.cur.id.privileged = true ∧ DistinctGroups chief
      ∧ selectionReserved 0xC000000000000000#64 0#64 ∧ selectionReserved 0#64 0x100#64 ∧ ¬selectionReserved 0#64 0#64
      ∧ ¬selectionReserved 0x8000000000000000#64 0x100#64
      ∧ chosen chief 0x8000000000000000#64 0#64 chief.cur = true ∧ chosen chief 0x4000FFFFFFFFFFFF#64 0#64 chief.cur = false
      ∧ chief.cur.run.isSome = false := by
  unfold DistinctGroups selectionReserved
  decide +kernel

/-- JPTB, a stored register and a read-only one; a number no register has; a ring with and without records (R7, R335). -/
theorem test_holds_CsrWordsReachTheirRegister :
    chief.cur.id.privileged = true ∧ NoStoreOut chief
      ∧ ((withS chief [(1, 0x121#64)]).getS 1#6).toNat = 0x121 ∧ (csrStores 0x121).isSome = true
      ∧ (chief.csrRead (some 0) 0 0x121).isSome = true ∧ (csrStores 0x1FFF).isSome = true
      ∧ csrReadOnly 0x142 = true ∧ chief.csrRead (some 0) 0 0xFFFF = none
      ∧ ¬((withS chief [(1, 0x10000#64)]).getS 1#6).toNat < 2 ^ 16
      ∧ chief.fault.head = chief.fault.tail
      ∧ (let s : State := { chief with fault := { chief.fault with tail := 1 } }
         s.fault.head ≠ s.fault.tail) ∧ chief.sec.slots.any (·.isSome) = false := by
  unfold NoStoreOut
  decide +kernel

theorem test_holds_TlbinvDropsTranslations :
    chief.cur.id.privileged = true ∧ (2#2 : BitVec 2) ≠ 3#2 ∧ NoStoreOut chief
      ∧ (∀ x : Txn, let s : State := { chief with fabric := { chief.fabric with txns := [x] } }
         s.fabric.txns ≠ [] ∧ s.fabric.held = []) := by
  exact ⟨rfl, by decide, ⟨rfl, rfl, rfl⟩, fun x => ⟨List.cons_ne_nil _ _, rfl⟩⟩

end Sys2Proof.Tests
end

