-- ==== Sys2Proof/Tests/Hold8.lean ====
section
/-! SUPPORT. States and operands that meet the hypotheses of the statement about launches, clause by clause. -/

namespace Sys2Proof.Tests

set_option Elab.async false

open Sys2Proof.Machine Sys2Proof.Safety Sys2Proof.Claims

/-- A record of two clusters of one by twelve cores at 0x20000, and a malformed one after it (R129). -/
def recordState : State :=
  let s := withS calm [(1, 0x20000#64), (2, 0x20080#64), (3, 0x20001#64)]
  { s with mem := { s.mem with
      pkg := putNums s.mem.pkg [(0x220000, 0x100), (0x220018, 2 * 2 ^ 32 + 2 ^ 24 + 12 * 2 ^ 20 + 15 * 2 ^ 16), (0x220028, 3 * 2 ^ 62 + 5)] } }

def record2 : LaunchRec :=
  { LaunchRec.absent with entry := 0x100#57, clusters := 2, rows := 1, cols := 12, groups := 16, vregs := 8,
                          deps := [(3, 0, 5), (0, 0, 0), (0, 0, 0), (0, 0, 0)] }

theorem record_state : Tables recordState.mem recordState.ctxArea := by
  unfold Tables
  decide +kernel

theorem record_128 (va : Nat) (hv : va % 128 = 0 ∧ va < 2 ^ 21) :
    RecordAt recordState va 128 (readBytes recordState.mem.pkg (0x200000 + va % 2 ^ 21) 128) :=
  ⟨hv.1, lt_trans hv.2 (by decide), page0, page0_maps _ record_state (by decide +kernel) va hv.2, rfl, rfl, rfl⟩

/-- A ring of one entry whose counters are about to wrap (R294). -/
def ring63 (base : Addr) : Queue :=
  { Queue.reset with base := base, logEntries := 0#4, signed := false, enable := true, head := 0xFFFFFFFF#32, tail := 0#32 }

def queueState (base : Addr) : State := recordState.putQueue 63 (ring63 base)

/-- An empty package whose queue 63 holds one record at its head; the die tried first is the last. -/
def emptyPackage : State :=
  let s := State.reset.putQueue 63 { Queue.reset with host := [newLaunch 7 0#16 record2 false 63 false 0] }
  { s with sched := { s.sched with nextDie := 3 } }

/-- `calm`, with eight registers and no accumulator, waits at a barrier for as long as the longest threshold. -/
def waiting : State :=
  let s := withFrag calm (fun f => { f with wait := .phase 0 0 1 })
  { s with cur := { s.cur with idle := 70000, id := { s.cur.id with vregs := 8, accs := 0 } } }

def waitingCluster : Cluster := waiting.clusters.headD (Cluster.absent calm.cur.id)

theorem waiting_small : waiting.clusterGroups waitingCluster = [waiting.cur] ∧ (vectorPayload true waiting.cur).length ≤ 4096
    ∧ (accPayload waiting.cur).length = 0 ∧ waiting.shadowUsed waitingCluster.die = 0 := by
  decide +kernel

theorem shadow_one (g : Group) : shadowBytes [g] = (vectorPayload true g).length + (accPayload g).length + Config.groupBytes.toNat := by
  simp [shadowBytes, Group.savedBytes]

/-- Whatever the size of the scalar state is (R431), one group of that size fits the shadow storage. -/
theorem waiting_swaps : waiting.canSwap waitingCluster = true := by
  obtain ⟨g, v, a, u⟩ := waiting_small
  have e : (waitingCluster.swapped = false ∧ waiting.partsBusy waitingCluster.parts = false)
      ∧ (decide (waiting.threshold waitingCluster.grid ≤ waiting.cur.idle) && waiting.cur.run.isNone && waiting.writesLanded waiting.cur
        && (waiting.cur.stop.isSome || waiting.cur.frags.all (fun f => waiting.longWait f && f.hint.isNone))) = true := by
    decide +kernel
  have k : ∀ n z m : Nat, n ≤ 4096 → z = 0 → m < 2 ^ 16 → 0 + blocksFor (n + z + m) ≤ 128 := fun n z m h1 h2 h3 => by
    unfold blocksFor
    omega
  have f := k _ _ _ v a (BitVec.isLt Config.groupBytes)
  unfold State.canSwap
  rw [Bool.and_eq_true, decide_eq_true_eq, g, u, shadow_one]
  refine ⟨?_, f⟩
  rw [e.1.1, e.1.2, List.all_cons, e.2]
  rfl

theorem test_holds_LaunchesEnterStartAndEnd :
    (NoStoreOut recordState ∧ NoRun recordState ∧ NoPoison recordState ∧ recordState.cur.frag.wait = .ready
      ∧ recordState.cur.id.grid / 2 ^ 42 % 64 = 0
      ∧ RecordAt recordState (recordState.getS 1#6).toNat 128 (readBytes recordState.mem.pkg 0x220000 128)
      ∧ recordFrom (readBytes recordState.mem.pkg 0x220000 128) = some record2 ∧ recordState.placeable record2 = true
      ∧ (recordState.queue 0).dev.length < 16
      ∧ (let q : Queue := { Queue.reset with dev := List.replicate 16 probeLaunch }
         16 ≤ ((recordState.putQueue 0 q).queue 0).dev.length)
      ∧ RecordAt recordState (recordState.getS 2#6).toNat 128 (readBytes recordState.mem.pkg 0x220080 128)
      ∧ recordFrom (readBytes recordState.mem.pkg 0x220080 128) = none ∧ (recordState.getS 3#6).toNat % 128 ≠ 0)
    ∧ (let s := queueState 0x20000#57
       let x := s.queue 63
       x = ring63 0x20000#57 ∧ x.enable = true ∧ x.head ≠ x.tail ∧ x.stalled = false ∧ x.host = [] ∧ x.taken = [] ∧ x.signed = false
        ∧ x.base.toNat + 128 * (x.head.toNat % 2 ^ x.logEntries.toNat) = 0x20000 ∧ MapsTo s 0x20000 page0
        ∧ recordFrom (readBytes s.mem.pkg (leafPhys page0 0x20000) 128) = some record2 ∧ s.placeable record2 = true)
    ∧ (let s := queueState 0x20080#57
       MapsTo s 0x20080 page0 ∧ recordFrom (readBytes s.mem.pkg (leafPhys page0 0x20080) 128) = none ∧ MapsTo s (0x20080 + 0x78) page0
        ∧ page0.kind = 1)
    ∧ (let q : Queue := { ring63 0x20000#57 with host := [probeLaunch] }
       ((recordState.putQueue 63 q).queue 63).host ≠ [])
    ∧ (let s := farState calm
       MapsTo s 0x200000 (farLeaf 0x200000) ∧ ¬((farLeaf 0x200000).kind = 1 ∧ (farLeaf 0x200000).read = true))
    ∧ (IdlePackage emptyPackage ∧ OnlyRecord emptyPackage 63 (newLaunch 7 0#16 record2 false 63 false 0) ∧ Placeable record2
      ∧ WaitsMet emptyPackage 0#16 record2 ∧ 1 < record2.clusters ∧ emptyPackage.sched.nextDie < 4)
    ∧ (waiting.clusters[0]? = some waitingCluster ∧ waiting.canSwap waitingCluster = true)
    ∧ (let s : State := { State.reset with sched := { State.reset.sched with launches := [probeLaunch] } }
       s.launchOf (1#48 : BitVec 48).toNat = some probeLaunch ∧ s.launchDone probeLaunch = true ∧ probeLaunch.killed = false
        ∧ probeLaunch.stopped = false ∧ probeLaunch.device = false ∧ probeLaunch.grid < 2 ^ 48)
    ∧ MapsTo calm (probeLaunch.entryAddr + 0x78) page0
    ∧ (let s : State := { State.reset with sched := { State.reset.sched with arm := true } }
       s.sched.arm = true ∧ s.ctx.stopping = [] ∧ s.ctx.start = false ∧ s.otherJobs s.sliceParts = []
        ∧ s.sched.gstart.toNat ≤ s.time.toNat ∧ s.frozen = false ∧ s.ctx.saved = []) := by
  have q (base : Addr) : Tables (queueState base).mem (queueState base).ctxArea := record_state
  refine ⟨⟨by unfold NoStoreOut; decide +kernel, by unfold NoRun; decide +kernel, by unfold NoPoison; decide +kernel, by decide +kernel,
      by decide +kernel, ?_, by decide +kernel, by decide +kernel, by decide +kernel, by decide +kernel, ?_, by decide +kernel, by decide +kernel⟩,
    ⟨by decide +kernel, by decide +kernel, by decide +kernel, by decide +kernel, by decide +kernel, by decide +kernel, by decide +kernel, by decide +kernel,
      page0_maps _ (q _) (by decide +kernel) _ (by decide), by decide +kernel, by decide +kernel⟩,
    ⟨page0_maps _ (q _) (by decide +kernel) _ (by decide), by decide +kernel, page0_maps _ (q _) (by decide +kernel) _ (by decide), rfl⟩,
    by decide +kernel, ⟨mapsTo_of_walk (by decide +kernel) (by decide +kernel) (by decide), by decide⟩,
    ⟨by unfold IdlePackage; decide +kernel, by unfold OnlyRecord; decide +kernel, by unfold Placeable; decide +kernel,
      by unfold WaitsMet; decide +kernel, by decide, by decide +kernel⟩,
    ⟨by decide +kernel, waiting_swaps⟩, by decide +kernel, calm_maps _ (by decide), by decide +kernel⟩
  · rw [show (recordState.getS 1#6).toNat = 0x20000 by decide +kernel]
    exact record_128 0x20000 (by decide)
  · rw [show (recordState.getS 2#6).toNat = 0x20080 by decide +kernel]
    exact record_128 0x20080 (by decide)

end Sys2Proof.Tests
end

