-- ==== Sys2Proof/Tests/Slice0.lean ====
section
/-! SUPPORT. Tests: an ill-formed term for each check of WellFormed; every instruction word of the opcode table, written out from its
encoding, decodes to the instruction it stands for; and single steps whose results come from the manual. -/

namespace Sys2Proof.Tests

set_option Elab.async false

open Sys2Proof.Machine Sys2Proof.Safety Sys2Proof.Claims

/-! ## WellFormed refuses -/

/-- R105: with x[3] clear the index register field of LD is reserved. -/
theorem test_illformed_reserved_field : (Instr.ld 1#7 2#6 1#7 2#3 2#4).wellFormed = false ∧ (Instr.ld 1#7 2#6 0#7 2#3 2#4).wellFormed = true := by decide

/-- R24: selector 7 names no register. -/
theorem test_illformed_reserved_value : (Instr.srd 1#6 7#8).wellFormed = false ∧ (Instr.srd 1#6 6#8).wellFormed = true := by decide

/-- R95: condition codes 6 and 7 of SCMP are unassigned. -/
theorem test_illformed_unassigned_code : (Instr.scmp 1#2 2#6 3#6 6#3).wellFormed = false ∧ (Instr.scmp 1#2 2#6 3#6 5#3).wellFormed = true := by decide

/-- R362, R363: a package has links 0 to 287. -/
theorem test_illformed_event_range : (Instr.laneLost 288 0#5 false).wellFormed = false ∧ (Instr.laneLost 287 16#5 true).wellFormed = true := by decide

/-! ## Words decode -/

/-- Words of major 0, written out from the encodings of the opcode table. -/
theorem test_decode_major_0_1 :
    decodeTableWord 32 0x00000000 = some (.nop)
      ∧ decodeTableWord 32 0x00040000 = some (.yield)
      ∧ decodeTableWord 32 0x00080003 = some (.waitf 3#12)
      ∧ decodeTableWord 32 0x00400003 = some (.bra 3#22)
      ∧ decodeTableWord 32 0x00800003 = some (.call 3#22)
      ∧ decodeTableWord 32 0x013FFFFB = some (.bk 1#2 0x3FFFFB#22)
      ∧ decodeTableWord 32 0x02800007 = some (.bkNot 3#2 7#22)
      ∧ decodeTableWord 32 0x04000007 = some (.bpAny 5#3 7#22)
      ∧ decodeTableWord 32 0x06800007 = some (.bpAll 7#3 7#22)
      ∧ decodeTableWord 32 0x06C30000 = some (.ret 3#6)
      ∧ decodeTableWord 32 0x07030000 = some (.jmpr 3#6)
      ∧ decodeTableWord 32 0x07400000 = some (.join) := by
  decide +kernel

/-- Words of major 0, written out from the encodings of the opcode table. -/
theorem test_decode_major_0_2 :
    decodeTableWord 32 0x07800000 = some (.exit) := by
  decide +kernel

/-- Words of major 1, written out from the encodings of the opcode table. -/
theorem test_decode_major_1 :
    decodeTableWord 32 0x0B005007 = some (.bdv 3#3 5#12 7#12) := by
  decide +kernel

/-- Words of major 2, written out from the encodings of the opcode table. -/
theorem test_decode_major_2_1 :
    decodeTableWord 32 0x10628E00 = some (.sadd 3#6 5#6 7#6)
      ∧ decodeTableWord 32 0x10628E01 = some (.ssub 3#6 5#6 7#6)
      ∧ decodeTableWord 32 0x10628E02 = some (.smul 3#6 5#6 7#6)
      ∧ decodeTableWord 32 0x10628E03 = some (.smulh 3#6 5#6 7#6)
      ∧ decodeTableWord 32 0x10628E04 = some (.sdiv 3#6 5#6 7#6)
      ∧ decodeTableWord 32 0x10628E05 = some (.srem 3#6 5#6 7#6)
      ∧ decodeTableWord 32 0x10628E06 = some (.sand 3#6 5#6 7#6)
      ∧ decodeTableWord 32 0x10628E07 = some (.sor 3#6 5#6 7#6)
      ∧ decodeTableWord 32 0x10628E08 = some (.sxor 3#6 5#6 7#6)
      ∧ decodeTableWord 32 0x10628E09 = some (.sandn 3#6 5#6 7#6)
      ∧ decodeTableWord 32 0x10628E0A = some (.sshl 3#6 5#6 7#6)
      ∧ decodeTableWord 32 0x10628E0B = some (.sshr 3#6 5#6 7#6) := by
  decide +kernel

/-- Words of major 2, written out from the encodings of the opcode table. -/
theorem test_decode_major_2_2 :
    decodeTableWord 32 0x10628E0C = some (.ssra 3#6 5#6 7#6)
      ∧ decodeTableWord 32 0x10628E0D = some (.srot 3#6 5#6 7#6)
      ∧ decodeTableWord 32 0x10628E0E = some (.smin 3#6 5#6 7#6)
      ∧ decodeTableWord 32 0x10628E0F = some (.smax 3#6 5#6 7#6)
      ∧ decodeTableWord 32 0x10628E10 = some (.sminn 3#6 5#6 7#6)
      ∧ decodeTableWord 32 0x10628E11 = some (.smaxn 3#6 5#6 7#6)
      ∧ decodeTableWord 32 0x10628012 = some (.sclz 3#6 5#6)
      ∧ decodeTableWord 32 0x10628013 = some (.spop 3#6 5#6)
      ∧ decodeTableWord 32 0x10628014 = some (.sbrev 3#6 5#6)
      ∧ decodeTableWord 32 0x10628015 = some (.ssextB8 3#6 5#6)
      ∧ decodeTableWord 32 0x10628016 = some (.ssextB16 3#6 5#6)
      ∧ decodeTableWord 32 0x10628017 = some (.ssextB32 3#6 5#6) := by
  decide +kernel

/-- Words of major 2, written out from the encodings of the opcode table. -/
theorem test_decode_major_2_3 :
    decodeTableWord 32 0x10628018 = some (.szextB8 3#6 5#6)
      ∧ decodeTableWord 32 0x10628019 = some (.szextB16 3#6 5#6)
      ∧ decodeTableWord 32 0x1062801A = some (.szextB32 3#6 5#6)
      ∧ decodeTableWord 32 0x10628E1D = some (.ssel 3#6 5#6 7#6 2#2)
      ∧ decodeTableWord 32 0x1062801F = some (.smov 3#6 5#6)
      ∧ decodeTableWord 32 0x10628E21 = some (.scmp 3#2 5#6 7#6 1#3)
      ∧ decodeTableWord 32 0x10628E29 = some (.slea 3#6 5#6 7#6 1#3)
      ∧ decodeTableWord 32 0x10628030 = some (.launch 3#6 5#6) := by
  decide +kernel

/-- Words of major 3, written out from the encodings of the opcode table. -/
theorem test_decode_major_3 :
    decodeTableWord 32 0x18600005 = some (.saddi 3#6 5#16)
      ∧ decodeTableWord 32 0x18610005 = some (.sandi 3#6 5#16)
      ∧ decodeTableWord 32 0x18620005 = some (.sori 3#6 5#16)
      ∧ decodeTableWord 32 0x18630005 = some (.sxori 3#6 5#16)
      ∧ decodeTableWord 32 0x18640005 = some (.sshli 3#6 5#16)
      ∧ decodeTableWord 32 0x18650005 = some (.sshri 3#6 5#16)
      ∧ decodeTableWord 32 0x18660005 = some (.ssrai 3#6 5#16)
      ∧ decodeTableWord 32 0x184B0009 = some (.scmpi 2#2 4#3 9#16)
      ∧ decodeTableWord 32 0x186D0005 = some (.sli 3#6 5#16)
      ∧ decodeTableWord 32 0x186E0005 = some (.slih 3#6 5#16)
      ∧ decodeTableWord 32 0x186F0005 = some (.srd 3#6 5#8)
      ∧ decodeTableWord 32 0x18700005 = some (.swr 3#6 5#8) := by
  decide +kernel

/-- Words of major 4, written out from the encodings of the opcode table. -/
theorem test_decode_major_4 :
    decodeTableWord 32 0x20628031 = some (.lds 3#6 5#6 3#2 1#3)
      ∧ decodeTableWord 32 0x206280B1 = some (.sts 3#6 5#6 3#2 1#3) := by
  decide +kernel

/-- Words of major 5, written out from the encodings of the opcode table. -/
theorem test_decode_major_5_1 :
    decodeTableWord 32 0x2830A1C0 = some (.vadd 3#7 5#7 7#7)
      ∧ decodeTableWord 32 0x2830A1C1 = some (.vsub 3#7 5#7 7#7)
      ∧ decodeTableWord 32 0x2830A1C2 = some (.vmul 3#7 5#7 7#7)
      ∧ decodeTableWord 32 0x2830A1C3 = some (.vfma 3#7 5#7 7#7)
      ∧ decodeTableWord 32 0x2830A1C4 = some (.vfms 3#7 5#7 7#7)
      ∧ decodeTableWord 32 0x2830A1C5 = some (.vfnma 3#7 5#7 7#7)
      ∧ decodeTableWord 32 0x2830A1C6 = some (.vfnms 3#7 5#7 7#7)
      ∧ decodeTableWord 32 0x2830A1C7 = some (.vdiv 3#7 5#7 7#7)
      ∧ decodeTableWord 32 0x2830A1C8 = some (.vmin 3#7 5#7 7#7)
      ∧ decodeTableWord 32 0x2830A1C9 = some (.vmax 3#7 5#7 7#7)
      ∧ decodeTableWord 32 0x2830A1CA = some (.vclamp 3#7 5#7 7#7)
      ∧ decodeTableWord 32 0x2830A1CB = some (.vscale 3#7 5#7 7#7) := by
  decide +kernel

/-- Words of major 5, written out from the encodings of the opcode table. -/
theorem test_decode_major_5_2 :
    decodeTableWord 32 0x2830A1D1 = some (.vcmp 3#3 5#7 7#7 1#3)
      ∧ decodeTableWord 32 0x2830A1D9 = some (.vcmpc 3#3 5#7 7#7 1#3)
      ∧ decodeTableWord 32 0x2830A1E1 = some (.vsel 3#7 5#7 7#7 1#3) := by
  decide +kernel

/-- Words of major 6, written out from the encodings of the opcode table. -/
theorem test_decode_major_6 :
    decodeTableWord 32 0x3030A1D0 = some (.vaddPair 3#7 5#7 7#7 1#2)
      ∧ decodeTableWord 32 0x3030A1D1 = some (.vsubPair 3#7 5#7 7#7 1#2)
      ∧ decodeTableWord 32 0x3030A1D2 = some (.vmulPair 3#7 5#7 7#7 1#2)
      ∧ decodeTableWord 32 0x3030A1D3 = some (.vfmaPair 3#7 5#7 7#7 1#2)
      ∧ decodeTableWord 32 0x3030A1D4 = some (.vfmsPair 3#7 5#7 7#7 1#2)
      ∧ decodeTableWord 32 0x3030A1D5 = some (.vfnmaPair 3#7 5#7 7#7 1#2)
      ∧ decodeTableWord 32 0x3030A1D6 = some (.vfnmsPair 3#7 5#7 7#7 1#2)
      ∧ decodeTableWord 32 0x3030A1D7 = some (.vminPair 3#7 5#7 7#7 1#2)
      ∧ decodeTableWord 32 0x3030A1D8 = some (.vmaxPair 3#7 5#7 7#7 1#2)
      ∧ decodeTableWord 32 0x3030A1D9 = some (.vclampPair 3#7 5#7 7#7 1#2)
      ∧ decodeTableWord 32 0x3030A1DA = some (.vdot2 3#7 5#7 7#7 1#2)
      ∧ decodeTableWord 32 0x3030A1FB = some (.vdot4 3#7 5#7 7#7 1#1) := by
  decide +kernel

/-- Words of major 7, written out from the encodings of the opcode table. -/
theorem test_decode_major_7_1 :
    decodeTableWord 32 0x3830A1C0 = some (.viadd 3#7 5#7 7#7)
      ∧ decodeTableWord 32 0x3830A1C1 = some (.visub 3#7 5#7 7#7)
      ∧ decodeTableWord 32 0x3830A1C2 = some (.vimul 3#7 5#7 7#7)
      ∧ decodeTableWord 32 0x3830A1C3 = some (.vimulhI32 3#7 5#7 7#7)
      ∧ decodeTableWord 32 0x3830A1C4 = some (.vimulhN32 3#7 5#7 7#7)
      ∧ decodeTableWord 32 0x3830A1C5 = some (.vimad 3#7 5#7 7#7)
      ∧ decodeTableWord 32 0x3830A1C6 = some (.vimin 3#7 5#7 7#7)
      ∧ decodeTableWord 32 0x3830A1C7 = some (.vimax 3#7 5#7 7#7)
      ∧ decodeTableWord 32 0x3830A1C8 = some (.viminn 3#7 5#7 7#7)
      ∧ decodeTableWord 32 0x3830A1C9 = some (.vimaxn 3#7 5#7 7#7)
      ∧ decodeTableWord 32 0x3830A00A = some (.viabs 3#7 5#7)
      ∧ decodeTableWord 32 0x3830A1CB = some (.viand 3#7 5#7 7#7) := by
  decide +kernel

/-- Words of major 7, written out from the encodings of the opcode table. -/
theorem test_decode_major_7_2 :
    decodeTableWord 32 0x3830A1CC = some (.vior 3#7 5#7 7#7)
      ∧ decodeTableWord 32 0x3830A1CD = some (.vixor 3#7 5#7 7#7)
      ∧ decodeTableWord 32 0x3830A1CE = some (.viandn 3#7 5#7 7#7)
      ∧ decodeTableWord 32 0x3830A1CF = some (.vishl 3#7 5#7 7#7)
      ∧ decodeTableWord 32 0x3830A1D0 = some (.vishr 3#7 5#7 7#7)
      ∧ decodeTableWord 32 0x3830A1D1 = some (.visra 3#7 5#7 7#7)
      ∧ decodeTableWord 32 0x3830A012 = some (.vpop 3#7 5#7)
      ∧ decodeTableWord 32 0x3830A013 = some (.vclz 3#7 5#7)
      ∧ decodeTableWord 32 0x3830A1D4 = some (.vbfe 3#7 5#7 7#7)
      ∧ decodeTableWord 32 0x3830A1D5 = some (.vbfi 3#7 5#7 7#7)
      ∧ decodeTableWord 32 0x3830A1D6 = some (.vprm 3#7 5#7 7#7)
      ∧ decodeTableWord 32 0x3830A1D9 = some (.vicmp 3#3 5#7 7#7 1#3) := by
  decide +kernel

/-- Words of major 8, written out from the encodings of the opcode table. -/
theorem test_decode_major_8_1 :
    decodeTableWord 32 0x40300005 = some (.vaddImm 3#7 5#16)
      ∧ decodeTableWord 32 0x40310005 = some (.vmulImm 3#7 5#16)
      ∧ decodeTableWord 32 0x40320005 = some (.vminImm 3#7 5#16)
      ∧ decodeTableWord 32 0x40330005 = some (.vmaxImm 3#7 5#16)
      ∧ decodeTableWord 32 0x40340005 = some (.viaddImm 3#7 5#16)
      ∧ decodeTableWord 32 0x40350005 = some (.viandImm 3#7 5#16)
      ∧ decodeTableWord 32 0x40360005 = some (.viorImm 3#7 5#16)
      ∧ decodeTableWord 32 0x40370005 = some (.vixorImm 3#7 5#16)
      ∧ decodeTableWord 32 0x40380005 = some (.vishlImm 3#7 5#16)
      ∧ decodeTableWord 32 0x40390005 = some (.vishrImm 3#7 5#16)
      ∧ decodeTableWord 32 0x403A0005 = some (.visraImm 3#7 5#16)
      ∧ decodeTableWord 32 0x403B0005 = some (.vmoviF32 3#7 5#16) := by
  decide +kernel

/-- Words of major 8, written out from the encodings of the opcode table. -/
theorem test_decode_major_8_2 :
    decodeTableWord 32 0x403C0005 = some (.vmoviB32 3#7 5#16)
      ∧ decodeTableWord 32 0x403D0005 = some (.vmoviF16x2 3#7 5#16)
      ∧ decodeTableWord 32 0x403E0005 = some (.vmoviF8e4x2 3#7 5#16)
      ∧ decodeTableWord 32 0x403F0005 = some (.vmoviF8e5x2 3#7 5#16) := by
  decide +kernel

/-- Words of major 9, written out from the encodings of the opcode table. -/
theorem test_decode_major_9_1 :
    decodeTableWord 32 0x4830A000 = some (.vsqrt 3#7 5#7)
      ∧ decodeTableWord 32 0x4830A100 = some (.vrsq 3#7 5#7)
      ∧ decodeTableWord 32 0x4830A200 = some (.vrcp 3#7 5#7)
      ∧ decodeTableWord 32 0x4830A300 = some (.vabs 3#7 5#7)
      ∧ decodeTableWord 32 0x4830A400 = some (.vneg 3#7 5#7)
      ∧ decodeTableWord 32 0x4830A500 = some (.vexp2 3#7 5#7)
      ∧ decodeTableWord 32 0x4830A600 = some (.vlog2 3#7 5#7)
      ∧ decodeTableWord 32 0x4830A700 = some (.vsinp 3#7 5#7)
      ∧ decodeTableWord 32 0x4830A800 = some (.vcosp 3#7 5#7)
      ∧ decodeTableWord 32 0x4830A900 = some (.vtanh 3#7 5#7)
      ∧ decodeTableWord 32 0x4830AA00 = some (.vrnd 3#7 5#7)
      ∧ decodeTableWord 32 0x4830AB00 = some (.vgetexp 3#7 5#7) := by
  decide +kernel

/-- Words of major 9, written out from the encodings of the opcode table. -/
theorem test_decode_major_9_2 :
    decodeTableWord 32 0x4830AC00 = some (.vgetman 3#7 5#7)
      ∧ decodeTableWord 32 0x4830AD79 = some (.vcvt 3#7 5#7 7#4 9#4)
      ∧ decodeTableWord 32 0x4830AE00 = some (.vmov 3#7 5#7)
      ∧ decodeTableWord 32 0x48300E01 = some (.vmovLane 3#7)
      ∧ decodeTableWord 32 0x4830AF00 = some (.vmovs 3#7 5#6) := by
  decide +kernel

/-- Words of major 10, written out from the encodings of the opcode table. -/
theorem test_decode_major_10 :
    decodeTableWord 32 0x5030A007 = some (.vshfl 3#7 5#7 7#7)
      ∧ decodeTableWord 32 0x5030A149 = some (.vrotw 3#7 5#7 2#3 9#5)
      ∧ decodeTableWord 32 0x5030A207 = some (.vxorw 3#7 5#7 7#5)
      ∧ decodeTableWord 32 0x5030A307 = some (.vbcst 3#7 5#7 7#5)
      ∧ decodeTableWord 32 0x5030A380 = some (.vbcstFirst 3#7 5#7)
      ∧ decodeTableWord 32 0x5030A471 = some (.vrstep 3#7 5#7 7#4 1#3)
      ∧ decodeTableWord 32 0x5030A570 = some (.vred 3#6 5#7 7#4)
      ∧ decodeTableWord 32 0x5030A678 = some (.vscan 3#7 5#7 7#4 1#1)
      ∧ decodeTableWord 32 0x5030A740 = some (.vmatch 3#7 5#7 1#2)
      ∧ decodeTableWord 32 0x5030A800 = some (.vball 3#6 5#3)
      ∧ decodeTableWord 32 0x5030A907 = some (.vcomp 3#7 5#7 7#3) := by
  decide +kernel

/-- Words of major 11, written out from the encodings of the opcode table. -/
theorem test_decode_major_11 :
    decodeTableWord 32 0x5830A1C0 = some (.pand 3#3 5#3 7#3)
      ∧ decodeTableWord 32 0x5830A1C1 = some (.por 3#3 5#3 7#3)
      ∧ decodeTableWord 32 0x5830A1C2 = some (.pxor 3#3 5#3 7#3)
      ∧ decodeTableWord 32 0x5830A003 = some (.pnot 3#3 5#3)
      ∧ decodeTableWord 32 0x5830A004 = some (.pmov 3#3 5#3)
      ∧ decodeTableWord 32 0x5830A005 = some (.pset 3#3 5#6)
      ∧ decodeTableWord 32 0x5830A006 = some (.ppop 3#6 5#3)
      ∧ decodeTableWord 32 0x58300007 = some (.exrd 3#6)
      ∧ decodeTableWord 32 0x58006008 = some (.exwr 3#3) := by
  decide +kernel

/-- Words of major 12, written out from the encodings of the opcode table. -/
theorem test_decode_major_12 :
    decodeTableWord 32 0x603143AA = some (.ld 3#7 5#6 7#7 2#3 10#4) := by
  decide +kernel

/-- Words of major 13, written out from the encodings of the opcode table. -/
theorem test_decode_major_13 :
    decodeTableWord 32 0x683143AA = some (.st 3#7 5#6 7#7 2#3 10#4) := by
  decide +kernel

/-- Words of major 14, written out from the encodings of the opcode table. -/
theorem test_decode_major_14_1 :
    decodeTableWord 32 0x70314390 = some (.scopedLd 3#7 5#6 7#7 1#3)
      ∧ decodeTableWord 32 0x70314391 = some (.scopedSt 3#7 5#6 7#7 1#3)
      ∧ decodeTableWord 32 0x70314392 = some (.cas 3#7 5#6 7#7 1#3)
      ∧ decodeTableWord 32 0x70314393 = some (.atomAdd 3#7 5#6 7#7 1#3)
      ∧ decodeTableWord 32 0x70314394 = some (.atomAnd 3#7 5#6 7#7 1#3)
      ∧ decodeTableWord 32 0x70314395 = some (.atomOr 3#7 5#6 7#7 1#3)
      ∧ decodeTableWord 32 0x70314396 = some (.atomXor 3#7 5#6 7#7 1#3)
      ∧ decodeTableWord 32 0x70314397 = some (.atomMin 3#7 5#6 7#7 1#3)
      ∧ decodeTableWord 32 0x70314398 = some (.atomMax 3#7 5#6 7#7 1#3)
      ∧ decodeTableWord 32 0x70314399 = some (.atomMinn 3#7 5#6 7#7 1#3)
      ∧ decodeTableWord 32 0x7031439A = some (.atomMaxn 3#7 5#6 7#7 1#3)
      ∧ decodeTableWord 32 0x7031439B = some (.atomExch 3#7 5#6 7#7 1#3) := by
  decide +kernel

/-- Words of major 14, written out from the encodings of the opcode table. -/
theorem test_decode_major_14_2 :
    decodeTableWord 32 0x7031439C = some (.atomFadd 3#7 5#6 7#7 1#3) := by
  decide +kernel

/-- Words of major 15, written out from the encodings of the opcode table. -/
theorem test_decode_major_15 :
    decodeTableWord 32 0x78300050 = some (.fence 3#3 5#3)
      ∧ decodeTableWord 32 0x78014001 = some (.cflush 0#1 5#6)
      ∧ decodeTableWord 32 0x78014002 = some (.cinv 0#1 5#6)
      ∧ decodeTableWord 32 0x78214002 = some (.cinvI 0#1 5#6)
      ∧ decodeTableWord 32 0x7951C043 = some (.tbar 1#1 5#4 7#6 4#3)
      ∧ decodeTableWord 32 0x7951C044 = some (.tbara 1#1 5#4 7#6 4#3)
      ∧ decodeTableWord 32 0x78300055 = some (.tbarw 3#4 5#3)
      ∧ decodeTableWord 32 0x7951C046 = some (.cbar 1#1 5#4 7#6 4#3) := by
  decide +kernel

/-- Words of major 16, written out from the encodings of the opcode table. -/
theorem test_decode_major_16 :
    decodeTableWord 32 0x80031401 = some (.mma 3#6 5#6 1#1)
      ∧ decodeTableWord 32 0x80431401 = some (.mmas 3#6 5#6 1#1)
      ∧ decodeTableWord 32 0x80831401 = some (.mmao 3#6 5#6 1#1)
      ∧ decodeTableWord 32 0x80C00003 = some (.mzero 3#4)
      ∧ decodeTableWord 32 0x81031471 = some (.mrd 3#6 5#6 7#6 1#2)
      ∧ decodeTableWord 32 0x81430006 = some (.mwr 3#6 1#1 2#2)
      ∧ decodeTableWord 32 0x81831471 = some (.mepi 3#6 5#6 7#6 1#2) := by
  decide +kernel

/-- Words of major 17, written out from the encodings of the opcode table. -/
theorem test_decode_major_17 :
    decodeTableWord 32 0x88000000 = some (.mrdy)
      ∧ decodeTableWord 32 0x88430005 = some (.mfen 3#6 5#4)
      ∧ decodeTableWord 32 0x88800003 = some (.mwait 3#4)
      ∧ decodeTableWord 32 0x88C30000 = some (.mstatReset 3#6)
      ∧ decodeTableWord 32 0x88C30001 = some (.mstatMax 3#6)
      ∧ decodeTableWord 32 0x88C30002 = some (.mstatRead 3#6) := by
  decide +kernel

/-- Words of major 18, written out from the encodings of the opcode table. -/
theorem test_decode_major_18 :
    decodeTableWord 32 0x90031401 = some (.tdef 3#6 5#6 1#1)
      ∧ decodeTableWord 32 0x90430000 = some (.trel 3#6)
      ∧ decodeTableWord 32 0x90831400 = some (.tstate 3#6 5#6)
      ∧ decodeTableWord 32 0x90C31471 = some (.tfetch 3#6 5#6 7#6 1#1)
      ∧ decodeTableWord 32 0x91031471 = some (.tgath 3#6 5#6 7#6 1#1)
      ∧ decodeTableWord 32 0x91431470 = some (.tcommit 3#6 5#6 7#6)
      ∧ decodeTableWord 32 0x91830000 = some (.twin 3#6)
      ∧ decodeTableWord 32 0x91830001 = some (.twinRd 3#6) := by
  decide +kernel

/-- Words of major 19, written out from the encodings of the opcode table. -/
theorem test_decode_major_19 :
    decodeTableWord 32 0x98030000 = some (.abar 3#6)
      ∧ decodeTableWord 32 0x98430000 = some (.abwait 3#6)
      ∧ decodeTableWord 32 0x98830000 = some (.rginit 3#6)
      ∧ decodeTableWord 32 0x98C31400 = some (.rgawait 3#6 5#6)
      ∧ decodeTableWord 32 0x99030000 = some (.rgrel 3#6)
      ∧ decodeTableWord 32 0x99430000 = some (.vdecode 3#6) := by
  decide +kernel

/-- Words of major 20, written out from the encodings of the opcode table. -/
theorem test_decode_major_20 :
    decodeTableWord 32 0xA0031470 = some (.rshard 3#6 5#6 7#6)
      ∧ decodeTableWord 32 0xA0430000 = some (.rsstop 3#6)
      ∧ decodeTableWord 32 0xA0831400 = some (.rsstat 3#6 5#6)
      ∧ decodeTableWord 32 0xA0C31470 = some (.rsplan 3#6 5#6 7#6)
      ∧ decodeTableWord 32 0xA1031470 = some (.tcopy 3#6 5#6 7#6)
      ∧ decodeTableWord 32 0xA1431470 = some (.tfill 3#6 5#6 7#6)
      ∧ decodeTableWord 32 0xA1831475 = some (.tredf 3#6 5#6 7#6 5#4) := by
  decide +kernel

/-- Words of major 21, written out from the encodings of the opcode table. -/
theorem test_decode_major_21 :
    decodeTableWord 32 0xA8031479 = some (.signal 3#6 5#6 7#6 9#4)
      ∧ decodeTableWord 32 0xA8431401 = some (.fflag 3#6 5#6 1#1)
      ∧ decodeTableWord 32 0xA8830000 = some (.pbar 3#6)
      ∧ decodeTableWord 32 0xA8C31407 = some (.mcst 3#6 5#6 7#4) := by
  decide +kernel

/-- Words of major 22, written out from the encodings of the opcode table. -/
theorem test_decode_major_22 :
    decodeTableWord 32 0xB0031401 = some (.trap 3#6 5#6 1#1)
      ∧ decodeTableWord 32 0xB0430000 = some (.bkpt 3#5)
      ∧ decodeTableWord 32 0xB0831400 = some (.watch 3#6 5#6)
      ∧ decodeTableWord 32 0xB0C31400 = some (.gstop 3#6 5#6)
      ∧ decodeTableWord 32 0xB1031404 = some (.gresumeRetry 3#6 5#6 1#1)
      ∧ decodeTableWord 32 0xB1031405 = some (.gresumeFmask 3#6 5#6 1#1)
      ∧ decodeTableWord 32 0xB1031406 = some (.gresumeSkip 3#6 5#6 1#1)
      ∧ decodeTableWord 32 0xB1431400 = some (.gkill 3#6 5#6)
      ∧ decodeTableWord 32 0xB1831400 = some (.csrrd 3#6 5#6)
      ∧ decodeTableWord 32 0xB1C31400 = some (.csrwr 3#6 5#6)
      ∧ decodeTableWord 32 0xB2030001 = some (.tlbinv 3#6 1#2) := by
  decide +kernel

/-- Words of major 31, written out from the encodings of the opcode table. -/
theorem test_decode_major_31 :
    decodeTableWord 32 0xF8300579 = some (.hrun 3#5 5#12 7#4 9#4)
      ∧ decodeTableWord 32 0xFA614389 = some (.hend 3#4 5#7 7#7 9#7)
      ∧ decodeTableWord 32 0xFC000003 = some (.himm 3#25)
      ∧ decodeTableWord 32 0xFFDCC680 = some (.hmod 1#1 1#1 5#3 1#1 4#3 1#1 4#3 3#3 2#3) := by
  decide +kernel

/-- R37, R96: fn 17 of major 3 is unassigned; R4: NOP with a bit of its reserved field set. -/
theorem test_decode_refuses : decodeTableWord 32 0x18310000 = none ∧ decodeTableWord 32 0x00000001 = none := by decide +kernel

/-- The step fetches the word where withFetchWord puts it. -/
theorem test_step_fetches : (nextOf (step (State.reset.withFetchWord 32 0x184D0007))).getS 2#6 = 7#64 := by decide +kernel

/-! ## Scalar words (R93 to R100) -/

/-- The state after an instruction, from scalar registers of `calm`. -/
def doS (i : Instr) (xs : SMap DWord) : State := nextOf (exec i (withS calm xs))

/-- R93: the sum is taken modulo 2^64. -/
theorem test_sadd_wraps : (doS (.sadd 3#6 1#6 2#6) [(1, 0xFFFFFFFFFFFFFFFF#64), (2, 2#64)]).getS 3#6 = 1#64 := by decide +kernel
/-- R93: a source that is also the destination is read before it is written. -/
theorem test_ssub_same_register : (doS (.ssub 1#6 1#6 1#6) [(1, 5#64)]).getS 1#6 = 0#64 := by decide +kernel
/-- R93: −1 × −1 has a high half of 0. -/
theorem test_smulh_signed : (doS (.smulh 3#6 1#6 1#6) [(1, 0xFFFFFFFFFFFFFFFF#64)]).getS 3#6 = 0#64 := by decide +kernel
/-- R94: −7 / 2 truncates toward zero; a zero divisor gives all ones; −2^63 / −1 gives −2^63. -/
theorem test_sdiv_corners :
    (doS (.sdiv 3#6 1#6 2#6) [(1, 0xFFFFFFFFFFFFFFF9#64), (2, 2#64)]).getS 3#6 = 0xFFFFFFFFFFFFFFFD#64
      ∧ (doS (.sdiv 3#6 1#6 2#6) [(1, 5#64)]).getS 3#6 = 0xFFFFFFFFFFFFFFFF#64
      ∧ (doS (.sdiv 3#6 1#6 2#6) [(1, 0x8000000000000000#64), (2, 0xFFFFFFFFFFFFFFFF#64)]).getS 3#6 = 0x8000000000000000#64 := by
  decide +kernel
/-- R94: the remainder has the sign of A; a zero divisor returns A. -/
theorem test_srem_corners :
    (doS (.srem 3#6 1#6 2#6) [(1, 0xFFFFFFFFFFFFFFF9#64), (2, 2#64)]).getS 3#6 = 0xFFFFFFFFFFFFFFFF#64
      ∧ (doS (.srem 3#6 1#6 2#6) [(1, 5#64)]).getS 3#6 = 5#64 := by decide +kernel
/-- R93: A rotated by 0 is A, by 4 its high digit comes in below. -/
theorem test_srot : (doS (.srot 3#6 1#6 2#6) [(1, 0xA000000000000001#64), (2, 68#64)]).getS 3#6 = 0x1A#64 := by decide +kernel
/-- R93: 64 leading zeros of 0. -/
theorem test_sclz_zero : (doS (.sclz 3#6 1#6) []).getS 3#6 = 64#64 := by decide +kernel
/-- R95: −1 is below 1 as a signed value and above it as a natural one. -/
theorem test_scmp_signs :
    (doS (.scmp 2#2 1#6 2#6 2#3) [(1, 0xFFFFFFFFFFFFFFFF#64), (2, 1#64)]).getK 2#2 = true
      ∧ (doS (.scmp 2#2 1#6 2#6 4#3) [(1, 0xFFFFFFFFFFFFFFFF#64), (2, 1#64)]).getK 2#2 = false := by decide +kernel
/-- R96: the immediate is sign-extended. -/
theorem test_saddi_extends : (doS (.saddi 1#6 0xFFFF#16) [(1, 1#64)]).getS 1#6 = 0#64 := by decide +kernel
/-- R97: the register is shifted left by 16 and the immediate comes in. -/
theorem test_slih : (doS (.slih 1#6 0x8001#16) [(1, 0xFFFF000000000002#64)]).getS 1#6 = 0x28001#64 := by decide +kernel
/-- R99: the offset is signed, in words from the branch. -/
theorem test_bra_back : (nextOf (exec (.bra 0x3FFFFF#22) calm)).cur.frag.pc = 0xFC#57 := by decide +kernel
/-- R100: CALL writes the address of the next word into s63. -/
theorem test_call_links : (nextOf (exec (.call 4#22) calm)).getS 63#6 = 0x104#64 ∧ (nextOf (exec (.call 4#22) calm)).cur.frag.pc = 0x110#57 := by
  decide +kernel
/-- R101: lanes with p1 go to T, the others go on, and a split entry is made. -/
theorem test_bdv_splits :
    (let t := nextOf (exec (.bdv 1#3 4#12 8#12) (withP calm [(1, 0xF#32)]))
     (t.cur.frag.exec, t.cur.sibs.map (·.exec)) = (0xF#32, [0xFFFFFFF0#32]) ∨ (t.cur.frag.exec, t.cur.sibs.map (·.exec)) = (0xFFFFFFF0#32, [0xF#32])) := by
  decide +kernel

/-! ## Vector words (R110 to R125): the example of the chapter, and corners -/

/-- The registers v1, v2 and v3 of the example in lanes 0 to 3. -/
def relu : State :=
  let row (xs : List Nat) : Lanes := lanes (fun l => xs.getD l 0)
  withV calm [(1, row [0x3FC00000, 0xBFC00000, 0x80000000, 0x7FC00001]), (2, row [0x40000000, 0x40000000, 0x40000000, 0x40000000]),
    (3, row [0x35800000, 0x3E800000, 0x80000000, 0x3E800000])]

/-- Lanes 0 to 3 of a register. -/
def four (s : State) (r : Nat) : List Nat := (List.range 4).map (fun l => (laneOf (s.getRef (.reg r)) l).toNat)

def relu1 : State := nextOf (exec (.vmul 4#7 1#7 2#7) relu)
def relu2 : State := nextOf (exec (.vadd 4#7 4#7 3#7) relu1)
def relu3 : State := nextOf (exec (.vmaxImm 4#7 0#16) relu2)

/-- The example: sums 3 + 2^−20, −2.75, −0 and the quiet NaN. -/
theorem test_example_vmul_vadd : four relu2 4 = [0x40400004, 0xC0300000, 0x80000000, 0x7FC00001] := by decide +kernel
/-- The example: v4 after VMAX. -/
theorem test_example_vmax : four relu3 4 = [0x40400004, 0, 0, 0x7FC00001] := by decide +kernel
/-- The example: v6 and v7 after VCVT with a binary point of 16, and inexact and invalid in FSTAT. -/
theorem test_example_vcvt :
    (let t := nextOf (exec (.vcvt 6#7 4#7 11#4 0#4) (withFrag relu3 (fun f => { f with hint := some { first := f.pc, imm := some 0x20#25, mod := none } })))
     four t 6 = [0x30000, 0, 0, 0] ∧ four t 7 = [0, 0, 0, 0] ∧ (nextOf (exec (.srd 9#6 1#8) t)).getS 9#6 &&& 0x11#64 = 0x11#64) := by
  decide +kernel
/-- R120, the manual's example of VPRM. -/
theorem test_vprm_example :
    four (nextOf (exec (.vprm 1#7 2#7 3#7) (withV calm [(1, lanes (fun _ => 0x8405)), (2, lanes (fun _ => 0x44332211)), (3, lanes (fun _ => 0x88776655))]))) 1
      = [0x00551166, 0x00551166, 0x00551166, 0x00551166] := by decide +kernel
/-- R119: the absolute value of −2^31 is −2^31; R112: an inactive lane keeps its value. -/
theorem test_viabs_inactive :
    four (nextOf (exec (.viabs 1#7 2#7) (withFrag (withV calm [(1, lanes (fun l => l)), (2, lanes (fun _ => 0x80000000))]) (fun f => { f with exec := 0xD#32 })))) 1
      = [0x80000000, 1, 0x80000000, 0x80000000] := by decide +kernel
/-- R123: the reciprocal of +0 is +∞, of −∞ is −0; VNEG inverts bit 31 of a NaN. -/
theorem test_vrcp_vneg :
    (let s := withV calm [(2, lanes (fun l => [0, 0xFF800000, 0x40000000, 0x7FC00001].getD l 0))]
     four (nextOf (exec (.vrcp 1#7 2#7) s)) 1 = [0x7F800000, 0x80000000, 0x3F000000, 0x7FC00001]
      ∧ four (nextOf (exec (.vneg 1#7 2#7) s)) 1 = [0x80000000, 0x7F800000, 0xC0000000, 0xFFC00001]) := by decide +kernel
/-- R123: 2^3 = 8 and log2 8 = 3, both exact; the root of 2 to the nearest. -/
theorem test_exact_functions :
    (let s := withV calm [(2, lanes (fun l => [0x40400000, 0x41000000, 0x40000000, 0].getD l 0))]
     (four (nextOf (exec (.vexp2 1#7 2#7) s)) 1).take 1 = [0x41000000] ∧ ((four (nextOf (exec (.vlog2 1#7 2#7) s)) 1).drop 1).take 1 = [0x40400000]
      ∧ ((four (nextOf (exec (.vsqrt 1#7 2#7) s)) 1).drop 2).take 1 = [0x3FB504F3]) := by decide +kernel

/-! ## Cross-lane words and predicates (R143 to R154) -/

/-- R144: VROTW.grp by 31 gives each lane the value of the lane below, and lane 0 that of lane 31. -/
theorem test_vrotw : four (nextOf (exec (.vrotw 1#7 2#7 5#3 31#5) (withV calm [(2, lanes (fun l => 100 + l))]))) 1 = [131, 100, 101, 102] := by
  decide +kernel
/-- R147: the sum of 1 to 32; R145: an empty natural minimum is 0xFFFFFFFF. -/
theorem test_vred :
    (nextOf (exec (.vred 1#6 2#7 3#4) (withV calm [(2, lanes (fun l => l + 1))]))).getS 1#6 = 528#64
      ∧ (nextOf (exec (.vred 1#6 2#7 6#4) (withFrag calm (fun f => { f with exec := 0#32 })))).getS 1#6 = 0xFFFFFFFF#64 := by decide +kernel
/-- R148: an exclusive scan starts at the identity. -/
theorem test_vscan_excl : four (nextOf (exec (.vscan 1#7 2#7 3#4 1#1) (withV calm [(2, lanes (fun l => l + 1))]))) 1 = [0, 1, 3, 6] := by decide +kernel
/-- R149: +0 and −0 match, a NaN matches itself only. -/
theorem test_vmatch_zeros :
    four (nextOf (exec (.vmatch 1#7 2#7 1#2) (withFrag (withV calm [(2, lanes (fun l => [0, 0x80000000, 0x7FC00000, 0x7FC00000].getD l 0))])
      (fun f => { f with exec := 0xF#32 })))) 1 = [3, 3, 4, 8] := by decide +kernel
/-- R150: the selected values are packed into the low active lanes. -/
theorem test_vcomp : four (nextOf (exec (.vcomp 1#7 2#7 3#3) (withP (withV calm [(1, lanes (fun _ => 9)), (2, lanes (fun l => l))]) [(3, 0x80000006#32)]))) 1
    = [1, 2, 31, 9] := by decide +kernel
/-- R154: EXEC keeps the active lanes whose predicate bit is 1. -/
theorem test_exwr : (nextOf (exec (.exwr 2#3) (withP calm [(2, 0xF0F0#32)]))).cur.frag.exec = 0xF0F0#32 := by decide +kernel

/-! ## Memory (R105, R108, R188, R191) -/

/-- R108, R110: a word is stored little-endian at the address, and reads back. -/
theorem test_sts_lds :
    (let t := doS (.sts 2#6 1#6 2#2 2#3) [(1, 0x40#64), (2, 0x1122334455667788#64)]
     [pkgByte t 0x20003F, pkgByte t 0x200040, pkgByte t 0x200043, pkgByte t 0x200044] = [0x00#8, 0x88#8, 0x55#8, 0x00#8]) := by decide +kernel

end Sys2Proof.Tests
end

/-! # The CSR map and the words CSRRD and CSRWR (R7, R334, R335) -/

namespace Sys2Proof.Machine

open Sys2Proof.Safety Sys2Proof.Claims

/-! ## Which register a number names -/

section Map

variable (s : State) (own : Option Nat) (job : BitVec 16)

theorem State.csrRead_fixed {num : Nat} (h : num < 0x180) : s.csrRead own job num = s.csrFixed own num := if_pos h

theorem State.csrRead_power {d : Nat} (h : d < 4) : s.csrRead own job (0x180 + d) = some (s.powerOf d).word := by
  simp (disch := omega) only [State.csrRead, if_pos, if_neg, Nat.add_sub_cancel_left]

theorem State.csrRead_queue {num q i : Nat} (hn : num = 0x800 + 4 * q + i) (hq : q < 64) (hi : i < 4) :
    s.csrRead own job num = some ((s.queue q).word i) := by
  have e : (num - 0x800) / 4 = q ∧ num % 4 = i := by omega
  simp (disch := omega) only [State.csrRead, if_pos, if_neg, e]

theorem State.csrRead_counter {n : Nat} (h : n < 4096) :
    s.csrRead own job (0x1000 + n) = some (0#32 ++ sget 0#32 s.sched.counters (job.toNat * 4096 + n)) := by
  simp (disch := omega) only [State.csrRead, if_pos, if_neg, Nat.add_sub_cancel_left]

theorem State.csrRead_laser {n : Nat} (h : n < 306) :
    s.csrRead own job (0x2000 + n) = some ((s.laser n).word n s.link.ran) := by
  simp (disch := omega) only [State.csrRead, if_pos, if_neg, Nat.add_sub_cancel_left]

theorem State.csrRead_link {n : Nat} (h : n < 288) : s.csrRead own job (0x2200 + n) = some (s.physical n).word := by
  simp (disch := omega) only [State.csrRead, if_pos, if_neg, Nat.add_sub_cancel_left]

theorem State.csrRead_tileErrors {n : Nat} (h : n < 1024) (hc : coreExists n = true) :
    s.csrRead own job (0x3000 + n) = some (s.tileErrorsOf n).word := by
  have e : (decide (0x3000 + n < 0x3400) && coreExists n) = true := by simp [hc]; omega
  simp (disch := omega) only [State.csrRead, if_neg, Nat.add_sub_cancel_left, e, if_true]

theorem State.csrFixed_own {num : Nat} (h : num ≠ 0x120) : s.csrFixed own num = s.csrFixed none num := by
  unfold State.csrFixed
  split
  · exact absurd rfl h
  all_goals rfl

/-- A register with one number, read by any group or port: only TMES (0x120) depends on the core that reads it (R166). -/
theorem State.csrRead_of_fixed {s : State} {num : Nat} {x : BitVec 64}
    (h : num < 0x180 ∧ num ≠ 0x120 ∧ s.csrFixed none num = some x) (own : Option Nat) (job : BitVec 16) :
    s.csrRead own job num = some x := by
  obtain ⟨hn, h0, hx⟩ := h
  rw [State.csrRead_fixed _ _ _ hn, State.csrFixed_own _ _ h0, hx]

end Map

/-! ## What a write stores (R7) -/

/-- The fields that a write of a register stores, put together again, are the bits of a mask of the value: here the low
word. -/
theorem lowWord_eq_and (v : BitVec 64) : 0#32 ++ v.extractLsb' 0 32 = v &&& 0xFFFFFFFF#64 := by
  have bits : ∀ i < 64, (0xFFFFFFFF#64).getLsbD i = decide (i < 32) := by decide
  refine BitVec.eq_of_getLsbD_eq fun i hi => ?_
  simp only [BitVec.getLsbD_append, BitVec.getLsbD_and, BitVec.getLsbD_extractLsb', bits i hi]
  grind

theorem zero_append_eq_ofNat (x : BitVec 32) : 0#32 ++ x = BitVec.ofNat 64 x.toNat := by
  apply BitVec.eq_of_toNat_eq
  rw [BitVec.toNat_append]
  simp
  omega

/-- The enable bit and the queue of SUPCTL (R320). -/
theorem supQueue_eq_and (v : BitVec 64) :
    0#56 ++ bit1 (v.getLsbD 7) ++ 0#1 ++ v.extractLsb' 0 6 = v &&& 0xBF#64 := by
  have bits : ∀ i < 64, (0xBF#64).getLsbD i = decide (i < 6 ∨ i = 7) := by decide
  refine BitVec.eq_of_getLsbD_eq fun i hi => ?_
  simp only [BitVec.getLsbD_append, BitVec.getLsbD_and, BitVec.getLsbD_extractLsb', bits i hi, bit1]
  grind

/-- The page number of an address below 2^31. -/
theorem pageField_eq_and (v : BitVec 64) : 0#33 ++ v.extractLsb' 12 19 ++ 0#12 = v &&& 0x7FFFF000#64 := by
  have bits : ∀ i < 64, (0x7FFFF000#64).getLsbD i = decide (12 ≤ i ∧ i < 31) := by decide
  refine BitVec.eq_of_getLsbD_eq fun i hi => ?_
  simp only [BitVec.getLsbD_append, BitVec.getLsbD_and, BitVec.getLsbD_extractLsb', bits i hi]
  grind

/-- The registers that store a mask of the value written: five with one number, and the counters of R296. -/
theorem csrStores_cases {num : Nat} {m : BitVec 64} (h : csrStores num = some m) :
    (num = 0x121 ∧ m = 0x7FFFF000#64) ∨ (num = 0x130 ∧ m = BitVec.allOnes 64) ∨ (num = 0x132 ∧ m = 0xBF#64)
      ∨ (num = 0x143 ∧ m = 0xFFFFFFFF#64) ∨ (num = 0x154 ∧ m = 0x7FFFF000#64)
      ∨ ∃ n < 4096, num = 0x1000 + n ∧ m = 0xFFFFFFFF#64 := by
  unfold csrStores at h
  split_ifs at h with h1 h2 h3 h4 h5 h6 <;> cases h
  · exact .inl ⟨h1, rfl⟩
  · exact .inr (.inl ⟨h2, rfl⟩)
  · exact .inr (.inr (.inl ⟨h3, rfl⟩))
  · exact .inr (.inr (.inr (.inl ⟨h4, rfl⟩)))
  · exact .inr (.inr (.inr (.inr (.inl ⟨h5, rfl⟩))))
  · exact .inr (.inr (.inr (.inr (.inr ⟨num - 0x1000, by omega, by omega, rfl⟩))))

/-- A read-only register is one with a number of its own: a write leaves the state as it is, a read gives a value. -/
theorem csrReadOnly_spec {num : Nat} (h : csrReadOnly num = true) (s : State) (own : Option Nat) (job : BitVec 16)
    (v : BitVec 64) :
    num < 0x180 ∧ s.csrPut own num v = s ∧ (s.csrRead own job num).isSome = true := by
  simp only [csrReadOnly, Bool.or_eq_true, beq_iff_eq] at h
  rcases h with (((((((((rfl | rfl) | rfl) | rfl) | rfl) | rfl) | rfl) | rfl) | rfl) | rfl) | rfl
  all_goals exact ⟨by decide, rfl, rfl⟩

/-- A register that stores a mask of the value written can be read. -/
theorem csrStores_named {num : Nat} {m : BitVec 64} (h : csrStores num = some m) (s : State) (own : Option Nat)
    (job : BitVec 16) :
    num < 2 ^ 16 ∧ (s.csrRead own job num).isSome = true := by
  obtain ⟨rfl, -⟩ | ⟨rfl, -⟩ | ⟨rfl, -⟩ | ⟨rfl, -⟩ | ⟨rfl, -⟩ | ⟨n, hn, rfl, -⟩ := csrStores_cases h
  case inr.inr.inr.inr.inr => exact ⟨by omega, by rw [State.csrRead_counter _ _ _ hn]; rfl⟩
  all_goals exact ⟨by decide, rfl⟩

section Write

variable (s : State) (who : Writer) (own : Option Nat) (job : BitVec 16) (v : BitVec 64)

/-- A writer that R410 does not hold back writes the register with one number that it names. -/
theorem State.csrWrite_fixed {num : Nat} (h : num < 0x180) (hw : (who != .group && s.anySlot) = false) :
    s.csrWrite who own job num v = s.csrPut own num v := by
  simp [State.csrWrite, h, hw]

theorem State.csrWrite_counter {n : Nat} (h : n < 4096) (hw : (who != .group && s.anySlot) = false) :
    s.csrWrite who own job (0x1000 + n) v =
      { s with sched := { s.sched with
          counters := sput 0#32 s.sched.counters (job.toNat * 4096 + n) (v.extractLsb' 0 32) } } := by
  simp (disch := omega) only [State.csrWrite, hw, Bool.false_and, Bool.false_eq_true, if_false, if_pos, if_neg,
    Nat.add_sub_cancel_left]

/-- A register that stores a mask of the value written reads back so, through every port and in every group for which the
number means that register (a counter is one of a job, R296); the selected group and the memories are as before. -/
theorem State.csrWrite_stores {num : Nat} {m : BitVec 64} (h : csrStores num = some m)
    (hw : (who != .group && s.anySlot) = false) :
    let t := s.csrWrite who own job num v
    (∀ own' job', num < 0x1000 ∨ job' = job → t.csrRead own' job' num = some (v &&& m)) ∧ t.cur = s.cur ∧ SameBytes s t := by
  intro t
  have single (hn : num < 0x180 ∧ num ≠ 0x120) (hx : (s.csrPut own num v).csrFixed none num = some (v &&& m))
      (hf : (s.csrPut own num v).cur = s.cur ∧ SameBytes s (s.csrPut own num v)) :
      (∀ own' job', num < 0x1000 ∨ job' = job → t.csrRead own' job' num = some (v &&& m)) ∧ t.cur = s.cur ∧ SameBytes s t := by
    rw [show t = s.csrPut own num v from State.csrWrite_fixed s who own job v hn.1 hw]
    exact ⟨fun own' job' _ => State.csrRead_of_fixed ⟨hn.1, hn.2, hx⟩ own' job', hf⟩
  have frame : ∀ a, pkgByte s a = pkgByte s a ∧ tileByte s a = tileByte s a ∧ farByte s a = farByte s a :=
    fun _ => ⟨rfl, rfl, rfl⟩
  obtain ⟨rfl, rfl⟩ | ⟨rfl, rfl⟩ | ⟨rfl, rfl⟩ | ⟨rfl, rfl⟩ | ⟨rfl, rfl⟩ | ⟨n, hn, rfl, rfl⟩ := csrStores_cases h
  · exact single (by decide) rfl ⟨rfl, frame⟩
  · exact single (by decide) (congrArg some BitVec.and_allOnes.symm) ⟨rfl, frame⟩
  · exact single (by decide) (congrArg some (supQueue_eq_and v)) ⟨rfl, frame⟩
  · exact single (by decide) (congrArg some (lowWord_eq_and v)) ⟨rfl, frame⟩
  · exact single (by decide) (congrArg some (pageField_eq_and v)) ⟨rfl, frame⟩
  · rw [show t = _ from State.csrWrite_counter s who own job v hn hw]
    refine ⟨fun own' job' hj => ?_, rfl, frame⟩
    have hj : job' = job := hj.resolve_left (by omega)
    rw [State.csrRead_counter _ _ _ hn, hj]
    simp only [sget_sput_same, lowWord_eq_and]

end Write

/-! ## The words (R322, R334, R335) -/

/-- Bits above 15 name no register (R335). -/
theorem csrNumber_high {x : DWord} (h : ¬x.toNat < 2 ^ 16) : (x.extractLsb' 16 48 != 0#48) = true := by
  rw [bne_iff_ne, ne_eq, ← BitVec.toNat_inj, BitVec.extractLsb'_toNat, Nat.shiftRight_eq_div_pow, BitVec.toNat_ofNat]
  omega

theorem csrNumber_named {x : DWord} (h : x.toNat < 2 ^ 16) :
    (x.extractLsb' 16 48 != 0#48) = false ∧ (x.extractLsb' 0 16).toNat = x.toNat := by
  rw [bne_eq_false_iff_eq, ← BitVec.toNat_inj, BitVec.extractLsb'_toNat, BitVec.extractLsb'_toNat,
    Nat.shiftRight_eq_div_pow, Nat.shiftRight_eq_div_pow, BitVec.toNat_ofNat]
  omega

/-- With no store of the package on its way a release goes on at once (R184). -/
theorem State.release_settled {s : State} (h : NoStoreOut s) (bar : Bool) (scope : Nat) (k : State → State) :
    s.release bar scope k = k s := by
  obtain ⟨held, txns, late⟩ := h
  have flush : s.flushGroup s.cur.id = s := by simp [State.flushGroup, State.sendAll, held]
  have drained : s.drains s.cur.id (.release scope bar) = false := by
    simp [State.drains, State.lanesOut, State.weakOut, held, txns]
  simp [State.release, flush, drained, Mem.released, late]

/-- A scalar register written, with or without an acquire, and the word at its end. -/
theorem State.putS_acquired_spec (s : State) (d : BitVec 6) (x : DWord) (acquires : Prop) [Decidable acquires] :
    let t := (if acquires then (s.putS d x).acquire 5 else s.putS d x).advance
    t.getS d = x ∧ (∀ e, e ≠ d → t.getS e = s.getS e) ∧ MovedTo s t (after s) ∧ SameBytes s t ∧ OnlyMemory s t := by
  have regs (u : State) (hu : u.cur.regs = (s.putS d x).cur.regs) :
      u.getS d = x ∧ ∀ e, e ≠ d → u.getS e = s.getS e := by
    simp only [State.getS, hu, State.putS_regs_s, sget_sput_same, true_and]
    exact fun e he => sget_sput_ne _ _ _ fun h => he (BitVec.eq_of_toNat_eq h)
  intro t
  by_cases h : acquires
  · rw [show t = ((s.putS d x).acquire 5).advance by simp only [t, if_pos h]]
    exact ⟨(regs _ rfl).1, (regs _ rfl).2, rfl, fun _ => ⟨rfl, rfl, rfl⟩, rfl, rfl, rfl⟩
  · rw [show t = (s.putS d x).advance by simp only [t, if_neg h]]
    exact ⟨(regs _ rfl).1, (regs _ rfl).2, rfl, fun _ => ⟨rfl, rfl, rfl⟩, rfl, rfl, rfl⟩

theorem State.advance_cur {s u : State} (h : u.cur = s.cur) :
    u.advance.cur = { s.cur with frag := s.cur.frag.movedTo (after s) } := by
  show { u.cur with frag := u.cur.frag.movedTo (u.cur.frag.pc + 4#57) } = _
  rw [h]
  rfl

section Words

variable {s : State} {a b d : BitVec 6} {x : BitVec 64} (hp : s.cur.id.privileged = true)

include hp

/-- A number that no register has, or bits above 15: both words take the CSR fault. -/
theorem exec_csr_faults
    (h : ¬(s.getS a).toNat < 2 ^ 16 ∨ s.csrRead (some s.cur.id.core) s.cur.id.job (s.getS a).toNat = none) :
    exec (.csrrd a d) s = .next s.csrFault ∧ exec (.csrwr a b) s = .next s.csrFault := by
  show execCsrrd a d s = _ ∧ execCsrwr a b s = _
  by_cases hn : (s.getS a).toNat < 2 ^ 16
  · have hv := h.resolve_left (not_not_intro hn)
    simp [execCsrrd, execCsrwr, State.privileged, hp, csrNumber_named hn, hv]
  · simp [execCsrrd, execCsrwr, State.privileged, hp, csrNumber_high hn]

/-- CSRRD of a register that has a value, for FRWAIT with a record pending. -/
theorem exec_csrrd_reads (hn : (s.getS a).toNat < 2 ^ 16)
    (hx : s.csrRead (some s.cur.id.core) s.cur.id.job (s.getS a).toNat = some x)
    (hw : (s.getS a).toNat ≠ 0x144 ∨ s.fault.head ≠ s.fault.tail) :
    exec (.csrrd a d) s = .next (if (s.getS a).toNat = 0x142 ∨ (s.getS a).toNat = 0x144 then (s.putS d x).acquire 5
      else s.putS d x).advance := by
  show execCsrrd a d s = _
  have hi : (decide ((s.getS a).toNat = 0x144) && s.fault.head == s.fault.tail) = false := by
    simpa [imp_iff_not_or] using hw
  simp only [execCsrrd, State.privileged, hp, csrNumber_named hn, hx, hi, Bool.false_eq_true, if_true, if_false,
    Bool.or_eq_true, decide_eq_true_eq]

/-- CSRRD of FRWAIT on an empty ring holds issue (R322). -/
theorem exec_csrrd_frwait (hn : (s.getS a).toNat = 0x144) (hw : s.fault.head = s.fault.tail) :
    exec (.csrrd a d) s = .next (s.waitAt .frwait) := by
  show execCsrrd a d s = _
  have hx : s.csrRead (some s.cur.id.core) s.cur.id.job 0x144 = some (0#32 ++ s.fault.tail) := rfl
  simp [execCsrrd, State.privileged, hp, csrNumber_named (show (s.getS a).toNat < 2 ^ 16 by omega), hn, hx, hw]

/-- CSRWR of a register that there is, no store being on its way: it writes the register and goes on. -/
theorem exec_csrwr_writes (hn : (s.getS a).toNat < 2 ^ 16)
    (hx : (s.csrRead (some s.cur.id.core) s.cur.id.job (s.getS a).toNat).isSome = true) (ho : NoStoreOut s) :
    exec (.csrwr a b) s =
      .next (s.csrWrite .group (some s.cur.id.core) s.cur.id.job (s.getS a).toNat (s.getS b)).advance := by
  show execCsrwr a b s = _
  simp [execCsrwr, State.privileged, hp, csrNumber_named hn, Option.isNone_eq_false_iff.mpr hx, State.release_settled ho]

end Words

/-- While no key slot is occupied R410 holds no writer back. -/
theorem State.portFree {s : State} (who : Writer) (h : s.sec.slots.any (·.isSome) = false) :
    (who != .group && s.anySlot) = false := by
  rw [State.anySlot, h, Bool.and_false]

/-- CSR_WRITE (R7): the group's core and job count for a write of a group only. -/
theorem exec_csrWrite (who : Writer) (v : BitVec 64) (s : State) {num : Nat} (h : num < 2 ^ 16) :
    exec (.csrWrite who (BitVec.ofNat 16 num) v) s =
      .next (s.csrWrite who (if who = .group then some s.cur.id.core else none)
        (if who = .group then s.cur.id.job else s.fault.job) num v) := by
  show execCsrWrite who _ v s = _
  rw [execCsrWrite, BitVec.toNat_ofNat, Nat.mod_eq_of_lt h]

end Sys2Proof.Machine

/-! ## The reset column of the register tables -/

namespace Sys2Proof.Claims

open Sys2Proof.Machine Sys2Proof.Safety

theorem tileErrors_reset_word : TileErrors.reset.word = 0#64 := by decide

theorem power_reset_word : Power.reset.word &&& ~~~(0xFF#64 <<< 40) = 0x8800000000#64 := by decide

theorem counter_reset_word : (0#32 ++ 0#32 : BitVec 64) = 0#64 := by decide

theorem link_reset_word : Link.reset.word = 0x1F0000#64 := by decide

/-- Of a laser at its reset value only the mark of the spare depends on its place (R362). -/
theorem laser_reset_word (n ran : Nat) : Laser.reset.word n ran &&& 0xFFFFF7#64 = 0#64 := by
  show (0#16 ++ 0#24 ++ 0#16 ++ 0#4 ++ bit1 (laserPos n == 16) ++ 0#1 ++ 0#1 ++ 0#1 : BitVec 64) &&& 0xFFFFF7#64 = 0#64
  cases laserPos n == 16 <;> rfl

theorem csrRead_queue_reset (own : Option Nat) (job : BitVec 16) {q : Nat} (h : q < 64) :
    State.reset.csrRead own job (0x800 + 4 * q) = some 0#64
      ∧ State.reset.csrRead own job (0x801 + 4 * q) = some 0x400000002#64
      ∧ State.reset.csrRead own job (0x802 + 4 * q) = some 0#64
      ∧ State.reset.csrRead own job (0x803 + 4 * q) = some 0#64 := by
  have reads {num i : Nat} {x : BitVec 64} (hn : num = 0x800 + 4 * q + i) (hi : i < 4) (hx : Queue.reset.word i = x) :
      State.reset.csrRead own job num = some x :=
    (State.csrRead_queue _ _ _ hn h hi).trans (congrArg some hx)
  exact ⟨reads (i := 0) (by omega) (by decide) (by decide), reads (i := 1) (by omega) (by decide) (by decide),
    reads (i := 2) (by omega) (by decide) (by decide), reads (i := 3) (by omega) (by decide) (by decide)⟩

/-- Settles O57: the map reads each register out of a record that has its reset value. -/
theorem resetLeavesTheTablesValues : Obligations.ResetLeavesTheTablesValues := by
  refine ⟨fun _ _ => congrArg some tileErrors_reset_word, fun own job num h => State.csrRead_of_fixed ?_ own job,
    State.csrRead_of_fixed (by decide),
    fun own job => ⟨_, State.csrRead_of_fixed ⟨by decide, by decide, rfl⟩ own job, by decide⟩,
    fun own job d h => ⟨_, State.csrRead_power _ _ _ h, power_reset_word⟩,
    fun own job q h => csrRead_queue_reset own job h,
    fun own job n h => (State.csrRead_counter _ _ _ h).trans (congrArg some counter_reset_word),
    fun own job n h => ⟨_, State.csrRead_laser _ _ _ h, laser_reset_word n _⟩,
    fun own job n h => (State.csrRead_link _ _ _ h).trans (congrArg some link_reset_word),
    fun own job n hc h => (State.csrRead_tileErrors _ _ _ h hc).trans (congrArg some tileErrors_reset_word),
    fun g hg => ?_, rfl, rfl, rfl, rfl, fun _ => rfl, rfl⟩
  case refine_1 =>
    revert num
    decide
  case refine_2 =>
    rw [List.mem_singleton.mp hg]
    rfl

/-! ## The words and the ports -/

/-- Settles O31: the words by what they do with a number that names a register and with one that names none, the writes by
what the map stores. -/
theorem csrWordsReachTheirRegister : Obligations.CsrWordsReachTheirRegister := by
  intro s a d b num who v hp named value
  refine ⟨fun hnum hn hw x hx => ?_, fun hnum => ⟨fun he => ?_, fun he => ?_⟩, fun h => ?_,
    fun hnum ho => ⟨fun m hm => ?_, fun hr => ?_⟩, fun hn hl hs => ⟨fun m hm => ?_, fun hr => ?_⟩⟩
  · subst hnum
    exact ⟨_, exec_csrrd_reads hp hn hx (.inl hw), State.putS_acquired_spec s d x _⟩
  · exact ⟨_, exec_csrrd_frwait hp hnum he, State.waitAt_spec s .frwait⟩
  · have hx : value s (s.getS a).toNat = some (0#32 ++ s.fault.tail) := by rw [hnum]; rfl
    obtain ⟨hd, -, hm, -⟩ := State.putS_acquired_spec s d (0#32 ++ s.fault.tail)
      ((s.getS a).toNat = 0x142 ∨ (s.getS a).toNat = 0x144)
    exact ⟨_, exec_csrrd_reads hp (by omega) hx (.inr he), hd.trans (zero_append_eq_ofNat _), hm⟩
  · have faults := exec_csr_faults (b := b) (d := d) hp (h.imp_right fun ⟨hnum, hv⟩ => hnum ▸ hv)
    exact ⟨⟨_, faults.1, (State.trap0_spec s 4 10).1⟩, _, faults.2, (State.trap0_spec s 4 10).1⟩
  · subst hnum
    obtain ⟨hn, hx⟩ := csrStores_named hm s (some s.cur.id.core) s.cur.id.job
    obtain ⟨reads, cur, bytes⟩ :=
      State.csrWrite_stores s .group (some s.cur.id.core) s.cur.id.job (s.getS b) hm rfl
    exact ⟨_, exec_csrwr_writes hp hn hx ho, reads _ _ (.inr rfl), State.advance_cur cur, bytes⟩
  · subst hnum
    obtain ⟨hn, keeps, hx⟩ := csrReadOnly_spec hr s (some s.cur.id.core) s.cur.id.job (s.getS b)
    refine ⟨_, exec_csrwr_writes hp (by omega) hx ho, ?_⟩
    rw [State.csrWrite_fixed _ _ _ _ _ hn rfl, keeps]
    exact State.advance_spec s
  · obtain ⟨reads, kept⟩ := State.csrWrite_stores s who _ _ v hm (State.portFree who hs)
    exact ⟨_, exec_csrWrite who v s hn, reads _ _ (.inl hl), kept⟩
  · obtain ⟨hc, keeps, -⟩ := csrReadOnly_spec hr s _ s.fault.job v
    rw [exec_csrWrite who v s hn, State.csrWrite_fixed _ _ _ _ _ hc (State.portFree who hs), keeps]

end Sys2Proof.Claims

/-! # Every step goes on and keeps the form of the machine

What a step keeps is a property of a state that every operation of the model keeps, so it is proved once for each operation, in
the order in which the model defines them, and each proof follows the branches of its operation. A lemma is named after the
operation that it speaks of. -/

namespace Sys2Proof.Machine

open Sys2Proof.Safety Sys2Proof.Claims

/-- What a step keeps: a node number, and a bound on the count of memory errors that have been corrected. -/
structure Kept where
  node : BitVec 12
  corrections : Nat

/-- The three memories are in their canonical form, and at most `lim` of their errors have been corrected. -/
abbrev Mem.Sound (lim : Nat) (m : Mem) : Prop :=
  m.pkg.wf = true ∧ m.tile.wf = true ∧ m.far.wf = true ∧ m.corrections ≤ lim

/-- The form of the machine: its memories, and its node number. An abbreviation, so that a state that differs elsewhere has the
form by the same proof. -/
abbrev Form (kept : Kept) (s : State) : Prop := s.mem.Sound kept.corrections ∧ s.node = kept.node

/-- An instruction or an event answers a next state, of the form. -/
abbrev Keeps (kept : Kept) (o : Out) : Prop := ∃ t, o = .next t ∧ Form kept t

/-- An operation that may answer no state answers one of the form when it answers one. -/
def SomeForm (kept : Kept) : Option State → Prop
  | none => True
  | some t => Form kept t

/-- An operation that may fail answers a state of the form when it does not. -/
def OkForm {ε : Type} (kept : Kept) : Except ε State → Prop
  | .error _ => True
  | .ok t => Form kept t

section Frame

variable {kept : Kept} {lim : Nat} {s : State} {m : Mem}

/-! ### Branches, folds and answers -/

theorem Form.ite {t : State} {c : Prop} [Decidable c] (hs : Form kept s) (ht : Form kept t) :
    Form kept (if c then s else t) := by
  split <;> assumption

theorem Mem.Sound.ite {n : Mem} {c : Prop} [Decidable c] (hm : m.Sound lim) (hn : n.Sound lim) :
    (if c then m else n).Sound lim := by
  split <;> assumption

theorem Form.foldl {β : Type} {f : State → β → State} {l : List β} (h : Form kept s)
    (step : ∀ t x, Form kept t → Form kept (f t x)) : Form kept (l.foldl f s) :=
  List.foldlRecOn l f h fun t ht x _ => step t x ht

theorem Mem.Sound.foldl {β : Type} {f : Mem → β → Mem} {l : List β} (h : m.Sound lim)
    (step : ∀ t x, t.Sound lim → (f t x).Sound lim) : (l.foldl f m).Sound lim :=
  List.foldlRecOn l f h fun t ht x _ => step t x ht

theorem Memory.foldl_wf {β : Type} {f : Memory → β → Memory} {l : List β} {m : Memory} (h : m.wf = true)
    (step : ∀ t x, Memory.wf t = true → Memory.wf (f t x) = true) : Memory.wf (l.foldl f m) = true :=
  List.foldlRecOn (motive := fun m => Memory.wf m = true) l f h fun t ht x _ => step t x ht

theorem Form.fst {t : State} {α : Type} {x : α} {p : State × α} (e : p = (t, x)) (h : Form kept p.1) : Form kept t := by
  rw [e] at h; exact h

/-- Through an equation of states: two spellings of one state are then compared as states, not field by field. -/
theorem Form.to {t : State} (h : Form kept s) (e : t = s) : Form kept t := e ▸ h

theorem Keeps.next (h : Form kept s) : Keeps kept (.next s) := ⟨s, rfl, h⟩
theorem Keeps.ite {c : Prop} [Decidable c] {o p : Out} (hs : Keeps kept o) (ht : Keeps kept p) :
    Keeps kept (if c then o else p) := by
  split <;> assumption

/-- The bound after one more corrected error. -/
def Kept.more (kept : Kept) : Kept := { kept with corrections := kept.corrections + 1 }

theorem Form.more (h : Form kept s) : Form kept.more s :=
  ⟨⟨h.1.1, h.1.2.1, h.1.2.2.1, Nat.le_succ_of_le h.1.2.2.2⟩, h.2⟩

theorem Keeps.more {o : Out} (h : Keeps kept o) : Keeps kept.more o := by
  obtain ⟨t, e, ht⟩ := h
  exact ⟨t, e, ht.more⟩

theorem SomeForm.get {t : State} {o : Option State} (e : o = some t) (h : SomeForm kept o) : Form kept t := by
  rw [e] at h; exact h

theorem OkForm.get {t : State} {ε : Type} {o : Except ε State} (e : o = .ok t) (h : OkForm kept o) : Form kept t := by
  rw [e] at h; exact h

theorem Form.getD {o : Option State} (h : SomeForm kept o) (hs : Form kept s) : Form kept (o.getD s) := by
  cases o <;> assumption

theorem Form.foldl_st {β : Type} {f : Pass → β → Pass} {l : List β} {p : Pass} (h : Form kept p.st)
    (step : ∀ t x, Form kept t.st → Form kept (f t x).st) : Form kept (l.foldl f p).st :=
  List.foldlRecOn (motive := fun p => Form kept p.st) l f h fun t ht x _ => step t x ht

/-! ### The state -/

theorem Mem.Sound.reset : Mem.reset.Sound lim :=
  ⟨rfl, rfl, rfl, Nat.zero_le _⟩

/-! ### Registers, groups and reports -/

theorem Form.drawn (hs : Form kept s) : Form kept s.drawn := hs
theorem Form.drew {n} (hs : Form kept s) : Form kept (s.drew n) := hs
theorem Form.setRegs {r} (hs : Form kept s) : Form kept (s.setRegs r) := hs
theorem Form.setFrag {f} (hs : Form kept s) : Form kept (s.setFrag f) := hs
theorem Form.putS {i x} (hs : Form kept s) : Form kept (s.putS i x) := hs
theorem Form.putK {k b} (hs : Form kept s) : Form kept (s.putK k b) := hs
theorem Form.putP {p m} (hs : Form kept s) : Form kept (s.putP p m) := hs
theorem Form.putRef {m r x} (hs : Form kept s) : Form kept (s.putRef m r x) := by
  unfold State.putRef
  split
  · exact hs
  · split <;> exact hs

theorem Form.orFstat {f} (hs : Form kept s) : Form kept (s.orFstat f) := hs
theorem Form.onGroup {grid clu team grp f} (hs : Form kept s) : Form kept (s.onGroup grid clu team grp f) :=
  .ite hs hs
theorem Form.mapGroups {f} (hs : Form kept s) : Form kept (s.mapGroups f) := hs
theorem Form.selectGroup {i} (hs : Form kept s) : Form kept (s.selectGroup i) := by
  unfold State.selectGroup
  split
  · exact hs
  · split <;> exact hs

theorem Form.selectFrag {j} (hs : Form kept s) : Form kept (s.selectFrag j) := by
  unfold State.selectFrag
  split
  · exact hs
  · split <;> exact hs

theorem Form.onKey {o f} (hs : Form kept s) : Form kept (s.onKey o f) :=
  .ite hs hs
theorem Form.putTeam {t} (hs : Form kept s) : Form kept (s.putTeam t) := hs
theorem Form.putCluster {c} (hs : Form kept s) : Form kept (s.putCluster c) := hs
theorem Form.accept {r} (hs : Form kept s) : Form kept (s.accept r) :=
  .ite hs hs
theorem Form.atUnit (hs : Form kept s) : Form kept s.atUnit := hs
theorem Form.report {r privileged} (hs : Form kept s) : Form kept (s.report r privileged) :=
  .ite hs.accept hs.accept
theorem Form.stopWith {cause a pc modal skipTo frag} (hs : Form kept s) : Form kept (s.stopWith cause a pc modal skipTo frag) :=
  .report hs
theorem Form.trapSkip {cause a skipTo} (hs : Form kept s) : Form kept (s.trapSkip cause a skipTo) :=
  .stopWith hs.atUnit
theorem Form.trap {cause a} (hs : Form kept s) : Form kept (s.trap cause a) :=
  hs.trapSkip
theorem Form.trap0 {cls detail} (hs : Form kept s) : Form kept (s.trap0 cls detail) :=
  hs.trap
theorem Form.goto {pc} (hs : Form kept s) : Form kept (s.goto pc) := hs
theorem Form.advance (hs : Form kept s) : Form kept s.advance := hs
theorem Form.waitAt {w} (hs : Form kept s) : Form kept (s.waitAt w) := hs

/-! ### Operands and the end of a word -/

theorem Form.finish {tm fused srcs dests flags dec} (hs : Form kept s) :
    Form kept (s.finish tm fused srcs dests flags dec) := by
  unfold State.finish
  split
  · exact hs.orFstat.advance
  · exact .advance hs

theorem Form.done {clocks srcs dests} (hs : Form kept s) : Form kept (s.done clocks srcs dests) :=
  hs.finish
theorem Form.fusing {f} (hs : Form kept s) : Form kept (s.fusing f) := hs
theorem Form.vector {tm fused srcs dsts extra f dec} (hs : Form kept s) : Form kept (s.vector tm fused srcs dsts extra f dec) :=
  .finish (.foldl hs fun _ _ ht => ht.putRef)
theorem Form.vectorPred {tm srcs p f dec} (hs : Form kept s) : Form kept (s.vectorPred tm srcs p f dec) :=
  hs.putP.finish
theorem Form.withRefs {fields k} (hs : Form kept s) (hk : ∀ x, Form kept (k x)) : Form kept (s.withRefs fields k) := by
  unfold State.withRefs
  split
  · exact hk _
  · exact hs.trap0

theorem Form.vec1 {tm d a f} (hs : Form kept s) : Form kept (s.vec1 tm d a f) :=
  hs.withRefs (fun _ => hs.vector)
theorem Form.vec2 {tm fused d a b f} (hs : Form kept s) : Form kept (s.vec2 tm fused d a b f) :=
  hs.withRefs (fun _ => hs.vector)
theorem Form.vec3 {tm d a b f} (hs : Form kept s) : Form kept (s.vec3 tm d a b f) :=
  hs.withRefs (fun _ => hs.vector)
theorem Form.vecI {tm fused d f dec} (hs : Form kept s) : Form kept (s.vecI tm fused d f dec) :=
  hs.withRefs (fun _ => hs.vector)

/-! ### Memories, leaves and caches -/

theorem Form.cacheWalk {va l} (hs : Form kept s) : Form kept (s.cacheWalk va l) := hs
theorem Form.translate {va} (hs : Form kept s) : Form kept (s.translate va).1 := by
  unfold State.translate
  dsimp only
  split
  · split
    · exact hs
    · split
      · exact hs
      · exact .cacheWalk (.ite hs.drawn hs)
  · split <;> exact hs.drawn

theorem Mem.Sound.lateSeen {g pa n} (hs : m.Sound lim) : (m.lateSeen g pa n).Sound lim := hs
theorem Form.l1Load {g pa n} (hs : Form kept s) : Form kept (s.l1Load g pa n).1 := by
  unfold State.l1Load
  dsimp only
  split
  · split
    · exact .ite hs ⟨hs.1.lateSeen, hs.2⟩
    · split
      · exact .drawn (.ite hs ⟨hs.1.lateSeen, hs.2⟩)
      · split <;> exact ⟨hs.1, hs.2⟩
  · split <;> exact ⟨hs.1, hs.2⟩

theorem Mem.Sound.l1Patch {core src pa bs} (hs : m.Sound lim) : (m.l1Patch core src pa bs).Sound lim := by
  unfold Mem.l1Patch
  dsimp only
  split <;> exact hs

theorem Mem.Sound.l1Drop {core src line} (hs : m.Sound lim) : (m.l1Drop core src line).Sound lim := hs
theorem Mem.Sound.l1DropAll {core} (hs : m.Sound lim) : (m.l1DropAll core).Sound lim := hs
theorem Mem.Sound.peerPut {all core node pa bs} (hs : m.Sound lim) : (m.peerPut all core node pa bs).Sound lim := hs
theorem Mem.Sound.noFill {core node line} (hs : m.Sound lim) : (m.noFill core node line).Sound lim := hs
theorem Mem.Sound.peerDrop {core node line} (hs : m.Sound lim) : (m.peerDrop core node line).Sound lim := hs
theorem Mem.Sound.pkgWrite {a bs} (hs : m.Sound lim) : (m.pkgWrite a bs).Sound lim :=
  ⟨writeBytes_wf _ _ _ hs.1, hs.2.1, hs.2.2⟩
theorem Mem.Sound.storeHome {pa bs} (hs : m.Sound lim) : (m.storeHome pa bs).Sound lim := by
  unfold Mem.storeHome
  dsimp only
  exact hs.pkgWrite

theorem Mem.Sound.lands {x} (hs : m.Sound lim) : (m.lands x).Sound lim :=
  hs.storeHome.l1Patch
theorem Mem.Sound.performLate {p} (hs : m.Sound lim) : (m.performLate p).Sound lim :=
  .foldl hs fun _ _ ht => ht.lands
theorem Mem.Sound.beforeHome {g line} (hs : m.Sound lim) : (m.beforeHome g line).Sound lim := by
  unfold Mem.beforeHome
  dsimp only
  exact .ite hs.performLate hs

theorem Mem.Sound.countFlaw {core b r} (hs : m.Sound lim) : (m.countFlaw core b r).Sound lim := hs
theorem Mem.Sound.readWord {w} (hs : m.Sound lim) : (m.readWord w).Sound lim :=
  .ite hs (.ite hs (.ite (.countFlaw hs) hs))
theorem Mem.Sound.readParity {w} (hs : m.Sound lim) : (m.readParity w).Sound lim :=
  .ite (.countFlaw hs) hs
theorem Mem.Sound.tileRead {reads parity a n} (hs : m.Sound lim) : (m.tileRead reads parity a n).Sound lim := by
  unfold Mem.tileRead
  dsimp only
  exact .ite hs (.foldl hs fun _ _ ht => .ite (.readParity (.ite ht.readWord ht)) (.ite ht.readWord ht))

theorem Mem.Sound.tileWrite {a bs} (hs : m.Sound lim) : (m.tileWrite a bs).Sound lim :=
  ⟨hs.1, writeBytes_wf _ _ _ hs.2.1, hs.2.2⟩
theorem Mem.Sound.tilePut {writer a bs} (hs : m.Sound lim) : (m.tilePut writer a bs).Sound lim := by
  unfold Mem.tilePut
  dsimp only
  exact hs.tileWrite

theorem Form.tileLoad {a n} (hs : Form kept s) : Form kept (s.tileLoad a n).1 := by
  unfold State.tileLoad
  dsimp only
  split
  · exact hs
  · exact hs.drew

theorem Mem.Sound.tileSeen {core} (hs : m.Sound lim) : (m.tileSeen core).Sound lim := hs
theorem Form.tilePlace {cause acc size core key} (hs : Form kept s) : Form kept (s.tilePlace cause acc size core key).1 := by
  unfold State.tilePlace
  dsimp only
  split
  · exact ⟨hs.1.tileRead.tileSeen, hs.2⟩
  · exact ⟨hs.1.tileRead, hs.2⟩

theorem Form.place {space acc size ea} (hs : Form kept s) : Form kept (s.place space acc size ea).1 := by
  unfold State.place
  dsimp only
  split
  · exact hs
  · rename_i e2
    split
    · split
      · exact hs
      · exact hs.tilePlace
    · split
      · split
        · exact hs
        · split
          · exact hs
          · exact hs.tilePlace
      · split
        · exact hs
        · split
          · rename_i e21
            exact .fst e21 hs.translate
          · rename_i e25
            split
            · exact .fst e25 hs.translate
            · split
              · exact .fst e25 hs.translate
              · split
                · split <;> exact .fst e25 hs.translate
                · exact .fst e25 hs.translate

theorem Form.fetchWord {a} (hs : Form kept s) : Form kept (s.fetchWord a).1 := by
  unfold State.fetchWord
  split
  · rename_i e3
    exact .fst e3 hs.translate
  · rename_i e6
    exact .fst e6 hs.translate
  · rename_i e9
    exact .fst e9 hs.translate
  · rename_i e13
    split
    · exact .fst e13 hs.translate
    · split
      · exact .fst e13 hs.translate
      · dsimp only
        split
        · exact .fst e13 hs.translate
        · split
          · split
            · exact .fst e13 hs.translate
            · split
              · exact .drawn (.fst e13 hs.translate)
              · exact .ite ⟨(Form.fst e13 hs.translate).1, (Form.fst e13 hs.translate).2⟩ (.drawn (.fst e13 hs.translate))
          · split
            · exact ⟨(Form.fst e13 hs.translate).1, (Form.fst e13 hs.translate).2⟩
            · split
              · exact ⟨(Form.fst e13 hs.translate).1, (Form.fst e13 hs.translate).2⟩
              · exact .drawn (.fst e13 hs.translate)

/-! ### Packets and requests -/

theorem Form.handOver {n pk} (hs : Form kept s) : Form kept (s.handOver n pk) := hs
theorem Form.transmit {pk} (hs : Form kept s) : SomeForm kept (s.transmit pk) := by
  unfold State.transmit
  split
  · exact hs
  · split
    · exact trivial
    · split
      · exact hs
      · exact hs.handOver

theorem Form.send {pk} (hs : Form kept s) : Form kept (s.send pk) :=
  .getD hs.transmit hs
theorem Form.onCmd {id f} (hs : Form kept s) : Form kept (s.onCmd id f) := hs
theorem Form.dropTxn {tag} (hs : Form kept s) : Form kept (s.dropTxn tag) := hs
theorem Form.acquire {scope} (hs : Form kept s) : Form kept (s.acquire scope) :=
  .ite ⟨hs.1.l1DropAll, hs.2⟩ hs
theorem Form.loadRead (hs : Form kept s) : Form kept s.loadRead := hs
theorem Form.endWord {e} (hs : Form kept s) : Form kept (s.endWord e) := by
  unfold State.endWord
  dsimp only
  split
  · split
    · exact hs.acquire.loadRead.finish
    · exact hs.loadRead.finish
  · split
    · exact hs.acquire.advance
    · exact hs.advance

theorem Form.putLanes {rs vals} (hs : Form kept s) : Form kept (s.putLanes rs vals) :=
  .foldl hs fun _ _ ht => ht.putRef
theorem Form.putTarget {t vals} (hs : Form kept s) : Form kept (s.putTarget t vals) := by
  unfold State.putTarget
  split
  · exact hs.putLanes
  · split
    · exact hs.putS
    · exact hs

theorem Form.laneTrap {faults single} (hs : Form kept s) : Form kept (s.laneTrap faults single) := by
  unfold State.laneTrap
  split
  · exact hs
  · exact hs.trap

theorem Form.focus {o m} (hs : Form kept s) : SomeForm kept (s.focus o m) := by
  unfold State.focus
  split
  · trivial
  · dsimp only
    cases List.findIdx? _ _ with
    | none => trivial
    | some j => exact hs.selectGroup.selectFrag

theorem Form.peerDone {p} (hs : Form kept s) : Form kept (s.peerDone p) := by
  unfold State.peerDone
  dsimp only
  split
  · exact hs
  · rename_i e
    have ht := SomeForm.get e (Form.focus hs)
    split
    · exact ht.setFrag.endWord
    · split
      · exact ht
      · exact ht.setFrag.laneTrap

theorem Form.peersAnswered {id req bad unknown} (hs : Form kept s) : Form kept (s.peersAnswered id req bad unknown) := by
  unfold State.peersAnswered
  split
  · exact hs
  · exact .ite hs.peerDone hs

theorem Form.onWork {id f} (hs : Form kept s) : Form kept (s.onWork id f) := hs
theorem Form.recordTarget {r} (hs : Form kept s) : Form kept (s.recordTarget r) := hs
theorem Form.answer {pk resp} (hs : Form kept s) : Form kept (s.answer pk resp) :=
  hs.recordTarget.send
theorem Form.dropCombine {id} (hs : Form kept s) : Form kept (s.dropCombine id) := hs
theorem Form.copyAnswered {c status} (hs : Form kept s) : Form kept (s.copyAnswered c status) :=
  .ite hs.dropCombine.answer hs
theorem Form.relayLost {id detail dst} (hs : Form kept s) : Form kept (s.relayLost id detail dst) := by
  unfold State.relayLost
  split
  · exact hs
  · exact .ite hs.copyAnswered (.ite hs.dropCombine (.foldl hs.dropCombine fun _ _ ht => ht.send))

theorem Form.failOps {t bad detail unknown} (hs : Form kept s) : Form kept (s.failOps t bad detail unknown) := by
  unfold State.failOps
  dsimp only
  split
  · exact hs.dropTxn.peersAnswered
  · exact .onKey ⟨hs.1.peerDrop, hs.2⟩
  · exact hs.dropTxn.onCmd
  · exact hs.dropTxn.onWork
  · exact hs.dropTxn.relayLost

theorem Form.failTxnWith {t cause detail unknown} (hs : Form kept s) : Form kept (s.failTxnWith t cause detail unknown) :=
  hs.failOps
theorem Form.failTxn {t reason unknown} (hs : Form kept s) : Form kept (s.failTxn t reason unknown) :=
  hs.failTxnWith
theorem Form.request {owner ea pk} (hs : Form kept s) : Form kept (s.request owner ea pk) := by
  unfold State.request
  dsimp only
  split
  · rename_i e3
    exact SomeForm.get e3 (Form.transmit hs)
  · exact .failTxn hs

theorem Form.sendHeldOne {h} (hs : Form kept s) : Form kept (s.sendHeldOne h) :=
  .request hs
theorem Form.sendHeld {h} (hs : Form kept s) : Form kept (s.sendHeld h) :=
  .sendHeldOne (.foldl hs fun _ _ ht => ht.sendHeldOne)
theorem Form.sendAll {p} (hs : Form kept s) : Form kept (s.sendAll p) :=
  .foldl hs fun _ _ ht => ht.sendHeldOne
theorem Form.flushGroup {g} (hs : Form kept s) : Form kept (s.flushGroup g) :=
  hs.sendAll
theorem Form.holdWeak {w node line ops eas} (hs : Form kept s) : Form kept (s.holdWeak w node line ops eas) :=
  .ite ⟨.foldl hs.1.noFill fun _ _ ht => ht.peerPut, hs.2⟩ ⟨.foldl hs.1.noFill fun _ _ ht => ht.peerPut, hs.2⟩
theorem Mem.Sound.released {g scope} (hs : m.Sound lim) : (m.released g scope).Sound lim :=
  .ite hs (.ite hs.performLate hs)
theorem Form.release {bar scope k} (hs : Form kept s) (hk : ∀ t, Form kept t → Form kept (k t)) :
    Form kept (s.release bar scope k) :=
  .ite hs.flushGroup.waitAt (hk _ ⟨hs.flushGroup.1.released, hs.flushGroup.2⟩)
theorem Form.ownStores (hs : Form kept s) : Form kept s.ownStores :=
  .ite hs ⟨hs.1.performLate, hs.2⟩

/-! ### Stores and barriers -/

theorem Form.countsFall {g} (hs : Form kept s) : Form kept (s.countsFall g) := hs
theorem Form.focusLowest (hs : Form kept s) : Form kept s.focusLowest := hs
theorem Form.passPhase {kind b ph scope} (hs : Form kept s) : Form kept (s.passPhase kind b ph scope) :=
  .ite (.ite hs.advance hs.acquire.advance) hs.waitAt
theorem Form.putPod {key x} (hs : Form kept s) : Form kept (s.putPod key x) := hs
theorem Form.arriveAt {kind b cnt} (hs : Form kept s) : SomeForm kept (s.arriveAt kind b cnt) := by
  unfold State.arriveAt
  dsimp only
  split
  · split
    · exact trivial
    · exact hs.putTeam
  · split
    · split
      · exact trivial
      · exact hs.putCluster
    · split
      · split
        · exact hs.putPod
        · exact trivial
      · exact hs.putPod

theorem Form.settlePod {key} (hs : Form kept s) : Form kept (s.settlePod key) := hs
theorem Form.barrierFault {detail} (hs : Form kept s) : Form kept (s.barrierFault detail) :=
  hs.trapSkip
theorem Form.gathered {byArrival} (hs : Form kept s) : Form kept (s.gathered byArrival) := by
  unfold State.gathered
  split
  · exact hs
  · split
    · dsimp only
      split
      · exact .barrierFault (.ite hs hs.focusLowest)
      · split
        · exact .barrierFault (.ite hs hs.focusLowest)
        · split
          · exact .barrierFault (.ite hs hs.focusLowest)
          · rename_i e20
            exact .ite ((SomeForm.get e20 hs.arriveAt).settlePod) (SomeForm.get e20 hs.arriveAt)

theorem Form.barrierWord {kind b scope cnt split} (hs : Form kept s) : Form kept (s.barrierWord kind b scope cnt split) := by
  unfold State.barrierWord
  split
  · exact hs.passPhase
  · split
    · exact hs.waitAt
    · refine hs.release fun t ht => ?_
      dsimp only
      split
      · split
        · exact Form.goto (.ite ht.waitAt.gathered ht.waitAt.gathered.acquire)
        · exact ht.waitAt.gathered
      · exact ht.waitAt.gathered

theorem Form.execTbar {n b r c} (hs : Form kept s) : Keeps kept (execTbar n b r c s) :=
  .next hs.barrierWord
theorem Form.execTbara {n b r c} (hs : Form kept s) : Keeps kept (execTbara n b r c s) :=
  .next hs.barrierWord
theorem Form.execCbar {n b r c} (hs : Form kept s) : Keeps kept (execCbar n b r c s) :=
  .next hs.barrierWord
theorem Form.execTbarw {b c} (hs : Form kept s) : Keeps kept (execTbarw b c s) :=
  .next (.ite hs.waitAt (.advance (.ite hs.acquire hs)))

/-! ### Control words -/

theorem Form.branch {taken o} (hs : Form kept s) : Form kept (s.branch taken o) :=
  .ite hs.goto hs.advance
theorem Form.execNop (hs : Form kept s) : Keeps kept (execNop s) :=
  .next hs.advance
theorem Form.execYield (hs : Form kept s) : Keeps kept (execYield s) :=
  .next hs.advance
theorem Form.flagsPassed {m} (hs : Form kept s) : Form kept (s.flagsPassed m) :=
  .foldl hs fun _ _ ht => ht.acquire
theorem Form.execWaitf {m} (hs : Form kept s) : Keeps kept (execWaitf m s) :=
  .next (.ite hs.flagsPassed.advance hs.waitAt)
theorem Form.execBra {o} (hs : Form kept s) : Keeps kept (execBra o s) :=
  .next hs.branch
theorem Form.execCall {o} (hs : Form kept s) : Keeps kept (execCall o s) :=
  .next hs.putS.branch
theorem Form.execBk {k o} (hs : Form kept s) : Keeps kept (execBk k o s) :=
  .next hs.branch
theorem Form.execBkNot {k o} (hs : Form kept s) : Keeps kept (execBkNot k o s) :=
  .next hs.branch
theorem Form.execBpAny {p o} (hs : Form kept s) : Keeps kept (execBpAny p o s) :=
  .next hs.branch
theorem Form.execBpAll {p o} (hs : Form kept s) : Keeps kept (execBpAll p o s) :=
  .next hs.branch
theorem Form.jumpTo {x} (hs : Form kept s) : Form kept (s.jumpTo x) :=
  .ite hs.trap0 hs.goto
theorem Form.execRet {r} (hs : Form kept s) : Keeps kept (execRet r s) :=
  .next hs.jumpTo
theorem Form.execJmpr {r} (hs : Form kept s) : Keeps kept (execJmpr r s) :=
  .next hs.jumpTo
theorem Form.execJoin (hs : Form kept s) : Keeps kept (execJoin s) := by
  unfold Machine.execJoin
  split
  · exact .next (.ite hs hs.waitAt)
  · exact .next hs.setFrag.advance

theorem Form.endCurrent (hs : Form kept s) : Form kept s.endCurrent := hs
theorem Form.execExit (hs : Form kept s) : Keeps kept (execExit s) := by
  unfold Machine.execExit
  split
  · exact .next hs.endCurrent
  · dsimp only
    split
    · exact .next (hs.release (fun t ht => .gathered ht))
    · exact .next (.gathered hs)

theorem Form.spillPhys {slot} (hs : Form kept s) : Form kept (s.spillPhys slot).1 := by
  unfold State.spillPhys
  dsimp only
  split
  · exact hs
  · split
    · rename_i e6
      exact .fst e6 hs.translate
    · rename_i e10
      exact .fst e10 hs.translate

theorem Form.spillOne {keep k bad} (hs : Form kept s) (hk : ∀ t, Form kept t → Form kept (k t))
    (hbad : ∀ t, Form kept t → Form kept
    (bad t)) : Form kept (s.spillOne keep k bad) := by
  unfold State.spillOne
  dsimp only
  split
  · exact hk _ hs
  · split
    · rename_i e8
      exact hbad _ (.fst e8 hs.spillPhys)
    · rename_i e12
      exact hk _ ⟨((Form.fst e12 hs.spillPhys).1).pkgWrite, (Form.fst e12 hs.spillPhys).2⟩

theorem Form.split {take fall target join} (hs : Form kept s) : Form kept (s.split take fall target join) := hs
theorem Form.execBdv {p t j} (hs : Form kept s) : Keeps kept (execBdv p t j s) :=
  .next (.ite hs.advance (.ite hs.goto (.ite hs.trap0 (.ite (hs.spillOne (fun _ hu => hu.split)
      (fun _ hu => hu.trap0)) hs.split))))
theorem Form.refillFault (hs : Form kept s) : Form kept s.refillFault :=
  hs.trapSkip
theorem Form.refill {en slot seed} (hs : Form kept s) : Form kept (s.refill en slot seed) := by
  unfold State.refill
  split
  · rename_i e3
    exact .refillFault (.fst e3 hs.spillPhys)
  · rename_i e7
    exact .ite (.refillFault (.fst e7 hs.spillPhys)) (.ite (.fst e7 hs.spillPhys) (.drew (.fst e7 hs.spillPhys)))

theorem Form.execSplitRefill (hs : Form kept s) : Keeps kept (execSplitRefill s) := by
  unfold Machine.execSplitRefill
  split
  · exact .next hs
  · split
    · exact .next hs
    · exact .next (.ite hs.refill (hs.refill.spillOne (fun _ ht => ht) (fun u hu => .refillFault hu)))

/-! ### Scalar words -/

theorem Form.scalar {clocks d srcs x} (hs : Form kept s) : Form kept (s.scalar clocks d srcs x) :=
  hs.putS.done
theorem Form.scalar2 {d a b f} (hs : Form kept s) : Keeps kept (s.scalar2 d a b f) :=
  .next hs.scalar
theorem Form.scalar1 {d a f} (hs : Form kept s) : Keeps kept (s.scalar1 d a f) :=
  .next hs.scalar
theorem Form.scalarI {d f} (hs : Form kept s) : Keeps kept (s.scalarI d f) :=
  .next hs.scalar
theorem Form.scalarCmp {k srcs b} (hs : Form kept s) : Keeps kept (s.scalarCmp k srcs b) :=
  .next hs.putK.done
theorem Form.execSadd {d a b} (hs : Form kept s) : Keeps kept (execSadd d a b s) :=
  hs.scalar2
theorem Form.execSsub {d a b} (hs : Form kept s) : Keeps kept (execSsub d a b s) :=
  hs.scalar2
theorem Form.execSmul {d a b} (hs : Form kept s) : Keeps kept (execSmul d a b s) :=
  .next hs.scalar
theorem Form.execSmulh {d a b} (hs : Form kept s) : Keeps kept (execSmulh d a b s) :=
  .next hs.scalar
theorem Form.execSdiv {d a b} (hs : Form kept s) : Keeps kept (execSdiv d a b s) :=
  .next hs.scalar
theorem Form.execSrem {d a b} (hs : Form kept s) : Keeps kept (execSrem d a b s) :=
  .next hs.scalar
theorem Form.execSand {d a b} (hs : Form kept s) : Keeps kept (execSand d a b s) :=
  hs.scalar2
theorem Form.execSor {d a b} (hs : Form kept s) : Keeps kept (execSor d a b s) :=
  hs.scalar2
theorem Form.execSxor {d a b} (hs : Form kept s) : Keeps kept (execSxor d a b s) :=
  hs.scalar2
theorem Form.execSandn {d a b} (hs : Form kept s) : Keeps kept (execSandn d a b s) :=
  hs.scalar2
theorem Form.execSshl {d a b} (hs : Form kept s) : Keeps kept (execSshl d a b s) :=
  hs.scalar2
theorem Form.execSshr {d a b} (hs : Form kept s) : Keeps kept (execSshr d a b s) :=
  hs.scalar2
theorem Form.execSsra {d a b} (hs : Form kept s) : Keeps kept (execSsra d a b s) :=
  hs.scalar2
theorem Form.execSrot {d a b} (hs : Form kept s) : Keeps kept (execSrot d a b s) :=
  hs.scalar2
theorem Form.execSmin {d a b} (hs : Form kept s) : Keeps kept (execSmin d a b s) :=
  hs.scalar2
theorem Form.execSmax {d a b} (hs : Form kept s) : Keeps kept (execSmax d a b s) :=
  hs.scalar2
theorem Form.execSminn {d a b} (hs : Form kept s) : Keeps kept (execSminn d a b s) :=
  hs.scalar2
theorem Form.execSmaxn {d a b} (hs : Form kept s) : Keeps kept (execSmaxn d a b s) :=
  hs.scalar2
theorem Form.execSclz {d a} (hs : Form kept s) : Keeps kept (execSclz d a s) :=
  hs.scalar1
theorem Form.execSpop {d a} (hs : Form kept s) : Keeps kept (execSpop d a s) :=
  hs.scalar1
theorem Form.execSbrev {d a} (hs : Form kept s) : Keeps kept (execSbrev d a s) :=
  hs.scalar1
theorem Form.execSsextB8 {d a} (hs : Form kept s) : Keeps kept (execSsextB8 d a s) :=
  hs.scalar1
theorem Form.execSsextB16 {d a} (hs : Form kept s) : Keeps kept (execSsextB16 d a s) :=
  hs.scalar1
theorem Form.execSsextB32 {d a} (hs : Form kept s) : Keeps kept (execSsextB32 d a s) :=
  hs.scalar1
theorem Form.execSzextB8 {d a} (hs : Form kept s) : Keeps kept (execSzextB8 d a s) :=
  hs.scalar1
theorem Form.execSzextB16 {d a} (hs : Form kept s) : Keeps kept (execSzextB16 d a s) :=
  hs.scalar1
theorem Form.execSzextB32 {d a} (hs : Form kept s) : Keeps kept (execSzextB32 d a s) :=
  hs.scalar1
theorem Form.execSsel {d a b k} (hs : Form kept s) : Keeps kept (execSsel d a b k s) :=
  .next hs.putS.done
theorem Form.execSmov {d a} (hs : Form kept s) : Keeps kept (execSmov d a s) :=
  hs.scalar1
theorem Form.execScmp {k a b c} (hs : Form kept s) : Keeps kept (execScmp k a b c s) :=
  hs.scalarCmp
theorem Form.execSlea {d a b h} (hs : Form kept s) : Keeps kept (execSlea d a b h s) :=
  .next hs.scalar.fusing
theorem Form.execSaddi {d i} (hs : Form kept s) : Keeps kept (execSaddi d i s) :=
  hs.scalarI
theorem Form.execSandi {d i} (hs : Form kept s) : Keeps kept (execSandi d i s) :=
  hs.scalarI
theorem Form.execSori {d i} (hs : Form kept s) : Keeps kept (execSori d i s) :=
  hs.scalarI
theorem Form.execSxori {d i} (hs : Form kept s) : Keeps kept (execSxori d i s) :=
  hs.scalarI
theorem Form.execSshli {d i} (hs : Form kept s) : Keeps kept (execSshli d i s) :=
  hs.scalarI
theorem Form.execSshri {d i} (hs : Form kept s) : Keeps kept (execSshri d i s) :=
  hs.scalarI
theorem Form.execSsrai {d i} (hs : Form kept s) : Keeps kept (execSsrai d i s) :=
  hs.scalarI
theorem Form.execScmpi {n c i} (hs : Form kept s) : Keeps kept (execScmpi n c i s) :=
  hs.scalarCmp
theorem Form.execSli {d i} (hs : Form kept s) : Keeps kept (execSli d i s) :=
  .next hs.scalar
theorem Form.execSlih {d i} (hs : Form kept s) : Keeps kept (execSlih d i s) :=
  hs.scalarI
theorem Form.settleHend (hs : Form kept s) : Form kept s.settleHend := hs
theorem Form.putSpecial {e x} (hs : Form kept s) : Form kept (s.putSpecial e x) := by
  unfold State.putSpecial
  dsimp only
  split
  · exact hs.setRegs
  · exact hs.setRegs
  · exact hs.setFrag
  · exact hs.setRegs
  · exact hs.setRegs
  · exact hs

theorem Form.execSrd {d e} (hs : Form kept s) : Keeps kept (execSrd d e s) :=
  .next (.advance (.putS (.ite hs.settleHend hs)))
theorem Form.execSwr {d e} (hs : Form kept s) : Keeps kept (execSwr d e s) :=
  .next (.advance (.putSpecial (.ite hs.settleHend hs)))

/-! ### Vector words -/

theorem Form.execVadd {d a b} (hs : Form kept s) : Keeps kept (execVadd d a b s) :=
  .next (.ite hs.vec2.fusing hs.vec2)
theorem Form.execVsub {d a b} (hs : Form kept s) : Keeps kept (execVsub d a b s) :=
  .next (.ite hs.vec2.fusing hs.vec2)
theorem Form.execVmul {d a b} (hs : Form kept s) : Keeps kept (execVmul d a b s) :=
  .next hs.vec2.fusing
theorem Form.execVfma {d a b} (hs : Form kept s) : Keeps kept (execVfma d a b s) :=
  .next hs.vec3
theorem Form.execVfms {d a b} (hs : Form kept s) : Keeps kept (execVfms d a b s) :=
  .next hs.vec3
theorem Form.execVfnma {d a b} (hs : Form kept s) : Keeps kept (execVfnma d a b s) :=
  .next hs.vec3
theorem Form.execVfnms {d a b} (hs : Form kept s) : Keeps kept (execVfnms d a b s) :=
  .next hs.vec3
theorem Form.execVdiv {d a b} (hs : Form kept s) : Keeps kept (execVdiv d a b s) :=
  .next hs.vec2
theorem Form.execVmin {d a b} (hs : Form kept s) : Keeps kept (execVmin d a b s) :=
  .next (hs.withRefs (fun _ => hs.vector))
theorem Form.execVmax {d a b} (hs : Form kept s) : Keeps kept (execVmax d a b s) :=
  .next (hs.withRefs (fun _ => hs.vector))
theorem Form.execVclamp {d a b} (hs : Form kept s) : Keeps kept (execVclamp d a b s) :=
  .next (hs.withRefs (fun _ => hs.vector))
theorem Form.execVscale {d a b} (hs : Form kept s) : Keeps kept (execVscale d a b s) :=
  .next hs.vec2
theorem Form.fcmp {p a b c early} (hs : Form kept s) : Form kept (s.fcmp p a b c early) :=
  hs.withRefs (fun _ => hs.vectorPred.fusing)
theorem Form.execVcmp {p a b c} (hs : Form kept s) : Keeps kept (execVcmp p a b c s) :=
  .next hs.fcmp
theorem Form.execVcmpc {p a b c} (hs : Form kept s) : Keeps kept (execVcmpc p a b c s) :=
  .next hs.fcmp
theorem Form.execVsel {d a b n} (hs : Form kept s) : Keeps kept (execVsel d a b n s) :=
  .next (hs.withRefs (fun _ => hs.vector))
theorem Form.execVaddPair {d a b t} (hs : Form kept s) : Keeps kept (execVaddPair d a b t s) :=
  .next (.ite hs.vec2.fusing hs.vec2)
theorem Form.execVsubPair {d a b t} (hs : Form kept s) : Keeps kept (execVsubPair d a b t s) :=
  .next (.ite hs.vec2.fusing hs.vec2)
theorem Form.execVmulPair {d a b t} (hs : Form kept s) : Keeps kept (execVmulPair d a b t s) :=
  .next hs.vec2.fusing
theorem Form.execVfmaPair {d a b t} (hs : Form kept s) : Keeps kept (execVfmaPair d a b t s) :=
  .next hs.vec3
theorem Form.execVfmsPair {d a b t} (hs : Form kept s) : Keeps kept (execVfmsPair d a b t s) :=
  .next hs.vec3
theorem Form.execVfnmaPair {d a b t} (hs : Form kept s) : Keeps kept (execVfnmaPair d a b t s) :=
  .next hs.vec3
theorem Form.execVfnmsPair {d a b t} (hs : Form kept s) : Keeps kept (execVfnmsPair d a b t s) :=
  .next hs.vec3
theorem Form.execVminPair {d a b t} (hs : Form kept s) : Keeps kept (execVminPair d a b t s) :=
  .next hs.vec2
theorem Form.execVmaxPair {d a b t} (hs : Form kept s) : Keeps kept (execVmaxPair d a b t s) :=
  .next hs.vec2
theorem Form.execVclampPair {d a b t} (hs : Form kept s) : Keeps kept (execVclampPair d a b t s) :=
  .next hs.vec3
theorem Form.execVdot2 {d a b t} (hs : Form kept s) : Keeps kept (execVdot2 d a b t s) :=
  .next hs.vec3
theorem Form.execVdot4 {d a b t} (hs : Form kept s) : Keeps kept (execVdot4 d a b t s) :=
  .next hs.vec3
theorem Form.execViadd {d a b} (hs : Form kept s) : Keeps kept (execViadd d a b s) :=
  .next hs.vec2
theorem Form.execVisub {d a b} (hs : Form kept s) : Keeps kept (execVisub d a b s) :=
  .next hs.vec2
theorem Form.execVimul {d a b} (hs : Form kept s) : Keeps kept (execVimul d a b s) :=
  .next hs.vec2
theorem Form.execVimulhI32 {d a b} (hs : Form kept s) : Keeps kept (execVimulhI32 d a b s) :=
  .next hs.vec2
theorem Form.execVimulhN32 {d a b} (hs : Form kept s) : Keeps kept (execVimulhN32 d a b s) :=
  .next hs.vec2
theorem Form.execVimad {d a b} (hs : Form kept s) : Keeps kept (execVimad d a b s) :=
  .next hs.vec3
theorem Form.execVimin {d a b} (hs : Form kept s) : Keeps kept (execVimin d a b s) :=
  .next hs.vec2
theorem Form.execVimax {d a b} (hs : Form kept s) : Keeps kept (execVimax d a b s) :=
  .next hs.vec2
theorem Form.execViminn {d a b} (hs : Form kept s) : Keeps kept (execViminn d a b s) :=
  .next hs.vec2
theorem Form.execVimaxn {d a b} (hs : Form kept s) : Keeps kept (execVimaxn d a b s) :=
  .next hs.vec2
theorem Form.execViabs {d a} (hs : Form kept s) : Keeps kept (execViabs d a s) :=
  .next hs.vec1
theorem Form.execViand {d a b} (hs : Form kept s) : Keeps kept (execViand d a b s) :=
  .next hs.vec2
theorem Form.execVior {d a b} (hs : Form kept s) : Keeps kept (execVior d a b s) :=
  .next hs.vec2
theorem Form.execVixor {d a b} (hs : Form kept s) : Keeps kept (execVixor d a b s) :=
  .next hs.vec2
theorem Form.execViandn {d a b} (hs : Form kept s) : Keeps kept (execViandn d a b s) :=
  .next hs.vec2
theorem Form.execVishl {d a b} (hs : Form kept s) : Keeps kept (execVishl d a b s) :=
  .next hs.vec2
theorem Form.execVishr {d a b} (hs : Form kept s) : Keeps kept (execVishr d a b s) :=
  .next hs.vec2
theorem Form.execVisra {d a b} (hs : Form kept s) : Keeps kept (execVisra d a b s) :=
  .next hs.vec2
theorem Form.execVpop {d a} (hs : Form kept s) : Keeps kept (execVpop d a s) :=
  .next hs.vec1
theorem Form.execVclz {d a} (hs : Form kept s) : Keeps kept (execVclz d a s) :=
  .next hs.vec1
theorem Form.execVbfe {d a b} (hs : Form kept s) : Keeps kept (execVbfe d a b s) :=
  .next hs.vec2
theorem Form.execVbfi {d a b} (hs : Form kept s) : Keeps kept (execVbfi d a b s) :=
  .next hs.vec3
theorem Form.execVprm {d a b} (hs : Form kept s) : Keeps kept (execVprm d a b s) :=
  .next hs.vec3
theorem Form.execVicmp {p a b c} (hs : Form kept s) : Keeps kept (execVicmp p a b c s) :=
  .next (hs.withRefs (fun _ => hs.vectorPred))
theorem Form.execVaddImm {d i} (hs : Form kept s) : Keeps kept (execVaddImm d i s) :=
  .next hs.vecI
theorem Form.execVmulImm {d i} (hs : Form kept s) : Keeps kept (execVmulImm d i s) :=
  .next hs.vecI
theorem Form.execVminImm {d i} (hs : Form kept s) : Keeps kept (execVminImm d i s) :=
  .next hs.vecI
theorem Form.execVmaxImm {d i} (hs : Form kept s) : Keeps kept (execVmaxImm d i s) :=
  .next hs.vecI
theorem Form.execViaddImm {d i} (hs : Form kept s) : Keeps kept (execViaddImm d i s) :=
  .next hs.vecI
theorem Form.execViandImm {d i} (hs : Form kept s) : Keeps kept (execViandImm d i s) :=
  .next hs.vecI
theorem Form.execViorImm {d i} (hs : Form kept s) : Keeps kept (execViorImm d i s) :=
  .next hs.vecI
theorem Form.execVixorImm {d i} (hs : Form kept s) : Keeps kept (execVixorImm d i s) :=
  .next hs.vecI
theorem Form.execVishlImm {d i} (hs : Form kept s) : Keeps kept (execVishlImm d i s) :=
  .next hs.vecI
theorem Form.execVishrImm {d i} (hs : Form kept s) : Keeps kept (execVishrImm d i s) :=
  .next hs.vecI
theorem Form.execVisraImm {d i} (hs : Form kept s) : Keeps kept (execVisraImm d i s) :=
  .next hs.vecI
theorem Form.vecSet {tm d srcs f} (hs : Form kept s) : Form kept (s.vecSet tm d srcs f) :=
  hs.withRefs (fun _ => hs.vector)
theorem Form.execVmoviF32 {d i} (hs : Form kept s) : Keeps kept (execVmoviF32 d i s) :=
  .next hs.vecSet
theorem Form.execVmoviB32 {d i} (hs : Form kept s) : Keeps kept (execVmoviB32 d i s) :=
  .next hs.vecSet
theorem Form.execVmoviF16x2 {d i} (hs : Form kept s) : Keeps kept (execVmoviF16x2 d i s) :=
  .next hs.vecSet
theorem Form.execVmoviF8e4x2 {d i} (hs : Form kept s) : Keeps kept (execVmoviF8e4x2 d i s) :=
  .next hs.vecSet
theorem Form.execVmoviF8e5x2 {d i} (hs : Form kept s) : Keeps kept (execVmoviF8e5x2 d i s) :=
  .next hs.vecSet
theorem Form.execVsqrt {d a} (hs : Form kept s) : Keeps kept (execVsqrt d a s) :=
  .next hs.vec1
theorem Form.execVrsq {d a} (hs : Form kept s) : Keeps kept (execVrsq d a s) :=
  .next hs.vec1
theorem Form.execVrcp {d a} (hs : Form kept s) : Keeps kept (execVrcp d a s) :=
  .next hs.vec1
theorem Form.execVabs {d a} (hs : Form kept s) : Keeps kept (execVabs d a s) :=
  .next hs.vec1
theorem Form.execVneg {d a} (hs : Form kept s) : Keeps kept (execVneg d a s) :=
  .next hs.vec1
theorem Form.execVexp2 {d a} (hs : Form kept s) : Keeps kept (execVexp2 d a s) :=
  .next hs.vec1
theorem Form.execVlog2 {d a} (hs : Form kept s) : Keeps kept (execVlog2 d a s) :=
  .next hs.vec1
theorem Form.execVsinp {d a} (hs : Form kept s) : Keeps kept (execVsinp d a s) :=
  .next hs.vec1
theorem Form.execVcosp {d a} (hs : Form kept s) : Keeps kept (execVcosp d a s) :=
  .next hs.vec1
theorem Form.execVtanh {d a} (hs : Form kept s) : Keeps kept (execVtanh d a s) :=
  .next hs.vec1
theorem Form.execVrnd {d a} (hs : Form kept s) : Keeps kept (execVrnd d a s) :=
  .next hs.vec1
theorem Form.execVgetexp {d a} (hs : Form kept s) : Keeps kept (execVgetexp d a s) :=
  .next hs.vec1
theorem Form.execVgetman {d a} (hs : Form kept s) : Keeps kept (execVgetman d a s) :=
  .next hs.vec1
theorem Form.execVcvt {d a y x} (hs : Form kept s) : Keeps kept (execVcvt d a y x s) := by
  unfold Machine.execVcvt
  dsimp only
  split
  · exact .next hs.trap0
  · split
    · exact .next hs.vector
    · exact .next hs.trap0
    · exact .next hs.trap0

theorem Form.execVmov {d a} (hs : Form kept s) : Keeps kept (execVmov d a s) :=
  .next hs.vec1
theorem Form.execVmovLane {d} (hs : Form kept s) : Keeps kept (execVmovLane d s) :=
  .next hs.vecSet
theorem Form.execVmovs {d n} (hs : Form kept s) : Keeps kept (execVmovs d n s) :=
  .next hs.vecSet

/-! ### Lane accesses -/

theorem Form.withBlock {d k go} (hs : Form kept s) (hgo : ∀ x, Form kept (go x)) : Form kept (s.withBlock d k go) := by
  unfold State.withBlock
  split
  · exact hs.trap0
  · split
    · exact hgo _
    · exact hs.trap0

theorem Form.postHit {source pc atomic x} (hs : Form kept s) : Form kept (s.postHit source pc atomic x) :=
  hs.accept
theorem Form.watchEvents {writer source pc atomic job wr} (hs : Form kept s) :
    Form kept (s.watchEvents writer source pc atomic job wr) :=
  .foldl hs fun _ _ ht => ht.postHit
theorem Form.watchCmd {id source pc atomic job wr} (hs : Form kept s) : Form kept (s.watchCmd id source pc atomic job wr) :=
  .onCmd (.foldl hs fun _ _ ht => ht.postHit)
theorem Form.passFrom {part} (hs : Form kept s) : Form kept (s.passFrom part).st := by
  unfold State.passFrom
  split <;> exact hs
theorem Form.loadAt {a pl} (hs : Form kept s) : Form kept (s.loadAt a pl).1 := by
  unfold State.loadAt
  split
  · exact hs.tileLoad
  · split
    · exact ⟨hs.1.beforeHome.l1Patch, hs.2⟩
    · exact hs.l1Load
  · exact hs

theorem Mem.Sound.store {g pa bs} (hs : m.Sound lim) : (m.store g pa bs).Sound lim := by
  unfold Mem.store
  dsimp only
  exact .ite hs.l1Patch hs.l1Patch.performLate.storeHome

theorem Form.storeAt {a x pl} (hs : Form kept s) : Form kept (s.storeAt a x pl) := by
  unfold State.storeAt
  split
  · exact ⟨hs.1.tilePut, hs.2⟩
  · exact ⟨hs.1.store, hs.2⟩
  · exact hs

theorem Form.atomicAt {a new pl} (hs : Form kept s) : Form kept (s.atomicAt a new pl).1 := by
  unfold State.atomicAt
  split
  · dsimp only
    split
    · exact ⟨hs.tileLoad.1.tilePut, hs.tileLoad.2⟩
    · exact hs.tileLoad
  · dsimp only
    split
    · exact ⟨hs.1.beforeHome.l1Drop.storeHome, hs.2⟩
    · exact ⟨hs.1.beforeHome.l1Drop, hs.2⟩
  · exact hs

theorem Form.heldPeer {a node pa r} (hs : Form kept s) (e : s.heldPeer a node pa = some r) : Form kept r.1 := by
  unfold State.heldPeer at e
  split at e
  · cases e
  · split at e
    · cases e
    · split at e
      · cases e
        exact hs
      · split at e
        · cases e
          exact hs
        · cases e

theorem Form.lane {a op le} {perform : Perform} {p0 : Pass} (hperform : ∀ t l pl, Form kept t → Form kept (perform t l pl).1)
    (hp : Form kept p0.st) : Form kept (Pass.lane a perform op p0 le).st := by
  unfold Pass.lane
  dsimp only
  split
  · rename_i e
    exact .fst e (Form.place hp)
  · rename_i e
    have ht := Form.fst e (Form.place hp)
    split
    · rename_i e'
      exact Form.heldPeer ht e'
    · exact ht
  · rename_i e
    exact hperform _ _ _ (.fst e (Form.place hp))

theorem Form.waitLine {x} (hs : Form kept s) : Form kept (s.waitLine x) :=
  hs.sendAll.waitAt
theorem Form.sendLanes {a aop single target ends p packets} (hs : Form kept s) :
    Form kept (s.sendLanes a aop single target ends p packets) := by
  unfold State.sendLanes
  dsimp only
  exact .foldl (.waitAt ⟨hs.sendAll.1, hs.sendAll.2⟩) fun _ _ ht => ht.request

theorem Form.holdAll {packets} (hs : Form kept s) : Form kept (s.holdAll packets) :=
  .foldl hs fun _ _ ht => ht.holdWeak
theorem Form.served {a aop single target ends p} (hs : Form kept s) (hp : Form kept p.st) :
    Form kept (s.served a aop single target ends p) := by
  unfold State.served
  dsimp only
  split
  · exact hs.waitLine
  · exact .ite (.ite (.endWord (.ite (.ite hp.putTarget hp.putTarget.watchEvents) (.holdAll
        (.ite hp.putTarget hp.putTarget.watchEvents)))) (.laneTrap (.ite (.ite hp.putTarget hp.putTarget.watchEvents)
            (.holdAll (.ite hp.putTarget hp.putTarget.watchEvents))))) (.sendLanes (.ite hp.putTarget hp.putTarget.watchEvents))

theorem Form.laneAccess {a lanes perform op aop single target ends} (hs : Form kept s)
    (hperform : ∀ t x1 x2, Form kept t → Form kept (perform t x1 x2).1) : Form kept
        (s.laneAccess a lanes perform op aop single target ends) := by
  unfold State.laneAccess
  split
  · exact hs.trap
  · have hp : Form kept (((s.lanesNow a (lanes.filter fun l => !(s.passFrom s.cur.part).served.getLsbD l.1)).foldl
        (Pass.lane a perform op) (s.passFrom s.cur.part)).st) := .foldl_st hs.passFrom fun _ _ ht => .lane hperform ht
    exact .ite (hs.served hp) (.waitAt hp)

/-! ### Loads and stores -/

theorem Form.withIndex {used v go} (hs : Form kept s) (hgo : ∀ x, Form kept (go x)) : Form kept (s.withIndex used v go) := by
  unfold State.withIndex
  split
  · split
    · exact hgo _
    · exact hs.trap0
  · exact hgo _

theorem Form.execLd {d b v w x} (hs : Form kept s) : Keeps kept (execLd d b v w x s) :=
  .next (hs.withBlock (fun _ => hs.withIndex (fun _ => hs.laneAccess (fun _ _ _ ht => ht.loadAt))))
theorem Form.execSt {d b v w x} (hs : Form kept s) : Keeps kept (execSt d b v w x s) :=
  .next (hs.withBlock (fun _ => hs.withIndex (fun _ => hs.laneAccess (fun _ _ _ ht => ht.storeAt))))
theorem Form.execLds {d a w x} (hs : Form kept s) : Keeps kept (execLds d a w x s) :=
  .next (hs.laneAccess (fun _ _ _ ht => ht.loadAt))
theorem Form.execSts {d a w x} (hs : Form kept s) : Keeps kept (execSts d a w x s) :=
  .next (hs.laneAccess (fun _ _ _ ht => ht.storeAt))

/-! ### Scoped words and atomics -/

theorem Form.scoped {acc aop d b v scope perform op} (hs : Form kept s) (hperform : ∀ x x1 t2 x3 x4, Form kept t2 → Form kept
    (perform x x1 t2 x3 x4).1) : Form kept (s.scoped acc aop d b v scope perform op) :=
  .ite hs.trap0 (hs.withBlock (fun _ => hs.withIndex (fun _ => .ite hs.advance (.ite (hs.release
      (fun _ ht => ht.laneAccess (fun _ _ _ hx => hperform _ _ _ _ _ hx))) (hs.laneAccess
          (fun _ _ _ hx => hperform _ _ _ _ _ hx))))))
theorem Form.execScopedLd {d b v c} (hs : Form kept s) : Keeps kept (execScopedLd d b v c s) :=
  .next (hs.scoped (fun _ _ _ _ _ ht => ht.loadAt))
theorem Form.execScopedSt {d b v c} (hs : Form kept s) : Keeps kept (execScopedSt d b v c s) :=
  .next (hs.scoped (fun _ _ _ _ _ ht => ht.storeAt))
theorem Form.execCas {d b v c} (hs : Form kept s) : Keeps kept (execCas d b v c s) :=
  .next (hs.scoped (fun _ _ _ _ _ ht => ht.atomicAt))
theorem Form.atom {fn d b v c} (hs : Form kept s) : Keeps kept (s.atom fn d b v c) :=
  .next (hs.scoped (fun _ _ _ _ _ ht => ht.atomicAt))
theorem Form.execAtomAdd {d b v c} (hs : Form kept s) : Keeps kept (execAtomAdd d b v c s) :=
  hs.atom
theorem Form.execAtomAnd {d b v c} (hs : Form kept s) : Keeps kept (execAtomAnd d b v c s) :=
  hs.atom
theorem Form.execAtomOr {d b v c} (hs : Form kept s) : Keeps kept (execAtomOr d b v c s) :=
  hs.atom
theorem Form.execAtomXor {d b v c} (hs : Form kept s) : Keeps kept (execAtomXor d b v c s) :=
  hs.atom
theorem Form.execAtomMin {d b v c} (hs : Form kept s) : Keeps kept (execAtomMin d b v c s) :=
  hs.atom
theorem Form.execAtomMax {d b v c} (hs : Form kept s) : Keeps kept (execAtomMax d b v c s) :=
  hs.atom
theorem Form.execAtomMinn {d b v c} (hs : Form kept s) : Keeps kept (execAtomMinn d b v c s) :=
  hs.atom
theorem Form.execAtomMaxn {d b v c} (hs : Form kept s) : Keeps kept (execAtomMaxn d b v c s) :=
  hs.atom
theorem Form.execAtomExch {d b v c} (hs : Form kept s) : Keeps kept (execAtomExch d b v c s) :=
  hs.atom
theorem Form.execAtomFadd {d b v c} (hs : Form kept s) : Keeps kept (execAtomFadd d b v c s) :=
  hs.atom
theorem Form.execFence {o c} (hs : Form kept s) : Keeps kept (execFence o c s) :=
  .next (.ite hs.advance (.ite (.ite hs.waitAt (.advance (.ite hs hs.acquire))) (hs.release (fun _ ht => .advance
      (.ite ht ht.acquire)))))
theorem Form.namedLine {r} (hs : Form kept s) : Form kept (s.namedLine r).1 := by
  unfold State.namedLine
  dsimp only
  split
  · exact hs
  · split
    · rename_i e6
      exact .fst e6 hs.translate
    · rename_i e10
      exact .fst e10 hs.translate

theorem Form.dropLine {l va} (hs : Form kept s) : Form kept (s.dropLine l va) :=
  ⟨.ite hs.1.l1Drop hs.1.peerDrop, hs.2⟩
theorem Form.flushLines {line} (hs : Form kept s) : Form kept (s.flushLines line) :=
  ⟨hs.flushGroup.1.performLate, hs.flushGroup.2⟩
theorem Form.execCflush {l r} (hs : Form kept s) : Keeps kept (execCflush l r s) := by
  unfold Machine.execCflush
  dsimp only
  split
  · exact .next hs.trap0
  · split
    · exact .next (.ite hs.flushLines.waitAt (.advance ⟨hs.flushGroup.1.performLate.l1DropAll, hs.flushGroup.2⟩))
    · split
      · rename_i e8
        exact .next (.advance (.fst e8 hs.namedLine))
      · rename_i e13
        exact .next (.ite (.advance (.dropLine (.flushLines (.fst e13 hs.namedLine)))) (.ite (.waitAt (.flushGroup
            (.fst e13 hs.namedLine))) (.advance (.dropLine (.flushGroup (.fst e13 hs.namedLine))))))

theorem Form.execCinv {l r} (hs : Form kept s) : Keeps kept (execCinv l r s) := by
  unfold Machine.execCinv
  split
  · exact .next hs.trap0
  · split
    · exact .next (.advance ⟨hs.1.l1DropAll, hs.2⟩)
    · split
      · rename_i e8
        exact .next (.advance (.fst e8 hs.namedLine))
      · rename_i e13
        exact .next (.advance (.dropLine (.fst e13 hs.namedLine)))

theorem Mem.Sound.icDrop {core line} (hs : m.Sound lim) : (m.icDrop core line).Sound lim := by
  unfold Mem.icDrop
  split <;> exact hs
theorem Mem.Sound.icDropAll {core} (hs : m.Sound lim) : (m.icDropAll core).Sound lim :=
  .foldl hs fun _ _ ht => ht.icDrop
theorem Form.execCinvI {l r} (hs : Form kept s) : Keeps kept (execCinvI l r s) := by
  unfold Machine.execCinvI
  dsimp only
  split
  · exact .next hs.trap0
  · split
    · exact .next (.advance ⟨hs.1.performLate.icDropAll, hs.2⟩)
    · split
      · rename_i e8
        exact .next (.advance (.fst e8 hs.namedLine))
      · rename_i e13
        exact .next (.ite (.advance ⟨(((Form.fst e13 hs.namedLine).1).performLate).icDrop, (Form.fst e13 hs.namedLine).2⟩)
            (.advance (.fst e13 hs.namedLine)))

/-! ### Runs -/

theorem Form.latch {imm mod} (hs : Form kept s) : Form kept (s.latch imm mod) := hs
theorem Form.execHimm {p} (hs : Form kept s) : Keeps kept (execHimm p s) :=
  .next (.ite hs.trap0 hs.latch)
theorem Form.execHmod {g n p r m c o w sp} (hs : Form kept s) : Keeps kept (execHmod g n p r m c o w sp s) :=
  .next (.ite hs.trap0 hs.latch)
theorem Form.fetchRun {a n} (hs : Form kept s) : Form kept (s.fetchRun a n).1 := by
  induction n generalizing s a with
  | zero => exact hs
  | succ n ih =>
    unfold State.fetchRun
    split
    · rename_i e
      exact .fst e hs.fetchWord
    · rename_i e
      exact ih (.fst e hs.fetchWord)

theorem Form.startRun {l a b ws} (hs : Form kept s) : Form kept (s.startRun l a b ws) := hs
theorem Form.hrun {l w a b} (hs : Form kept s) : Form kept (s.hrun l w a b) := by
  unfold State.hrun
  dsimp only
  split
  · exact hs.trap
  · split
    · exact hs.trap
    · split
      · exact hs.fetchRun.trap
      · exact .ite hs.fetchRun.flagsPassed.startRun hs.fetchRun.waitAt

theorem Form.execHrun {l w a b} (hs : Form kept s) : Keeps kept (execHrun l w a b s) :=
  .next hs.hrun
theorem Form.execRunStart (hs : Form kept s) : Keeps kept (execRunStart s) := by
  unfold Machine.execRunStart
  split
  · rename_i e4
    split
    · exact .next (.ite (.hrun (.fst e4 hs.fetchWord)) (.fst e4 hs.fetchWord))
    · exact .next (.fst e4 hs.fetchWord)
  · rename_i e16
    exact .next (.fst e16 hs.fetchWord)

theorem Form.execHend {f x y z} (hs : Form kept s) : Keeps kept (execHend f x y z s) := by
  unfold Machine.execHend
  split
  · exact .next hs.trap0
  · split
    · exact .next hs.trap0
    · dsimp only
      split
      · exact .next (.advance hs)
      · exact .next (.stopWith (.advance hs))

theorem Form.withGroups {gs} (hs : Form kept s) : Form kept (s.withGroups gs) := by
  unfold State.withGroups
  split <;> exact hs
theorem Form.execResultCommit {i} (hs : Form kept s) : Keeps kept (execResultCommit i s) :=
  .next hs.withGroups
theorem Form.execEarlyDecision {i} (hs : Form kept s) : Keeps kept (execEarlyDecision i s) :=
  .next hs.drew.withGroups

/-! ### Traps and reports -/

theorem Form.privileged {k : State} (hs : Form kept s) (hs2 : Form kept k) : Form kept (s.privileged k) :=
  .ite hs2 hs.trap0
theorem Form.operandFault (hs : Form kept s) : Form kept s.operandFault :=
  hs.trap0
theorem Form.deliberate {cause aux} (hs : Form kept s) : Form kept (s.deliberate cause aux) :=
  hs.advance.stopWith
theorem Form.execTrap {n b g} (hs : Form kept s) : Keeps kept (execTrap n b g s) :=
  .next hs.deliberate
theorem Form.execBkpt {n} (hs : Form kept s) : Keeps kept (execBkpt n s) :=
  .next hs.deliberate
theorem Form.execWatch {a b} (hs : Form kept s) : Keeps kept (execWatch a b s) := by
  unfold Machine.execWatch
  split
  · exact .next hs.trap0
  · exact .next (.advance hs)

theorem Form.stopGroup {issuer g} (hs : Form kept s) : Form kept (s.stopGroup issuer g) :=
  .ite hs hs.onGroup.report
theorem Form.killGroup {g} (hs : Form kept s) : Form kept (s.killGroup g) :=
  hs.onGroup
theorem Form.stopGrid {job sel} (hs : Form kept s) : Form kept (s.stopGrid job sel) :=
  .ite hs hs
theorem Form.holdWord {job w} (hs : Form kept s) : Form kept (s.holdWord job w) := hs
theorem Form.applyOn {w g} (hs : Form kept s) : Form kept (s.applyOn w g) := by
  unfold State.applyOn
  split
  · exact hs.stopGroup
  · exact hs.onGroup
  · exact hs.killGroup

theorem Form.reach {w g} (hs : Form kept s) : Form kept (s.reach w g) :=
  .ite hs.onGroup hs.applyOn
theorem Form.applyWord {job w} (hs : Form kept s) : Form kept (s.applyWord job w) :=
  .ite (.stopGrid (.foldl hs fun _ _ ht => ht.reach)) (.foldl hs fun _ _ ht => ht.reach)
theorem Form.meetDue (hs : Form kept s) : Form kept s.meetDue :=
  .foldl hs fun _ _ ht => .ite ht.applyOn ht
theorem Form.onSelected {kind a b mode nowatch} (hs : Form kept s) : Form kept (s.onSelected kind a b mode nowatch) :=
  hs.privileged (.ite hs.operandFault hs.advance.applyWord.holdWord)
theorem Form.execGstop {a b} (hs : Form kept s) : Keeps kept (execGstop a b s) :=
  .next hs.onSelected
theorem Form.execGresumeRetry {a b w} (hs : Form kept s) : Keeps kept (execGresumeRetry a b w s) :=
  .next hs.onSelected
theorem Form.execGresumeFmask {a b w} (hs : Form kept s) : Keeps kept (execGresumeFmask a b w s) :=
  .next hs.onSelected
theorem Form.execGresumeSkip {a b w} (hs : Form kept s) : Keeps kept (execGresumeSkip a b w s) :=
  .next hs.onSelected
theorem Form.execGkill {a b} (hs : Form kept s) : Keeps kept (execGkill a b s) :=
  .next hs.onSelected
theorem Form.execTlbinv {a r} (hs : Form kept s) : Keeps kept (execTlbinv a r s) :=
  .next (hs.privileged (.ite (.waitAt (.sendAll ⟨hs.1.performLate, hs.2⟩)) (.advance (.sendAll ⟨hs.1.performLate, hs.2⟩))))
theorem Form.holdRecords (hs : Form kept s) : Form kept s.holdRecords :=
  .ite hs hs
theorem Form.ringPage (hs : Form kept s) : Form kept s.ringPage.1 := by
  unfold State.ringPage
  split
  · rename_i e4
    exact .fst e4 hs.translate
  · rename_i e8
    exact .fst e8 hs.translate

theorem Form.execFaultRecordPost (hs : Form kept s) : Keeps kept (execFaultRecordPost s) := by
  unfold Machine.execFaultRecordPost
  split
  · exact .next hs
  · split
    · exact .next hs
    · split
      · rename_i e12
        exact .next ⟨((Form.fst e12 hs.ringPage).1).pkgWrite, (Form.fst e12 hs.ringPage).2⟩
      · rename_i e15
        exact .next (.holdRecords (.fst e15 hs.ringPage))

/-! ### Launches -/

theorem Form.putQueue {q x} (hs : Form kept s) : Form kept (s.putQueue q x) := hs
theorem Form.enterDevice {q r d} (hs : Form kept s) : Form kept (s.enterDevice q r d) :=
  hs.putQueue.putS.advance
theorem Form.launchRecord {q r d} (hs : Form kept s) : Form kept (s.launchRecord q r d) :=
  .ite hs.waitAt (.ite hs.flushGroup.waitAt (.enterDevice ⟨hs.flushGroup.1.released, hs.flushGroup.2⟩))
theorem Form.execLaunch {d a} (hs : Form kept s) : Keeps kept (execLaunch d a s) := by
  unfold Machine.execLaunch
  split
  · exact .next hs.launchRecord
  · dsimp only
    split
    · exact .next hs.trap0
    · split
      · rename_i e12
        exact .next (.trap0 (.fst e12 hs.translate))
      · rename_i e16
        split
        · exact .next (.trap0 (.ownStores (.fst e16 hs.translate)))
        · split
          · exact .next (.trap (.ownStores (.fst e16 hs.translate)))
          · split
            · exact .next (.trap (.ownStores (.fst e16 hs.translate)))
            · exact .next (.launchRecord (.ownStores (.fst e16 hs.translate)))

theorem Form.queueRead {va n} (hs : Form kept s) : Form kept (s.queueRead va n).1 := by
  unfold State.queueRead
  split
  · exact hs
  · split
    · rename_i e6
      exact .fst e6 hs.translate
    · rename_i e10
      split <;> exact .fst e10 hs.translate

theorem Form.writeCompletion {entry grid status} (hs : Form kept s) : Form kept (s.writeCompletion entry grid status) := by
  unfold State.writeCompletion
  dsimp only
  split
  · exact hs
  · split
    · rename_i e6
      exact .ite ⟨((Form.fst e6 hs.translate).1).pkgWrite, (Form.fst e6 hs.translate).2⟩ (.fst e6 hs.translate)
    · rename_i e10
      exact .fst e10 hs.translate

theorem Form.stallQueue {q} (hs : Form kept s) : Form kept (s.stallQueue q) := hs
theorem Form.settleHost {q n} (hs : Form kept s) : Form kept (State.settleHost q n s) := by
  induction n generalizing s with
  | zero => exact hs
  | succ n ih =>
    unfold State.settleHost
    dsimp only
    split
    · split
      · exact ih hs.putQueue.writeCompletion
      · exact hs.putQueue
    · exact hs

theorem Form.headChecked {q} (hs : Form kept s) : Form kept (s.headChecked q) :=
  hs.settleHost
theorem Form.execQueueTakeRecord {q} (hs : Form kept s) : Keeps kept (execQueueTakeRecord q s) := by
  unfold Machine.execQueueTakeRecord
  dsimp only
  split
  · exact .next hs
  · split
    · rename_i e
      exact .next (.stallQueue (.fst e hs.queueRead))
    · rename_i e
      have h1 := Form.fst e hs.queueRead
      split
      · rename_i e'
        refine .next (.stallQueue (.fst e' ?_))
        split
        · exact h1.queueRead
        · exact h1
      · rename_i e'
        refine .next (.headChecked (.putQueue (.fst e' ?_)))
        split
        · exact h1.queueRead
        · exact h1

/-! ### Matrix words -/

theorem Form.withTile {n k} (hs : Form kept s) (hk : ∀ x, Form kept (k x)) : Form kept (s.withTile n k) := by
  unfold State.withTile
  split
  · exact .ite (hk _) hs.trap0
  · exact hs.trap0

theorem Form.inStates {n e sts} {k : State} (hs : Form kept s) (hs2 : Form kept k) : Form kept (s.inStates n e sts k) :=
  .ite hs2 hs.waitAt
theorem Form.matrixFault (hs : Form kept s) : Form kept s.matrixFault :=
  hs.trap0
theorem Form.placeReg {r mask value operand acc rows} (hs : Form kept s) :
    Form kept (s.placeReg r mask value operand acc rows) := hs
theorem Form.placeOperands {rs acc rows} (hs : Form kept s) : Form kept (s.placeOperands rs acc rows) :=
  .foldl hs fun _ _ ht => ht.placeReg
theorem Form.enqueue {w k} (hs : Form kept s) (hk : ∀ t, Form kept t → Form kept (k t)) : Form kept (s.enqueue w k) :=
  .ite hs.waitAt (hk _ hs)
theorem Form.multiply {op a b reuse} (hs : Form kept s) : Form kept (s.multiply op a b reuse) := by
  unfold State.multiply
  dsimp only
  split
  · exact hs.trap0
  · exact .ite hs.matrixFault (hs.withTile (fun e => .ite hs.matrixFault (hs.inStates (.ite hs.trap (.ite hs.trap0
        (.ite hs.waitAt (.enqueue (.placeOperands hs) (fun s hs2 => hs2.advance))))))))

theorem Form.execMma {a b r} (hs : Form kept s) : Keeps kept (execMma a b r s) :=
  .next hs.multiply
theorem Form.execMmas {a b r} (hs : Form kept s) : Keeps kept (execMmas a b r s) :=
  .next hs.multiply
theorem Form.execMmao {a b r} (hs : Form kept s) : Keeps kept (execMmao a b r s) :=
  .next hs.multiply
theorem Form.execMzero {n} (hs : Form kept s) : Keeps kept (execMzero n s) :=
  .next (.ite hs.trap0 (hs.enqueue (fun _ hs2 => hs2.advance)))
theorem Form.execMwr {a r l} (hs : Form kept s) : Keeps kept (execMwr a r l s) :=
  .next (.ite hs.trap0 (.ite hs.trap0 (.ite hs.matrixFault (.ite hs.trap (hs.enqueue (fun _ hs2 => hs2.advance))))))
theorem Form.readOut {x y z cols} (hs : Form kept s) : Form kept (s.readOut x y z cols) := by
  unfold State.readOut
  dsimp only
  split
  · exact hs.trap0
  · split
    · exact hs.trap0
    · split
      · exact hs.matrixFault
      · split
        · exact hs.trap0
        · exact hs.matrixFault
        · split
          · exact hs.waitAt
          · exact .ite hs.waitAt (.enqueue (.foldl hs fun _ _ ht => ht.placeReg) (fun s hs2 => hs2.advance))

theorem Form.execMepi {a b c l} (hs : Form kept s) : Keeps kept (execMepi a b c l s) := by
  unfold Machine.execMepi
  refine .next (.ite hs.trap0 (.ite hs.matrixFault (hs.withTile (fun e => ?_))))
  split
  · exact hs.trap0
  · exact hs.matrixFault
  · split
    · exact hs.matrixFault
    · dsimp only
      split
      · exact hs.inStates hs.waitAt
      · exact hs.inStates (hs.enqueue (fun s hs2 => hs2.advance))

theorem Mem.Sound.scanned {t e r} (hs : m.Sound lim) : (s.scanned t e m r).Sound lim :=
  hs.tileRead
theorem Form.scanStages {t ss} (hs : Form kept s) : (s.scanStages t ss).Sound kept.corrections := by
  refine .foldl hs.1 fun t x ht => ?_
  split
  · exact ht.scanned
  · exact ht

theorem Form.mrdRead (hs : Form kept s) : Form kept s.mrdRead := hs
theorem Form.defer {cause} (hs : Form kept s) : Form kept (s.defer cause) := hs
theorem Form.mrdFailed {cause f n srcs} (hs : Form kept s) : Form kept (s.mrdFailed cause f n srcs) :=
  .done (.mrdRead hs)
theorem Form.mrdRun {a b c cols} (hs : Form kept s) : Form kept (s.mrdRun a b c cols) := by
  unfold State.mrdRun
  dsimp only
  split
  · exact hs.mrdFailed
  · split
    · exact hs.mrdFailed
    · exact hs.mrdFailed
    · split
      · exact hs.mrdFailed
      · split
        · exact hs.waitAt
        · exact .ite hs.waitAt (.finish (.mrdRead (.foldl ⟨.ite hs.scanStages.tileSeen hs.scanStages,
              (Form.ite hs.defer hs).2⟩ fun _ _ ht => ht.putRef)))

theorem Form.execMrd {a b c l} (hs : Form kept s) : Keeps kept (execMrd a b c l s) :=
  .next (.ite hs.mrdRun hs.readOut)
theorem Form.mstat {op a n} (hs : Form kept s) : Form kept (s.mstat op a n) :=
  .ite hs.trap0 (.ite hs.trap0 (.ite hs.matrixFault (.ite hs.trap0 (.ite hs.waitAt (.enqueue
      (.foldl hs fun _ _ ht => ht.placeReg) (fun _ hs2 => hs2.advance))))))
theorem Form.execMstatReset {a} (hs : Form kept s) : Keeps kept (execMstatReset a s) :=
  .next hs.mstat
theorem Form.execMstatMax {a} (hs : Form kept s) : Keeps kept (execMstatMax a s) :=
  .next hs.mstat
theorem Form.execMstatRead {a} (hs : Form kept s) : Keeps kept (execMstatRead a s) :=
  .next hs.mstat
theorem Form.execMrdy (hs : Form kept s) : Keeps kept (execMrdy s) :=
  .next (.advance hs)
theorem Form.finishMultiply {g w} (hs : Form kept s) : Form kept (finishMultiply s g w).1 := by
  unfold Machine.finishMultiply
  exact ⟨.ite (.tileSeen (.foldl hs.1 fun _ _ ht => ht.scanned.scanned)) (.foldl hs.1 fun _ _ ht => ht.scanned.scanned), hs.2⟩
theorem Form.finishRead {g w} (hs : Form kept s) : Form kept (finishRead s g w).1 := by
  unfold Machine.finishRead
  exact ⟨.ite hs.scanStages.tileSeen hs.scanStages, hs.2⟩
theorem Form.finishEpi {g w} (hs : Form kept s) : Form kept (finishEpi s g w).1 := by
  unfold Machine.finishEpi
  dsimp only
  refine .watchEvents ⟨.ite (Mem.Sound.tileSeen ?_) ?_, hs.2⟩ <;>
    exact .foldl (.foldl hs.scanStages fun _ _ hm => hm.tileRead) fun _ _ hm => hm.tilePut (writer := some g.id.key)

theorem Form.finishWord {g w} (hs : Form kept s) : Form kept (finishWord s g w).1 := by
  unfold Machine.finishWord
  split
  · exact hs
  · exact hs
  · exact hs.finishRead
  · exact hs.finishEpi
  · exact hs
  · exact hs
  · exact hs
  · exact hs.finishMultiply

theorem Form.setGroup {i g} (hs : Form kept s) : Form kept (s.setGroup i g) :=
  hs.withGroups
theorem Form.execMatrixWordComplete (hs : Form kept s) : Keeps kept (execMatrixWordComplete s) := by
  unfold Machine.execMatrixWordComplete
  dsimp only
  split
  · exact .next hs
  · split
    · exact .next hs
    · exact .next (.setGroup (.finishWord (.ite hs.drawn hs)))

theorem Mem.Sound.epiClosed {g b} (hs : m.Sound lim) : (m.epiClosed g b).Sound lim :=
  .ite hs hs
theorem Mem.Sound.epiPassed {g b} (hs : m.Sound lim) : (m.epiPassed g b).Sound lim :=
  .ite hs hs
theorem Form.execMfen {a b} (hs : Form kept s) : Keeps kept (execMfen a b s) :=
  .next (.ite hs.matrixFault (.advance ⟨hs.1.epiClosed, hs.2⟩))
theorem Form.landAll {ms rest} (hs : Form kept s) : Form kept (landAll ms s rest).1 := by
  induction ms generalizing s rest with
  | nil => exact hs
  | cons m ms ih => exact ih hs

theorem Form.execMwait {b} (hs : Form kept s) : Keeps kept (execMwait b s) := by
  unfold Machine.execMwait
  dsimp only
  exact .next (.ite hs.waitAt (.ite (.trap0 ⟨hs.landAll.1.epiPassed, hs.landAll.2⟩)
      (.advance ⟨hs.landAll.1.epiPassed, hs.landAll.2⟩)))

/-! ### Tiles, barriers and rings -/

theorem Form.putEntry {t n e} (hs : Form kept s) : Form kept (s.putEntry t n e) := hs
theorem Form.tdef {a b ready} (hs : Form kept s) : Form kept (s.tdef a b ready) := by
  unfold State.tdef
  dsimp only
  split
  · exact hs.operandFault
  · split
    · exact hs.trap0
    · exact .ite hs.trap0 (.ite hs.trap0 hs.putEntry.advance)

theorem Form.execTdef {a b r} (hs : Form kept s) : Keeps kept (execTdef a b r s) :=
  .next hs.tdef
theorem Form.execTrel {a} (hs : Form kept s) : Keeps kept (execTrel a s) :=
  .next (.ite hs.operandFault (hs.withTile (fun _ => .ite hs.trap0 (hs.inStates (.ite hs.waitAt hs.putEntry.advance)))))
theorem Form.execTstate {a d} (hs : Form kept s) : Keeps kept (execTstate a d s) := by
  unfold Machine.execTstate
  dsimp only
  split
  · exact .next hs.operandFault
  · split
    · exact .next hs.trap0
    · exact .next hs.putS.advance

theorem Form.execTwin {a} (hs : Form kept s) : Keeps kept (execTwin a s) :=
  .next (.ite hs.operandFault hs.putTeam.advance)
theorem Form.execTwinRd {a} (hs : Form kept s) : Keeps kept (execTwinRd a s) :=
  .next hs.putS.advance
theorem Form.execAbar {a} (hs : Form kept s) : Keeps kept (execAbar a s) :=
  .next (.ite hs.operandFault (.ite hs.trap0 hs.putTeam.advance))
theorem Form.execAbwait {a} (hs : Form kept s) : Keeps kept (execAbwait a s) :=
  .next (.ite hs.operandFault (.ite hs.acquire.advance (.ite hs.waitAt (.advance (.ite hs.acquire hs)))))
theorem Form.execRginit {a} (hs : Form kept s) : Keeps kept (execRginit a s) :=
  .next (.ite hs.operandFault (.ite hs.trap0 hs.putTeam.advance))
theorem Form.execRgawait {a d} (hs : Form kept s) : Keeps kept (execRgawait a d s) :=
  .next (.ite hs.trap0 (.ite hs.waitAt hs.putTeam.putS.acquire.advance))
theorem Form.execRgrel {a} (hs : Form kept s) : Keeps kept (execRgrel a s) :=
  .next (.ite hs.operandFault (.ite hs.trap0 (hs.release (fun _ ht => ht.putTeam.advance))))
theorem Form.decodePoison (hs : Form kept s) : Form kept s.decodePoison :=
  .trap ⟨hs.1.tileSeen, hs.2⟩
theorem Form.scanLoad {u : State} {t e r a n} (hs : Form kept s) :
    Form kept (State.tileLoad { s with mem := u.scanned t e s.mem r } a n).1 :=
  .tileLoad ⟨hs.1.scanned (s := u), hs.2⟩
theorem Form.execVdecode {a} (hs : Form kept s) : Keeps kept (execVdecode a s) := by
  unfold Machine.execVdecode
  dsimp only
  refine .next (.ite hs.trap0 (hs.withBlock fun ds => .ite hs.operandFault (hs.withTile fun e => hs.inStates
      (.ite hs.trap0 ?_))))
  refine .ite (.decodePoison hs.scanLoad) (.ite (.ite (.trap0 hs.scanLoad) ?_) (.ite (.trap0 hs.scanLoad) ?_)) <;>
    exact .ite (.decodePoison (.scanLoad hs.scanLoad)) (.advance (.foldl (.scanLoad hs.scanLoad) fun _ _ ht => ht.putRef))

/-! ### Far memory -/

theorem Form.retag {job line} (hs : Form kept s) : Form kept (s.retag job line) := by
  unfold State.retag
  split
  · exact hs
  · split <;> exact hs

theorem Form.farPut {a : Nat} {bs : List Byte} (hs : Form kept s) :
    Form kept { s with mem := { s.mem with far := writeBytes s.mem.far a bs } } :=
  ⟨⟨hs.1.1, hs.1.2.1, writeBytes_wf _ _ _ hs.1.2.2.1, hs.1.2.2.2⟩, hs.2⟩
theorem Form.bareLine {job line} (hs : Form kept s) : Form kept (s.bareLine job line) := by
  unfold State.bareLine
  split
  · exact hs.farPut
  · exact hs

theorem Mem.Sound.farNoted {key n} (hs : m.Sound lim) : (m.farNoted key n).Sound lim :=
  .ite hs hs
theorem Form.farWrite {job key bs whole} (hs : Form kept s) : OkForm kept (s.farWrite job key bs whole) := by
  unfold State.farWrite
  dsimp only
  split
  · exact trivial
  · exact ⟨⟨hs.bareLine.retag.1.farNoted.1, hs.bareLine.retag.1.farNoted.2.1, writeBytes_wf _ _ _
        hs.bareLine.retag.1.2.2.1, hs.bareLine.retag.1.farNoted.2.2.2⟩,
        hs.bareLine.retag.2⟩

theorem Form.recordBytes {va n} (hs : Form kept s) : Form kept (s.recordBytes va n).1 := by
  unfold State.recordBytes
  split
  · exact hs
  · split
    · rename_i e6
      exact .fst e6 hs.translate
    · rename_i e10
      dsimp only
      split <;> exact .ownStores (.fst e10 hs.translate)

theorem Form.elemLeaf {a esize write} (hs : Form kept s) : Form kept (s.elemLeaf a esize write).1 := by
  unfold State.elemLeaf
  split
  · exact hs
  · dsimp only
    split
    · rename_i e5
      exact .fst e5 hs.translate
    · rename_i e8
      exact .fst e8 hs.translate
    · rename_i e11
      exact .fst e11 hs.translate
    · rename_i e15
      split
      · exact .fst e15 hs.translate
      · split <;> exact .fst e15 hs.translate

theorem Form.homeWrite {job l pa bs whole poison} (hs : Form kept s) : OkForm kept (s.homeWrite job l pa bs whole poison) := by
  unfold State.homeWrite
  split
  · split
    · exact trivial
    · rename_i e7
      dsimp only
      exact .ite ⟨(OkForm.get e7 hs.farWrite).1, (OkForm.get e7 hs.farWrite).2⟩ (OkForm.get e7 hs.farWrite)
  · split
    · exact trivial
    · dsimp only
      exact ⟨.ite hs.1.pkgWrite hs.1.pkgWrite, hs.2⟩

/-! ### The engines -/

theorem Form.accepted {c} (hs : Form kept s) : Form kept (s.accepted c) := hs
theorem Form.trapAt {cls detail b} (hs : Form kept s) : Form kept (s.trapAt cls detail b) :=
  hs.trap
theorem Form.readDesc {b} (hs : Form kept s) : Form kept (s.readDesc b).1 := by
  unfold State.readDesc
  split
  · rename_i e3
    exact .fst e3 hs.recordBytes
  · rename_i e8
    exact .fst e8 hs.recordBytes

theorem Form.withDesc {b origin go} (hs : Form kept s) (hgo : ∀ t x1 x2, Form kept t → Form kept (go t x1 x2)) :
    Form kept (s.withDesc b origin go) := by
  unfold State.withDesc
  split
  · rename_i e3
    exact .trapAt (.fst e3 hs.readDesc)
  · rename_i e6
    exact .trapAt (.fst e6 hs.readDesc)
  · rename_i e10
    split
    · exact .operandFault (.fst e10 hs.readDesc)
    · split
      · exact .trapAt (.fst e10 hs.readDesc)
      · exact hgo _ _ _ (.fst e10 hs.readDesc)

theorem Form.malformed {b} (hs : Form kept s) : Form kept (s.malformed b) :=
  hs.trapAt
theorem Form.sawIntegrity (hs : Form kept s) : Form kept s.sawIntegrity := hs
theorem Form.cmdDone {c acq} (hs : Form kept s) : Form kept (s.cmdDone c acq) :=
  .onGroup (.ite (.sawIntegrity hs) hs)
theorem Form.onTeam {c f} (hs : Form kept s) : Form kept (s.onTeam c f) := hs
theorem Form.tileGoes {c st} (hs : Form kept s) : Form kept (s.tileGoes c st) := by
  unfold State.tileGoes
  split
  · exact hs
  · dsimp only
    split
    · exact hs.putEntry
    · exact hs

theorem Form.tileLost {c} (hs : Form kept s) : Form kept (s.tileLost c) := by
  unfold State.tileLost
  split
  · exact hs
  · exact ⟨hs.1.tilePut, hs.2⟩

theorem Form.countArrival {c} (hs : Form kept s) : Form kept (s.countArrival c) := by
  unfold State.countArrival
  split
  · exact hs
  · exact .ite hs.onTeam.mapGroups hs.onTeam

theorem Form.fetchArrived {c} (hs : Form kept s) : Form kept (s.fetchArrived c) := by
  unfold State.fetchArrived
  dsimp only
  split
  · exact .cmdDone (.countArrival (.onTeam (.ite hs.tileLost hs)))
  · exact .cmdDone (.countArrival (.tileGoes (.ite hs.tileLost hs)))

theorem Form.arrive {id} (hs : Form kept s) : Form kept (s.arrive id) := by
  unfold State.arrive
  split
  · exact .ite hs.fetchArrived hs
  · exact hs

theorem Form.execFetchArrival {id} (hs : Form kept s) : Keeps kept (execFetchArrival id s) :=
  .next hs.arrive
theorem Form.fetchInto {c x ring rows bytes} (hs : Form kept s) : Form kept (s.fetchInto c x ring rows bytes) := by
  unfold State.fetchInto
  dsimp only
  refine .ite hs.trap0 (.ite hs.trap0 (.ite hs.trap0 (.ite hs.trap0 ?_)))
  split
  · exact hs.trap0
  · refine .ite hs.waitAt (.ite hs.waitAt (.ite hs.waitAt ?_))
    refine .ite (.fetchArrived (.accepted (.ite (.putTeam ?_) ?_))) (.accepted (.ite
        (.putTeam ?_) ?_)) <;> exact .ite hs.putTeam hs.putEntry

theorem Form.execTfetch {a b c r} (hs : Form kept s) : Keeps kept (execTfetch a b c r s) :=
  .next (.ite hs.operandFault (hs.withDesc (fun _ _ _ hs1 => hs1.fetchInto)))
theorem Form.execTgath {a b c r} (hs : Form kept s) : Keeps kept (execTgath a b c r s) := by
  unfold Machine.execTgath
  dsimp only
  split
  · exact .next hs.trap0
  · exact .next (.ite hs.operandFault (hs.withDesc (fun s1 d o hs1 => .ite hs1.malformed hs1.fetchInto)))

theorem Form.commitFrom {c x} (hs : Form kept s) : Form kept (s.commitFrom c x) :=
  hs.withTile (fun _ => .ite hs.trap0 (hs.inStates (.ite hs.waitAt (hs.release (fun _ hu => .accepted
      (.ite hu.tileLoad hu.tileLoad.putEntry))))))
theorem Form.execTcommit {a b c} (hs : Form kept s) : Keeps kept (execTcommit a b c s) :=
  .next (.ite hs.operandFault (hs.withDesc (fun _ _ _ hs1 => hs1.commitFrom)))
theorem Form.execTredf {a b c o} (hs : Form kept s) : Keeps kept (execTredf a b c o s) :=
  .next (.ite hs.trap0 (.ite hs.operandFault (hs.withDesc (fun _ _ _ hs1 => .ite hs1.malformed hs1.commitFrom))))
theorem Form.execCommitTileReadDone {id} (hs : Form kept s) : Keeps kept (execCommitTileReadDone id s) := by
  unfold Machine.execCommitTileReadDone
  split
  · exact .next (.ite (.ite (.onCmd ⟨.ite hs.1.tileRead hs.1.tileRead.tileSeen, hs.2⟩) (.tileGoes
        (.onCmd ⟨.ite hs.1.tileRead hs.1.tileRead.tileSeen, hs.2⟩))) hs)
  · exact .next hs

theorem Form.moduleCmd {c} (hs : Form kept s) : Form kept (s.moduleCmd c) :=
  .ite hs.waitAt hs.accepted
theorem Form.execTcopy {a b c} (hs : Form kept s) : Keeps kept (execTcopy a b c s) := by
  unfold Machine.execTcopy
  dsimp only
  split
  · exact .next hs.operandFault
  · split
    · exact .next hs.readDesc.readDesc.malformed
    · split
      · exact .next hs.readDesc.readDesc.malformed
      · split
        · split
          · exact .next (.ite hs.readDesc.readDesc.malformed hs.readDesc.readDesc.moduleCmd)
          · exact .next hs.readDesc.readDesc.malformed
        · exact .next hs.readDesc.readDesc.trapAt
        · exact .next hs.readDesc.readDesc.trapAt
        · exact .next hs.readDesc.readDesc.trapAt
        · exact .next hs.readDesc.readDesc.trapAt

theorem Form.execTfill {a b c} (hs : Form kept s) : Keeps kept (execTfill a b c s) :=
  .next (.ite hs.operandFault (hs.withDesc (fun _ _ _ hs1 => hs1.moduleCmd)))
theorem Form.deliver {c as e bs poison} (hs : Form kept s) : OkForm kept (s.deliver c as e bs poison) := by
  unfold State.deliver
  dsimp only
  split
  · exact trivial
  · rename_i e9
    split
    · split
      · exact .request (.onCmd (.fst e9 hs.elemLeaf))
      · exact trivial
    · split
      · exact trivial
      · split
        · split
          · exact trivial
          · exact Form.homeWrite (.fst e9 hs.elemLeaf)
        · exact Form.homeWrite (.fst e9 hs.elemLeaf)

theorem Form.landOut {c k} (hs : Form kept s) : Form kept (s.landOut c k) := by
  unfold State.landOut
  dsimp only
  refine .onCmd (.watchCmd (.foldl (.ite hs.drew hs) fun t x ht => ?_))
  split
  · split
    · rename_i e
      exact OkForm.get e ht.deliver
    · exact ht
  · exact ht

theorem Form.landIn {c k} (hs : Form kept s) : Form kept (s.landIn c k) := by
  have h0 {l : List (Nat × Nat)} : (l.foldl (fun (m : Mem) w =>
      if w.2 = 0 then m else m.tileRead (decide (w.2 < 16)) true (c.key + 16 * w.1) 16) s.mem).Sound kept.corrections :=
    .foldl hs.1 fun _ _ hm => .ite hm hm.tileRead
  unfold State.landIn
  dsimp only
  split
  · refine .onCmd (.watchCmd ⟨Mem.Sound.foldl h0 fun m x hm => ?_, hs.2⟩)
    split
    · exact hm.tilePut
    · exact hm
  · exact .onCmd ⟨h0, hs.2⟩

theorem Form.startChunk {c k} (hs : Form kept s) : Form kept (s.startChunk c k) :=
  .foldl (.foldl hs.onCmd fun _ _ ht => ht.request) fun _ _ ht => ht.request
theorem Form.moveChunk {id} (hs : Form kept s) : Form kept (s.moveChunk id) := by
  unfold State.moveChunk
  split
  · exact hs
  · split
    · exact hs
    · split
      · exact .ite hs.landIn hs.landOut
      · split
        · exact hs
        · exact hs.drawn.startChunk

theorem Form.cmdAnswered {id pk data} (hs : Form kept s) : Form kept (s.cmdAnswered id pk data) := hs
theorem Form.execCommitComplete {id} (hs : Form kept s) : Keeps kept (execCommitComplete id s) := by
  unfold Machine.execCommitComplete
  split
  · exact .next (.ite hs.cmdDone hs)
  · exact .next hs

theorem Form.execModuleCommandComplete {id} (hs : Form kept s) : Keeps kept (execModuleCommandComplete id s) := by
  unfold Machine.execModuleCommandComplete
  split
  · exact .next (.ite hs.cmdDone hs)
  · exact .next hs

theorem Form.abandon {c} (hs : Form kept s) : Form kept (s.abandon c) := by
  unfold State.abandon
  dsimp only
  split
  · exact .ite (.cmdDone (.countArrival (.tileLost hs))) (.fetchArrived hs)
  · exact .ite (.cmdDone (.countArrival (.tileLost hs))) (.fetchArrived hs)
  · exact .cmdDone (.ite hs (.tileGoes hs))
  · exact .cmdDone (.ite hs (.tileGoes hs))
  · exact .cmdDone hs
  · exact .cmdDone hs
  · exact hs

theorem Form.abandonAll {p q} (hs : Form kept s) : Form kept (s.abandonAll p q) :=
  .foldl hs fun _ _ ht => ht.abandon

/-! ### Re-sharding -/

theorem Form.readShard {l n} (hs : Form kept s) : Form kept (s.readShard l n).1 := by
  unfold State.readShard
  dsimp only
  split
  · exact hs
  · split
    · rename_i e5
      exact .fst e5 hs.translate
    · rename_i e8
      exact .fst e8 hs.translate
    · rename_i e11
      exact .fst e11 hs.translate
    · rename_i e15
      split
      · exact .fst e15 hs.translate
      · split
        · exact .fst e15 hs.translate
        · split
          · exact .fst e15 hs.translate
          · split <;> exact .fst e15 hs.translate

theorem Form.readShards {l n k} (hs : Form kept s) : Form kept (s.readShards l n k).1 := by
  induction k generalizing s n with
  | zero => exact hs
  | succ k ih =>
    unfold State.readShards
    split
    · rename_i e
      exact .fst e hs.readShard
    · rename_i e
      have h1 := ih (n := n + 1) (Form.fst e hs.readShard)
      split
      · rename_i e'
        exact .fst e' h1
      · rename_i e'
        exact .fst e' h1

theorem Form.engineWrite {c va bs} (hs : Form kept s) : OkForm kept (s.engineWrite c va bs) := by
  unfold State.engineWrite
  split
  · exact trivial
  · split
    · exact trivial
    · exact trivial
    · exact trivial
    · rename_i e15
      split
      · exact trivial
      · split
        · exact trivial
        · dsimp only
          exact .watchCmd ⟨((Form.fst e15 hs.translate).1).pkgWrite, (Form.fst e15 hs.translate).2⟩

theorem Form.enginePieces {c va ps} (hs : Form kept s) : OkForm kept (s.enginePieces c va ps) := by
  induction ps generalizing s va with
  | nil => exact hs
  | cons p ps ih =>
    unfold State.enginePieces
    split
    · trivial
    · rename_i e
      exact ih (OkForm.get e hs.engineWrite)

theorem Form.writeCursor {r status} (hs : Form kept s) : OkForm kept (s.writeCursor r status) := by
  unfold State.writeCursor
  dsimp only
  split
  · exact trivial
  · rename_i e6
    exact (OkForm.get e6 hs.engineWrite).engineWrite

theorem Form.startCursor {r} (hs : Form kept s) : OkForm kept (s.startCursor r) := by
  unfold State.startCursor
  dsimp only
  split
  · exact trivial
  · rename_i e6
    exact (OkForm.get e6 hs.enginePieces).engineWrite

theorem Form.layoutBytes {va} (hs : Form kept s) : Form kept (s.layoutBytes va).1 := by
  unfold State.layoutBytes
  split
  · rename_i e3
    exact .fst e3 hs.recordBytes
  · rename_i e8
    split <;> exact .fst e8 hs.recordBytes

theorem Form.rwPage {va n} (hs : Form kept s) : Form kept (s.rwPage va n).1 := by
  unfold State.rwPage
  split
  · exact hs
  · split
    · rename_i e6
      exact .fst e6 hs.translate
    · rename_i e10
      exact .fst e10 hs.translate

theorem Form.recordFault {poison va} (hs : Form kept s) : Form kept (s.recordFault poison va) :=
  hs.trap
theorem Form.strudelTakes {r state} (hs : Form kept s) : Form kept (s.strudelTakes r state) := hs
theorem Form.cursorPage {plan : Bool} {x : Nat} {va n : Nat} (hs : Form kept s) :
    Form kept (if plan then (s, some x) else s.rwPage va n).1 := by
  split
  · exact hs
  · exact hs.rwPage

theorem Form.reshard {plan a b c} (hs : Form kept s) : Form kept (s.reshard plan a b c) := by
  unfold State.reshard
  dsimp only
  refine .ite hs.operandFault ?_
  split
  · rename_i e
    exact .recordFault (.fst e hs.layoutBytes)
  · rename_i e
    have h1 := Form.fst e hs.layoutBytes
    split
    · rename_i e
      exact .recordFault (.fst e (Form.layoutBytes h1))
    · rename_i e
      have h2 := Form.fst e (Form.layoutBytes h1)
      split
      · rename_i e
        exact .recordFault (.fst e (Form.cursorPage h2))
      · rename_i e
        have h4 := Form.fst e (Form.cursorPage h2)
        split
        · rename_i e
          exact .recordFault (.fst e (Form.rwPage h4))
        · rename_i e
          have h5 := Form.fst e (Form.rwPage h4)
          split
          · exact Form.trap h5
          · exact Form.trap h5
          · refine .ite (Form.trap h5) (.ite (Form.recordFault h5) (.ite (Form.trap h5) (.ite ?_
                (Form.release h5 fun t ht => ?_))))
            · exact .ite (Form.cmdDone h5) (.strudelTakes h5)
            · exact .ite (Form.cmdDone ht) (.strudelTakes ht)

theorem Form.execRshard {a b c} (hs : Form kept s) : Keeps kept (execRshard a b c s) :=
  .next (.ite hs.waitAt hs.reshard)
theorem Form.execRsplan {a b c} (hs : Form kept s) : Keeps kept (execRsplan a b c s) :=
  .next (.ite hs.waitAt hs.reshard)
theorem Form.execRsstop {a} (hs : Form kept s) : Keeps kept (execRsstop a s) := by
  unfold Machine.execRsstop
  split
  · exact .next (.ite (.advance hs) hs.advance)
  · exact .next hs.advance

theorem Form.execRsstat {a d} (hs : Form kept s) : Keeps kept (execRsstat a d s) :=
  .next hs.putS.advance
theorem Form.putWork {r} (hs : Form kept s) : Form kept (s.putWork r) := hs
theorem Form.nextWork (hs : Form kept s) : Form kept s.nextWork := by
  unfold State.nextWork
  split <;> exact hs
theorem Form.endWork {r state} (hs : Form kept s) : Form kept (s.endWork r state) :=
  .nextWork hs.cmdDone
theorem Form.workFault {r f} (hs : Form kept s) : Form kept (s.workFault r f) := hs
theorem Form.planFault {r f} (hs : Form kept s) : Form kept (s.planFault r f) :=
  hs.workFault.endWork
theorem Form.recheck {r} (hs : Form kept s) : Form kept (s.recheck r).1 := by
  unfold State.recheck
  dsimp only
  split
  · rename_i e4
    exact .fst e4 hs.layoutBytes
  · rename_i e8
    split
    · rename_i e12
      exact .fst e12 (.layoutBytes (.fst e8 hs.layoutBytes))
    · rename_i e16
      split
      · rename_i e19
        exact .fst e19 (.rwPage (.fst e16 (.layoutBytes (.fst e8 hs.layoutBytes))))
      · rename_i e23
        split
        · rename_i e26
          exact .fst e26 (.rwPage (.fst e23 (.rwPage (.fst e16 (.layoutBytes (.fst e8 hs.layoutBytes))))))
        · rename_i e30
          split
          · split
            · exact .fst e30 (.rwPage (.fst e23 (.rwPage (.fst e16 (.layoutBytes (.fst e8 hs.layoutBytes))))))
            · split
              · exact .fst e30 (.rwPage (.fst e23 (.rwPage (.fst e16 (.layoutBytes (.fst e8 hs.layoutBytes))))))
              · split <;> exact .fst e30 (.rwPage (.fst e23 (.rwPage (.fst e16 (.layoutBytes (.fst e8 hs.layoutBytes))))))
          · exact .fst e30 (.rwPage (.fst e23 (.rwPage (.fst e16 (.layoutBytes (.fst e8 hs.layoutBytes))))))
          · exact .fst e30 (.rwPage (.fst e23 (.rwPage (.fst e16 (.layoutBytes (.fst e8 hs.layoutBytes))))))

theorem Form.boxPut {r as a bs} (hs : Form kept s) : OkForm kept (s.boxPut r as a bs) := by
  unfold State.boxPut
  split
  · exact trivial
  · rename_i e9
    split
    · exact trivial
    · split
      · exact trivial
      · rename_i e17
        dsimp only
        exact .watchCmd ⟨(OkForm.get e17 (Form.homeWrite (.fst e9 hs.elemLeaf))).1, (OkForm.get e17 (Form.homeWrite
            (.fst e9 hs.elemLeaf))).2⟩

theorem Form.blur {r} (hs : Form kept s) : Form kept (s.blur r) := by
  refine .foldl hs.drew fun t x ht => ?_
  split
  · rename_i e
    exact OkForm.get e ht.boxPut
  · exact ht

theorem Form.closeWork {r cursorLost} (hs : Form kept s) : Form kept (s.closeWork r cursorLost) := by
  unfold State.closeWork
  dsimp only
  split
  · exact hs.endWork
  · split
    · exact .endWork (.workFault (.ite hs.blur hs))
    · rename_i e
      have h1 := OkForm.get e (Form.writeCursor (.ite hs.blur hs))
      split
      · exact .nextWork h1
      · exact h1.endWork

theorem Form.planWith {r0} (hs : Form kept s) : Form kept (s.planWith r0) := by
  unfold State.planWith
  dsimp only
  split
  · exact hs.planFault
  · rename_i e2
    split
    · exact hs.planFault
    · split
      · exact hs.planFault
      · split
        · exact hs.planFault
        · split
          · exact hs.planFault
          · rename_i e17
            split
            · exact (OkForm.get e17 hs.enginePieces).endWork
            · split
              · exact ((OkForm.get e17 hs.enginePieces).workFault).closeWork
              · rename_i e25
                exact .ite ((OkForm.get e25 ((OkForm.get e17 hs.enginePieces).startCursor)).closeWork) ((OkForm.get e25
                    ((OkForm.get e17 hs.enginePieces).startCursor)).putWork)

theorem Form.execStrudelPlanning (hs : Form kept s) : Keeps kept (execStrudelPlanning s) := by
  unfold Machine.execStrudelPlanning
  split
  · exact .next hs
  · split
    · exact .next hs
    · have h1 {w : Reshard} : Form kept (if w.resumed then s.recheck w else (s, .ok w)).1 := by
        split
        · exact hs.recheck
        · exact hs
      split
      · rename_i e
        exact .next (.planFault (.fst e h1))
      · rename_i e
        have h2 := Form.fst e h1
        split
        · exact .next h2.endWork
        · split
          · rename_i e'
            exact .next (.planFault (.fst e' h2.readShards))
          · rename_i e'
            have h3 := Form.fst e' h2.readShards
            split
            · rename_i e''
              exact .next (.planFault (.fst e'' h3.readShards))
            · rename_i e''
              exact .next (.planWith (.fst e'' h3.readShards))

theorem Form.copyBox {r b partial_} (hs : Form kept s) : Form kept (s.copyBox r b partial_).1 := by
  unfold State.copyBox
  dsimp only
  refine .foldl hs.drew fun t x ht => ?_
  split
  · exact ht
  · split
    · exact ht
    · split
      · rename_i e
        exact OkForm.get e ht.boxPut
      · exact ht

theorem Form.boxDone {r k} (hs : Form kept s) : Form kept (s.boxDone r k) := by
  unfold State.boxDone
  dsimp only
  split
  · exact hs.closeWork
  · split
    · exact hs.putWork
    · split
      · exact hs.workFault.closeWork
      · rename_i e10
        exact (OkForm.get e10 hs.writeCursor).putWork

theorem Form.startBox {r k b} (hs : Form kept s) : Form kept (s.startBox r k b) :=
  .foldl hs.onWork fun _ _ ht => ht.request
theorem Form.dropBoxes {r k} (hs : Form kept s) : Form kept (s.dropBoxes r k) := hs
theorem Form.boxFails {r k x} (hs : Form kept s) : Form kept (s.boxFails r k x) :=
  .ite (.closeWork (.dropBoxes (.workFault (.foldl hs fun _ _ ht => ht.copyBox)))) (.putWork (.dropBoxes (.workFault
      (.foldl hs fun _ _ ht => ht.copyBox))))
theorem Form.endBox {r k} (hs : Form kept s) : Form kept (s.endBox r k) := by
  unfold State.endBox
  split
  · exact hs
  · split
    · exact hs.copyBox.boxFails
    · dsimp only
      split
      · exact hs.copyBox.boxDone
      · exact hs.copyBox.boxFails

theorem Form.execBoxComplete (hs : Form kept s) : Keeps kept (execBoxComplete s) := by
  unfold Machine.execBoxComplete
  split
  · exact .next hs
  · split
    · exact .next hs
    · dsimp only
      split
      · exact .next hs.drawn.endBox
      · split
        · exact .next (.ite hs.closeWork hs)
        · split
          · exact .next hs
          · exact .next hs.drawn.startBox

theorem Form.abandonWork {r} (hs : Form kept s) : Form kept (s.abandonWork r) :=
  .endWork (.workFault (.dropBoxes (.foldl hs fun _ _ ht => ht.copyBox)))
theorem Form.execFetchEngineReset (hs : Form kept s) : Keeps kept (execFetchEngineReset s) := by
  unfold Machine.execFetchEngineReset
  dsimp only
  split
  · exact .next hs.abandonAll.abandonWork
  · exact .next hs.abandonAll

/-! ### The scheduler -/

theorem Form.execSwapOut {i} (hs : Form kept s) : Keeps kept (execSwapOut i s) := by
  unfold Machine.execSwapOut
  split
  · exact .next hs
  · exact .next (.ite hs (.mapGroups hs))

theorem Form.noteWakes (hs : Form kept s) : Form kept s.noteWakes :=
  .ite hs hs
theorem Form.comesFlawed {g} (hs : Form kept s) : Form kept (s.comesFlawed g) :=
  hs.drew.onGroup.report
theorem Form.showFlaws {p} (hs : Form kept s) : Form kept (s.showFlaws p) :=
  .foldl hs fun _ _ ht => ht.comesFlawed
theorem Form.return_ {c} (hs : Form kept s) : Form kept (s.return_ c) :=
  .showFlaws hs
theorem Mem.Sound.cleared {ws : List Nat} {a : Nat → Nat} {bs : List Byte} (hm : m.Sound lim) :
    (ws.foldl (fun m w => { m with tile := writeBytes m.tile (a w) bs }) m).Sound lim :=
  .foldl hm fun _ _ h => ⟨h.1, writeBytes_wf _ _ _ h.2.1, h.2.2⟩
theorem Form.claimPages {job core p n} (hs : Form kept s) : Form kept (s.claimPages job core p n) := by
  induction n generalizing s p with
  | zero => exact hs
  | succ n ih =>
    unfold State.claimPages
    exact ih ⟨.cleared ⟨hs.1.1, writeBytes_wf _ _ _ hs.1.2.1, hs.1.2.2⟩, by split <;> exact hs.2⟩

theorem Form.startTeam {l clu team core} (hs : Form kept s) : Form kept (s.startTeam l clu team core) := by
  unfold State.startTeam
  dsimp only
  exact ⟨hs.claimPages.1, hs.claimPages.2⟩

theorem Form.startTeams {l clu} {ks : List (Nat × Nat)} (hs : Form kept s) :
    Form kept (ks.foldl (fun (t : State) k => t.startTeam l clu k.2 k.1) s) :=
  .foldl hs fun _ _ h => h.startTeam
theorem Form.startCluster {l die row col} (hs : Form kept s) : Form kept (s.startCluster l die row col) := by
  have h1 (c : Cluster) : Form kept { s with clusters := s.clusters ++ [c] } := hs
  unfold State.startCluster
  exact .ite ⟨.foldl (h1 _).startTeams.1 fun _ _ hm => hm.l1DropAll, (h1 _).startTeams.2⟩ (h1 _).startTeams

theorem Form.servedList {n l die} (hs : Form kept s) : Form kept (s.servedList n l die) :=
  hs.putQueue.headChecked
theorem Form.dropStopped (hs : Form kept s) : SomeForm kept s.dropStopped := by
  unfold State.dropStopped
  generalize List.range 128 = l
  induction l with
  | nil => trivial
  | cons n l ih =>
    rw [List.findSome?_cons]
    split
    · rename_i e
      split at e
      · cases e
      · split at e
        · cases e
          exact .ite hs.putQueue.headChecked hs.putQueue.headChecked
        · cases e
    · exact ih

theorem Form.placement (hs : Form kept s) : SomeForm kept s.placement := by
  unfold State.placement
  split
  · rename_i e
    exact SomeForm.get e hs.dropStopped
  · split
    · exact hs.return_
    · cases s.nextRecord with
      | none => trivial
      | some x => exact hs.startCluster.servedList

theorem Form.execPlaceCluster (hs : Form kept s) : Keeps kept (execPlaceCluster s) :=
  .next (.getD hs.placement hs)
theorem Form.freeGrid {grid} (hs : Form kept s) : Form kept (s.freeGrid grid) := hs
theorem Form.execLaunchComplete {grid} (hs : Form kept s) : Keeps kept (execLaunchComplete grid s) := by
  unfold Machine.execLaunchComplete
  split
  · exact .next hs
  · exact .next (.ite hs (.ite (.freeGrid ⟨hs.1.performLate, hs.2⟩) (.writeCompletion (.freeGrid ⟨hs.1.performLate, hs.2⟩))))

/-! ### Contexts -/

theorem Form.beginStop {jobs parts spanned gang} (hs : Form kept s) : Form kept (s.beginStop jobs parts spanned gang) :=
  .ite (.sendAll hs) hs
theorem Memory.teamBytes {t acc} (hs2 : acc.wf = true) : (teamBytes m t acc).wf = true :=
  writeBytes_wf _ _ _ hs2
theorem Form.without {p} (hs : Form kept s) : Form kept (s.without p) := hs
theorem Form.ctxRecord {detail job aux} (hs : Form kept s) : Form kept (s.ctxRecord detail job aux) :=
  hs.accept
theorem Form.unhold {p} (hs : Form kept s) : Form kept (s.unhold p) :=
  .ite (.nextWork hs) hs
theorem Form.withoutContext {c} (hs : Form kept s) : Form kept (s.withoutContext c) := hs
theorem Form.readForSave {cs} (hs : Form kept s) : Form kept (s.readForSave cs) :=
  ⟨.foldl hs.1.performLate fun _ _ ht => ht.tileRead, hs.2⟩
theorem Form.saveJob {job} (hs : Form kept s) : Form kept (s.saveJob job) := by
  have h0 := hs.drawn.readForSave (cs := s.stoppedClusters job s.ctx.stopParts)
  fun_cases State.saveJob s job
  · exact hs
  · exact Form.unhold (Form.ctxRecord h0)
  · exact Form.withoutContext h0

theorem Form.gangLate (hs : Form kept s) : Form kept s.gangLate :=
  .ite hs (.accept hs)
theorem Form.freezeOver (hs : Form kept s) : Form kept s.freezeOver := hs
theorem Form.finishStop (hs : Form kept s) : Form kept s.finishStop :=
  .ite (.gangLate (.foldl hs fun _ _ ht => ht.saveJob)) (.foldl hs fun _ _ ht => ht.saveJob)
theorem Form.execCtxSave (hs : Form kept s) : Keeps kept (execCtxSave s) :=
  .next (.ite hs (.ite hs hs.beginStop))
theorem Form.execClassAcknowledge {c} (hs : Form kept s) : Keeps kept (execClassAcknowledge c s) :=
  .next (.ite hs (.ite (.finishStop hs) hs))
theorem Form.execSlowAcknowledgement (hs : Form kept s) : Keeps kept (execSlowAcknowledgement s) :=
  .next (.ite hs hs.ctxRecord)
theorem Form.putTile {c old new} (hs : Form kept s) : Form kept (s.putTile c old new) :=
  ⟨hs.1.tileWrite, hs.2⟩
theorem Form.restoreTeam {c swapped t} (hs : Form kept s) : SomeForm kept (s.restoreTeam c swapped t) := by
  unfold State.restoreTeam
  dsimp only
  split
  · exact trivial
  · split
    · split
      · exact trivial
      · exact hs.putTile
    · split
      · exact trivial
      · exact hs.putTile

theorem Form.restoreTeams {c ts} (hs : Form kept s) : SomeForm kept (s.restoreTeams c ts) := by
  induction ts generalizing s with
  | nil => exact hs
  | cons t ts ih =>
    unfold State.restoreTeams
    dsimp only
    split
    · trivial
    · rename_i e
      exact ih (SomeForm.get e hs.restoreTeam)

theorem Form.meetHeld {w g} (hs : Form kept s) : Form kept (s.meetHeld w g) :=
  .ite hs.onGroup hs.applyOn
theorem Form.meetAllHeld {c} (hs : Form kept s) : Form kept (s.meetAllHeld c) :=
  .foldl hs fun _ _ ht => .foldl ht fun _ _ ht2 => ht2.meetHeld
theorem Form.restoreContext {c} (hs : Form kept s) : SomeForm kept (s.restoreContext c) := by
  unfold State.restoreContext
  dsimp only
  split
  · trivial
  · rename_i e
    have h1 := SomeForm.get e (Form.restoreTeams (s := _) hs)
    refine Form.meetAllHeld (Form.showFlaws (.foldl ?_ fun _ _ ht => ht.arrive))
    refine .ite (Form.nextWork ?_) ?_ <;> exact .foldl h1 fun _ _ ht => ht.request

theorem Form.opEnds {result} (hs : Form kept s) : Form kept (s.opEnds result) := hs
theorem Form.execCtxRestore (hs : Form kept s) : Keeps kept (execCtxRestore s) := by
  unfold Machine.execCtxRestore
  split
  · exact .next hs
  · split
    · exact .next hs.opEnds
    · split
      · exact .next hs.opEnds
      · rename_i e
        have h1 := SomeForm.get e hs.restoreContext
        exact .next h1

theorem Form.execCtxExport (hs : Form kept s) : Keeps kept (execCtxExport s) := by
  have h1 : Form kept ((s.drew (2 ^ 40)).opEnds 0) := hs.drew.opEnds
  unfold Machine.execCtxExport
  refine .next (.ite hs ?_)
  split
  · exact hs.opEnds
  · exact .ite hs.opEnds ⟨h1.1.pkgWrite, h1.2⟩

theorem Form.execCtxImport (hs : Form kept s) : Keeps kept (execCtxImport s) := by
  unfold Machine.execCtxImport
  split
  · exact .next hs
  · split
    · split
      · exact .next hs.ctxRecord.opEnds
      · exact .next hs.opEnds
    · split
      · exact .next hs.opEnds
      · split
        · exact .next hs.opEnds
        · exact .next hs

theorem Form.execCtxDiscard (hs : Form kept s) : Keeps kept (execCtxDiscard s) := by
  unfold Machine.execCtxDiscard
  split
  · exact .next hs
  · split
    · exact .next hs.opEnds
    · exact .next (.ite hs.opEnds hs)

theorem Form.restoreAll {job} (hs : Form kept s) : Form kept (s.restoreAll job) :=
  .foldl hs fun _ _ ht => .getD ht.restoreContext ht
theorem Form.execGangSliceStart (hs : Form kept s) : Keeps kept (execGangSliceStart s) :=
  .next (.ite hs (.ite (.ite hs.gangLate hs) (.ite hs (.ite hs.beginStop (.ite (.ite hs hs.restoreAll) hs)))))

/-! ### Moves across lanes -/

theorem Form.permute {d a more preds src} (hs : Form kept s) : Form kept (s.permute d a more preds src) :=
  hs.withRefs (fun _ => hs.putRef.done)
theorem Form.execVshfl {d a b} (hs : Form kept s) : Keeps kept (execVshfl d a b s) :=
  .next hs.permute
theorem Form.execVrotw {d a g n} (hs : Form kept s) : Keeps kept (execVrotw d a g n s) :=
  .next hs.permute
theorem Form.execVxorw {d a m} (hs : Form kept s) : Keeps kept (execVxorw d a m s) :=
  .next hs.permute
theorem Form.execVbcst {d a j} (hs : Form kept s) : Keeps kept (execVbcst d a j s) :=
  .next hs.permute
theorem Form.execVbcstFirst {d a} (hs : Form kept s) : Keeps kept (execVbcstFirst d a s) :=
  .next hs.permute
theorem Form.execVrstep {d a o st} (hs : Form kept s) : Keeps kept (execVrstep d a o st s) := by
  unfold Machine.execVrstep
  dsimp only
  split
  · exact .next hs.vector
  · exact .next hs.trap0

theorem Form.execVred {e a o} (hs : Form kept s) : Keeps kept (execVred e a o s) := by
  unfold Machine.execVred
  split
  · exact .next hs.putS.finish
  · exact .next hs.trap0

theorem Form.execVscan {d a o x} (hs : Form kept s) : Keeps kept (execVscan d a o x s) := by
  unfold Machine.execVscan
  dsimp only
  split
  · exact .next (.ite hs.finish hs.vector)
  · exact .next hs.trap0

theorem Form.execVmatch {d a k} (hs : Form kept s) : Keeps kept (execVmatch d a k s) := by
  unfold Machine.execVmatch
  dsimp only
  split
  · exact .next hs.vector
  · exact .next hs.trap0
  · exact .next hs.trap0

theorem Form.execVball {e p} (hs : Form kept s) : Keeps kept (execVball e p s) :=
  .next hs.putS.done
theorem Form.execVcomp {d a p} (hs : Form kept s) : Keeps kept (execVcomp d a p s) :=
  .next hs.permute
theorem Form.predOut {d srcs x} (hs : Form kept s) : Keeps kept (s.predOut d srcs x) :=
  .next hs.putP.done
theorem Form.execPand {d a b} (hs : Form kept s) : Keeps kept (execPand d a b s) :=
  hs.predOut
theorem Form.execPor {d a b} (hs : Form kept s) : Keeps kept (execPor d a b s) :=
  hs.predOut
theorem Form.execPxor {d a b} (hs : Form kept s) : Keeps kept (execPxor d a b s) :=
  hs.predOut
theorem Form.execPnot {d a} (hs : Form kept s) : Keeps kept (execPnot d a s) :=
  hs.predOut
theorem Form.execPmov {d a} (hs : Form kept s) : Keeps kept (execPmov d a s) :=
  hs.predOut
theorem Form.execPset {d n} (hs : Form kept s) : Keeps kept (execPset d n s) :=
  hs.predOut
theorem Form.execPpop {e p} (hs : Form kept s) : Keeps kept (execPpop e p s) :=
  .next hs.putS.done
theorem Form.execExrd {e} (hs : Form kept s) : Keeps kept (execExrd e s) :=
  .next hs.putS.done
theorem Form.execExwr {p} (hs : Form kept s) : Keeps kept (execExwr p s) :=
  .next hs.setFrag.advance

/-! ### The links -/

theorem Form.putLink {n k} (hs : Form kept s) : Form kept (s.putLink n k) := hs
theorem Form.putLaser {n l} (hs : Form kept s) : Form kept (s.putLaser n l) := hs
theorem Form.putLogical {n l} (hs : Form kept s) : Form kept (s.putLogical n l) := hs
theorem Form.sendFrame {op num value block} (hs : Form kept s) : Form kept (s.sendFrame op num value block) := hs
theorem Form.mgmtEvent (hs : Form kept s) : Form kept s.mgmtEvent := hs
theorem Form.linkEvent {detail unit index addr aux} (hs : Form kept s) : Form kept (s.linkEvent detail unit index addr aux) :=
  .mgmtEvent hs.accept
theorem Form.linkRecord {detail n limit} (hs : Form kept s) : Form kept (s.linkRecord detail n limit) :=
  hs.linkEvent
theorem Form.laserRecord {detail n} (hs : Form kept s) : Form kept (s.laserRecord detail n) :=
  hs.linkEvent
theorem Form.discardRider {n} (hs : Form kept s) : Form kept (s.discardRider n) := hs
theorem Form.linkDown {n limit quiet} (hs : Form kept s) : Form kept (s.linkDown n limit quiet) :=
  .foldl (.ite hs.putLink hs.putLink.linkRecord) fun _ _ ht => .ite ht.discardRider ht.discardRider.linkEvent
theorem Form.linkSays {o} (hs : Form kept s) : Form kept (s.linkSays o) := hs
theorem Form.startReplay {r n seq} (hs : Form kept s) : Form kept (s.startReplay r n seq) :=
  .ite hs (.ite hs.putLogical.linkDown hs.putLogical.putLink.linkSays)
theorem Form.replayOldest {r n} (hs : Form kept s) : Form kept (s.replayOldest r n) :=
  hs.startReplay
theorem Form.execReplayTimeout {l} (hs : Form kept s) : Keeps kept (execReplayTimeout l s) := by
  unfold Machine.execReplayTimeout
  split
  · exact .next (.ite hs hs.replayOldest)
  · exact .next hs

theorem Form.lockAttempt {f} (hs : Form kept s) : Form kept (s.lockAttempt f) := hs
theorem Form.deliverFlit {r f} (hs : Form kept s) : Form kept (s.deliverFlit r f) :=
  .ite hs.putLogical hs
theorem Form.discardFlit {r} (hs : Form kept s) : Form kept (s.discardFlit r) :=
  .ite hs.putLogical hs.putLogical.linkSays
theorem Form.goodFlit {r n f} (hs : Form kept s) : Form kept (s.goodFlit r n f) := by
  unfold State.goodFlit
  dsimp only
  split
  · exact hs.putLogical
  · exact .ite hs.putLogical.startReplay hs.putLogical
  · exact .ite (.ite hs.putLogical.putLogical hs.putLogical.putLogical.lockAttempt.deliverFlit) hs.putLogical.discardFlit

theorem Form.execFlitReceive {l flit} (hs : Form kept s) : Keeps kept (execFlitReceive l flit s) := by
  unfold Machine.execFlitReceive
  dsimp only
  split
  · exact .next hs
  · exact .next (.ite hs (.ite hs.putLink.discardFlit (.ite hs.discardFlit hs.goodFlit)))

theorem Form.loseLane {n p quiet} (hs : Form kept s) : Form kept (s.loseLane n p quiet) :=
  .ite hs (.ite hs.putLink (.ite hs.putLink.linkDown (.ite (.ite hs.putLink hs.putLink.linkRecord)
      (.ite hs.putLink hs.putLink))))
theorem Form.execLaneLost {n pos line} (hs : Form kept s) : Keeps kept (execLaneLost n pos line s) :=
  .next (.ite hs (.loseLane (.ite hs.putLaser hs)))
theorem Form.execLaserLost {n} (hs : Form kept s) : Keeps kept (execLaserLost n s) :=
  .next (.ite hs (.foldl hs.putLaser.laserRecord fun _ _ ht => ht.loseLane))
theorem Form.execRetrainingEnd {n} (hs : Form kept s) : Keeps kept (execRetrainingEnd n s) :=
  .next (.ite hs (.ite (.foldl hs.putLink fun _ _ ht => ht.replayOldest) (.linkRecord
      (.foldl hs.putLink fun _ _ ht => ht.replayOldest))))
theorem Form.execLinkTraining {n} (hs : Form kept s) : Keeps kept (execLinkTraining n s) := by
  unfold Machine.execLinkTraining
  dsimp only
  exact .next (.ite hs (.foldl hs.putLink fun _ _ ht => .ite ht ht.putLaser))

theorem Form.execTrainingEnd {n dark} (hs : Form kept s) : Keeps kept (execTrainingEnd n dark s) :=
  .next (.ite hs (.ite hs.putLink (.ite hs.putLink (.ite hs.putLink hs.putLink.linkDown))))
theorem Form.execTrainingTimeout {n} (hs : Form kept s) : Keeps kept (execTrainingTimeout n s) :=
  .next (.ite hs.linkDown hs)
theorem Form.execLaserAgeing {n ratio} (hs : Form kept s) : Keeps kept (execLaserAgeing n ratio s) :=
  .next (.ite hs (.ite hs.putLaser (.ite hs.putLaser.laserRecord hs.putLaser)))
theorem Form.startTimer {pk} (hs : Form kept s) : Form kept (s.startTimer pk) := hs
theorem Form.execLitIntervalStart (hs : Form kept s) : Keeps kept (execLitIntervalStart s) :=
  .next (.foldl (.foldl hs fun _ _ ht => ht.send) fun _ _ ht => .ite ht ht.startTimer.handOver)

/-! ### The fabric -/

theorem Form.putTxn {t} (hs : Form kept s) : Form kept (s.putTxn t) := hs
theorem Form.reapFabric (hs : Form kept s) : Form kept s.reapFabric :=
  .foldl hs fun _ _ ht => ht.cmdDone
theorem Form.onwardRecord {t relay} (hs : Form kept s) : Form kept (s.onwardRecord t relay) :=
  hs.linkEvent
theorem Form.txnFault {t reason relay unknown} (hs : Form kept s) : Form kept (s.txnFault t reason relay unknown) :=
  .reapFabric (.failTxn (.ite hs.onwardRecord hs))
theorem Form.endTxn {t reason relay} (hs : Form kept s) : Form kept (s.endTxn t reason relay) :=
  .ite hs.putTxn.send hs.txnFault
theorem Form.resend {t} (hs : Form kept s) : Form kept (s.resend t) := by
  unfold State.resend
  split
  · rename_i e3
    exact SomeForm.get e3 hs.putTxn.transmit
  · exact hs.failTxn.reapFabric

theorem Form.execE2eTimerExpiry {tag} (hs : Form kept s) : Keeps kept (execE2eTimerExpiry tag s) := by
  unfold Machine.execE2eTimerExpiry
  split
  · exact .next hs
  · exact .next (.ite hs (.ite hs.endTxn hs.resend))

theorem Form.execCancelTimeout {tag} (hs : Form kept s) : Keeps kept (execCancelTimeout tag s) := by
  unfold Machine.execCancelTimeout
  split
  · exact .next hs
  · split
    · exact .next hs
    · exact .next (.ite hs hs.txnFault)

theorem Form.execNotResidentRetry {tag} (hs : Form kept s) : Keeps kept (execNotResidentRetry tag s) := by
  unfold Machine.execNotResidentRetry
  split
  · exact .next hs
  · split
    · exact .next (.ite hs (.ite hs.failTxn.reapFabric hs.resend))
    · exact .next hs

theorem Form.execHoldNotice {tag} (hs : Form kept s) : Keeps kept (execHoldNotice tag s) := by
  unfold Machine.execHoldNotice
  split
  · exact .next hs
  · exact .next hs.putTxn

theorem Form.execSignalBusyRetry {tag} (hs : Form kept s) : Keeps kept (execSignalBusyRetry tag s) := by
  unfold Machine.execSignalBusyRetry
  split
  · exact .next hs
  · exact .next (.ite hs.resend hs)

theorem Mem.Sound.answered {p req vals} (hs : m.Sound lim) : (m.answered p req vals).Sound lim := by
  unfold Mem.answered
  dsimp only
  split
  · split
    · exact hs
    · exact .foldl hs fun _ _ ht => ht.peerPut
  · exact .ite (.foldl hs.noFill fun _ _ ht => ht.peerPut) hs.peerDrop

theorem Form.lanesAnswered {id req resp bad} (hs : Form kept s) : Form kept (s.lanesAnswered id req resp bad) := by
  unfold State.lanesAnswered
  split
  · exact hs
  · exact .peersAnswered (.ite ⟨hs.1.answered, hs.2⟩ (.onKey ⟨hs.1.answered, hs.2⟩))

theorem Form.splitAnswers {c m} (hs : Form kept s) : Form kept (s.splitAnswers c m) :=
  .foldl hs fun _ _ ht => ht.answer
theorem Form.relayAnswered {id pk} (hs : Form kept s) : Form kept (s.relayAnswered id pk) := by
  unfold State.relayAnswered
  split
  · exact hs
  · exact .ite hs.copyAnswered (.ite (.foldl hs.dropCombine fun _ _ ht => ht.answer) hs.dropCombine.splitAnswers)

theorem Form.complete {t pk} (hs : Form kept s) : Form kept (s.complete t pk) := by
  unfold State.complete
  dsimp only
  split
  · exact hs.dropTxn.lanesAnswered
  · exact .ite hs.dropTxn hs.failOps
  · exact .ite hs.failOps hs.cmdAnswered
  · exact .ite hs.failOps hs.dropTxn
  · exact hs.dropTxn.relayAnswered

theorem Form.relayRefused {t id} (hs : Form kept s) : Form kept (s.relayRefused t id) := by
  unfold State.relayRefused
  split
  · exact hs.dropTxn
  · exact .ite hs.putTxn (.foldl hs.dropTxn.dropCombine fun _ _ ht => ht.send)

theorem Form.refusedBy {t why} (hs : Form kept s) : Form kept (s.refusedBy t why) := by
  unfold State.refusedBy
  split
  · exact hs.relayRefused
  · exact hs.putTxn
  · exact hs.putTxn
  · exact hs.sawIntegrity.failTxn.reapFabric
  · exact hs.putTxn

theorem Form.onwardLost {t relay} (hs : Form kept s) : Form kept (s.onwardLost t relay) :=
  .ite hs (.endTxn hs)
theorem Form.taken {t pk} (hs : Form kept s) : Form kept (s.taken t pk) := by
  unfold State.taken
  split
  · exact hs.refusedBy
  · exact .ite hs hs.onwardLost
  · split
    · exact .ite hs.txnFault hs
    · exact hs
  · exact hs.complete.reapFabric

theorem Form.execResponseReceive {pk} (hs : Form kept s) : Keeps kept (execResponseReceive pk s) := by
  unfold Machine.execResponseReceive
  split
  · exact .next hs.moveChunk
  · split
    · exact .next hs
    · exact .next (.ite hs hs.taken)

theorem Form.execRouteMarkLapse {dst col} (hs : Form kept s) : Keeps kept (execRouteMarkLapse dst col s) :=
  .next (.ite hs hs)
theorem Form.execCoalesceHoldExpiry {id} (hs : Form kept s) : Keeps kept (execCoalesceHoldExpiry id s) := by
  unfold Machine.execCoalesceHoldExpiry
  split
  · exact .next hs.sendHeld
  · exact .next hs

theorem Form.execMergeHoldLapse {id} (hs : Form kept s) : Keeps kept (execMergeHoldLapse id s) := by
  unfold Machine.execMergeHoldLapse
  split
  · exact .next hs
  · split
    · exact .next hs
    · split
      · exact .next hs
      · dsimp only
        split
        · exact .next hs
        · exact .next (.onCmd hs)

theorem Form.peerWrote {pk atomic ranges} (hs : Form kept s) : Form kept (s.peerWrote pk atomic ranges) :=
  hs.watchEvents
theorem Form.performOps {pk} (hs : Form kept s) : Form kept (s.performOps pk).st := by
  unfold State.performOps
  refine List.foldlRecOn (motive := fun r : Performed => Form kept r.st) _ _ hs fun r hr x _ => ?_
  cases h : r.st.homeFault pk.op.toNat x.1.addr x.1.size with
  | some f =>
    simp only [h]
    exact hr
  | none =>
    simp only [h]
    split
    · exact ⟨hr.1.storeHome, hr.2⟩
    · exact hr

theorem Form.perform {pk} (hs : Form kept s) : Form kept (s.perform pk) :=
  .answer (.ite hs.performOps hs.performOps.peerWrote)
theorem Form.copyOf {pk} (hs : Form kept s) : SomeForm kept (s.copyOf pk) := by
  unfold State.copyOf
  cases s.fabric.targets.find? _ with
  | none => trivial
  | some r =>
    dsimp only [Option.bind_some]
    split
    · exact hs
    · split
      · exact hs
      · split
        · trivial
        · exact hs.send

theorem Form.execRequestArrival {pk} (hs : Form kept s) : Keeps kept (execRequestArrival pk s) := by
  unfold Machine.execRequestArrival
  split
  · exact .next hs.send
  · split
    · rename_i e5
      exact .next (SomeForm.get e5 hs.copyOf)
    · exact .next (.ite hs.perform hs.send)

theorem Form.execRequestRecordExpiry {src tag} (hs : Form kept s) : Keeps kept (execRequestRecordExpiry src tag s) :=
  .next hs
theorem Form.execCancel {pk} (hs : Form kept s) : Keeps kept (execCancel pk s) := by
  unfold Machine.execCancel
  split
  · exact .next hs.send
  · split
    · split
      · exact .next hs.send
      · exact .next (.ite hs.send hs)
    · exact .next hs.recordTarget.send

theorem Form.forward {pk} (hs : Form kept s) : Form kept (s.forward pk) := by
  unfold State.forward
  dsimp only
  split
  · exact hs.send
  · exact .ite hs hs.handOver

theorem Form.execRelayForward {pk} (hs : Form kept s) : Keeps kept (execRelayForward pk s) := by
  unfold Machine.execRelayForward
  split
  · exact .next hs
  · split
    · exact .next hs.forward
    · split
      · exact .next hs
      · split
        · split
          · exact .next hs.send
          · exact .next hs
        · exact .next (.ite hs.drawn.forward (.ite hs.drawn hs.drawn))

theorem Form.execCombineHoldExpiry {id} (hs : Form kept s) : Keeps kept (execCombineHoldExpiry id s) := by
  unfold Machine.execCombineHoldExpiry
  split
  · exact .next hs
  · exact .next (.request hs)

/-! ### Words of the fabric -/

theorem Form.sendTile {c w go} (hs : Form kept s) (hgo : ∀ t x1, Form kept t → Form kept (go t x1)) :
    Form kept (s.sendTile c w go) := by
  have h1 := Form.tileLoad (s := { s with mem := s.mem.tileRead true false (s.team.key (srcOff w)) (srcLen w) })
    (a := s.team.key (srcOff w)) (n := srcLen w) ⟨hs.1.tileRead, hs.2⟩
  unfold State.sendTile
  exact .ite (.reapFabric (.accepted ⟨hs.1.tileRead.tileSeen, h1.2⟩)) (.reapFabric (hgo _ _ (Form.accepted h1)))

theorem Form.execSignal {a b c f} (hs : Form kept s) : Keeps kept (execSignal a b c f s) := by
  unfold Machine.execSignal
  refine .next (.ite hs.trap0 (.ite hs.operandFault (.ite hs.trap0 (Form.release hs fun t ht => ?_))))
  refine Form.to (s := t.sendTile _ _ _) ?_ rfl
  exact Form.sendTile ht fun v _ hv => Form.request hv

theorem Form.signalBytes {pk} (hs : Form kept s) : Form kept (s.signalBytes pk).1 := by
  unfold State.signalBytes
  dsimp only
  split
  · exact hs
  · split
    · exact hs
    · exact hs.drew

theorem Form.execSignalData {pk} (hs : Form kept s) : Keeps kept (execSignalData pk s) := by
  unfold Machine.execSignalData
  dsimp only
  split
  · exact .next hs.send
  · split
    · rename_i e5
      exact .next (SomeForm.get e5 hs.copyOf)
    · split
      · exact .next hs.send
      · exact .next (.ite hs.send (.ite hs.send (.answer (.putTeam
            (.watchEvents ⟨hs.signalBytes.1.tilePut, hs.signalBytes.2⟩)))))

theorem Form.execFflag {a b w} (hs : Form kept s) : Keeps kept (execFflag a b w s) := by
  unfold Machine.execFflag
  dsimp only
  split
  · rename_i e1
    split
    · exact .next hs.trap
    · split
      · exact .next hs.trap
      · split
        · rename_i e9
          exact .next (.trap (.fst e9 hs.translate))
        · rename_i e13
          exact .next (.ite (.trap (.fst e13 hs.translate)) (.ite (.trap (.fst e13 hs.translate)) (.accepted (.flushGroup
              (.fst e13 hs.translate)))))
  · split
    · exact .next hs.trap
    · split
      · exact .next hs.trap
      · split
        · rename_i e22
          exact .next (.trap (.fst e22 hs.translate))
        · rename_i e26
          exact .next (.ite (.trap (.fst e26 hs.translate)) (.ite (.trap (.fst e26 hs.translate)) (.accepted (.flushGroup
              (.fst e26 hs.translate)))))

theorem Form.storeFlag {c bs} (hs : Form kept s) : Form kept (s.storeFlag c bs) :=
  .ite (.cmdDone ⟨hs.1.performLate, hs.2⟩) (.cmdDone (.watchCmd ⟨hs.1.performLate.storeHome.l1Patch, hs.2⟩))
theorem Form.execFflagStore {id} (hs : Form kept s) : Keeps kept (execFflagStore id s) := by
  unfold Machine.execFflagStore
  split
  · exact .next hs
  · exact .next (.ite hs (.ite hs.storeFlag hs.onCmd.request.reapFabric))

theorem Form.execInstallEntry (hs : Form kept s) : Keeps kept (execInstallEntry s) :=
  .next (.ite hs hs)
theorem Form.mcastSend {owner ea pa job bs group h} (hs : Form kept s) : Form kept (s.mcastSend owner ea pa job bs group h) :=
  hs.request
theorem Form.execMcst {a b f} (hs : Form kept s) : Keeps kept (execMcst a b f s) := by
  unfold Machine.execMcst
  refine .next (.ite hs.trap0 (.ite hs.operandFault (.ite hs.trap0 (.ite hs.trap (.ite hs.trap ?_)))))
  split
  · rename_i e
    exact .trap (.fst e hs.translate)
  · rename_i e
    have h1 := Form.fst e hs.translate
    refine .ite (Form.trap h1) (.ite (Form.trap h1) (.ite (Form.operandFault h1) (Form.release h1 fun t ht => ?_)))
    refine Form.to (s := t.sendTile _ _ _) ?_ rfl
    exact ht.sendTile fun v _ hv => .foldl hv fun _ _ h => h.mcastSend

theorem Form.execMcstData {pk} (hs : Form kept s) : Keeps kept (execMcstData pk s) := by
  unfold Machine.execMcstData
  dsimp only
  split
  · exact .next hs.send
  · split
    · rename_i e5
      exact .next (SomeForm.get e5 hs.copyOf)
    · exact .next (.ite hs.send (.ite (.answer (.ite (.peerWrote ⟨hs.1.storeHome, hs.2⟩) hs)) (.foldl (.ite
          (.peerWrote ⟨hs.1.storeHome, hs.2⟩) hs) fun _ _ ht => ht.mcastSend)))

theorem Form.execPbar {a} (hs : Form kept s) : Keeps kept (execPbar a s) :=
  .next (.ite hs.operandFault hs.barrierWord)
theorem Form.urgentTo {op d args} (hs : Form kept s) : Form kept (s.urgentTo op d args) := hs
theorem Form.sendBar {key x d} (hs : Form kept s) : Form kept (s.sendBar key x d) := by
  unfold State.sendBar
  dsimp only
  split
  · exact hs.urgentTo
  · split
    · exact hs
    · split
      · exact hs
      · exact hs.urgentTo.linkEvent

theorem Form.exchangeBars (hs : Form kept s) : Form kept s.exchangeBars :=
  .foldl hs fun _ _ ht => .foldl ht fun _ _ ht2 => ht2.sendBar
theorem Form.execPodBarrierState {pk} (hs : Form kept s) : Keeps kept (execPodBarrierState pk s) := by
  unfold Machine.execPodBarrierState
  split
  · exact .next (.ite hs hs.putPod.settlePod)
  · exact .next hs

theorem Form.putHalley {h} (hs : Form kept s) : Form kept (s.putHalley h) := hs
theorem Form.thaw {h} (hs : Form kept s) : Form kept (s.thaw h) :=
  .ite hs.putHalley.freezeOver hs.putHalley
theorem Form.installMaster {node rank} (hs : Form kept s) : Form kept (s.installMaster node rank) :=
  hs.thaw.linkEvent
theorem Form.follow {t} (hs : Form kept s) : Form kept (s.follow t) :=
  .ite hs hs.putHalley
theorem Form.passDown {op src args} (hs : Form kept s) : Form kept (s.passDown op src args) :=
  .ite (.foldl hs fun _ _ ht => ht) hs
theorem Form.hears (hs : Form kept s) : Form kept s.hears := hs
theorem Form.execTimePacket {master time} (hs : Form kept s) : Keeps kept (execTimePacket master time s) := by
  unfold Machine.execTimePacket
  dsimp only
  split
  · exact .next hs
  · split
    · exact .next hs.follow.thaw.hears.passDown
    · split
      · exact .next (.ite hs.installMaster.follow.hears.passDown hs)
      · exact .next hs

theorem Form.execTimeSilence (hs : Form kept s) : Keeps kept (execTimeSilence s) :=
  .next (.ite (.linkEvent hs) (.ite hs.putHalley.linkEvent hs))
theorem Form.execElectionClaim (hs : Form kept s) : Keeps kept (execElectionClaim s) := by
  unfold Machine.execElectionClaim
  split
  · exact .next hs
  · exact .next (.foldl hs.putHalley fun _ _ ht => ht.urgentTo)

theorem Form.execClaimReceive {rank node} (hs : Form kept s) : Keeps kept (execClaimReceive rank node s) :=
  .next (.ite hs hs.putHalley.passDown)
theorem Form.execMasterInstall (hs : Form kept s) : Keeps kept (execMasterInstall s) := by
  unfold Machine.execMasterInstall
  split
  · exact .next hs.installMaster
  · exact .next hs

theorem Form.execPhaseBoundary (hs : Form kept s) : Keeps kept (execPhaseBoundary s) :=
  .next (.exchangeBars (.ite (.foldl hs fun _ _ ht => ht.urgentTo) hs))

/-! ### Security -/

theorem Form.execBootGo (hs : Form kept s) : Keeps kept (execBootGo s) :=
  .next (.ite hs (.ite hs (.ite hs hs)))
theorem Form.secFails {b r} (hs : Form kept s) : Form kept (secFails s b r).st := by
  unfold Machine.secFails
  exact hs
theorem Form.secDone {b} (hs : Form kept s) : Form kept (secDone s b).st := by
  unfold Machine.secDone
  exact hs
theorem Form.putSlot {k} (hs : Form kept s) : Form kept (s.putSlot k) := hs
theorem Form.bindJob {b} (hs : Form kept s) : Form kept (s.bindJob b).st := by
  unfold State.bindJob
  dsimp only
  split
  · exact hs.secFails
  · split
    · exact hs.secFails
    · split
      · exact hs.secFails
      · exact .secDone hs

theorem Form.pairWith {b} (hs : Form kept s) : Form kept (s.pairWith b).st := by
  unfold State.pairWith
  dsimp only
  split
  · exact hs.secFails
  · split
    · exact hs.secFails
    · exact hs

theorem Form.quote {b} (hs : Form kept s) : Form kept (s.quote b).st := by
  unfold State.quote
  split
  · exact hs.secFails
  · dsimp only
    exact hs.secDone

theorem Form.retagAt {k lines v} (hs : Form kept s) : Form kept (s.retagAt k lines v) := by
  unfold State.retagAt
  split <;> exact hs
theorem Form.writeTree {area n} (hs : Form kept s) : Form kept (s.writeTree area n) := by
  unfold State.writeTree
  refine .foldl hs.drew fun t x ht => ?_
  split
  · dsimp only
    exact ⟨⟨ht.1.farNoted.1, ht.1.farNoted.2.1, writeBytes_wf _ _ _ ht.1.2.2.1, ht.1.farNoted.2.2.2⟩, ht.2⟩
  · exact ht

theorem Form.sealRegion {b} (hs : Form kept s) : Form kept (s.sealRegion b).st := by
  unfold State.sealRegion
  dsimp only
  split
  · exact hs.secFails
  · split
    · exact hs.secFails
    · split
      · exact hs.secFails
      · exact hs.putSlot.retagAt.writeTree.secDone

theorem Form.unsealRegion {b} (hs : Form kept s) : Form kept (s.unsealRegion b).st := by
  unfold State.unsealRegion
  dsimp only
  split
  · exact hs.secFails
  · split
    · exact hs.secFails
    · split
      · exact hs.secFails
      · exact hs.putSlot.retagAt.secDone

theorem Form.ckSave {b failed} (hs : Form kept s) : Form kept (s.ckSave b failed).st := by
  unfold State.ckSave
  dsimp only
  split
  · exact hs.secFails
  · split
    · exact hs.secFails
    · split
      · exact hs.secFails
      · exact .secDone hs

theorem Form.farSaved {a l : Nat} {bs : List Byte} (hs : Form kept s) :
    Form kept { s with mem := { (s.mem.farNoted a l) with far := writeBytes s.mem.far a bs } } :=
  ⟨⟨hs.1.farNoted.1, hs.1.farNoted.2.1, writeBytes_wf _ _ _ hs.1.2.2.1, hs.1.farNoted.2.2.2⟩, hs.2⟩
theorem Form.putCheckpoint {c} (hs : Form kept s) : Form kept (s.putCheckpoint c) :=
  .foldl hs fun _ _ ht => ht.farSaved
theorem Form.ckRestore {b failed} (hs : Form kept s) : Form kept (s.ckRestore b failed).st := by
  unfold State.ckRestore
  dsimp only
  split
  · exact hs.secFails
  · split
    · exact hs.secFails
    · split
      · exact hs.secFails
      · split
        · exact .secDone (.foldl hs fun _ _ ht => ht.putCheckpoint)
        · split
          · exact .secDone (.putSlot (.foldl hs fun _ _ ht => ht.putCheckpoint))
          · exact .secFails (.foldl hs fun _ _ ht => ht.putCheckpoint)

theorem Form.unbindJob {b} (hs : Form kept s) : Form kept (s.unbindJob b).st := by
  unfold State.unbindJob
  dsimp only
  split
  · exact hs.secFails
  · split
    · exact hs.secFails
    · split
      · exact hs.secFails
      · exact .secDone hs

theorem Form.runCommand {b failed} (hs : Form kept s) : Form kept (s.runCommand b failed).st := by
  unfold State.runCommand
  split
  · exact hs.bindJob
  · exact hs.pairWith
  · exact hs.quote
  · exact hs.sealRegion
  · exact hs.unsealRegion
  · exact hs.ckSave
  · exact hs.ckRestore
  · exact hs.unbindJob
  · exact hs.secFails

theorem Form.answerFrame {seq num value block} (hs : Form kept s) : Form kept (s.answerFrame seq num value block) := hs
theorem Form.secEnds {result} (hs : Form kept s) : Form kept (s.secEnds result) := by
  unfold State.secEnds
  dsimp only
  split
  · exact .answerFrame hs
  · exact hs

theorem Form.secCommand {codes failed} (hs : Form kept s) : Form kept (s.secCommand codes failed) := by
  unfold State.secCommand
  dsimp only
  split
  · exact hs
  · split
    · exact .secEnds (.ite hs.runCommand ⟨hs.runCommand.1.pkgWrite, hs.runCommand.2⟩)
    · exact .ite hs.runCommand ⟨hs.runCommand.1.pkgWrite, hs.runCommand.2⟩

theorem Form.execSecBind (hs : Form kept s) : Keeps kept (execSecBind s) :=
  .next hs.secCommand
theorem Form.execSecPair (hs : Form kept s) : Keeps kept (execSecPair s) :=
  .next hs.secCommand
theorem Form.execSecQuote (hs : Form kept s) : Keeps kept (execSecQuote s) :=
  .next hs.secCommand
theorem Form.execSecSeal (hs : Form kept s) : Keeps kept (execSecSeal s) :=
  .next hs.secCommand
theorem Form.execSecUnseal (hs : Form kept s) : Keeps kept (execSecUnseal s) :=
  .next hs.secCommand
theorem Form.execCksave {failed} (hs : Form kept s) : Keeps kept (execCksave failed s) :=
  .next hs.secCommand
theorem Form.execCkrest {failed} (hs : Form kept s) : Keeps kept (execCkrest failed s) :=
  .next hs.secCommand
theorem Form.execSecUnbind (hs : Form kept s) : Keeps kept (execSecUnbind s) :=
  .next hs.secCommand
theorem Form.execPairTimeout (hs : Form kept s) : Keeps kept (execPairTimeout s) :=
  .next (.ite hs.secEnds hs)
theorem Form.paired {node job measurement svn quoteOk holdsKeys keys} (hs : Form kept s) :
    Form kept (s.paired node job measurement svn quoteOk holdsKeys keys) := by
  unfold State.paired
  split
  · exact hs
  · split
    · exact hs
    · split
      · exact hs.secEnds
      · split
        · exact .secEnds hs
        · split
          · exact hs.secEnds
          · exact hs.putSlot.secEnds

/-! ### Power -/

theorem Form.putPower {d p} (hs : Form kept s) : Form kept (s.putPower d p) := hs
theorem Form.powerEvent (hs : Form kept s) : Form kept s.powerEvent := hs
theorem Form.execMinRst {die} (hs : Form kept s) : Keeps kept (execMinRst die s) :=
  .next hs.putPower
theorem Form.execSupplySag {die} (hs : Form kept s) : Keeps kept (execSupplySag die s) :=
  .next (.ite hs hs.putPower.powerEvent)
theorem Form.execClockStepUp {die} (hs : Form kept s) : Keeps kept (execClockStepUp die s) :=
  .next (.ite hs.putPower hs)
theorem Form.execThermalLimit {die temp} (hs : Form kept s) : Keeps kept (execThermalLimit die temp s) :=
  .next (.ite hs.putPower.powerEvent.mgmtEvent (.ite hs.putPower hs.putPower.powerEvent))
theorem Form.execHostMemoryAccess {write addr bytes} (hs : Form kept s) :
    Keeps kept (execHostMemoryAccess write addr bytes s) :=
  .next (.ite (.ite ⟨hs.1.pkgWrite, hs.2⟩ ⟨.foldl hs.1 fun _ _ ht => .ite ht.pkgWrite ht, hs.2⟩) hs)
theorem Form.execPackageReset (hs : Form kept s) :
    Keeps kept (execPackageReset s) := .next ⟨⟨rfl, rfl, hs.1.2.2.1, Nat.zero_le _⟩, hs.2⟩

/-! ### Special registers -/

theorem Form.writeHalcfg {v} (hs : Form kept s) : Form kept (s.writeHalcfg v) :=
  .ite hs.putHalley (.ite (.ite hs.putHalley.freezeOver hs.putHalley) hs.putHalley)
theorem Form.writeGctl {v} (hs : Form kept s) : Form kept (s.writeGctl v) :=
  .ite (.gangLate hs) hs
theorem Form.csrPut {own num v} (hs : Form kept s) : Form kept (s.csrPut own num v) := by
  unfold State.csrPut
  dsimp only
  split
  · split
    · exact .ite ⟨hs.1, hs.2⟩ hs
    · exact hs
  · exact ⟨hs.1, hs.2⟩
  · exact hs
  · exact hs.writeGctl
  · exact hs
  · exact .ite hs hs
  · exact hs
  · exact hs
  · exact hs
  · exact .ite hs hs
  · exact .ite hs hs
  · exact hs
  · exact .ite hs hs
  · exact .ite hs hs
  · exact hs.writeHalcfg
  · exact .ite hs hs.putHalley
  · exact .ite hs hs.putHalley
  · exact .ite hs hs
  · exact hs
  · exact hs

theorem Form.csrWrite {who own job num v} (hs : Form kept s) : Form kept (s.csrWrite who own job num v) :=
  .ite hs (.ite hs.csrPut (.ite (.ite hs.putPower hs) (.ite hs (.ite hs.putQueue (.ite hs (.ite hs (.ite
      (.ite hs.putLaser hs) (.ite hs (.ite (.ite hs.putLink hs) (.ite hs (.ite hs.csrPut hs)))))))))))
theorem Form.execCsrWrite {who num value} (hs : Form kept s) : Keeps kept (execCsrWrite who num value s) :=
  .next hs.csrWrite
theorem Form.csrFault (hs : Form kept s) : Form kept s.csrFault :=
  hs.trap0
theorem Form.execCsrrd {a d} (hs : Form kept s) : Keeps kept (execCsrrd a d s) := by
  unfold Machine.execCsrrd
  dsimp only
  split
  · exact .next (hs.privileged hs.csrFault)
  · split
    · exact .next (hs.privileged hs.csrFault)
    · exact .next (hs.privileged (.ite hs.waitAt (.advance (.ite hs.putS.acquire hs.putS))))

theorem Form.execCsrwr {a b} (hs : Form kept s) : Keeps kept (execCsrwr a b s) :=
  .next (hs.privileged (.ite hs.csrFault (hs.release (fun _ ht => ht.csrWrite.advance))))
theorem Form.execFrwait (hs : Form kept s) : Keeps kept (execFrwait s) :=
  .next (.ite hs hs.mapGroups)
theorem Form.replyFrame {seq num run} (hs : Form kept s) (hrun : ∀ t, Form kept t → Form kept (run t).1) :
    Form kept (s.replyFrame seq num run) := by
  unfold State.replyFrame
  split
  · exact hs
  · exact (hrun _ hs).answerFrame

theorem Form.execMgmtCsrRead {seq num} (hs : Form kept s) : Keeps kept (execMgmtCsrRead seq num s) :=
  .next (hs.replyFrame (fun _ ht => ht))
theorem Form.execMgmtCsrWrite {seq num value} (hs : Form kept s) : Keeps kept (execMgmtCsrWrite seq num value s) :=
  .next (hs.replyFrame (fun _ ht => ht.csrWrite))
theorem Form.execMgmtSecurityCommand {seq block} (hs : Form kept s) : Keeps kept (execMgmtSecurityCommand seq block s) := by
  unfold Machine.execMgmtSecurityCommand
  split
  · exact .next hs
  · split
    · exact .next hs
    · dsimp only
      split
      · exact .next hs.drawn.runCommand.secEnds.answerFrame
      · exact .next hs.drawn.runCommand

theorem Form.execMgmtReply {msg} (hs : Form kept s) : Keeps kept (execMgmtReply msg s) := by
  unfold Machine.execMgmtReply
  split
  · exact .next hs
  · exact .next hs.paired

theorem Form.execMgmtFrameRetry {seq} (hs : Form kept s) : Keeps kept (execMgmtFrameRetry seq s) := by
  unfold Machine.execMgmtFrameRetry
  split <;> exact .next hs

/-! ### Instructions -/

theorem Form.exec {i} (hs : Form kept s) : Keeps kept (exec i s) := by
  unfold Machine.exec
  split
  · exact hs.execNop
  · exact hs.execYield
  · exact hs.execWaitf
  · exact hs.execBra
  · exact hs.execCall
  · exact hs.execBk
  · exact hs.execBkNot
  · exact hs.execBpAny
  · exact hs.execBpAll
  · exact hs.execRet
  · exact hs.execJmpr
  · exact hs.execJoin
  · exact hs.execExit
  · exact hs.execBdv
  · exact hs.execSplitRefill
  · exact hs.execSadd
  · exact hs.execSsub
  · exact hs.execSmul
  · exact hs.execSmulh
  · exact hs.execSdiv
  · exact hs.execSrem
  · exact hs.execSand
  · exact hs.execSor
  · exact hs.execSxor
  · exact hs.execSandn
  · exact hs.execSshl
  · exact hs.execSshr
  · exact hs.execSsra
  · exact hs.execSrot
  · exact hs.execSmin
  · exact hs.execSmax
  · exact hs.execSminn
  · exact hs.execSmaxn
  · exact hs.execSclz
  · exact hs.execSpop
  · exact hs.execSbrev
  · exact hs.execSsextB8
  · exact hs.execSsextB16
  · exact hs.execSsextB32
  · exact hs.execSzextB8
  · exact hs.execSzextB16
  · exact hs.execSzextB32
  · exact hs.execSsel
  · exact hs.execSmov
  · exact hs.execScmp
  · exact hs.execSlea
  · exact hs.execLaunch
  · exact hs.execSaddi
  · exact hs.execSandi
  · exact hs.execSori
  · exact hs.execSxori
  · exact hs.execSshli
  · exact hs.execSshri
  · exact hs.execSsrai
  · exact hs.execScmpi
  · exact hs.execSli
  · exact hs.execSlih
  · exact hs.execSrd
  · exact hs.execSwr
  · exact hs.execLds
  · exact hs.execSts
  · exact hs.execVadd
  · exact hs.execVsub
  · exact hs.execVmul
  · exact hs.execVfma
  · exact hs.execVfms
  · exact hs.execVfnma
  · exact hs.execVfnms
  · exact hs.execVdiv
  · exact hs.execVmin
  · exact hs.execVmax
  · exact hs.execVclamp
  · exact hs.execVscale
  · exact hs.execVcmp
  · exact hs.execVcmpc
  · exact hs.execVsel
  · exact hs.execVaddPair
  · exact hs.execVsubPair
  · exact hs.execVmulPair
  · exact hs.execVfmaPair
  · exact hs.execVfmsPair
  · exact hs.execVfnmaPair
  · exact hs.execVfnmsPair
  · exact hs.execVminPair
  · exact hs.execVmaxPair
  · exact hs.execVclampPair
  · exact hs.execVdot2
  · exact hs.execVdot4
  · exact hs.execViadd
  · exact hs.execVisub
  · exact hs.execVimul
  · exact hs.execVimulhI32
  · exact hs.execVimulhN32
  · exact hs.execVimad
  · exact hs.execVimin
  · exact hs.execVimax
  · exact hs.execViminn
  · exact hs.execVimaxn
  · exact hs.execViabs
  · exact hs.execViand
  · exact hs.execVior
  · exact hs.execVixor
  · exact hs.execViandn
  · exact hs.execVishl
  · exact hs.execVishr
  · exact hs.execVisra
  · exact hs.execVpop
  · exact hs.execVclz
  · exact hs.execVbfe
  · exact hs.execVbfi
  · exact hs.execVprm
  · exact hs.execVicmp
  · exact hs.execVaddImm
  · exact hs.execVmulImm
  · exact hs.execVminImm
  · exact hs.execVmaxImm
  · exact hs.execViaddImm
  · exact hs.execViandImm
  · exact hs.execViorImm
  · exact hs.execVixorImm
  · exact hs.execVishlImm
  · exact hs.execVishrImm
  · exact hs.execVisraImm
  · exact hs.execVmoviF32
  · exact hs.execVmoviB32
  · exact hs.execVmoviF16x2
  · exact hs.execVmoviF8e4x2
  · exact hs.execVmoviF8e5x2
  · exact hs.execVsqrt
  · exact hs.execVrsq
  · exact hs.execVrcp
  · exact hs.execVabs
  · exact hs.execVneg
  · exact hs.execVexp2
  · exact hs.execVlog2
  · exact hs.execVsinp
  · exact hs.execVcosp
  · exact hs.execVtanh
  · exact hs.execVrnd
  · exact hs.execVgetexp
  · exact hs.execVgetman
  · exact hs.execVcvt
  · exact hs.execVmov
  · exact hs.execVmovLane
  · exact hs.execVmovs
  · exact hs.execVshfl
  · exact hs.execVrotw
  · exact hs.execVxorw
  · exact hs.execVbcst
  · exact hs.execVbcstFirst
  · exact hs.execVrstep
  · exact hs.execVred
  · exact hs.execVscan
  · exact hs.execVmatch
  · exact hs.execVball
  · exact hs.execVcomp
  · exact hs.execPand
  · exact hs.execPor
  · exact hs.execPxor
  · exact hs.execPnot
  · exact hs.execPmov
  · exact hs.execPset
  · exact hs.execPpop
  · exact hs.execExrd
  · exact hs.execExwr
  · exact hs.execLd
  · exact hs.execSt
  · exact hs.execScopedLd
  · exact hs.execScopedSt
  · exact hs.execCas
  · exact hs.execAtomAdd
  · exact hs.execAtomAnd
  · exact hs.execAtomOr
  · exact hs.execAtomXor
  · exact hs.execAtomMin
  · exact hs.execAtomMax
  · exact hs.execAtomMinn
  · exact hs.execAtomMaxn
  · exact hs.execAtomExch
  · exact hs.execAtomFadd
  · exact hs.execFence
  · exact hs.execCflush
  · exact hs.execCinv
  · exact hs.execCinvI
  · exact hs.execTbar
  · exact hs.execTbara
  · exact hs.execTbarw
  · exact hs.execCbar
  · exact hs.execMma
  · exact hs.execMmas
  · exact hs.execMmao
  · exact hs.execMzero
  · exact hs.execMrd
  · exact hs.execMwr
  · exact hs.execMepi
  · exact hs.execMrdy
  · exact hs.execMfen
  · exact hs.execMwait
  · exact hs.execMstatReset
  · exact hs.execMstatMax
  · exact hs.execMstatRead
  · exact hs.execMatrixWordComplete
  · exact hs.execTdef
  · exact hs.execTrel
  · exact hs.execTstate
  · exact hs.execTfetch
  · exact hs.execTgath
  · exact hs.execTcommit
  · exact hs.execTwin
  · exact hs.execTwinRd
  · exact hs.execAbar
  · exact hs.execAbwait
  · exact hs.execRginit
  · exact hs.execRgawait
  · exact hs.execRgrel
  · exact hs.execVdecode
  · exact hs.execRshard
  · exact hs.execRsstop
  · exact hs.execRsstat
  · exact hs.execRsplan
  · exact hs.execTcopy
  · exact hs.execTfill
  · exact hs.execTredf
  · exact hs.execSignal
  · exact hs.execFflag
  · exact hs.execPbar
  · exact hs.execMcst
  · exact hs.execTrap
  · exact hs.execBkpt
  · exact hs.execWatch
  · exact hs.execGstop
  · exact hs.execGresumeRetry
  · exact hs.execGresumeFmask
  · exact hs.execGresumeSkip
  · exact hs.execGkill
  · exact hs.execCsrrd
  · exact hs.execCsrwr
  · exact hs.execTlbinv
  · exact hs.execHrun
  · exact hs.execHend
  · exact hs.execHimm
  · exact hs.execHmod
  · exact hs.execRunStart
  · exact hs.execResultCommit
  · exact hs.execEarlyDecision
  · exact hs.execQueueTakeRecord
  · exact hs.execPlaceCluster
  · exact hs.execSwapOut
  · exact hs.execLaunchComplete
  · exact hs.execGangSliceStart
  · exact hs.execFetchArrival
  · exact hs.execCommitComplete
  · exact hs.execModuleCommandComplete
  · exact hs.execFetchEngineReset
  · exact hs.execStrudelPlanning
  · exact hs.execBoxComplete
  · exact hs.execFaultRecordPost
  · exact hs.execFrwait
  · exact hs.execCsrWrite
  · exact hs.execCtxSave
  · exact hs.execCtxRestore
  · exact hs.execCtxExport
  · exact hs.execCtxImport
  · exact hs.execCtxDiscard
  · exact hs.execClassAcknowledge
  · exact hs.execSlowAcknowledgement
  · exact hs.execFlitReceive
  · exact hs.execReplayTimeout
  · exact hs.execLaneLost
  · exact hs.execLaserLost
  · exact hs.execRetrainingEnd
  · exact hs.execLinkTraining
  · exact hs.execTrainingEnd
  · exact hs.execTrainingTimeout
  · exact hs.execLaserAgeing
  · exact hs.execE2eTimerExpiry
  · exact hs.execResponseReceive
  · exact hs.execRequestArrival
  · exact hs.execRequestRecordExpiry
  · exact hs.execNotResidentRetry
  · exact hs.execHoldNotice
  · exact hs.execMergeHoldLapse
  · exact hs.execRelayForward
  · exact hs.execCombineHoldExpiry
  · exact hs.execRouteMarkLapse
  · exact hs.execCancel
  · exact hs.execCancelTimeout
  · exact hs.execCoalesceHoldExpiry
  · exact hs.execSignalData
  · exact hs.execSignalBusyRetry
  · exact hs.execFflagStore
  · exact hs.execMcstData
  · exact hs.execPhaseBoundary
  · exact hs.execPodBarrierState
  · exact hs.execTimePacket
  · exact hs.execTimeSilence
  · exact hs.execElectionClaim
  · exact hs.execClaimReceive
  · exact hs.execMasterInstall
  · exact hs.execSecBind
  · exact hs.execSecPair
  · exact hs.execSecQuote
  · exact hs.execSecSeal
  · exact hs.execSecUnseal
  · exact hs.execCksave
  · exact hs.execCkrest
  · exact hs.execSecUnbind
  · exact hs.execBootGo
  · exact hs.execInstallEntry
  · exact hs.execMinRst
  · exact hs.execSupplySag
  · exact hs.execClockStepUp
  · exact hs.execThermalLimit
  · exact hs.execHostMemoryAccess
  · exact hs.execMgmtCsrRead
  · exact hs.execMgmtCsrWrite
  · exact hs.execMgmtSecurityCommand
  · exact hs.execMgmtReply
  · exact hs.execPackageReset
  · exact hs.execCommitTileReadDone
  · exact hs.execPairTimeout
  · exact hs.execMgmtFrameRetry
  · exact hs.execLitIntervalStart

/-! ### Bit errors -/

theorem Form.errorCorrected (hs : Form kept s) : Form kept s.errorCorrected := hs
theorem Mem.Sound.tileStruck {core bank row shown seed} (hs : m.Sound lim) :
    (m.tileStruck core bank row shown seed).Sound lim := by
  unfold Mem.tileStruck
  dsimp only
  exact .ite (.ite hs hs) (.ite hs ⟨hs.1, writeBytes_wf _ _ _ hs.2.1, hs.2.2⟩)

theorem Form.struck {e} (hs : Form kept s) : Form kept.more (s.struck e) := by
  have hm := hs.more
  have counted : s.mem.corrections + 1 ≤ kept.corrections + 1 := Nat.succ_le_succ hs.1.2.2.2
  unfold State.struck
  split
  · exact ⟨hm.1.tileStruck, (Form.ite hm hm.drew).2⟩
  · exact .ite hm ⟨⟨hm.1.1, hm.1.2.1, hm.1.2.2.1, counted⟩, hm.2⟩
  · exact .ite (.onGroup (.drawn hm)) hm.errorCorrected
  · exact .errorCorrected ⟨hm.1.l1Drop, hm.2⟩
  · exact ⟨hm.1, hm.2⟩
  · exact ⟨⟨hm.1.1, hm.1.2.1, writeBytes_wf _ _ _ hm.1.2.2.1, hm.1.2.2.2⟩, hm.2⟩
  · exact .ite hm ⟨⟨hm.1.1, hm.1.2.1, hm.1.2.2.1, counted⟩, hm.2⟩

/-! ### Events -/

/-- Every event but a bit error is run by an instruction. -/
theorem Form.runEvent_of_no_error {e} (he : ∀ b, e ≠ .bitError b) (hs : Form kept s) : Keeps kept (runEvent e s) := by
  unfold Machine.runEvent
  split
  · exact hs.execSplitRefill
  · exact hs.execMatrixWordComplete
  · exact hs.execRunStart
  · exact hs.execResultCommit
  · exact hs.execEarlyDecision
  · exact hs.execQueueTakeRecord
  · exact hs.execPlaceCluster
  · exact hs.execSwapOut
  · exact hs.execLaunchComplete
  · exact hs.execGangSliceStart
  · exact hs.execFetchArrival
  · exact hs.execCommitComplete
  · exact hs.execModuleCommandComplete
  · exact hs.execFetchEngineReset
  · exact hs.execStrudelPlanning
  · exact hs.execBoxComplete
  · exact hs.execFaultRecordPost
  · exact hs.execFrwait
  · exact hs.execCsrWrite
  · exact hs.execCtxSave
  · exact hs.execCtxRestore
  · exact hs.execCtxExport
  · exact hs.execCtxImport
  · exact hs.execCtxDiscard
  · exact hs.execClassAcknowledge
  · exact hs.execSlowAcknowledgement
  · exact hs.execFlitReceive
  · exact hs.execReplayTimeout
  · exact hs.execLaneLost
  · exact hs.execLaserLost
  · exact hs.execRetrainingEnd
  · exact hs.execLinkTraining
  · exact hs.execTrainingEnd
  · exact hs.execTrainingTimeout
  · exact hs.execLaserAgeing
  · exact hs.execE2eTimerExpiry
  · exact hs.execResponseReceive
  · exact hs.execRequestArrival
  · exact hs.execRequestRecordExpiry
  · exact hs.execNotResidentRetry
  · exact hs.execHoldNotice
  · exact hs.execMergeHoldLapse
  · exact hs.execRelayForward
  · exact hs.execCombineHoldExpiry
  · exact hs.execRouteMarkLapse
  · exact hs.execCancel
  · exact hs.execCancelTimeout
  · exact hs.execCoalesceHoldExpiry
  · exact hs.execSignalData
  · exact hs.execSignalBusyRetry
  · exact hs.execFflagStore
  · exact hs.execMcstData
  · exact hs.execPhaseBoundary
  · exact hs.execPodBarrierState
  · exact hs.execTimePacket
  · exact hs.execTimeSilence
  · exact hs.execElectionClaim
  · exact hs.execClaimReceive
  · exact hs.execMasterInstall
  · exact hs.execSecBind
  · exact hs.execSecPair
  · exact hs.execSecQuote
  · exact hs.execSecSeal
  · exact hs.execSecUnseal
  · exact hs.execCksave
  · exact hs.execCkrest
  · exact hs.execSecUnbind
  · exact hs.execBootGo
  · exact hs.execInstallEntry
  · exact hs.execMinRst
  · exact hs.execSupplySag
  · exact hs.execClockStepUp
  · exact hs.execThermalLimit
  · exact hs.execHostMemoryAccess
  · exact hs.execMgmtCsrRead
  · exact hs.execMgmtCsrWrite
  · exact hs.execMgmtSecurityCommand
  · exact hs.execMgmtReply
  · exact hs.execPackageReset
  · exact hs.execCommitTileReadDone
  · exact hs.execPairTimeout
  · exact hs.execMgmtFrameRetry
  · exact hs.execLitIntervalStart
  · exact absurd rfl (he _)

/-- A bit error may count one more corrected error. -/
theorem Form.runEvent {e} (hs : Form kept s) : Keeps kept.more (runEvent e s) := by
  by_cases he : ∃ b, e = .bitError b
  · obtain ⟨b, rfl⟩ := he
    exact .next hs.struck
  · exact (hs.runEvent_of_no_error fun b h => he ⟨b, h⟩).more

/-! ### The step -/

theorem Form.fetchInstr (hs : Form kept s) :
    (∀ t, s.fetchInstr = .error t → Form kept t) ∧ ∀ p, s.fetchInstr = .ok p → Form kept p.1 := by
  unfold State.fetchInstr
  split
  · rename_i e
    exact ⟨fun t h => (by cases h; exact .trap0 (.fst e hs.fetchWord)), fun p h => by cases h⟩
  · rename_i e
    have h1 := Form.fst e hs.fetchWord
    split
    · exact ⟨fun t h => (by cases h; exact Form.trap0 h1), fun p h => by cases h⟩
    · split
      · exact ⟨fun t h => (by cases h; exact Form.trap0 h1), fun p h => by cases h⟩
      · exact ⟨fun t h => (by cases h), fun p h => (by cases h; exact h1)⟩

theorem Form.issue (hs : Form kept s) : Keeps kept s.issue := by
  unfold State.issue
  split
  · exact hs.runEvent_of_no_error fun b h => nomatch h
  · split
    · exact .next hs.setFrag
    · split
      · exact .next hs.trapSkip
      · split
        · exact Form.exec hs
        · split
          · rename_i e
            exact .next (hs.fetchInstr.1 _ e)
          · rename_i e
            exact Form.exec (hs.fetchInstr.2 _ e)

theorem Form.passTime (hs : Form kept s) : Form kept s.passTime := hs
theorem Form.idleStep (hs : Form kept s) : Form kept s.idleStep := hs
theorem Form.took {r} (hs : Form kept s) : Form kept (s.took r) := by
  unfold State.took
  dsimp only
  exact .selectFrag (.selectGroup (.withGroups ⟨hs.1, hs.2⟩))

theorem Form.reportWith {f} (hs : Form kept s) : Form kept (s.reportWith f) := by
  unfold State.reportWith
  dsimp only
  split <;> exact .report hs

theorem Form.reportFault (hs : Form kept s) : Form kept s.reportFault := by
  unfold State.reportFault
  split
  · exact hs
  · exact hs.reportWith

theorem Form.performAt {i} (hs : Form kept s) : Form kept (s.performAt i) := by
  unfold State.performAt
  split
  · exact hs
  · dsimp only
    exact ⟨.lands hs.1, hs.2⟩

theorem Form.happen {c} (hs : Form kept s) : Keeps kept.more (s.happen c) := by
  unfold State.happen
  split
  · exact hs.took.issue.more
  · exact .next hs.selectGroup.reportFault.more
  · exact .next hs.selectGroup.meetDue.more
  · exact .next hs.performAt.more
  · exact hs.runEvent

theorem Form.choose {cs} (hs : Form kept s) : Keeps kept.more (s.choose cs) := by
  unfold State.choose
  split
  · exact .next hs.idleStep.more
  · exact hs.happen
  · exact hs.drawn.happen

theorem Form.cycleFrom (hs : Form kept s) : Keeps kept.more s.cycleFrom := by
  unfold State.cycleFrom
  split
  · exact hs.issue.more
  · split
    · exact Form.runEvent hs
    · exact hs.choose

theorem Form.cycle (hs : Form kept s) : Keeps kept.more s.cycle :=
  hs.noteWakes.cycleFrom
theorem Form.step (hs : Form kept s) : Keeps kept.more (step s) :=
  hs.cycle

end Frame

end Sys2Proof.Machine

namespace Sys2Proof.Claims

open Sys2Proof.Machine Sys2Proof.Safety

/-- Settles O58: the memories of the reset state are empty and its node is 0. -/
theorem resetStateIsCanonical : Obligations.ResetStateIsCanonical :=
  ⟨State.reset_canonical, show (0 : Nat) < 2304 by decide⟩

/-- Settles O59: the form is kept by every operation that a step is made of, up to the step itself. -/
theorem everyStepGoesOnAndKeepsTheForm : Obligations.EveryStepGoesOnAndKeepsTheForm := by
  intro s hc hn
  obtain ⟨hpkg, htile, hfar⟩ := hc
  have form : Form { node := s.node, corrections := s.mem.corrections } s := ⟨⟨hpkg, htile, hfar, le_rfl⟩, rfl⟩
  obtain ⟨t, hstep, ⟨tpkg, ttile, tfar, -⟩, hnode⟩ := form.step
  have same : t.node = s.node := hnode
  exact ⟨t, hstep, ⟨tpkg, ttile, tfar⟩, by rwa [NodeInPod, same], same⟩

/-- A single error of a word of package memory is corrected and counted, and the event of it has no constructor of Instr: no
instruction counts one. -/
theorem not_exec_of_corrected_error (i : Instr) : runEvent (.bitError (.package 0 false)) State.reset ≠ exec i State.reset := by
  intro h
  have form : Form { node := State.reset.node, corrections := 0 } State.reset :=
    ⟨⟨rfl, rfl, rfl, le_rfl⟩, rfl⟩
  obtain ⟨t, hexec, ⟨-, -, -, hcount⟩, -⟩ := form.exec (i := i)
  rw [hexec] at h
  cases h
  exact absurd hcount (by decide)

/-- Refutes O60: the last clause takes in the bit errors of the environment, which are events that no constructor of Instr
    runs. -/
theorem not_stepRunsTheDecodedInstruction : ¬ Obligations.StepRunsTheDecodedInstruction := by
  intro h
  obtain ⟨-, -, -, -, -, hevents⟩ := h
  obtain ⟨i, hi⟩ := hevents (.bitError (.package 0 false))
  exact not_exec_of_corrected_error i (hi State.reset)

end Sys2Proof.Claims

namespace Sys2Proof.Machine

open Sys2Proof.Safety Sys2Proof.Claims

/-! # Register fields and hints -/

/-- A word of one-register operands with a field that names no register traps (R13). -/
theorem State.withRefs_none {s : State} {fields : List (BitVec 7)} {n : BitVec 7} (k : List RegRef → State)
    (hn : n ∈ fields) (h : s.ref n.toNat = none) : s.withRefs fields k = s.trap0 2 0 := by
  have hm : fields.mapM (fun n => s.ref n.toNat) = none := by
    induction fields with
    | nil => cases hn
    | cons m fs ih =>
      rw [List.mapM_cons]
      rcases List.mem_cons.mp hn with rfl | hm
      · simp [h]
      · simp [ih hm]
  simp only [State.withRefs, hm]

theorem State.ref_temp {s : State} {n : Nat} (hr : s.cur.run.isSome = true) (h1 : 120 ≤ n) (h2 : n < 128) :
    s.ref n = some (.temp (n - 120)) := by
  simp [State.ref, hr, h1, h2]

/-- Outside the first case of R13 a field names a register of the window, or none. -/
theorem State.ref_window {s : State} {n : Nat} (h : s.cur.run = none ∨ n < 120) :
    s.ref n = if n + s.xw < s.cur.id.vregs then some (.reg (n + s.xw)) else none := by
  refine if_neg ?_
  rcases h with h | h
  · simp [h]
  · simp [Nat.not_le.mpr h]

end Sys2Proof.Machine

namespace Sys2Proof.Claims

open Sys2Proof.Machine Sys2Proof.Safety

/-- Settles O11: the cases of the reference that a field names, and the trap of a word with a field that names none. -/
theorem registerFieldNamesOneRegister : Obligations.RegisterFieldNamesOneRegister := by
  intro s n
  refine ⟨fun hr h => State.ref_temp hr h n.isLt, fun h hn => ?_, fun h hn => ?_⟩
  · exact (State.ref_window h).trans (if_pos hn)
  · have hnone : s.ref n.toNat = none := (State.ref_window h).trans (if_neg (Nat.not_lt.mpr hn))
    have trapped := (State.trap0_spec s 2 0).1
    refine ⟨hnone, fun d a => ⟨_, _, rfl, ?_, rfl, ?_⟩⟩
    · rwa [State.vec2, State.withRefs_none (n := n) _ (by simp) hnone]
    · rwa [State.vec2, State.withRefs_none (n := n) _ (by simp) hnone]

/-- Settles O18: the hint changes, and with it what it stands before the next word; a misplaced hint traps. -/
theorem hintsAreLatchedForTheNextWord : Obligations.HintsAreLatchedForTheNextWord := by
  intro s p g n q r m c o w x
  refine ⟨fun h => ?_, fun h => ?_, fun h => ?_, fun h => ?_⟩
  · have e : exec (.himm p) s = .next (s.latch (some p) none) := by
      show execHimm p s = _
      simp [execHimm, h]
    refine ⟨_, e, OnlyGroup.of_mem rfl, rfl, ?_⟩
    simp [State.latch, State.unitPc, h, after]
  · exact ⟨_, congrArg Host.Outcome.next (if_pos h), (State.trap0_spec s 0 4).1⟩
  · have e : exec (.hmod g n q r m c o w x) s = .next (s.latch s.himm (some (modOf g n q r m c o w x))) :=
      congrArg Host.Outcome.next (if_neg (Option.not_isSome_iff_eq_none.mpr h))
    exact ⟨_, e, OnlyGroup.of_mem rfl, rfl, rfl, rfl, rfl, rfl⟩
  · exact ⟨_, congrArg Host.Outcome.next (if_pos h), (State.trap0_spec s 0 4).1⟩

end Sys2Proof.Claims

/-! # Batches of matrix words -/

namespace Sys2Proof.Machine

open Sys2Proof.Safety Sys2Proof.Claims

/-! ## Closing a batch (R223) -/

theorem Regs.bindFlag_eq (r : Regs) (i : Nat) : r.bindFlag i = { r with fpend := (r.bindFlag i).fpend } := by
  unfold Regs.bindFlag; split <;> rfl

/-- The bindings of a batch complete: no other register changes. -/
theorem Regs.unbindFlags_eq (xs : List (Nat × Nat)) (r : Regs) :
    xs.foldl (fun (r : Regs) x => r.unbindFlag x.2) r
      = { r with fpend := (xs.foldl (fun (r : Regs) x => r.unbindFlag x.2) r).fpend } :=
  List.foldlRecOn (motive := fun q => q = { r with fpend := q.fpend }) xs _ rfl
    fun q hq x _ => (Regs.unbindFlag_eq q x.2).trans (by rw [hq])

/-- A batch with a word left does not settle. -/
theorem Group.settleBatch_of_word {g : Group} {b : Nat} (h : g.matrix.words.any (fun w => w.batch == some b) = true) :
    g.settleBatch b = g := if_pos h

/-- What the settling of a batch may change: FSTAT, flags, and what the group keeps of the batch. -/
theorem Group.settleBatch_frame (g : Group) (b : Nat) :
    g.settleBatch b = { g with
      regs := { g.regs with fstat := (g.settleBatch b).regs.fstat, fpend := (g.settleBatch b).regs.fpend },
      matrix := { g.matrix with flags := (g.settleBatch b).matrix.flags, binds := (g.settleBatch b).matrix.binds } } := by
  unfold Group.settleBatch
  split
  · rfl
  · dsimp only
    rw [Regs.unbindFlags_eq]

/-- A batch without a word left raises its flags. -/
theorem Group.settleBatch_fstat {g : Group} {b : Nat} (h : g.matrix.words.any (fun w => w.batch == some b) = false) :
    (g.settleBatch b).regs.fstat = g.regs.fstat ||| sget 0#8 g.matrix.flags b := by
  rw [Group.settleBatch, if_neg (by simp [h])]
  dsimp only
  rw [Regs.unbindFlags_eq]

theorem Group.settleBatch_flags_ne (g : Group) {b k : Nat} (h : k ≠ b) :
    sget 0#8 (g.settleBatch b).matrix.flags k = sget 0#8 g.matrix.flags k := by
  unfold Group.settleBatch
  split
  · rfl
  · exact sget_sdel_ne _ _ h

/-- The batch that a word or a result belongs to when the open batch is closed into `key`. -/
def closedInto (key : Nat) (x : Option Nat) : Option Nat := if x.isNone then some key else x

theorem closedInto_of_ne_none (key : Nat) {x : Option Nat} (h : x ≠ none) : closedInto key x = x :=
  if_neg (by simpa using h)

theorem closedInto_eq_some (key : Nat) (x : Option Nat) : closedInto key x = some key ↔ x = none ∨ x = some key := by
  cases x <;> simp [closedInto]

/-- The matrix state when the open batch has been closed into `key` with flag `f` bound. -/
def MatrixState.closed (m : MatrixState) (key f : Nat) : MatrixState :=
  { m with
    words := m.words.map (fun w => { w with batch := closedInto key w.batch }),
    results := m.results.map (fun r => { r with batch := closedInto key r.batch }),
    flags := sdel (sput 0#8 m.flags key (sget 0#8 m.flags key ||| sget 0#8 m.flags 16)) 16,
    poison := sdel (sput false m.poison key (sget false m.poison key || sget false m.poison 16)) 16,
    binds := if f < 12 then m.binds ++ [(key, f)] else m.binds }

theorem MatrixState.closed_words (m : MatrixState) (key f : Nat) :
    (m.closed key f).words = m.words.map (fun w => if w.batch = none then { w with batch := some key } else w) := by
  refine List.map_congr_left fun w _ => ?_
  split
  · rename_i h
    simp [closedInto, h]
  · rename_i h
    rw [closedInto_of_ne_none key h]

theorem MatrixState.closed_results (m : MatrixState) (key f : Nat) :
    (m.closed key f).results = m.results.map (fun r => if r.batch = none then { r with batch := some key } else r) := by
  refine List.map_congr_left fun r _ => ?_
  split
  · rename_i h
    simp [closedInto, h]
  · rename_i h
    rw [closedInto_of_ne_none key h]

theorem MatrixState.closed_flags (m : MatrixState) {key : Nat} (f : Nat) (h : key ≠ 16) :
    sget 0#8 (m.closed key f).flags key = sget 0#8 m.flags key ||| sget 0#8 m.flags 16 := by
  rw [MatrixState.closed, sget_sdel_ne _ _ h, sget_sput_same]

theorem MatrixState.closed_busy (m : MatrixState) (key f : Nat) :
    (m.closed key f).words.any (fun w => w.batch == some key) = true
      ↔ ∃ w ∈ m.words, w.batch = none ∨ w.batch = some key := by
  simp [MatrixState.closed, List.any_eq_true, closedInto_eq_some]

/-- The group when MFEN has closed the open batch. -/
def Group.fenced (g : Group) (key f : Nat) : Group :=
  Group.settleBatch { g with regs := g.regs.bindFlag f, matrix := g.matrix.closed key f } key

theorem flagField_eq (x : DWord) : (x.extractLsb' 0 4).toNat = bitsOf x 0 4 := by
  simp [bitsOf]

theorem exec_mfen {s : State} {a : BitVec 6} (b : BitVec 4)
    (h : ¬(12 ≤ bitsOf (s.getS a) 0 4 ∧ bitsOf (s.getS a) 0 4 ≤ 14)) :
    exec (.mfen a b) s = .next (State.advance { s with
      cur := s.cur.fenced b.toNat (bitsOf (s.getS a) 0 4), mem := s.mem.epiClosed s.cur.id.key b.toNat }) := by
  show execMfen a b s = _
  unfold execMfen
  rw [flagField_eq]
  exact congrArg Host.Outcome.next (if_neg (by simpa using h))

theorem exec_mfen_fault {s : State} {a : BitVec 6} (b : BitVec 4) (h1 : 12 ≤ bitsOf (s.getS a) 0 4)
    (h2 : bitsOf (s.getS a) 0 4 ≤ 14) : exec (.mfen a b) s = .next (s.trap0 14 0) := by
  show execMfen a b s = _
  unfold execMfen
  rw [flagField_eq]
  exact congrArg Host.Outcome.next (if_pos (by simp [h1, h2]))

theorem Mem.epiClosed_eq (m : Mem) (g : GroupKey) (b : Nat) : m.epiClosed g b = { m with epi := (m.epiClosed g b).epi } := by
  unfold Mem.epiClosed; split <;> rfl

/-- The open batch closed into another: what MFEN does to the group. -/
theorem Group.fenced_frame (g : Group) (key f : Nat) :
    (g.fenced key f).regs.v = g.regs.v ∧ (g.fenced key f).frag = g.frag
      ∧ (g.fenced key f).matrix.words = (g.matrix.closed key f).words
      ∧ (g.fenced key f).matrix.results = (g.matrix.closed key f).results := by
  unfold Group.fenced
  rw [Group.settleBatch_frame, Regs.bindFlag_eq]
  exact ⟨rfl, rfl, rfl, rfl⟩

theorem Group.fenced_open (g : Group) {key : Nat} (f : Nat) (h : key ≠ 16) :
    sget 0#8 (g.fenced key f).matrix.flags 16 = 0#8 :=
  (Group.settleBatch_flags_ne _ (Ne.symm h)).trans (sget_sdel_same _ _ _)

/-- With a word of the batch left, its flags wait. -/
theorem Group.fenced_busy (g : Group) {key : Nat} (f : Nat) (h : key ≠ 16)
    (hw : ∃ w ∈ g.matrix.words, w.batch = none ∨ w.batch = some key) :
    (g.fenced key f).regs = g.regs.bindFlag f
      ∧ sget 0#8 (g.fenced key f).matrix.flags key = sget 0#8 g.matrix.flags key ||| sget 0#8 g.matrix.flags 16 := by
  rw [Group.fenced, Group.settleBatch_of_word ((g.matrix.closed_busy key f).mpr hw)]
  exact ⟨rfl, g.matrix.closed_flags f h⟩

/-- With none left, they are raised. -/
theorem Group.fenced_done (g : Group) {key : Nat} (f : Nat) (h : key ≠ 16)
    (hw : ∀ w ∈ g.matrix.words, w.batch ≠ none ∧ w.batch ≠ some key) :
    (g.fenced key f).regs.fstat = g.regs.fstat ||| (sget 0#8 g.matrix.flags key ||| sget 0#8 g.matrix.flags 16) := by
  have idle : (g.matrix.closed key f).words.any (fun w => w.batch == some key) = false := by
    rw [← Bool.not_eq_true, g.matrix.closed_busy]
    rintro ⟨w, hm, he⟩
    exact he.elim (hw w hm).1 (hw w hm).2
  rw [Group.fenced, Group.settleBatch_fstat idle, g.matrix.closed_flags f h, Regs.bindFlag_eq]

/-! ## Delivering a batch (R224, R227) -/

theorem laneOf_landing (seed : Nat) (m : MResult) (cur : Lanes) {l : Nat} (hl : l < 32) (ht : m.touched.getLsbD l = false) :
    laneOf (landing seed m cur) l = if m.operand = true ∨ m.mask.getLsbD l = true then laneOf m.value l else laneOf cur l := by
  unfold landing
  split <;> rename_i ho
  · rw [laneOf_mergeLanes _ _ _ hl, ht]
    simp [ho]
  · rw [laneOf_mergeLanes _ _ _ hl, laneOf_mergeLanes _ _ _ hl, ht]
    simp [ho]

theorem MResult.follows_id (seed : Nat) (cur : Lanes) (m x : MResult) :
    (m.follows seed cur x).id = x.id ∧ (m.follows seed cur x).reg = x.reg := by
  unfold MResult.follows
  split <;> exact ⟨rfl, rfl⟩

/-- Delivery changes vector registers and accumulator rows of the group, and draws free values. -/
theorem landAll_frame (ms : List MResult) (s : State) (os : List MResult) :
    (landAll ms s os).1 = { s with
      cur := { s.cur with regs := { s.cur.regs with
        v := (landAll ms s os).1.cur.regs.v, ac := (landAll ms s os).1.cur.regs.ac } },
      fresh := (landAll ms s os).1.fresh } := by
  induction ms generalizing s os with
  | nil => rfl
  | cons m ms ih =>
    rw [landAll, ih]
    rfl

theorem landAll_ids (ms : List MResult) (s : State) (os : List MResult) : (landAll ms s os).2.map (·.id) = os.map (·.id) := by
  induction ms generalizing s os with
  | nil => rfl
  | cons m ms ih =>
    rw [landAll, ih, List.map_map]
    exact List.map_congr_left fun x _ => (MResult.follows_id _ _ m x).1

/-- Results that the group has not written over undo no accumulator row. -/
theorem landAll_ac (ms : List MResult) (s : State) (os : List MResult) (h : ∀ m ∈ ms, m.touched = 0#32) :
    (landAll ms s os).1.cur.regs.ac = s.cur.regs.ac := by
  induction ms generalizing s os with
  | nil => rfl
  | cons m ms ih =>
    rw [landAll, ih _ _ fun x hx => h x (.tail _ hx)]
    exact if_neg (by simp [h m (.head _)])

/-- A register that no entry of the batch names keeps its value. -/
theorem landAll_other (ms : List MResult) (s : State) (os : List MResult) {n : Nat} (h : ∀ m ∈ ms, n ≠ m.reg) :
    sget zeroLanes (landAll ms s os).1.cur.regs.v n = sget zeroLanes s.cur.regs.v n := by
  induction ms generalizing s os with
  | nil => rfl
  | cons m ms ih =>
    rw [landAll, ih _ _ fun x hx => h x (.tail _ hx)]
    show sget zeroLanes (if _ then _ else _) n = _
    split
    · rfl
    · exact sget_sput_ne _ _ _ (h m (.head _))

/-- A register that one entry names, and no entry that waits, holds what the entry delivers. -/
theorem landAll_value (ms : List MResult) (s : State) (os : List MResult) (hn : (ms.map (·.reg)).Nodup)
    (ho : ∀ m ∈ ms, ∀ q ∈ os, q.reg ≠ m.reg) (m : MResult) (hm : m ∈ ms) :
    ∃ seed, sget zeroLanes (landAll ms s os).1.cur.regs.v m.reg = landing seed m (sget zeroLanes s.cur.regs.v m.reg) := by
  induction ms generalizing s os with
  | nil => cases hm
  | cons x ms ih =>
    obtain ⟨hx, hn⟩ := List.nodup_cons.mp hn
    have apart : ∀ y ∈ ms, x.reg ≠ y.reg := fun y hy e => hx (List.mem_map.mpr ⟨y, hy, e.symm⟩)
    have unheld : (ms ++ os).any (MResult.holds x.reg) = false := by
      refine List.any_eq_false.mpr fun q hq => ?_
      have : q.reg ≠ x.reg := (List.mem_append.mp hq).elim (fun h => (apart q h).symm) (ho x (.head _) q)
      simp [MResult.holds, this]
    have head : (s.cur.land s.fresh x (ms ++ os)).regs.v
        = sput zeroLanes s.cur.regs.v x.reg (landing s.fresh x (sget zeroLanes s.cur.regs.v x.reg)) :=
      if_neg (by simp [unheld])
    rw [landAll]
    rcases List.mem_cons.mp hm with rfl | hm
    · refine ⟨s.fresh, ?_⟩
      rw [landAll_other _ _ _ apart]
      exact (congrArg (sget zeroLanes · m.reg) head).trans (sget_sput_same _ _ _ _)
    · obtain ⟨seed, e⟩ := ih { s.drew 600 with cur := s.cur.land s.fresh x (ms ++ os) }
        (os.map (MResult.follows s.fresh (sget zeroLanes s.cur.regs.v x.reg) x)) hn (fun y hy q hq => by
          obtain ⟨p, hp, rfl⟩ := List.mem_map.mp hq
          rw [(MResult.follows_id _ _ x p).2]
          exact ho y (.tail _ hy) p hp) hm
      refine ⟨seed, e.trans ?_⟩
      have keep : sget zeroLanes (s.cur.land s.fresh x (ms ++ os)).regs.v m.reg = sget zeroLanes s.cur.regs.v m.reg := by
        rw [head, sget_sput_ne _ _ _ (apart m hm).symm]
      exact congrArg _ keep


/-- Entries of a batch, and the entries that remain. -/
def MatrixState.entriesOf (m : MatrixState) (key : Nat) : List MResult := m.results.filter (fun r => r.batch == some key)
def MatrixState.entriesLeft (m : MatrixState) (key : Nat) : List MResult := m.results.filter (fun r => r.batch != some key)

/-- The group with a batch delivered, before the word that waited for it goes on or reports poison. -/
def State.delivered (s : State) (key : Nat) : State :=
  let l := landAll (s.cur.matrix.entriesOf key) s (s.cur.matrix.entriesLeft key)
  { l.1 with
    cur := { l.1.cur with matrix := { l.1.cur.matrix with results := l.2, poison := sdel l.1.cur.matrix.poison key } },
    mem := l.1.mem.epiPassed l.1.cur.id.key key }

theorem exec_mwait {s : State} {b : BitVec 4} (h : s.cur.matrix.words.any (fun w => w.batch == some b.toNat) = false) :
    exec (.mwait b) s = .next (if sget false s.cur.matrix.poison b.toNat then (s.delivered b.toNat).trap0 14 3
      else (s.delivered b.toNat).advance) := by
  have keep : (landAll (s.cur.matrix.entriesOf b.toNat) s (s.cur.matrix.entriesLeft b.toNat)).1.cur.matrix = s.cur.matrix := by
    rw [landAll_frame]
  rw [← keep]
  exact congrArg Host.Outcome.next (if_neg (by simp [h]))

theorem Mem.epiPassed_eq (m : Mem) (g : GroupKey) (b : Nat) : m.epiPassed g b = { m with epi := (m.epiPassed g b).epi } := by
  unfold Mem.epiPassed; split <;> rfl

/-- No MEPI byte waits for a batch that has passed (R227). -/
theorem Mem.epiPassed_none {m : Mem} {g : GroupKey} {b : Nat} {e : EpiByte} (h : e ∈ (m.epiPassed g b).epi) :
    ¬(e.owner = g ∧ e.batch = b) := by
  unfold Mem.epiPassed at h
  split at h
  · simp_all
  · rintro ⟨ho, hb⟩
    simpa [ho, hb] using (List.mem_filter.mp h).2

/-- What delivery changes: vector registers, accumulator rows, entries and poison of the group, and the MEPI bytes. -/
theorem State.delivered_frame (s : State) (key : Nat) :
    s.delivered key = { s with
      cur := { s.cur with
        regs := { s.cur.regs with v := (s.delivered key).cur.regs.v, ac := (s.delivered key).cur.regs.ac },
        matrix := { s.cur.matrix with
          results := (s.delivered key).cur.matrix.results, poison := sdel s.cur.matrix.poison key } },
      mem := { s.mem with epi := (s.delivered key).mem.epi }, fresh := (s.delivered key).fresh } := by
  unfold State.delivered
  dsimp only
  rw [landAll_frame, Mem.epiPassed_eq]

theorem State.report_cur (s : State) (r : Record) (p : Bool) : (s.report r p).cur = s.cur := by
  unfold State.report State.accept
  split <;> split <;> rfl

/-- A trap leaves the matrix state alone. -/
theorem State.trap0_matrix (s : State) (cls detail : Nat) : (s.trap0 cls detail).cur.matrix = s.cur.matrix := by
  show (State.report _ _ _).cur.matrix = _
  rw [State.report_cur]
  show s.atUnit.cur.settleRun.matrix = _
  rw [Group.settleRun_frame]
  rfl

end Sys2Proof.Machine

namespace Sys2Proof.Claims

open Sys2Proof.Machine Sys2Proof.Safety

/-- MFEN closes the open batch (R223). -/
theorem mfen_closes (s : State) (a : BitVec 6) (b : BitVec 4) (f : Nat) (hf : f = bitsOf (s.getS a) 0 4)
    (h : ¬(12 ≤ f ∧ f ≤ 14)) :
    let m := s.cur.matrix
    ∃ t, exec (.mfen a b) s = .next t ∧ MovedTo s t (after s) ∧ SameBytes s t ∧ t.cur.regs.v = s.cur.regs.v
      ∧ t = { s with cur := t.cur, mem := { s.mem with epi := t.mem.epi } }
      ∧ t.cur.matrix.words = m.words.map (fun w => if w.batch = none then { w with batch := some b.toNat } else w)
      ∧ t.cur.matrix.results = m.results.map (fun r => if r.batch = none then { r with batch := some b.toNat } else r)
      ∧ sget 0#8 t.cur.matrix.flags 16 = 0#8
      ∧ ((∃ w ∈ m.words, w.batch = none ∨ w.batch = some b.toNat) → t.cur.regs = s.cur.regs.bindFlag f
          ∧ sget 0#8 t.cur.matrix.flags b.toNat = sget 0#8 m.flags b.toNat ||| sget 0#8 m.flags 16)
      ∧ ((∀ w ∈ m.words, w.batch ≠ none ∧ w.batch ≠ some b.toNat) →
          t.cur.regs.fstat = s.cur.regs.fstat ||| (sget 0#8 m.flags b.toNat ||| sget 0#8 m.flags 16)) := by
  subst hf
  have notOpen : b.toNat ≠ 16 := Nat.ne_of_lt b.isLt
  obtain ⟨hv, hfrag, hwords, hresults⟩ := s.cur.fenced_frame b.toNat (bitsOf (s.getS a) 0 4)
  have hmem := s.mem.epiClosed_eq s.cur.id.key b.toNat
  refine ⟨_, exec_mfen b h, ?_, fun x => ?_, hv, ?_, hwords.trans (s.cur.matrix.closed_words _ _),
    hresults.trans (s.cur.matrix.closed_results _ _), s.cur.fenced_open _ notOpen, s.cur.fenced_busy _ notOpen,
    s.cur.fenced_done _ notOpen⟩
  · show Frag.movedTo _ _ = _
    rw [hfrag]
    rfl
  · simp only [pkgByte, tileByte, farByte, State.advance, State.goto, State.setFrag_mem]
    rw [hmem]
    exact ⟨rfl, rfl, rfl⟩
  · show State.advance _ = _
    rw [hmem]
    rfl

/-- MWAIT of a batch without poison delivers its entries and goes on (R224, R227). -/
theorem mwait_delivers (s : State) (b : BitVec 4) (hr : NoRun s) :
    let m := s.cur.matrix
    let mine := m.results.filter (fun r => r.batch == some b.toNat)
    m.words.any (fun w => w.batch == some b.toNat) = false → sget false m.poison b.toNat = false →
      ∃ t, exec (.mwait b) s = .next t ∧ MovedTo s t (after s) ∧ SameBytes s t
        ∧ t.cur.matrix.results.map (·.id) = (m.results.filter (fun r => r.batch != some b.toNat)).map (·.id)
        ∧ (∀ e ∈ t.mem.epi, ¬(e.owner = s.cur.id.key ∧ e.batch = b.toNat))
        ∧ (∀ r, (∀ q ∈ mine, r ≠ .reg q.reg) → t.getRef r = s.getRef r)
        ∧ ((∀ r ∈ mine, r.touched = 0#32) → OnlyVectors s t)
        ∧ ((mine.map (·.reg)).Nodup → (∀ r ∈ mine, ∀ q ∈ m.results, q.reg = r.reg → q.batch = some b.toNat) →
            ∀ r ∈ mine, ∀ l, l < 32 → r.touched.getLsbD l = false → laneOf (t.getRef (.reg r.reg)) l =
              if r.operand = true ∨ r.mask.getLsbD l = true then laneOf r.value l else laneOf (s.getRef (.reg r.reg)) l) := by
  intro m mine hw hp
  have e := exec_mwait hw
  rw [hp, if_neg Bool.false_ne_true] at e
  have idle : s.cur.run = none := hr
  have frame := s.delivered_frame b.toNat
  have key : (landAll (m.entriesOf b.toNat) s (m.entriesLeft b.toNat)).1.cur.id.key = s.cur.id.key := by
    rw [landAll_frame]
  have hrun : (s.delivered b.toNat).cur.run = none := by rw [frame]; exact idle
  have reg_s (n : Nat) : s.getRef (.reg n) = sget zeroLanes s.cur.regs.v n := by simp only [State.getRef, idle]
  have reg_t (n : Nat) : (s.delivered b.toNat).advance.getRef (.reg n) = sget zeroLanes (s.delivered b.toNat).cur.regs.v n := by
    simp only [State.getRef, State.advance, State.goto, State.setFrag_cur_run, hrun, State.setFrag_cur_regs]
  refine ⟨_, e, ?_, fun x => ?_, landAll_ids _ _ _, fun x hx => ?_, fun r hq => ?_, fun ht => ?_, fun hn ho r hm l hl ht => ?_⟩
  · show Frag.movedTo _ _ = _
    rw [frame]
    rfl
  · simp only [pkgByte, tileByte, farByte, State.advance, State.goto, State.setFrag_mem]
    rw [frame]
    exact ⟨rfl, rfl, rfl⟩
  · exact key ▸ Mem.epiPassed_none hx
  · cases r with
    | reg n =>
      rw [reg_s, reg_t]
      exact landAll_other _ _ _ fun q h e => hq q h (congrArg RegRef.reg e)
    | temp i => simp only [State.getRef, State.advance, State.goto, State.setFrag_cur_run, hrun, idle]
  · have hac := landAll_ac (s.cur.matrix.entriesOf b.toNat) s (s.cur.matrix.entriesLeft b.toNat) ht
    have regs : (s.delivered b.toNat).cur.regs = { s.cur.regs with v := (s.delivered b.toNat).cur.regs.v } := by
      conv => lhs; rw [frame]
      rw [show (s.delivered b.toNat).cur.regs.ac = s.cur.regs.ac from hac]
    show (s.delivered b.toNat).cur.regs = { s.cur.regs with
      v := (s.delivered b.toNat).cur.regs.v, fstat := (s.delivered b.toNat).cur.regs.fstat,
      fpend := (s.delivered b.toNat).cur.regs.fpend }
    rw [regs]
  · rw [reg_s, reg_t]
    obtain ⟨seed, hv⟩ := landAll_value mine s (s.cur.matrix.entriesLeft b.toNat) hn (fun r hr q hq he => by
      obtain ⟨hq, hb⟩ := List.mem_filter.mp hq
      simp [ho r hr q hq he] at hb) r hm
    exact (congrArg (laneOf · l) hv).trans (laneOf_landing seed r _ hl ht)

/-- Settles O41: MFEN closes a batch, MWAIT waits for it and delivers it, MRDY marks the stores that it has seen. -/
theorem batchesCloseAndEnd : Obligations.BatchesCloseAndEnd := by
  intro s a b hr
  refine ⟨mfen_closes s a b _ rfl, fun h1 h2 => ?_, fun hw => ?_, mwait_delivers s b hr, fun hw hp => ?_, _, rfl, rfl⟩
  · refine ⟨_, ?_, (State.trap0_spec s 14 0).1⟩
    exact exec_mfen_fault b h1 h2
  · exact ⟨_, congrArg Host.Outcome.next (if_pos hw), State.waitAt_spec s _⟩
  · have e := exec_mwait hw
    rw [hp, if_pos rfl] at e
    obtain ⟨⟨stopped, hpc, -, hregs, -⟩, -⟩ := State.trap0_spec (s.delivered b.toNat) 14 3
    refine ⟨_, e, stopped, hpc.trans ?_, by rw [hregs], ?_⟩
    · rw [State.delivered_frame]
      rfl
    · rw [State.trap0_matrix, State.delivered_frame]
      exact sget_sdel_same _ _ _

end Sys2Proof.Claims

/-! # Completion of a matrix word -/

namespace Sys2Proof.Machine

open Sys2Proof.Safety Sys2Proof.Claims

/-! ## Rows of the lanes of a mask (R212) -/

theorem mem_rowsOf {m : Mask} {i : Nat} : i ∈ rowsOf m ↔ i < 32 ∧ m.getLsbD i = true := by
  simp [rowsOf]

section Rows

variable {α : Type} [DecidableEq α]

theorem sget_foldl_rows (d : α) (acc : Nat) (f : Nat → α) (l : List Nat) (hl : ∀ i ∈ l, i < 32) (m : SMap α)
    (k : Nat) :
    sget d (l.foldl (fun a i => sput d a (acc * 32 + i) (f i)) m) k
      = if k / 32 = acc ∧ k % 32 ∈ l then f (k % 32) else sget d m k := by
  induction l generalizing m with
  | nil => simp
  | cons i l ih =>
    have hi := hl i (.head _)
    rw [List.foldl_cons, ih fun j hj => hl j (.tail _ hj)]
    by_cases h : k / 32 = acc ∧ k % 32 ∈ l
    · rw [if_pos h, if_pos ⟨h.1, .tail _ h.2⟩]
    · rw [if_neg h, sget_sput]
      by_cases hk : k = acc * 32 + i
      · have : k / 32 = acc ∧ k % 32 = i := by omega
        rw [if_pos hk, if_pos ⟨this.1, this.2 ▸ .head _⟩, this.2]
      · have : ¬(k / 32 = acc ∧ k % 32 ∈ i :: l) := by
          rintro ⟨h1, h2⟩
          rcases List.mem_cons.mp h2 with h2 | h2
          · omega
          · exact h ⟨h1, h2⟩
        rw [if_neg hk, if_neg this]

/-- The rows of the lanes of a mask in one accumulator are written, and no other. -/
theorem sget_rows (d : α) (acc : Nat) (e : Mask) (f : Nat → α) (m : SMap α) (k : Nat) :
    sget d ((rowsOf e).foldl (fun a i => sput d a (acc * 32 + i) (f i)) m) k
      = if k / 32 = acc ∧ e.getLsbD (k % 32) = true then f (k % 32) else sget d m k := by
  rw [sget_foldl_rows d acc f _ (fun i hi => (mem_rowsOf.mp hi).1)]
  simp [mem_rowsOf, Nat.mod_lt]

theorem sget_rows_on (d : α) (acc : Nat) {e : Mask} (f : Nat → α) (m : SMap α) {i : Nat} (hi : i < 32)
    (he : e.getLsbD i = true) :
    sget d ((rowsOf e).foldl (fun a i => sput d a (acc * 32 + i) (f i)) m) (32 * acc + i) = f i := by
  have : (32 * acc + i) / 32 = acc ∧ (32 * acc + i) % 32 = i := by omega
  rw [sget_rows, this.2, if_pos ⟨this.1, he⟩]

theorem sget_rows_off (d : α) (acc : Nat) {e : Mask} (f : Nat → α) (m : SMap α) {k : Nat}
    (h : k / 32 ≠ acc ∨ e.getLsbD (k % 32) = false) :
    sget d ((rowsOf e).foldl (fun a i => sput d a (acc * 32 + i) (f i)) m) k = sget d m k := by
  rw [sget_rows, if_neg]
  rintro ⟨h1, h2⟩
  rcases h with h | h
  · exact h h1
  · simp [h] at h2

end Rows

/-! ## A word leaves the engine (R21, R226) -/

/-- With one word in all engines, it is the one that may complete. -/
theorem State.completable_only {s : State} {w : MWord} (h : OnlyMatrixWord s w) : s.completable = [(0, w)] := by
  obtain ⟨hw, ho⟩ := h
  have rest : (s.others.zipIdx 1).flatMap (fun gi => (eligible [] gi.1.matrix.words).map (fun w => (gi.2, w))) = [] := by
    refine List.flatMap_eq_nil_iff.mpr fun x hx => ?_
    rw [ho x.1 (List.fst_mem_of_mem_zipIdx hx)]
    rfl
  have first : eligible [] s.cur.matrix.words = [w] := by
    rw [hw]
    simp [eligible]
  simp only [State.completable, State.groups, List.zipIdx_cons, List.flatMap_cons, first]
  rw [Nat.zero_add, rest]
  rfl

theorem exec_matrixWordComplete {s : State} {w : MWord} (h : OnlyMatrixWord s w) :
    exec .matrixWordComplete s = .next { (finishWord s s.cur w).1 with cur := (finishWord s s.cur w).2 } := by
  have one := State.completable_only h
  show execMatrixWordComplete s = _
  unfold execMatrixWordComplete
  rw [one]
  simp [Nat.mod_one, State.groups, State.setGroup, State.withGroups]

/-- The group with a word's results: rows, side registers and delivered values may differ. -/
def Group.WithRows (g h : Group) : Prop :=
  h = { g with
    regs := { g.regs with ac := h.regs.ac, rmax := h.regs.rmax, rsum := h.regs.rsum },
    matrix := { g.matrix with results := h.matrix.results } }

/-- What a word leaves alone as it leaves the engine. -/
theorem Group.wordDone_frame {g : Group} {w : MWord} (hw : g.matrix.words = [w]) (F : Flags) (p : Bool) :
    g.wordDone w F p = { g with
      regs := { g.regs with fstat := (g.wordDone w F p).regs.fstat, fpend := (g.wordDone w F p).regs.fpend },
      matrix := { g.matrix with
        words := [], flags := (g.wordDone w F p).matrix.flags, poison := (g.wordDone w F p).matrix.poison,
        binds := (g.wordDone w F p).matrix.binds } } := by
  have none : g.matrix.words.erase w = [] := by simp [hw]
  unfold Group.wordDone
  dsimp only
  rw [none]
  cases w.batch with
  | none => rfl
  | some b =>
    dsimp only
    rw [Group.settleBatch_frame]

/-- The flags of a word in the open batch wait there (R21). -/
theorem Group.wordDone_open {g : Group} {w : MWord} (hb : w.batch = none) (F : Flags) (p : Bool) :
    sget 0#8 (g.wordDone w F p).matrix.flags 16 = sget 0#8 g.matrix.flags 16 ||| F
      ∧ (g.wordDone w F p).regs.fstat = g.regs.fstat := by
  simp [Group.wordDone, hb, batchKey]

/-- With the last word of a closed batch its flags reach FSTAT (R21). -/
theorem Group.wordDone_closed {g : Group} {w : MWord} {b : Nat} (hw : g.matrix.words = [w]) (hb : w.batch = some b) (F : Flags)
    (p : Bool) : (g.wordDone w F p).regs.fstat = g.regs.fstat ||| (sget 0#8 g.matrix.flags b ||| F) := by
  unfold Group.wordDone
  simp only [hb]
  rw [Group.settleBatch_fstat (by simp [hw])]
  simp [batchKey]

/-- A word that completes: what its kind has done to the group and to the memories stands, and the word is gone (R21, R226). -/
theorem word_completes {s u : State} {w : MWord} {g : Group} {F : Flags} {p : Bool} (h : OnlyMatrixWord s w)
    (e : finishWord s s.cur w = (u, g.wordDone w F p)) (hg : s.cur.WithRows g)
    (hu : u.others = s.others ∧ u.mem.pkg = s.mem.pkg ∧ u.mem.far = s.mem.far) :
    ∃ t, (exec .matrixWordComplete s = .next t ∧ WordGone s t ∧ RaisesInBatch s t w F)
      ∧ t.mem = u.mem ∧ t.cur.regs.ac = g.regs.ac ∧ t.cur.regs.rmax = g.regs.rmax ∧ t.cur.regs.rsum = g.regs.rsum
      ∧ t.cur.matrix.results = g.matrix.results := by
  have hw : g.matrix.words = [w] := by
    rw [hg]
    exact h.1
  have hflags : g.matrix.flags = s.cur.matrix.flags ∧ g.regs.fstat = s.cur.regs.fstat := by
    rw [hg]
    exact ⟨rfl, rfl⟩
  obtain ⟨hothers, hpkg, hfar⟩ := hu
  have frame := Group.wordDone_frame hw F p
  have fields : (g.wordDone w F p).matrix.words = [] ∧ (g.wordDone w F p).frag = s.cur.frag
      ∧ (g.wordDone w F p).sibs = s.cur.sibs ∧ (g.wordDone w F p).regs.v = s.cur.regs.v
      ∧ (g.wordDone w F p).regs.s = s.cur.regs.s ∧ (g.wordDone w F p).regs.p = s.cur.regs.p
      ∧ (g.wordDone w F p).regs.k = s.cur.regs.k := by
    rw [frame, hg]
    exact ⟨rfl, rfl, rfl, rfl, rfl, rfl, rfl⟩
  obtain ⟨hwords, hfrag, hsibs, hv, hs, hp, hk⟩ := fields
  have rows : (g.wordDone w F p).regs.ac = g.regs.ac ∧ (g.wordDone w F p).regs.rmax = g.regs.rmax
      ∧ (g.wordDone w F p).regs.rsum = g.regs.rsum ∧ (g.wordDone w F p).matrix.results = g.matrix.results := by
    rw [frame]
    exact ⟨rfl, rfl, rfl, rfl⟩
  refine ⟨{ u with cur := g.wordDone w F p },
    ⟨?_, ⟨hwords, hothers, hfrag, hsibs, hv, hs, hp, hk, fun a => ⟨?_, ?_⟩⟩, ?_, ?_⟩, rfl, rows⟩
  · rw [exec_matrixWordComplete h, e]
  · exact congrArg (sget 0#8 · a) hpkg
  · exact congrArg (sget 0#8 · a) hfar
  · intro hb
    obtain ⟨h1, h2⟩ := Group.wordDone_open (g := g) hb F p
    exact ⟨h1.trans (by rw [hflags.1]), h2.trans hflags.2⟩
  · intro b hb
    exact (Group.wordDone_closed hw hb F p).trans (by rw [hflags.1, hflags.2])

/-! ## What a word delivers (R227) -/

/-- Where the destinations of a word are the results that wait, each of a register of its own, the value for place `k` enters
the result at place `k`. -/
theorem MResult.find_dst {rs : List MResult} (hn : (rs.map (·.reg)).Nodup) {k : Nat} {r : MResult} (hk : rs[k]? = some r) :
    (rs.map (fun r => (r.reg, r.id))).zipIdx.find? (fun d => r.reg == d.1.1 && r.id == d.1.2) = some ((r.reg, r.id), k) := by
  obtain ⟨hlt, rfl⟩ := List.getElem?_eq_some_iff.mp hk
  have here : (rs.map (fun r => (r.reg, r.id))).zipIdx[k]'(by simpa using hlt) = ((rs[k].reg, rs[k].id), k) := by simp
  rw [List.find?_eq_some_iff_getElem]
  refine ⟨by simp, k, by simpa using hlt, here, fun j hj => ?_⟩
  have apart : rs[k].reg ≠ rs[j].reg := fun e => by
    have := (List.Nodup.getElem_inj_iff hn (i := k) (j := j) (hi := by simpa using hlt) (hj := by simp; omega)).mp
      (by simpa using e)
    omega
  simp [apart]

theorem Group.deliver_delivers {s t : State} {w : MWord} {g : Group} {vals : Nat → Lanes} {val : Nat → Nat → Word}
    (hg : g.matrix.results = s.cur.matrix.results) (ht : t.cur.matrix.results = (g.deliver w vals).matrix.results)
    (hv : ∀ k i, i < 32 → w.exec.getLsbD i = true → laneOf (vals k) i = val k i) : Delivers s t w val := by
  intro hdst hnodup _
  rw [ht]
  refine ⟨?_, fun k r q hr hq => ?_⟩
  · simp [Group.deliver, hg]
  · have found := MResult.find_dst hnodup hr
    simp only [Group.deliver, hg, hdst, List.getElem?_map, hr, Option.map_some, found, Option.some.injEq] at hq
    subst hq
    refine ⟨rfl, fun i hi => ?_⟩
    rw [laneOf_mergeLanes _ _ _ hi]
    split
    · exact hv k i hi ‹_›
    · rfl

/-! ## The kinds without tiles (R228, R235) -/

theorem extract_toNat (x : DWord) (lo n : Nat) : (x.extractLsb' lo n).toNat = bitsOf x lo n := by
  simp [bitsOf, Nat.shiftRight_eq_div_pow]

theorem opWord_eq (x : DWord) : opWord x =
    { metaField := bitsOf x 56 7, ostride := bitsOf x 48 8, off := bitsOf x 24 24, tile := bitsOf x 16 8, acc2 := bitsOf x 12 4,
      acc := bitsOf x 8 4, vreg := bitsOf x 0 7 } := by
  simp only [opWord, extract_toNat]

theorem Group.accRow_eq (g : Group) (acc i : Nat) : g.accRow acc i = sget zeroRow g.regs.ac (32 * acc + i) := by
  rw [Group.accRow, Nat.mul_comm]

theorem sget_mem {α : Type} (d : α) (m : SMap α) (k : Nat) : sget d m k = d ∨ (k, sget d m k) ∈ m := by
  induction m with
  | nil => exact .inl rfl
  | cons e m ih =>
    obtain ⟨j, x⟩ := e
    rw [sget_cons]
    split
    · rename_i h
      exact .inr (h ▸ .head _)
    · exact ih.imp_right (.tail _)

/-- A row has its sixteen columns. -/
theorem RowsWhole.length {s : State} (h : RowsWhole s) (k : Nat) : (sget zeroRow s.cur.regs.ac k).length = 16 := by
  rcases sget_mem zeroRow s.cur.regs.ac k with e | e
  · rw [e]
    rfl
  · exact h _ e

/-- The rows of the active lanes are written in one accumulator. -/
theorem putRows_spec {s t : State} {acc : Nat} {e : Mask} {f : Nat → AccRow}
    (h : t.cur.regs.ac = putRows s.cur.regs.ac acc e f) :
    OtherRows s t acc e ∧ ∀ i, i < 32 → e.getLsbD i = true → sget zeroRow t.cur.regs.ac (32 * acc + i) = f i := by
  rw [OtherRows, h]
  exact ⟨fun k hk => sget_rows_off _ _ _ _ hk, fun i hi he => sget_rows_on _ _ _ _ hi he⟩

theorem zeroRow_getD (j : Nat) : zeroRow.getD j 0#56 = 0#56 := by
  unfold zeroRow
  rw [List.getD_eq_getElem?_getD, List.getElem?_replicate]
  split <;> rfl

theorem columnsAt_eq (l : Nat) : columnsAt l = colList l := by
  unfold columnsAt colList
  match l with
  | 0 => rfl
  | 1 => rfl
  | n + 2 => simp [Nat.add_comm]

/-- The columns of MWR are written, each by its place in the selection (R228). -/
theorem getD_foldl_set {α : Type} (d : α) (v : Nat → α) (l : List Nat) (hl : l.Nodup) (n : Nat) (row : List α) {j : Nat}
    (hj : j < row.length) :
    ((l.zipIdx n).foldl (fun r jc => r.set jc.1 (v jc.2)) row).getD j d
      = ((l.findIdx? (· == j)).map (fun c => v (n + c))).getD (row.getD j d) := by
  induction l generalizing n row with
  | nil => rfl
  | cons a l ih =>
    obtain ⟨ha, hl⟩ := List.nodup_cons.mp hl
    rw [List.zipIdx_cons, List.foldl_cons, ih hl _ _ (by simpa using hj), List.findIdx?_cons]
    by_cases e : a = j
    · subst e
      have absent : l.findIdx? (· == a) = none := List.findIdx?_eq_none_iff.mpr fun x hx => by
        rw [beq_eq_false_iff_ne]
        rintro rfl
        exact ha hx
      simp [absent, List.getElem?_set_self hj]
    · rw [if_neg (by simpa using e)]
      cases l.findIdx? (· == j) with
      | none => simp [List.getElem?_set_ne e]
      | some c => simp [Nat.add_assoc, Nat.add_comm 1]

theorem colList_nodup (cols : Nat) : (colList cols).Nodup := by
  unfold colList
  split <;> decide

end Sys2Proof.Machine

namespace Sys2Proof.Claims

open Sys2Proof.Machine Sys2Proof.Safety

/-- The word is gone, with its flags raised: what every kind of word does as it completes. -/
def Completes (s t : State) (w : MWord) (F : Flags) : Prop :=
  exec .matrixWordComplete s = .next t ∧ WordGone s t ∧ RaisesInBatch s t w F

theorem tileByte_of_mem {s t : State} (h : t.mem = s.mem) (a : Nat) : tileByte t a = tileByte s a := by
  rw [tileByte, h, tileByte]

section Kinds

variable {s : State} {w : MWord} (h : OnlyMatrixWord s w)

include h

theorem zero_completes (hop : w.op = .zero) : ∃ t, Completes s t w 0#8 ∧ (∀ a, tileByte t a = tileByte s a)
    ∧ (t.cur.regs.rmax = s.cur.regs.rmax ∧ t.cur.regs.rsum = s.cur.regs.rsum) ∧ OtherRows s t (bitsOf w.ow 8 4) w.exec
    ∧ ∀ i j, i < 32 ∧ w.exec.getLsbD i = true → j < 16 → accAt t (bitsOf w.ow 8 4) i j = 0#56 := by
  obtain ⟨t, done, hm, hac, hmax, hsum, -⟩ := word_completes (u := s) (F := 0#8) (p := false)
    (g := { s.cur with regs := { s.cur.regs with ac := putRows s.cur.regs.ac (opWord w.ow).acc w.exec (fun _ => zeroRow) } })
    h (by simp only [finishWord, hop]) rfl ⟨rfl, rfl, rfl⟩
  rw [opWord_eq] at hac
  obtain ⟨other, rows⟩ := putRows_spec hac
  refine ⟨t, done, tileByte_of_mem hm, ⟨hmax, hsum⟩, other, fun i j ⟨hi, he⟩ _ => ?_⟩
  rw [accAt, rows i hi he, zeroRow_getD]

theorem wr_completes (hr : RowsWhole s) (hop : w.op = .wr) : ∃ t, Completes s t w 0#8 ∧ (∀ a, tileByte t a = tileByte s a)
    ∧ (t.cur.regs.rmax = s.cur.regs.rmax ∧ t.cur.regs.rsum = s.cur.regs.rsum) ∧ OtherRows s t (bitsOf w.ow 8 4) w.exec
    ∧ ∀ i j, i < 32 ∧ w.exec.getLsbD i = true → j < 16 → accAt t (bitsOf w.ow 8 4) i j =
        (((columnsAt w.cols).findIdx? (· == j)).map (fun c => mwrValue w c i)).getD (accAt s (bitsOf w.ow 8 4) i j) := by
  obtain ⟨t, done, hm, hac, hmax, hsum, -⟩ := word_completes (u := s) (F := 0#8) (p := false) (g := finishWrite s.cur w)
    h (by simp only [finishWord, hop]) rfl ⟨rfl, rfl, rfl⟩
  simp only [finishWrite, opWord_eq, Group.accRow_eq] at hac
  obtain ⟨other, rows⟩ := putRows_spec hac
  refine ⟨t, done, tileByte_of_mem hm, ⟨hmax, hsum⟩, other, fun i j ⟨hi, he⟩ hj => ?_⟩
  have whole := RowsWhole.length hr (32 * bitsOf w.ow 8 4 + i)
  rw [accAt, rows i hi he, getD_foldl_set _ (fun c => mwrValue w c i) _ (colList_nodup _) _ _ (by rw [whole]; exact hj),
    columnsAt_eq]
  simp only [Nat.zero_add]
  rfl

theorem statReset_completes (hop : w.op = .statReset) : ∃ t, Completes s t w 0#8 ∧ (∀ a, tileByte t a = tileByte s a)
    ∧ t.cur.regs.ac = s.cur.regs.ac ∧ OtherSides s t (bitsOf w.ow 8 4) w.exec
    ∧ ∀ i, i < 32 ∧ w.exec.getLsbD i = true →
        sget 0xFF800000#32 t.cur.regs.rmax (32 * bitsOf w.ow 8 4 + i) = 0xFF800000#32
          ∧ sget 0#56 t.cur.regs.rsum (32 * bitsOf w.ow 8 4 + i) = 0#56 := by
  obtain ⟨t, done, hm, hac, hmax, hsum, -⟩ := word_completes (u := s) (F := 0#8) (p := false) (g := finishStat s.cur w)
    h (by simp only [finishWord, hop]) (by simp only [finishStat, hop]; rfl) ⟨rfl, rfl, rfl⟩
  simp only [finishStat, hop, opWord_eq] at hac hmax hsum
  refine ⟨t, done, tileByte_of_mem hm, hac, fun k hk => ?_, fun i ⟨hi, he⟩ => ?_⟩
  · rw [hmax, hsum]
    exact ⟨sget_rows_off _ _ _ _ hk, sget_rows_off _ _ _ _ hk⟩
  · rw [hmax, hsum]
    exact ⟨sget_rows_on _ _ _ _ hi he, sget_rows_on _ _ _ _ hi he⟩

theorem statRead_completes (hop : w.op = .statRead) : ∃ t, Completes s t w 0#8 ∧ (∀ a, tileByte t a = tileByte s a)
    ∧ t.cur.regs.ac = s.cur.regs.ac ∧ (t.cur.regs.rmax = s.cur.regs.rmax ∧ t.cur.regs.rsum = s.cur.regs.rsum)
    ∧ Delivers s t w (fun k i =>
        if k = 0 then BitVec.ofNat 32 (a56ToF32 (sget 0#56 s.cur.regs.rsum (32 * bitsOf w.ow 8 4 + i)))
        else sget 0xFF800000#32 s.cur.regs.rmax (32 * bitsOf w.ow 8 4 + i)) := by
  obtain ⟨t, done, hm, hac, hmax, hsum, hres⟩ := word_completes (u := s) (F := 0#8) (p := false) (g := finishStat s.cur w)
    h (by simp only [finishWord, hop]) (by simp only [finishStat, hop]; rfl) ⟨rfl, rfl, rfl⟩
  simp only [finishStat, hop] at hac hmax hsum hres
  refine ⟨t, done, tileByte_of_mem hm, hac, ⟨hmax, hsum⟩,
    Group.deliver_delivers (g := s.cur) rfl hres fun k i hi _ => ?_⟩
  rw [laneOf_mkLanes _ hi, opWord_eq, Nat.mul_comm]
  rfl

end Kinds

/-- The maximum that row `i` had before `.max` (R235). -/
def rowOld (s : State) (w : MWord) (i : Nat) : Nat := (sget 0xFF800000#32 s.cur.regs.rmax (32 * bitsOf w.ow 8 4 + i)).toNat

/-- The maximum of row `i` as `.max` finds it (R235). -/
def rowTop (s : State) (w : MWord) (i : Nat) : Nat :=
  (fMax .fp32 { mode := 0, ftz := false, sat := false } (rowOld s w i)
    (maxF32 ((sget zeroRow s.cur.regs.ac (32 * bitsOf w.ow 12 4 + i)).map a56ToF32))).1

/-- `.max` by the maxima before and after it: rows and sums are rescaled, the maxima are kept and delivered (R235). -/
theorem finishStat_max {s : State} {w : MWord} (hop : w.op = .statMax) :
    finishStat s.cur w = Group.deliver { s.cur with regs := { s.cur.regs with
      ac := putRows s.cur.regs.ac (bitsOf w.ow 8 4) w.exec (fun i =>
        (sget zeroRow s.cur.regs.ac (32 * bitsOf w.ow 8 4 + i)).map (rescale (rowOld s w i) (rowTop s w i))),
      rsum := (rowsOf w.exec).foldl (fun m i => sput 0#56 m (bitsOf w.ow 8 4 * 32 + i)
        (rescale (rowOld s w i) (rowTop s w i) (sget 0#56 s.cur.regs.rsum (32 * bitsOf w.ow 8 4 + i)))) s.cur.regs.rsum,
      rmax := (rowsOf w.exec).foldl (fun m i => sput 0xFF800000#32 m (bitsOf w.ow 8 4 * 32 + i)
        (BitVec.ofNat 32 (rowTop s w i))) s.cur.regs.rmax } }
      w (fun _ => mkLanes (fun i => BitVec.ofNat 32 (rowTop s w i))) := by
  simp only [finishStat, hop, opWord_eq, Group.accRow_eq, Nat.mul_comm _ 32]
  rfl

theorem statMax_completes {s : State} {w : MWord} (h : OnlyMatrixWord s w) (hop : w.op = .statMax) :
    ∃ t, Completes s t w 0#8 ∧ (∀ a, tileByte t a = tileByte s a) ∧ OtherRows s t (bitsOf w.ow 8 4) w.exec
      ∧ OtherSides s t (bitsOf w.ow 8 4) w.exec
      ∧ Delivers s t w (fun _ i => BitVec.ofNat 32 (rowTop s w i))
      ∧ ∀ i, i < 32 ∧ w.exec.getLsbD i = true →
          sget 0xFF800000#32 t.cur.regs.rmax (32 * bitsOf w.ow 8 4 + i) = BitVec.ofNat 32 (rowTop s w i)
            ∧ sget 0#56 t.cur.regs.rsum (32 * bitsOf w.ow 8 4 + i)
                = rescale (rowOld s w i) (rowTop s w i) (sget 0#56 s.cur.regs.rsum (32 * bitsOf w.ow 8 4 + i))
            ∧ sget zeroRow t.cur.regs.ac (32 * bitsOf w.ow 8 4 + i)
                = (sget zeroRow s.cur.regs.ac (32 * bitsOf w.ow 8 4 + i)).map (rescale (rowOld s w i) (rowTop s w i)) := by
  obtain ⟨t, done, hm, hac, hmax, hsum, hres⟩ := word_completes (u := s) (F := 0#8) (p := false) (g := finishStat s.cur w)
    h (by simp only [finishWord, hop]) (by rw [finishStat_max hop]; rfl) ⟨rfl, rfl, rfl⟩
  rw [finishStat_max hop] at hac hmax hsum hres
  obtain ⟨other, rows⟩ := putRows_spec hac
  refine ⟨t, done, tileByte_of_mem hm, other, fun k hk => ?_, Group.deliver_delivers (by rfl) hres fun k i hi _ => ?_,
    fun i ⟨hi, he⟩ => ⟨?_, ?_, rows i hi he⟩⟩
  · rw [hmax, hsum]
    exact ⟨sget_rows_off _ _ _ _ hk, sget_rows_off _ _ _ _ hk⟩
  · exact laneOf_mkLanes _ hi
  · rw [hmax]
    exact sget_rows_on _ _ _ _ hi he
  · rw [hsum]
    exact sget_rows_on _ _ _ _ hi he

end Sys2Proof.Claims

namespace Sys2Proof.Machine

open Sys2Proof.Safety Sys2Proof.Claims

/-! ## Tile bytes as a word reads them (R161, R162, R209) -/

theorem Team.key_add (t : Team) (o i : Nat) : t.key (o + i) = t.key o + i := by
  simp only [Team.key, tileKey]
  omega

theorem readBytes_eq_map (m : Memory) (a n : Nat) : readBytes m a n = (List.range n).map (fun i => sget 0#8 m (a + i)) := by
  refine List.ext_getElem (by simp) fun i h _ => ?_
  have := readBytes_getD m a n i (by simpa using h)
  rw [List.getD_eq_getElem _ _ h] at this
  simp [this]

/-- A part of bytes that are read is read by itself. -/
theorem readBytes_part (m : Memory) {a n x k : Nat} (h : x + k ≤ n) :
    ((readBytes m a n).drop x).take k = readBytes m (a + x) k := by
  refine List.ext_getElem (by simp; omega) fun i h1 _ => ?_
  have hi : i < k := by simp at h1; omega
  simp [readBytes_eq_map, Nat.add_assoc]

theorem tileSlice_eq (s : State) (t : Team) (e : TileEntry) (o n : Nat) :
    tileSlice s t e o n = readBytes s.mem.tile (t.key (e.off + o)) n := by
  rw [readBytes_eq_map, tileSlice]
  simp only [Team.key_add, tileByte]

theorem mixValues_none (seed a : Nat) (others : Nat → List Byte) (bs : List Byte) (h : ∀ k, others k = []) :
    mixValues seed a others bs = bs := by
  simp [mixValues, h]

theorem State.tileBytes_settled {s : State} {w : MWord} (h : TilesSettled s w.since w.issued) (seed : Nat) (t : Team)
    (e : TileEntry) (r : Nat × Nat) : s.tileBytes s.cur.id.key w seed t e r = tileSlice s t e r.1 r.2 := by
  rw [State.tileBytes, State.operandBytes, tileSlice_eq]
  split
  · rfl
  · refine mixValues_none _ _ _ _ fun k => ?_
    obtain ⟨early, late, epi⟩ := h k
    rw [early, late, epi]
    rfl

/-- No word of tile memory is poisoned or has an error to be found. -/
structure Mem.TileSound (m : Mem) : Prop where
  poison : m.tilePoison = []
  flaw : m.tileFlaw = []
  banks : ∀ e ∈ m.tileErrors, e.2.failedData = 0#32

theorem Mem.TileSound.of_noPoison {s : State} (h : NoPoison s) : s.mem.TileSound := by
  obtain ⟨-, hp, -, hf, hb⟩ := h
  exact ⟨hp, hf, hb⟩

section Sound

variable {m : Mem} (h : m.TileSound)

include h

theorem Mem.TileSound.badInRow (w : Nat) : m.badInRow w = [] := by
  have banks (x : Nat) : m.bankFailed x = false := by
    have : (m.errorsOf (wordCore x)).failedData = 0#32 := by
      rcases sget_mem TileErrors.reset m.tileErrors (wordCore x) with e | e
      · rw [Mem.errorsOf, e]
        rfl
      · exact h.banks _ e
    simp [Mem.bankFailed, this]
  simp [Mem.badInRow, h.flaw, banks]

theorem Mem.TileSound.not_poisoned (a n : Nat) : tilePoisoned m a n = false := by
  have readable (w : Nat) : m.unreadable w = false := by simp [Mem.unreadable, h.badInRow, h.poison]
  simp [tilePoisoned, h.poison, anyMarked_nil, readable]

theorem Mem.TileSound.tileRead (reads parity : Bool) (a n : Nat) : m.tileRead reads parity a n = m := by
  simp [Mem.tileRead, h.flaw]

end Sound

section Read

variable {s : State} (h : s.mem.TileSound)

include h

theorem State.rangePoison_false (t : Team) (e : TileEntry) (o n : Nat) : s.rangePoison t e o n = false :=
  h.not_poisoned _ _

theorem State.scanStages_eq (t : Team) (ss : List (Nat × Nat × Nat)) : s.scanStages t ss = s.mem := by
  unfold State.scanStages
  induction ss with
  | nil => rfl
  | cons g ss ih =>
    rw [List.foldl_cons]
    split
    · rw [State.scanned, h.tileRead, ih]
    · exact ih

end Read

/-! ## The fields of a format block (R213, R216, R217) -/

theorem fmtBlock_eq (y : DWord) : fmtBlock y =
    { bSoff := bitsOf y 24 24, spTrap := y.getLsbD 23, aSsel := bitsOf y 20 2, aSreg := bitsOf y 13 7, bS8 := y.getLsbD 12,
      aS8 := y.getLsbD 11, blk := bitsOf y 8 3, bfmt := bitsOf y 4 4, afmt := bitsOf y 0 4 } := by
  simp only [fmtBlock, extract_toNat]

theorem keff_fmtBlock (y : DWord) (sparse : Bool) : (fmtBlock y).keff sparse = keffOf y sparse := by
  rw [fmtBlock_eq, FmtBlock.keff, keffOf]
  cases sparse <;> simp

theorem len_fmtBlock (y : DWord) (sparse : Bool) : (fmtBlock y).len sparse = lenOf y sparse := by
  rw [FmtBlock.len, keff_fmtBlock, lenOf, fmtBlock_eq]
  dsimp only
  split
  · simp [*]
  · simp [*]
  · simp [*]
  · rename_i h2 h3 h4
    rw [if_neg h2, if_neg h3, if_neg h4]

theorem blocks_fmtBlock (y : DWord) (sparse : Bool) : (fmtBlock y).blocks sparse = blocksOf y sparse := by
  rw [FmtBlock.blocks, keff_fmtBlock, len_fmtBlock, blocksOf]

theorem bRanges_eq (op : MOp) (o : Nat) (x y : DWord) :
    bRanges op o (opWord x) (fmtBlock y) = bPlace x y (decide (op = .mmas)) o := by
  simp only [bRanges, bPlace, blocks_fmtBlock]
  simp only [opWord_eq, fmtBlock_eq]
  rfl

/-! ## Rows of A and their scales (R214, R217, R220) -/

theorem leBytes_eq (n x : Nat) : leBytes n x = (List.range n).map (fun b => BitVec.ofNat 8 (x / 2 ^ (8 * b))) := by
  induction n generalizing x with
  | zero => rfl
  | succ n ih =>
    rw [leBytes, ih, List.range_succ_eq_map, List.map_cons, List.map_map]
    refine congrArg₂ List.cons (by simp) (List.map_congr_left fun b _ => ?_)
    have : 256 * 2 ^ (8 * b) = 2 ^ (8 * (b + 1)) := by rw [Nat.mul_succ, Nat.pow_add, Nat.mul_comm]
    rw [Nat.div_div_eq_div_mul, this]
    rfl

theorem leBytes_word (x : Word) : leBytes 4 x.toNat = (List.range 4).map (fun b => x.extractLsb' (8 * b) 8) := by
  rw [leBytes_eq]
  refine List.map_congr_left fun b _ => BitVec.eq_of_toNat_eq ?_
  simp [Nat.shiftRight_eq_div_pow]

theorem MWord.rowA_eq (w : MWord) (i : Nat) : w.rowA (fmtBlock w.fb) i = rowOfA w i := by
  have bytes : aRow w.a i = w.a.flatMap (fun r => (List.range 4).map (fun b => (laneOf r i).extractLsb' (8 * b) 8)) := by
    simp only [aRow, leBytes_word]
  have half : keffOf w.fb true / 4 = classOf (bitsOf w.fb 0 4) / 2 := by
    simp only [keffOf, if_true]
    omega
  simp only [MWord.rowA, rowOfA, bytes, half, fmtBlock_eq, metaBits, List.foldr_map]
  simp [keffOf]

theorem MWord.scalesA_getD (w : MWord) (i : Nat) {b : Nat} (hb : b < blocksOf w.fb (decide (w.op = .mmas))) :
    (w.scalesA (fmtBlock w.fb) i).getD b (numPow2 0) = if bitsOf w.fb 8 3 = 0 then .fin false 1 0 else scaleOfA w i b := by
  simp only [MWord.scalesA, blocks_fmtBlock]
  rw [fmtBlock_eq]
  dsimp only
  split
  · rfl
  · have : b < blocksOf w.fb (w.op == .mmas) := hb
    simp [this, scaleOfA]

/-! ## The update block after block (R71, R72) -/

theorem elementUpdate_eq (len n : Nat) (acc : A56) (as bs sas sbs : List Machine.Num) :
    elementUpdate len n acc as bs sas sbs = (List.range n).foldl (fun acc b =>
      blockUpdate acc ((as.drop (len * b)).take len) ((bs.drop (len * b)).take len) (sas.getD b (numPow2 0))
        (sbs.getD b (numPow2 0))) acc := by
  induction n generalizing acc as bs sas sbs with
  | zero => rfl
  | succ n ih =>
    rw [elementUpdate, ih, List.range_succ_eq_map, List.foldl_cons, List.foldl_map]
    simp [List.headD_eq_head?_getD, List.head?_eq_getElem?, Nat.mul_succ, Nat.add_comm]

theorem rowTerms_eq (len n : Nat) (as sas : List Machine.Num) :
    rowTerms len n as sas = (List.range n).flatMap (fun b =>
      if numIsZero (sas.getD b (numPow2 0)) then []
      else scaledTerms (((as.drop (len * b)).take len).map some) (sas.getD b (numPow2 0))) := by
  induction n generalizing as sas with
  | zero => rfl
  | succ n ih =>
    rw [rowTerms, ih, List.range_succ_eq_map, List.flatMap_cons, List.flatMap_map]
    simp [List.headD_eq_head?_getD, List.head?_eq_getElem?, Nat.mul_succ, Nat.add_comm]

/-! ## Columns of B (R214, R217) -/

theorem mem_octets {m : Mask} {i : Nat} (hi : i < 32) (h : m.getLsbD i = true) : i / 8 ∈ octets m := by
  refine List.mem_filter.mpr ⟨List.mem_range.mpr (by omega), ?_⟩
  rw [bne_iff_ne]
  intro e
  have bit : (m.extractLsb' (8 * (i / 8)) 8).getLsbD (i % 8) = m.getLsbD i := by
    rw [BitVec.getLsbD_extractLsb', show 8 * (i / 8) + i % 8 = i by omega]
    simp [Nat.mod_lt]
  rw [e, h] at bit
  simp at bit

/-- What octet `o` reads of B: column after column its elements and its scales, none of them poisoned. -/
def octetColumns (s : State) (w : MWord) (e : TileEntry) (o : Nat) : List (List Machine.Num × List Machine.Num × Bool) :=
  (List.range 16).map (fun j => (columnOfB s w e o j,
    if bitsOf w.fb 8 3 = 0 then [] else (List.range (blocksOf w.fb (decide (w.op = .mmas)))).map (scaleOfB s w e o j), false))

theorem columnsOf_eq (s : State) (w : MWord) (e : TileEntry) (o : Nat) :
    columnsOf w.op (fmtBlock w.fb)
      (tileSlice s s.team e (bPlace w.ow w.fb (decide (w.op = .mmas)) o).1.1 (bPlace w.ow w.fb (decide (w.op = .mmas)) o).1.2)
      (tileSlice s s.team e (bPlace w.ow w.fb (decide (w.op = .mmas)) o).2.1 (bPlace w.ow w.fb (decide (w.op = .mmas)) o).2.2)
      (fun _ => false) = octetColumns s w e o := by
  have sp : (w.op == MOp.mmas) = decide (w.op = .mmas) := rfl
  unfold columnsOf octetColumns
  simp only [sp, blocks_fmtBlock, keff_fmtBlock]
  refine List.map_congr_left fun j hj => ?_
  have hj := List.mem_range.mp hj
  refine Prod.ext ?_ (Prod.ext ?_ rfl)
  · dsimp only
    rw [columnOfB, tileSlice_eq, tileSlice_eq, readBytes_part, ← Team.key_add, fmtBlock_eq, Nat.add_assoc]
    unfold bPlace
    cases decide (w.op = .mmas) <;> simp <;> omega
  · rw [fmtBlock_eq]
    dsimp only
    split
    · rfl
    · rename_i hb
      refine List.map_congr_left fun k hk => ?_
      have hk := List.mem_range.mp hk
      rw [scaleOfB, tileSlice_eq, readBytes_getD, ← Team.key_add, tileByte]
      · simp only [Nat.add_assoc]
      · simp only [bPlace, if_neg hb]
        calc _ < blocksOf w.fb (decide (w.op = .mmas)) * (j + 1) := by rw [Nat.mul_succ]; omega
          _ ≤ blocksOf w.fb (decide (w.op = .mmas)) * 16 := Nat.mul_le_mul_left _ hj
          _ = _ := Nat.mul_comm _ _

theorem find_octet {α : Type} (f : Nat → α) {os : List Nat} {k : Nat} (h : k ∈ os) :
    (os.map (fun o => (o, f o))).find? (fun c => c.1 == k) = some (k, f k) := by
  induction os with
  | nil => simp at h
  | cons o os ih =>
    by_cases e : o = k
    · simp [e]
    · simpa [e] using ih ((List.mem_cons.mp h).resolve_left (Ne.symm e))

/-- A row updated by the columns of its octet, element by element. -/
theorem rowUpdate_getD {s : State} {w : MWord} {e : TileEntry} (hr : RowsWhole s) (i : Nat) {j : Nat} (hj : j < 16) :
    (rowUpdate (fmtBlock w.fb) (decide (w.op = .mmas)) (sget zeroRow s.cur.regs.ac (32 * bitsOf w.ow 8 4 + i)) (rowOfA w i)
      (w.scalesA (fmtBlock w.fb) i) (octetColumns s w e (i / 8))).getD j 0#56 = updated s w e i j := by
  have whole := RowsWhole.length hr (32 * bitsOf w.ow 8 4 + i)
  have hl : j < (sget zeroRow s.cur.regs.ac (32 * bitsOf w.ow 8 4 + i)).length := by omega
  have elem : (sget zeroRow s.cur.regs.ac (32 * bitsOf w.ow 8 4 + i))[j] = accAt s (bitsOf w.ow 8 4) i j := by
    rw [accAt, List.getD_eq_getElem _ _ hl]
  rw [rowUpdate, List.getD_eq_getElem _ _ (by simp [octetColumns, whole, hj])]
  simp only [List.getElem_map, List.getElem_zip, octetColumns, List.getElem_range, elem, Bool.false_eq_true, if_false,
    elementUpdate_eq, blocks_fmtBlock, len_fmtBlock]
  rw [updated]
  refine List.foldl_ext _ _ _ fun acc b hb => ?_
  have hb := List.mem_range.mp hb
  rw [MWord.scalesA_getD w i hb]
  split
  · rfl
  · simp [hb]

theorem State.scanPairs_eq {s : State} (hs : s.mem.TileSound) (t : Team) (e : TileEntry)
    (rs : List ((Nat × Nat) × (Nat × Nat))) :
    rs.foldl (fun (m : Mem) r => s.scanned t e (s.scanned t e m r.1) r.2) s.mem = s.mem := by
  induction rs with
  | nil => rfl
  | cons r rs ih => rw [List.foldl_cons, State.scanned, State.scanned, hs.tileRead, hs.tileRead, ih]

theorem State.tileOf_eq {s : State} {n : Nat} {e : TileEntry} {sts : List TileState} (h : HasTile s n e sts) :
    s.tileOf s.team n = some e := by
  obtain ⟨hn, he, -, -⟩ := h
  rw [State.tileOf, if_pos hn]
  exact congrArg some he

/-- Row `i` after a multiply: updated by the columns that its octet reads. -/
def multipliedRow (s : State) (w : MWord) (e : TileEntry) (i : Nat) : AccRow :=
  rowUpdate (fmtBlock w.fb) (decide (w.op = .mmas)) (sget zeroRow s.cur.regs.ac (32 * bitsOf w.ow 8 4 + i)) (rowOfA w i)
    (w.scalesA (fmtBlock w.fb) i)
    ((((octets w.exec).map (fun o => (o, octetColumns s w e o))).find? (fun c => c.1 == i / 8)).map (·.2) |>.getD [])

theorem multipliedRow_getD {s : State} {w : MWord} {e : TileEntry} (hr : RowsWhole s) {i j : Nat} (hi : i < 32)
    (he : w.exec.getLsbD i = true) (hj : j < 16) : (multipliedRow s w e i).getD j 0#56 = updated s w e i j := by
  rw [multipliedRow, find_octet _ (mem_octets hi he)]
  exact rowUpdate_getD hr i hj

/-- The row sum of row `i` after an MMAO, as the model adds it up. -/
def multipliedSum (s : State) (w : MWord) (i : Nat) : A56 :=
  roundQuiet (some (a56Num (sget 0#56 s.cur.regs.rsum (32 * bitsOf w.ow 8 4 + i)))
    :: rowTerms (lenOf w.fb (decide (w.op = .mmas))) (blocksOf w.fb (decide (w.op = .mmas))) (rowOfA w i)
      (w.scalesA (fmtBlock w.fb) i))

theorem multipliedSum_eq {s : State} {w : MWord} (hop : w.op = .mmao) (i : Nat) : multipliedSum s w i = rowSum s w i := by
  have dense : decide (w.op = .mmas) = false := by rw [hop]; rfl
  rw [multipliedSum, rowSum, rowTerms_eq, dense, List.flatMap_congr fun b hb => ?_]
  rw [MWord.scalesA_getD w i (by rw [dense]; exact List.mem_range.mp hb)]

/-- A multiply whose operands stand and whose tile has no poison: the updates of its rows and, for MMAO, its row sums. -/
theorem finishMultiply_spec {s : State} {w : MWord} {e : TileEntry} {sts : List TileState}
    (he : HasTile s (bitsOf w.ow 16 8) e sts) (hs : s.mem.TileSound) (hset : TilesSettled s w.since w.issued)
    (hlive : ∀ r ∈ s.cur.matrix.results, r.id ∈ w.live → r.touched = 0#32) :
    finishMultiply s s.cur w = (s.drew 16384, { s.cur with regs := { s.cur.regs with
      ac := putRows s.cur.regs.ac (bitsOf w.ow 8 4) w.exec (multipliedRow s w e),
      rsum := if w.op = .mmao then
          (rowsOf w.exec).foldl (fun m i => sput 0#56 m (bitsOf w.ow 8 4 * 32 + i) (multipliedSum s w i)) s.cur.regs.rsum
        else s.cur.regs.rsum } }, false) := by
  have sp : (w.op == MOp.mmas) = decide (w.op = .mmas) := rfl
  have team : s.teamFor s.cur.id = s.team := rfl
  have tile : s.tileOf s.team (bitsOf w.ow 16 8) = some e := State.tileOf_eq he
  have written : s.cur.matrix.results.any (fun m => w.live.contains m.id && m.touched != 0#32) = false := by
    simpa using hlive
  have clean : ((octets w.exec).map (fun o => (o, octetColumns s w e o))).any (fun c => c.2.any (fun x => x.2.2)) = false := by
    simp [octetColumns]
  unfold finishMultiply
  simp only [State.tileBytes_settled hset, State.rangePoison_false hs, bRanges_eq, Bool.and_false, Bool.or_false, team,
    written, sp, MWord.rowA_eq, blocks_fmtBlock, len_fmtBlock, Group.accRow_eq, State.scanPairs_eq hs, Bool.false_eq_true,
    if_false]
  simp only [opWord_eq, tile, Option.getD_some, columnsOf_eq, clean, Bool.false_eq_true, if_false, Nat.mul_comm _ 32]
  rfl

theorem MWord.sparseFlags_cases (w : MWord) :
    (w.op ≠ .mmas → w.sparseFlags = 0#8) ∧ (w.sparseFlags = 0#8 ∨ w.sparseFlags = 0x80#8) := by
  unfold MWord.sparseFlags
  split
  · simp_all [flagSpmeta]
  · exact ⟨fun _ => rfl, .inl rfl⟩

end Sys2Proof.Machine

namespace Sys2Proof.Claims

open Sys2Proof.Machine Sys2Proof.Safety

theorem multiply_completes {s : State} {w : MWord} {e : TileEntry} {sts : List TileState} (h : OnlyMatrixWord s w)
    (hr : RowsWhole s) (hs : s.mem.TileSound) (hop : w.op = .mma ∨ w.op = .mmas ∨ w.op = .mmao)
    (he : HasTile s (bitsOf w.ow 16 8) e sts)
    (hlive : ∀ r ∈ s.cur.matrix.results, r.id ∈ w.live → r.touched = 0#32) (hset : TilesSettled s w.since w.issued) :
    ∃ t F, Completes s t w F ∧ (∀ a, tileByte t a = tileByte s a) ∧ OtherRows s t (bitsOf w.ow 8 4) w.exec
      ∧ OtherSides s t (bitsOf w.ow 8 4) w.exec
      ∧ t.cur.regs.rmax = s.cur.regs.rmax
      ∧ (∀ i j, i < 32 ∧ w.exec.getLsbD i = true → j < 16 → accAt t (bitsOf w.ow 8 4) i j = updated s w e i j)
      ∧ (w.op ≠ .mmao → t.cur.regs.rsum = s.cur.regs.rsum)
      ∧ (w.op = .mmao → ∀ i, i < 32 ∧ w.exec.getLsbD i = true →
          sget 0#56 t.cur.regs.rsum (32 * bitsOf w.ow 8 4 + i) = rowSum s w i)
      ∧ (w.op ≠ .mmas → F = 0#8) ∧ (F = 0#8 ∨ F = 0x80#8) := by
  have finish : finishWord s s.cur w = ((finishMultiply s s.cur w).1,
      (finishMultiply s s.cur w).2.1.wordDone w w.sparseFlags (finishMultiply s s.cur w).2.2) := by
    rcases hop with hop | hop | hop <;> simp only [finishWord, hop]
  rw [finishMultiply_spec he hs hset hlive] at finish
  obtain ⟨t, done, hm, hac, hmax, hsum, -⟩ := word_completes h finish rfl ⟨rfl, rfl, rfl⟩
  obtain ⟨other, rows⟩ := putRows_spec hac
  dsimp only at hmax hsum
  obtain ⟨hF, hF2⟩ := MWord.sparseFlags_cases w
  refine ⟨t, w.sparseFlags, done, tileByte_of_mem hm, other, fun k hk => ?_, hmax, fun i j ⟨hi, hon⟩ hj => ?_,
    fun ho => ?_, fun ho i ⟨hi, hon⟩ => ?_, hF, hF2⟩
  · rw [hmax, hsum]
    refine ⟨rfl, ?_⟩
    split
    · exact sget_rows_off _ _ _ _ hk
    · rfl
  · rw [accAt, rows i hi hon, multipliedRow_getD hr hi hon hj]
  · rw [hsum, if_neg ho]
  · rw [hsum, if_pos ho, ← multipliedSum_eq ho]
    exact sget_rows_on _ _ _ _ hi hon

end Sys2Proof.Claims

namespace Sys2Proof.Machine

open Sys2Proof.Safety Sys2Proof.Claims

/-! ## The outputs of a command (R229 to R232) -/

theorem command_eq (y : DWord) : command y =
    { scale := bitsOf y 32 32, actTile := bitsOf y 16 8, biasTile := bitsOf y 8 8, outfmt := bitsOf y 4 3, sat := y.getLsbD 3,
      quant := y.getLsbD 2, act := y.getLsbD 1, bias := y.getLsbD 0 } := by
  simp only [command, extract_toNat]

theorem getLsbD_iff_bitsOf (y : DWord) (k : Nat) : y.getLsbD k = true ↔ bitsOf y k 1 = 1 := by
  rw [BitVec.getLsbD, Nat.testBit, bitsOf, Nat.shiftRight_eq_div_pow]
  simp [Nat.and_comm 1, Nat.and_one_is_mod]

theorem outBytes_eq (k : Nat) : outBytes k = widthOf k := rfl

theorem orFlags_append (xs ys : List Flags) : orFlags (xs ++ ys) = orFlags xs ||| orFlags ys := by
  have start (z : Flags) (l : List Flags) : l.foldl (· ||| ·) z = z ||| orFlags l := by
    induction l generalizing z with
    | nil => simp [orFlags]
    | cons a l ih => rw [orFlags, List.foldl_cons, List.foldl_cons, ih, ih (0#8 ||| a), BitVec.zero_or, BitVec.or_assoc]
  rw [orFlags, List.foldl_append, start]
  rfl

theorem orFlags_flatten (xs : List (List Flags)) : orFlags (xs.map orFlags) = orFlags xs.flatten := by
  induction xs with
  | nil => rfl
  | cons x xs ih =>
    rw [List.flatten_cons, orFlags_append, ← ih, List.map_cons, ← List.singleton_append, orFlags_append]
    simp [orFlags]

theorem toNat_append_add {m n : Nat} (x : BitVec m) (y : BitVec n) : (x ++ y).toNat = x.toNat * 2 ^ n + y.toNat := by
  rw [BitVec.toNat_append, ← Nat.shiftLeft_add_eq_or_of_lt y.isLt, Nat.shiftLeft_eq]

/-- The 32-bit words of bytes in fours, each little-endian. -/
theorem wordsOfBytes_getD (bs : List Byte) (h : bs.length % 4 = 0) (k : Nat) :
    (wordsOfBytes bs).getD k 0#32 = BitVec.ofNat 32 (leNat ((bs.drop (4 * k)).take 4)) := by
  induction bs using wordsOfBytes.induct generalizing k with
  | case1 b0 b1 b2 b3 rest ih =>
    rw [wordsOfBytes]
    cases k with
    | zero =>
      apply BitVec.eq_of_toNat_eq
      simp only [List.getD_cons_zero, toNat_append_add, Nat.mul_zero, List.drop_zero, List.take_succ_cons, List.take_zero,
        leNat, BitVec.toNat_ofNat]
      omega
    | succ k =>
      rw [List.getD_cons_succ, ih (by simp only [List.length_cons] at h; omega)]
      rfl
  | case2 bs short =>
    have : bs = [] := by
      match bs, short with
      | [], _ => rfl
      | [_], _ | [_, _], _ | [_, _, _], _ => simp at h
      | _ :: _ :: _ :: _ :: _, short => exact (short _ _ _ _ _ rfl).elim
    subst this
    simp [wordsOfBytes, leNat]

/-- The tiles of the enabled stages, read off the command word. -/
theorem stages_eq (y z : DWord) : stages (command y) z = stageList y z := by
  simp only [stages, stageList, command_eq, extract_toNat, getLsbD_iff_bitsOf]

/-- The outputs of a row, none of which poison has decided. -/
def clean (rs : List (Nat × Flags)) : List (Nat × Flags × Bool) := rs.map (fun r => (r.1, r.2, false))

section Stages

variable {s : State} {w : MWord} (hs : s.mem.TileSound) (hready : StagesReady s w.cmd w.offw)
  (hset : TilesSettled s w.since w.issued)

include hs hready hset

/-- The stages read the bytes that stand, and no poison. -/
theorem State.stageData_eq : s.stageData s.cur.id.key w s.team (command w.cmd) w.offw =
    { bias := (stageBytesOf s w.cmd w.offw).1, table := (stageBytesOf s w.cmd w.offw).2,
      biasPoison := List.replicate 16 false, headPoison := false, entryPoison := List.replicate 64 false } := by
  have slice (g : Nat × Nat × Nat) (hg : g ∈ stageList w.cmd w.offw) :
      s.tileOf s.team g.1 = some (sget TileEntry.reset s.mem.table (s.team.entryKey g.1)) := by
    obtain ⟨e, ht, -⟩ := hready g hg
    rw [State.tileOf_eq ht, ht.2.1]
  simp only [State.stageData, State.stageBytes, State.tileBytes_settled hset, State.rangePoison_false hs, Bool.and_false,
    stages_eq, stageBytesOf]
  unfold stageList at slice ⊢
  simp only [command_eq, getLsbD_iff_bitsOf]
  by_cases bias : bitsOf w.cmd 0 1 = 1
  · by_cases act : bitsOf w.cmd 1 1 = 1
    · simp [bias, act] at slice ⊢
      simp [slice]
    · simp [bias, act] at slice ⊢
      simp [slice]
  · by_cases act : bitsOf w.cmd 1 1 = 1
    · simp [bias, act] at slice ⊢
      simp [slice]
    · simp [bias, act]

/-- The outputs of a row are those of the chain. -/
theorem rowOutputs_eq (cols i : Nat) :
    rowOutputs (command w.cmd) (s.stageData s.cur.id.key w s.team (command w.cmd) w.offw) cols
      (s.cur.accRow (opWord w.ow).acc i) =
    clean (chainRow s w.cmd (stageBytesOf s w.cmd w.offw).1 (stageBytesOf s w.cmd w.offw).2 (bitsOf w.ow 8 4) cols i) := by
  have sound (n j : Nat) : (List.replicate n false).getD j false = false := by
    rw [List.getD_eq_getElem?_getD, List.getElem?_replicate]
    split <;> rfl
  rw [State.stageData_eq hs hready hset, rowOutputs, clean, chainRow, List.map_map, columnsAt_eq, Group.accRow_eq, opWord_eq]
  refine List.map_congr_left fun j _ => ?_
  simp only [outputOf, sound, Bool.and_false, Bool.or_false, Bool.false_eq_true, if_false]
  rfl

end Stages

/-- The bytes of outputs, of as many bytes each as their format has (R232). -/
theorem rowBytes_clean (y : DWord) (rs : List (Nat × Flags)) : rowBytes (command y) (clean rs) =
    rs.flatMap (fun r => (List.range (widthOf (bitsOf y 4 3))).map (fun b => BitVec.ofNat 8 (r.1 / 2 ^ (8 * b)))) := by
  simp only [rowBytes, clean, List.flatMap_map, leBytes_eq, outBytes_eq, command_eq]

theorem clean_flags (rs : List (Nat × Flags)) : (clean rs).map (fun o => o.2.1) = rs.map (·.2) := by
  rw [clean, List.map_map]
  rfl

theorem clean_sound (rs : List (Nat × Flags)) : (clean rs).any (fun o => o.2.2) = false := by
  simp [clean]

theorem chainRow_length (s : State) (y : DWord) (bias table : List Byte) (acc cols i : Nat) :
    (chainRow s y bias table acc cols i).length = (columnsAt cols).length := List.length_map ..

theorem columnsAt_length (cols : Nat) : (columnsAt cols).length = if cols = 0 then 16 else 8 := by
  unfold columnsAt
  split
  · simp
  · split <;> simp

theorem chainBytes_length (s : State) (y : DWord) (bias table : List Byte) (acc cols i : Nat) :
    (chainBytes s y bias table acc cols i).length = (columnsAt cols).length * widthOf (bitsOf y 4 3) := by
  rw [chainBytes, List.length_flatMap]
  simp [chainRow_length]

/-- The bytes of a row are whole 32-bit words. -/
theorem chainBytes_fours (s : State) (y : DWord) (bias table : List Byte) (acc cols i : Nat) :
    (chainBytes s y bias table acc cols i).length % 4 = 0 := by
  rw [chainBytes_length, columnsAt_length]
  split <;> omega

/-- The flags of the lanes that act, of lists that are empty in every other lane. -/
theorem flatten_lanes {α : Type} (m : Mask) (f : Nat → List α) :
    ((List.range 32).map (fun i => if m.getLsbD i = true then f i else [])).flatten = (lanesIn m).flatMap f := by
  rw [lanesIn, List.flatMap_def]
  induction List.range 32 with
  | nil => rfl
  | cons i l ih =>
    rw [List.map_cons, List.flatten_cons, List.filter_cons, ih]
    split <;> rfl

/-- The outputs of row `i` of a word. -/
def outputRow (s : State) (w : MWord) (i : Nat) : List (Nat × Flags) :=
  chainRow s w.cmd (stageBytesOf s w.cmd w.offw).1 (stageBytesOf s w.cmd w.offw).2 (bitsOf w.ow 8 4) w.cols i

/-- Their bytes. -/
def outputBytes (s : State) (w : MWord) (i : Nat) : List Byte :=
  chainBytes s w.cmd (stageBytesOf s w.cmd w.offw).1 (stageBytesOf s w.cmd w.offw).2 (bitsOf w.ow 8 4) w.cols i

/-- The flags that the outputs of the lanes of a word raise. -/
def outputFlags (s : State) (w : MWord) : Flags := orFlags ((lanesIn w.exec).flatMap (fun i => (outputRow s w i).map (·.2)))

/-- The words of the bytes of row `i`. -/
def outputWords (s : State) (w : MWord) (i : Nat) : List Word :=
  wordsOfBytes (rowBytes (command w.cmd) (clean (if w.exec.getLsbD i = true then outputRow s w i else [])))

theorem outputWords_getD {s : State} {w : MWord} {i : Nat} (h : w.exec.getLsbD i = true) (k : Nat) :
    (outputWords s w i).getD k 0#32 = BitVec.ofNat 32 (leNat (((outputBytes s w i).drop (4 * k)).take 4)) := by
  rw [outputWords, if_pos h, rowBytes_clean]
  exact wordsOfBytes_getD _ (chainBytes_fours ..) k

/-- MRD delivers the words of the bytes of its lanes, and raises their flags. -/
theorem finishRead_spec {s : State} {w : MWord} (hs : s.mem.TileSound) (hready : StagesReady s w.cmd w.offw)
    (hset : TilesSettled s w.since w.issued) :
    finishRead s s.cur w = (s.drew 2048,
      s.cur.deliver w (fun k => (List.range 32).map (fun i => (outputWords s w i).getD k 0#32)), outputFlags s w, false) := by
  have outs (i : Nat) : (if w.exec.getLsbD i = true then rowOutputs (command w.cmd)
        (s.stageData s.cur.id.key w s.team (command w.cmd) w.offw) w.cols (s.cur.accRow (opWord w.ow).acc i) else []) =
      clean (if w.exec.getLsbD i = true then outputRow s w i else []) := by
    rw [rowOutputs_eq hs hready hset]
    split <;> rfl
  have flags : orFlags ((List.range 32).map (fun i =>
      orFlags ((if w.exec.getLsbD i = true then outputRow s w i else []).map (·.2)))) = outputFlags s w := by
    rw [outputFlags, ← flatten_lanes, ← orFlags_flatten, List.map_map]
    simp only [Function.comp_def, apply_ite (List.map _), List.map_nil]
  have team : s.teamFor s.cur.id = s.team := rfl
  unfold finishRead
  simp only [team, outs, State.scanStages_eq hs, List.map_map, List.any_map, Function.comp_def, clean_sound, clean_flags, flags]
  simp only [List.any_eq_false.mpr fun _ _ => Bool.false_ne_true, Bool.false_eq_true, if_false]
  rfl

end Sys2Proof.Machine

namespace Sys2Proof.Claims

open Sys2Proof.Machine Sys2Proof.Safety

theorem rd_completes {s : State} {w : MWord} (h : OnlyMatrixWord s w) (hs : s.mem.TileSound) (hop : w.op = .rd)
    (hready : StagesReady s w.cmd w.offw) (hset : TilesSettled s w.since w.issued) :
    ∃ t, Completes s t w (outputFlags s w) ∧ (∀ a, tileByte t a = tileByte s a) ∧ t.cur.regs.ac = s.cur.regs.ac
      ∧ (t.cur.regs.rmax = s.cur.regs.rmax ∧ t.cur.regs.rsum = s.cur.regs.rsum)
      ∧ Delivers s t w (fun k i => BitVec.ofNat 32 (leNat (((outputBytes s w i).drop (4 * k)).take 4))) := by
  have finish : finishWord s s.cur w = ((finishRead s s.cur w).1,
      (finishRead s s.cur w).2.1.wordDone w (finishRead s s.cur w).2.2.1 (finishRead s s.cur w).2.2.2) := by
    simp only [finishWord, hop]
  rw [finishRead_spec hs hready hset] at finish
  obtain ⟨t, done, hm, hac, hmax, hsum, hres⟩ := word_completes h finish rfl ⟨rfl, rfl, rfl⟩
  refine ⟨t, done, tileByte_of_mem hm, hac, ⟨hmax, hsum⟩, Group.deliver_delivers (by rfl) hres fun k i hi he => ?_⟩
  rw [laneOf_map hi, outputWords_getD he]

end Sys2Proof.Claims

namespace Sys2Proof.Machine

open Sys2Proof.Safety Sys2Proof.Claims

/-! ## Bytes written in parts (R164, R232) -/

/-- The parts of a write, written one after the other. -/
def writeParts (m : Memory) (ps : List (Nat × List Byte)) : Memory := ps.foldl (fun m p => writeBytes m p.1 p.2) m

theorem writeParts_append (m : Memory) (ps qs : List (Nat × List Byte)) :
    writeParts m (ps ++ qs) = writeParts (writeParts m ps) qs := List.foldl_append ..

theorem writeBytes_append (m : Memory) (a : Nat) (bs cs : List Byte) :
    writeBytes m a (bs ++ cs) = writeBytes (writeBytes m a bs) (a + bs.length) cs := by
  induction bs generalizing m a with
  | nil => rfl
  | cons b bs ih =>
    rw [List.cons_append, writeBytes, writeBytes, ih, List.length_cons, Nat.add_assoc, Nat.add_comm 1]

/-- Parts without a byte write nothing. -/
theorem writeParts_nonempty (m : Memory) (ps : List (Nat × List Byte)) :
    writeParts m (ps.filter (fun p => !p.2.isEmpty)) = writeParts m ps := by
  induction ps generalizing m with
  | nil => rfl
  | cons p ps ih =>
    obtain ⟨a, bs⟩ := p
    cases bs with
    | nil => exact ih m
    | cons b bs => exact ih _

/-- The parts of a write that end with the words of tile memory write its bytes. -/
theorem writeParts_wordParts (m : Memory) (a : Nat) (bs : List Byte) : writeParts m (wordParts a bs) = writeBytes m a bs := by
  rw [wordParts, writeParts_nonempty]
  generalize hh : min bs.length ((16 - a % 16) % 16) = head
  generalize hm : (bs.length - head) / 16 * 16 = mid
  have first : (bs.take head).length = head := by simp; omega
  have middle : ((bs.drop head).take mid).length = mid := by simp; omega
  calc writeParts m [(a, bs.take head), (a + head, (bs.drop head).take mid), (a + head + mid, bs.drop (head + mid))]
      = writeBytes (writeBytes (writeBytes m a (bs.take head)) (a + head) ((bs.drop head).take mid)) (a + head + mid)
          (bs.drop (head + mid)) := rfl
    _ = writeBytes (writeBytes m a (bs.take head)) (a + head) ((bs.drop head).take mid ++ (bs.drop head).drop mid) := by
        rw [writeBytes_append, middle, List.drop_drop]
    _ = writeBytes m a bs := by
        rw [List.take_append_drop]
        conv_rhs => rw [← List.take_append_drop head bs, writeBytes_append, first]

theorem writeParts_flatMap {α : Type} (f : α → List (Nat × List Byte)) (g : α → Nat × List Byte)
    (h : ∀ m x, writeParts m (f x) = writeBytes m (g x).1 (g x).2) (m : Memory) (xs : List α) :
    writeParts m (xs.flatMap f) = writeParts m (xs.map g) := by
  induction xs generalizing m with
  | nil => rfl
  | cons x xs ih => rw [List.flatMap_cons, writeParts_append, ih, h]; rfl

/-- Rows of `n` bytes each that follow one another in place are written as one. -/
theorem writeParts_joinRows {n : Nat} (base : Nat) (rows : List (Nat × List Byte)) (hn : ∀ r ∈ rows, r.2.length = n)
    (m : Memory) : writeParts m ((joinRows rows).map (fun r => (base + r.1 * n, r.2))) =
      writeParts m (rows.map (fun r => (base + r.1 * n, r.2))) := by
  induction rows generalizing m with
  | nil => rfl
  | cons r rest ih =>
    obtain ⟨i, bs⟩ := r
    have len : bs.length = n := hn _ (.head _)
    have ih := ih (fun r hr => hn r (.tail _ hr)) (writeBytes m (base + i * n) bs)
    rw [List.map_cons]
    refine Eq.trans ?_ ih
    rw [joinRows]
    split
    · rename_i none
      rw [none]
      rfl
    · rename_i j cs more some
      rw [some]
      split
      · rename_i next
        have place : base + j * n = base + i * n + bs.length := by rw [next, Nat.succ_mul, len]; omega
        show writeParts (writeBytes m (base + i * n) (bs ++ cs)) _ =
          writeParts (writeBytes (writeBytes m _ bs) (base + j * n) cs) _
        rw [writeBytes_append, place]
      · rfl

/-- Rows of `n` bytes at their places: a byte of a row is the byte written, and no other byte is written. -/
theorem writeRows_spec {n base : Nat} {row : Nat → List Byte} (hn : ∀ i, (row i).length = n) {l : List Nat} (hl : l.Nodup)
    (m : Memory) :
    (∀ i ∈ l, ∀ b < n,
        sget 0#8 (writeParts m (l.map (fun i => (base + i * n, row i)))) (base + i * n + b) = (row i).getD b 0#8)
      ∧ ∀ a, (∀ i ∈ l, a < base + i * n ∨ base + i * n + n ≤ a) →
          sget 0#8 (writeParts m (l.map (fun i => (base + i * n, row i)))) a = sget 0#8 m a := by
  induction l generalizing m with
  | nil => simp [writeParts]
  | cons j l ih =>
    obtain ⟨hj, hl⟩ := List.nodup_cons.mp hl
    obtain ⟨on, off⟩ := ih hl (writeBytes m (base + j * n) (row j))
    refine ⟨fun i hi b hb => ?_, fun a ha => ?_⟩
    · rcases List.mem_cons.mp hi with rfl | hi
      · refine (off _ fun k hk => ?_).trans ?_
        · have apart : k ≠ i := fun e => hj (e ▸ hk)
          rcases Nat.lt_or_gt_of_ne apart with h | h
          · have := Nat.mul_le_mul_right n (show k + 1 ≤ i from h)
            rw [Nat.succ_mul] at this
            omega
          · have := Nat.mul_le_mul_right n (show i + 1 ≤ k from h)
            rw [Nat.succ_mul] at this
            omega
        · rw [sget_writeBytes, if_pos (by rw [hn]; omega), Nat.add_sub_cancel_left]
      · exact on i hi b hb
    · refine (off a fun k hk => ha k (.tail _ hk)).trans ?_
      have := ha j (.head _)
      rw [sget_writeBytes, if_neg (by rw [hn]; omega)]

/-! ## MEPI (R164, R227, R232) -/

theorem slotHits_of_unwatched {g : Group} (h : g.watch = []) (s : State) (p : WatchSlot → Bool) (job : BitVec 16)
    (wr : Writes) : s.slotHits p job wr g = [] := by
  have none (i : Nat) : sget none g.watch i = none := by rw [h]; rfl
  rw [State.slotHits, List.filterMap_eq_nil_iff]
  intro i _
  rw [none]

/-- Where nothing is watched a write posts no watch event. -/
theorem watchEvents_of_noWatch {s : State} (h : NoWatch s) (source : BitVec 32) (pc : Nat) (atomic : Bool) (job : BitVec 16)
    (wr : Writes) : s.watchEvents none source pc atomic job wr = s := by
  have none : s.watchHits none job wr = [] := by
    rw [State.watchHits, List.append_eq_nil_iff, List.flatMap_eq_nil_iff, List.flatMap_eq_nil_iff]
    refine ⟨fun g hg => slotHits_of_unwatched (h g ?_) ..,
      fun g hg => slotHits_of_unwatched (h g (List.mem_append_right _ hg)) ..⟩
    exact List.mem_append_left _ (List.mem_filter.mp (List.mem_filter.mp hg).1).1
  rw [State.watchEvents, none]
  rfl

/-- The parts of an MEPI enter tile memory, and no other memory. -/
theorem foldl_tilePut {f : Mem → Nat × List Byte → Mem}
    (h : ∀ m p, (f m p).tile = writeBytes m.tile p.1 p.2 ∧ (f m p).pkg = m.pkg ∧ (f m p).far = m.far)
    (ps : List (Nat × List Byte)) (m : Mem) :
    (ps.foldl f m).tile = writeParts m.tile ps ∧ (ps.foldl f m).pkg = m.pkg ∧ (ps.foldl f m).far = m.far := by
  induction ps generalizing m with
  | nil => exact ⟨rfl, rfl, rfl⟩
  | cons p ps ih =>
    obtain ⟨tile, pkg, far⟩ := ih (f m p)
    obtain ⟨htile, hpkg, hfar⟩ := h m p
    exact ⟨tile.trans (by rw [htile]; rfl), pkg.trans hpkg, far.trans hfar⟩

theorem Mem.TileSound.foldl_tileRead {m : Mem} (h : m.TileSound) (ps : List (Nat × List Byte)) :
    ps.foldl (fun (m : Mem) p => m.tileRead (decide (p.2.length < 16)) true p.1 p.2.length) m = m := by
  induction ps with
  | nil => rfl
  | cons p ps ih => rw [List.foldl_cons, h.tileRead, ih]

theorem Mem.TileSound.filter_mergesPoison {m : Mem} (h : m.TileSound) (ps : List (Nat × List Byte)) :
    ps.filter (fun p => !mergesPoison m p) = ps := by
  simp [mergesPoison, h.not_poisoned]

/-- Bytes that a row of a word writes. -/
def rowLength (w : MWord) : Nat := (columnsAt w.cols).length * widthOf (bitsOf w.cmd 4 3)

theorem outputBytes_length (s : State) (w : MWord) (i : Nat) : (outputBytes s w i).length = rowLength w := chainBytes_length ..

/-- MEPI writes the bytes of its rows into its tile and raises their flags. -/
theorem finishEpi_spec {s : State} {w : MWord} {e : TileEntry} {sts : List TileState} (hs : s.mem.TileSound) (hw : NoWatch s)
    (he : HasTile s (bitsOf w.ow 16 8) e sts) (hready : StagesReady s w.cmd w.offw) (hset : TilesSettled s w.since w.issued) :
    ∃ u, finishEpi s s.cur w = (u, outputFlags s w, false)
      ∧ (u.others = s.others ∧ u.mem.pkg = s.mem.pkg ∧ u.mem.far = s.mem.far)
      ∧ u.mem.tile = writeParts s.mem.tile ((rowsOf w.exec).map (fun i =>
          (s.team.key (e.off + bitsOf w.ow 24 24) + i * rowLength w, outputBytes s w i))) := by
  have team : s.teamFor s.cur.id = s.team := rfl
  have tile : s.tileOf s.team (bitsOf w.ow 16 8) = some e := State.tileOf_eq he
  have outs (i : Nat) : rowOutputs (command w.cmd) (s.stageData s.cur.id.key w s.team (command w.cmd) w.offw) w.cols
      (s.cur.accRow (opWord w.ow).acc i) = clean (outputRow s w i) := rowOutputs_eq hs hready hset _ _
  have bytes (i : Nat) : rowBytes (command w.cmd) (clean (outputRow s w i)) = outputBytes s w i := rowBytes_clean ..
  have flags : orFlags ((rowsOf w.exec).map (fun i => orFlags ((outputRow s w i).map (·.2)))) = outputFlags s w := by
    rw [outputFlags, List.flatMap_def, ← orFlags_flatten, List.map_map]
    rfl
  have length : (colList w.cols).length * outBytes (command w.cmd).outfmt = rowLength w := by
    rw [← columnsAt_eq, outBytes_eq, command_eq, rowLength]
  unfold finishEpi
  simp only [team, outs, length, State.scanStages_eq hs, List.map_map, Function.comp_def, bytes, hs.foldl_tileRead,
    hs.filter_mergesPoison, clean_flags, flags, List.any_map, clean_sound, Nat.lt_irrefl, decide_false, Bool.or_false]
  simp only [opWord_eq, tile, Option.getD_some, List.any_eq_false.mpr fun _ _ => Bool.false_ne_true, Bool.false_eq_true,
    if_false]
  rw [watchEvents_of_noWatch]
  · generalize hput : (fun (m : Mem) (p : Nat × List Byte) => _) = put
    obtain ⟨htile, hpkg, hfar⟩ := foldl_tilePut (f := put) (fun m p => by rw [← hput]; exact ⟨rfl, rfl, rfl⟩)
      ((joinRows ((rowsOf w.exec).map (fun i => (i, outputBytes s w i)))).flatMap
        (fun r => wordParts (s.team.key (e.off + bitsOf w.ow 24 24 + r.1 * rowLength w)) r.2)) s.mem
    refine ⟨_, rfl, ⟨rfl, hpkg, hfar⟩, htile.trans ?_⟩
    rw [writeParts_flatMap _ (fun r => (s.team.key (e.off + bitsOf w.ow 24 24) + r.1 * rowLength w, r.2)),
      writeParts_joinRows, List.map_map]
    · rfl
    · simpa using fun i _ => outputBytes_length s w i
    · intro m r
      rw [writeParts_wordParts, Team.key_add]
  · exact hw

end Sys2Proof.Machine

namespace Sys2Proof.Claims

open Sys2Proof.Machine Sys2Proof.Safety

theorem epi_completes {s : State} {w : MWord} {e : TileEntry} {sts : List TileState} (h : OnlyMatrixWord s w)
    (hs : s.mem.TileSound) (hw : NoWatch s) (hop : w.op = .epi) (he : HasTile s (bitsOf w.ow 16 8) e sts)
    (hready : StagesReady s w.cmd w.offw) (hset : TilesSettled s w.since w.issued) :
    ∃ t, Completes s t w (outputFlags s w) ∧ t.cur.regs.ac = s.cur.regs.ac
      ∧ (t.cur.regs.rmax = s.cur.regs.rmax ∧ t.cur.regs.rsum = s.cur.regs.rsum)
      ∧ (∀ i b, i < 32 ∧ w.exec.getLsbD i = true → b < rowLength w →
          tileByte t (s.team.key (e.off + bitsOf w.ow 24 24 + i * rowLength w) + b) = (outputBytes s w i).getD b 0#8)
      ∧ ∀ a, (∀ i, i < 32 ∧ w.exec.getLsbD i = true → a < s.team.key (e.off + bitsOf w.ow 24 24 + i * rowLength w)
            ∨ s.team.key (e.off + bitsOf w.ow 24 24 + i * rowLength w) + rowLength w ≤ a) →
          tileByte t a = tileByte s a := by
  obtain ⟨u, epi, frame, tile⟩ := finishEpi_spec hs hw he hready hset
  have finish : finishWord s s.cur w = (u, s.cur.wordDone w (outputFlags s w) false) := by
    simp only [finishWord, hop, epi]
  obtain ⟨t, done, hm, hac, hmax, hsum, -⟩ := word_completes h finish rfl frame
  have once : (rowsOf w.exec).Nodup := List.nodup_range.filter _
  obtain ⟨on, off⟩ := writeRows_spec (base := s.team.key (e.off + bitsOf w.ow 24 24)) (outputBytes_length s w) once
    s.mem.tile
  rw [← tile, ← hm] at on off
  refine ⟨t, done, hac, ⟨hmax, hsum⟩, fun i b hi hb => ?_, fun a ha => ?_⟩
  · rw [Team.key_add]
    exact on i (mem_rowsOf.mpr hi) b hb
  · refine off a fun i hi => ?_
    rw [← Team.key_add]
    exact ha i (mem_rowsOf.mp hi)

/-- Settles O40, a lemma for each kind of word: what `finishWord` does to rows, statistics, results and tile bytes, carried
over the end of the word by `word_completes`. -/
theorem matrixWordsTakeEffect : Obligations.MatrixWordsTakeEffect := by
  unfold Obligations.MatrixWordsTakeEffect
  intro s w h hp hw hr
  have hs : s.mem.TileSound := Mem.TileSound.of_noPoison hp
  refine ⟨zero_completes h, fun hop => ?_, fun hop e he _ hlive hset => multiply_completes h hr hs hop he hlive hset,
    fun hop hready _ hset => rd_completes h hs hop hready hset,
    fun hop e he hready _ hset => epi_completes h hs hw hop he hready hset, statReset_completes h, statMax_completes h,
    statRead_completes h⟩
  obtain ⟨t, done, tiles, sides, other, columns⟩ := wr_completes h hr hop
  refine ⟨t, done, tiles, sides, other, fun i j hi hj => (columns i j hi hj).trans ?_⟩
  cases (columnsAt w.cols).findIdx? (· == j) <;> rfl

end Sys2Proof.Claims

/-! # Instruction words (R33, R34) -/

namespace Sys2Proof.Laws.RoundTrip

/-- The round trip of each instruction, in the order of the majors; an event has no word. -/
theorem statement : ∀ i, Statement i
  | .nop => nop | .yield => yield | .waitf m => waitf m | .bra o => bra o | .call o => call o | .bk k o => bk k o
  | .bkNot k o => bkNot k o | .bpAny p o => bpAny p o | .bpAll p o => bpAll p o | .ret s => ret s | .jmpr s => jmpr s
  | .join => join | .exit => exit
  | .bdv p t j => bdv p t j
  | .splitRefill => splitRefill
  | .sadd d a b => sadd d a b | .ssub d a b => ssub d a b | .smul d a b => smul d a b | .smulh d a b => smulh d a b
  | .sdiv d a b => sdiv d a b | .srem d a b => srem d a b | .sand d a b => sand d a b | .sor d a b => sor d a b
  | .sxor d a b => sxor d a b | .sandn d a b => sandn d a b | .sshl d a b => sshl d a b | .sshr d a b => sshr d a b
  | .ssra d a b => ssra d a b | .srot d a b => srot d a b | .smin d a b => smin d a b | .smax d a b => smax d a b
  | .sminn d a b => sminn d a b | .smaxn d a b => smaxn d a b | .sclz d a => sclz d a | .spop d a => spop d a
  | .sbrev d a => sbrev d a | .ssextB8 d a => ssextB8 d a | .ssextB16 d a => ssextB16 d a | .ssextB32 d a => ssextB32 d a
  | .szextB8 d a => szextB8 d a | .szextB16 d a => szextB16 d a | .szextB32 d a => szextB32 d a
  | .ssel d a b k => ssel d a b k | .smov d a => smov d a | .scmp k a b c => scmp k a b c | .slea d a b h => slea d a b h
  | .launch d a => launch d a
  | .saddi d i => saddi d i | .sandi d i => sandi d i | .sori d i => sori d i | .sxori d i => sxori d i
  | .sshli d i => sshli d i | .sshri d i => sshri d i | .ssrai d i => ssrai d i | .scmpi n c i => scmpi n c i
  | .sli d i => sli d i | .slih d i => slih d i | .srd d e => srd d e | .swr d e => swr d e
  | .lds d a w s => lds d a w s | .sts d a w s => sts d a w s
  | .vadd d a b => vadd d a b | .vsub d a b => vsub d a b | .vmul d a b => vmul d a b | .vfma d a b => vfma d a b
  | .vfms d a b => vfms d a b | .vfnma d a b => vfnma d a b | .vfnms d a b => vfnms d a b | .vdiv d a b => vdiv d a b
  | .vmin d a b => vmin d a b | .vmax d a b => vmax d a b | .vclamp d a b => vclamp d a b | .vscale d a b => vscale d a b
  | .vcmp p a b c => vcmp p a b c | .vcmpc p a b c => vcmpc p a b c | .vsel d a b n => vsel d a b n
  | .vaddPair d a b t => vaddPair d a b t | .vsubPair d a b t => vsubPair d a b t | .vmulPair d a b t => vmulPair d a b t
  | .vfmaPair d a b t => vfmaPair d a b t | .vfmsPair d a b t => vfmsPair d a b t | .vfnmaPair d a b t => vfnmaPair d a b t
  | .vfnmsPair d a b t => vfnmsPair d a b t | .vminPair d a b t => vminPair d a b t | .vmaxPair d a b t => vmaxPair d a b t
  | .vclampPair d a b t => vclampPair d a b t | .vdot2 d a b t => vdot2 d a b t | .vdot4 d a b t => vdot4 d a b t
  | .viadd d a b => viadd d a b | .visub d a b => visub d a b | .vimul d a b => vimul d a b
  | .vimulhI32 d a b => vimulhI32 d a b | .vimulhN32 d a b => vimulhN32 d a b | .vimad d a b => vimad d a b
  | .vimin d a b => vimin d a b | .vimax d a b => vimax d a b | .viminn d a b => viminn d a b
  | .vimaxn d a b => vimaxn d a b | .viabs d a => viabs d a | .viand d a b => viand d a b | .vior d a b => vior d a b
  | .vixor d a b => vixor d a b | .viandn d a b => viandn d a b | .vishl d a b => vishl d a b | .vishr d a b => vishr d a b
  | .visra d a b => visra d a b | .vpop d a => vpop d a | .vclz d a => vclz d a | .vbfe d a b => vbfe d a b
  | .vbfi d a b => vbfi d a b | .vprm d a b => vprm d a b | .vicmp p a b c => vicmp p a b c
  | .vaddImm d i => vaddImm d i | .vmulImm d i => vmulImm d i | .vminImm d i => vminImm d i | .vmaxImm d i => vmaxImm d i
  | .viaddImm d i => viaddImm d i | .viandImm d i => viandImm d i | .viorImm d i => viorImm d i
  | .vixorImm d i => vixorImm d i | .vishlImm d i => vishlImm d i | .vishrImm d i => vishrImm d i
  | .visraImm d i => visraImm d i | .vmoviF32 d i => vmoviF32 d i | .vmoviB32 d i => vmoviB32 d i
  | .vmoviF16x2 d i => vmoviF16x2 d i | .vmoviF8e4x2 d i => vmoviF8e4x2 d i | .vmoviF8e5x2 d i => vmoviF8e5x2 d i
  | .vsqrt d a => vsqrt d a | .vrsq d a => vrsq d a | .vrcp d a => vrcp d a | .vabs d a => vabs d a | .vneg d a => vneg d a
  | .vexp2 d a => vexp2 d a | .vlog2 d a => vlog2 d a | .vsinp d a => vsinp d a | .vcosp d a => vcosp d a
  | .vtanh d a => vtanh d a | .vrnd d a => vrnd d a | .vgetexp d a => vgetexp d a | .vgetman d a => vgetman d a
  | .vcvt d a y x => vcvt d a y x | .vmov d a => vmov d a | .vmovLane d => vmovLane d | .vmovs d s => vmovs d s
  | .vshfl d a b => vshfl d a b | .vrotw d a g n => vrotw d a g n | .vxorw d a m => vxorw d a m
  | .vbcst d a j => vbcst d a j | .vbcstFirst d a => vbcstFirst d a | .vrstep d a o s => vrstep d a o s
  | .vred e a o => vred e a o | .vscan d a o x => vscan d a o x | .vmatch d a k => vmatch d a k | .vball e p => vball e p
  | .vcomp d a p => vcomp d a p
  | .pand d a b => pand d a b | .por d a b => por d a b | .pxor d a b => pxor d a b | .pnot d a => pnot d a
  | .pmov d a => pmov d a | .pset d s => pset d s | .ppop s p => ppop s p | .exrd s => exrd s | .exwr p => exwr p
  | .ld d s v w x => ld d s v w x
  | .st d s v w x => st d s v w x
  | .scopedLd d s v c => scopedLd d s v c | .scopedSt d s v c => scopedSt d s v c | .cas d s v c => cas d s v c
  | .atomAdd d s v c => atomAdd d s v c | .atomAnd d s v c => atomAnd d s v c | .atomOr d s v c => atomOr d s v c
  | .atomXor d s v c => atomXor d s v c | .atomMin d s v c => atomMin d s v c | .atomMax d s v c => atomMax d s v c
  | .atomMinn d s v c => atomMinn d s v c | .atomMaxn d s v c => atomMaxn d s v c | .atomExch d s v c => atomExch d s v c
  | .atomFadd d s v c => atomFadd d s v c
  | .fence o c => fence o c | .cflush l s => cflush l s | .cinv l s => cinv l s | .cinvI l s => cinvI l s
  | .tbar n b s c => tbar n b s c | .tbara n b s c => tbara n b s c | .tbarw b c => tbarw b c
  | .cbar n b s c => cbar n b s c
  | .mma a b r => mma a b r | .mmas a b r => mmas a b r | .mmao a b r => mmao a b r | .mzero n => mzero n
  | .mrd a b c l => mrd a b c l | .mwr a r l => mwr a r l | .mepi a b c l => mepi a b c l
  | .mrdy => mrdy | .mfen a b => mfen a b | .mwait b => mwait b | .mstatReset a => mstatReset a | .mstatMax a => mstatMax a
  | .mstatRead a => mstatRead a
  | .matrixWordComplete => matrixWordComplete
  | .tdef a b r => tdef a b r | .trel a => trel a | .tstate a d => tstate a d | .tfetch a b c r => tfetch a b c r
  | .tgath a b c r => tgath a b c r | .tcommit a b c => tcommit a b c | .twin a => twin a | .twinRd a => twinRd a
  | .abar a => abar a | .abwait a => abwait a | .rginit a => rginit a | .rgawait a d => rgawait a d | .rgrel a => rgrel a
  | .vdecode a => vdecode a
  | .rshard a b c => rshard a b c | .rsstop a => rsstop a | .rsstat a d => rsstat a d | .rsplan a b c => rsplan a b c
  | .tcopy a b c => tcopy a b c | .tfill a b c => tfill a b c | .tredf a b c o => tredf a b c o
  | .signal a b c f => signal a b c f | .fflag a b w => fflag a b w | .pbar a => pbar a | .mcst a b f => mcst a b f
  | .trap n b g => trap n b g | .bkpt n => bkpt n | .watch a b => watch a b | .gstop a b => gstop a b
  | .gresumeRetry a b w => gresumeRetry a b w | .gresumeFmask a b w => gresumeFmask a b w
  | .gresumeSkip a b w => gresumeSkip a b w | .gkill a b => gkill a b | .csrrd a d => csrrd a d | .csrwr a b => csrwr a b
  | .tlbinv a r => tlbinv a r
  | .hrun l w a b => hrun l w a b | .hend f x y z => hend f x y z | .himm p => himm p
  | .hmod g n p r m c o w s => hmod g n p r m c o w s
  | .runStart => runStart | .resultCommit i => resultCommit i | .earlyDecision i => earlyDecision i
  | .queueTakeRecord q => queueTakeRecord q | .placeCluster => placeCluster | .swapOut c => swapOut c
  | .launchComplete grid => launchComplete grid | .gangSliceStart => gangSliceStart | .fetchArrival id => fetchArrival id
  | .commitComplete id => commitComplete id | .moduleCommandComplete id => moduleCommandComplete id
  | .fetchEngineReset => fetchEngineReset | .strudelPlanning => strudelPlanning | .boxComplete => boxComplete
  | .faultRecordPost => faultRecordPost | .frwait => frwait | .csrWrite who num value => csrWrite who num value
  | .ctxSave => ctxSave | .ctxRestore => ctxRestore | .ctxExport => ctxExport | .ctxImport => ctxImport
  | .ctxDiscard => ctxDiscard | .classAcknowledge c => classAcknowledge c | .slowAcknowledgement => slowAcknowledgement
  | .flitReceive l flit => flitReceive l flit | .replayTimeout l => replayTimeout l
  | .laneLost n pos line => laneLost n pos line | .laserLost n => laserLost n | .retrainingEnd n => retrainingEnd n
  | .linkTraining n => linkTraining n | .trainingEnd n dark => trainingEnd n dark | .trainingTimeout n => trainingTimeout n
  | .laserAgeing n ratio => laserAgeing n ratio | .e2eTimerExpiry tag => e2eTimerExpiry tag
  | .responseReceive pk => responseReceive pk | .requestArrival pk => requestArrival pk
  | .requestRecordExpiry src tag => requestRecordExpiry src tag | .notResidentRetry tag => notResidentRetry tag
  | .holdNotice tag => holdNotice tag | .mergeHoldLapse id => mergeHoldLapse id | .relayForward pk => relayForward pk
  | .combineHoldExpiry id => combineHoldExpiry id | .routeMarkLapse dst col => routeMarkLapse dst col
  | .cancel pk => cancel pk | .cancelTimeout tag => cancelTimeout tag | .coalesceHoldExpiry id => coalesceHoldExpiry id
  | .signalData pk => signalData pk | .signalBusyRetry tag => signalBusyRetry tag | .fflagStore id => fflagStore id
  | .mcstData pk => mcstData pk | .phaseBoundary => phaseBoundary | .podBarrierState pk => podBarrierState pk
  | .timePacket master time => timePacket master time | .timeSilence => timeSilence | .electionClaim => electionClaim
  | .claimReceive rank node => claimReceive rank node | .masterInstall => masterInstall | .secBind => secBind
  | .secPair => secPair | .secQuote => secQuote | .secSeal => secSeal | .secUnseal => secUnseal
  | .cksave failed => cksave failed | .ckrest failed => ckrest failed | .secUnbind => secUnbind | .bootGo => bootGo
  | .installEntry => installEntry | .minRst die => minRst die | .supplySag die => supplySag die
  | .clockStepUp die => clockStepUp die | .thermalLimit die temp => thermalLimit die temp
  | .hostMemoryAccess write addr bytes => hostMemoryAccess write addr bytes | .mgmtCsrRead seq num => mgmtCsrRead seq num
  | .mgmtCsrWrite seq num value => mgmtCsrWrite seq num value
  | .mgmtSecurityCommand seq block => mgmtSecurityCommand seq block | .mgmtReply msg => mgmtReply msg
  | .packageReset => packageReset | .commitTileReadDone id => commitTileReadDone id | .pairTimeout => pairTimeout
  | .mgmtFrameRetry seq => mgmtFrameRetry seq | .litIntervalStart => litIntervalStart

/-- A word is known to decode once it is known to be the word of a well-formed instruction. -/
theorem decode_of_encode {i : Instr} {w : Word} (hi : i.wellFormed = true) (hw : encode i = some w) : decode w = .ok i :=
  statement i hi w hw

end Sys2Proof.Laws.RoundTrip

namespace Sys2Proof.Claims

open Sys2Proof.Machine Sys2Proof.Safety

/-- Settles O55, by the lemma of each instruction. -/
theorem everyWordDecodesToItsInstruction : Obligations.EveryWordDecodesToItsInstruction :=
  Laws.RoundTrip.statement

/-- Settles O56: each word is the encoding of the well-formed instruction beside it, so the round trip decodes it. -/
theorem wordsOfTheManualDecode : Obligations.WordsOfTheManualDecode := by
  unfold Obligations.WordsOfTheManualDecode
  and_intros <;> exact Laws.RoundTrip.decode_of_encode rfl rfl

end Sys2Proof.Claims

/-! # The start of a run (R43, R44, R79) -/

namespace Sys2Proof.Machine

open Sys2Proof.Safety Sys2Proof.Claims

theorem SameBytes.trans {s t u : State} (h : SameBytes s t) (k : SameBytes t u) : SameBytes s u := fun a =>
  ⟨(k a).1.trans (h a).1, (k a).2.1.trans (h a).2.1, (k a).2.2.trans (h a).2.2⟩

/-! ## What a fetch changes (R28, R178) -/

/-- Nothing differs but cached translations, lines of the instruction cache and the number of free values drawn. -/
def OnlyCaches (s t : State) : Prop :=
  t = { s with mem := { s.mem with tlb := t.mem.tlb, icache := t.mem.icache }, fresh := t.fresh }

theorem OnlyCaches.refl (s : State) : OnlyCaches s s := rfl

theorem OnlyCaches.trans {s t u : State} (h : OnlyCaches s t) (k : OnlyCaches t u) : OnlyCaches s u := by
  unfold OnlyCaches at *
  rw [k, h]

theorem OnlyCaches.cur {s t : State} (h : OnlyCaches s t) : t.cur = s.cur := by rw [h]

theorem OnlyCaches.sameBytes {s t : State} (h : OnlyCaches s t) : SameBytes s t := by
  rw [h]
  exact fun _ => ⟨rfl, rfl, rfl⟩

/-- A trap taken after a fetch is a trap of the word that fetched. -/
theorem OnlyCaches.trapped {s t u : State} {cause : Nat} {m : Mask} (h : OnlyCaches s t) (k : Trapped t u cause m) :
    Trapped s u cause m := by
  rw [h] at k
  exact k

theorem State.translate_onlyCaches (s : State) (va : Nat) : OnlyCaches s (s.translate va).1 := by
  unfold OnlyCaches
  rw [State.translate_frame]

theorem State.fetchWord_onlyCaches (s : State) (a : Addr) : OnlyCaches s (s.fetchWord a).1 := by
  have h := s.translate_onlyCaches a.toNat
  unfold State.fetchWord
  split <;> rename_i e <;> rw [e] at h
  · exact h
  · exact h
  · exact h
  · refine OnlyCaches.trans h ?_
    dsimp only
    repeat' split
    all_goals exact OnlyCaches.refl _

theorem State.fetchRun_onlyCaches (s : State) (a : Addr) (n : Nat) : OnlyCaches s (s.fetchRun a n).1 := by
  induction n generalizing s a with
  | zero => exact OnlyCaches.refl s
  | succ n ih =>
    have h := s.fetchWord_onlyCaches a
    unfold State.fetchRun
    split <;> rename_i e <;> rw [e] at h
    · exact h
    · exact h.trans (ih _ _)

/-! ## HRUN (R43, R44, R79) -/

/-- A flag field that is no reserved value of R43. -/
theorem flagReserved_eq_false {f : BitVec 4} (h : f.toNat < 12 ∨ f = 15#4) : flagReserved f = false := by
  rcases h with h | rfl
  · simp [flagReserved, Nat.not_le.mpr h]
  · rfl

theorem State.hrun_of_length {s : State} {l : BitVec 5} (w : BitVec 12) (a b : BitVec 4)
    (h : ¬(1 ≤ l.toNat ∧ l.toNat ≤ 24)) :
    ∃ addr, s.hrun l w a b = s.trap 32 { fmask := 0#32, addr := addr, aux := 0#64 } := by
  have outside : (l = 0#5 || decide (24 < l.toNat)) = true := by
    simp only [Bool.or_eq_true, decide_eq_true_eq]
    bv_omega
  exact ⟨_, if_pos outside⟩

section InRange

variable {s : State} {l : BitVec 5} (w : BitVec 12) {a b : BitVec 4} (h1 : 1 ≤ l.toNat) (h24 : l.toNat ≤ 24)
  (ha : a.toNat < 12 ∨ a = 15#4) (hb : b.toNat < 12 ∨ b = 15#4)

include h1 h24 ha hb

/-- The fields of an HRUN pass when its length is in range and neither flag is a reserved value. -/
theorem hrunFields_pass :
    (l = 0#5 || decide (24 < l.toNat)) = false ∧ (flagReserved a || flagReserved b) = false := by
  have inside : l ≠ 0#5 := by rintro rfl; exact absurd h1 (by decide)
  simp [inside, Nat.not_lt.mpr h24, flagReserved_eq_false ha, flagReserved_eq_false hb]

theorem State.hrun_of_pass {ws : List Instr} (ok : checkWords s.cur.id.vregs s.xw 1 l.toNat 0#8 (none, none)
      (s.fetchRun (after s) (l.toNat + 1)).2 = .ok ws) :
    s.hrun l w a b =
      if s.cur.regs.flagsDone w then ((s.fetchRun (after s) (l.toNat + 1)).1.flagsPassed w).startRun l a b ws
      else (s.fetchRun (after s) (l.toNat + 1)).1.waitAt (.flags w) := by
  obtain ⟨length, flags⟩ := hrunFields_pass h1 h24 ha hb
  unfold after at *
  simp only [State.hrun, length, flags, ok, Bool.false_eq_true, if_false]

theorem State.hrun_of_fail {cause idx : Nat} (bad : checkWords s.cur.id.vregs s.xw 1 l.toNat 0#8 (none, none)
      (s.fetchRun (after s) (l.toNat + 1)).2 = .error (cause, idx)) :
    ∃ addr, s.hrun l w a b =
      (s.fetchRun (after s) (l.toNat + 1)).1.trap cause { fmask := 0#32, addr := addr, aux := 0#64 } := by
  obtain ⟨length, flags⟩ := hrunFields_pass h1 h24 ha hb
  unfold after at *
  simp only [State.hrun, length, flags, bad, Bool.false_eq_true, if_false]
  exact ⟨_, rfl⟩

end InRange

/-- To have passed flags is an acquire (R208): no register, no fragment and no byte changes. -/
theorem State.flagsPassed_frame (s : State) (m : BitVec 12) :
    (s.flagsPassed m).cur = { s.cur with facq := (s.flagsPassed m).cur.facq } ∧ SameBytes s (s.flagsPassed m) := by
  have acquired (scopes : List Nat) :
      (scopes.foldl State.acquire s).cur = s.cur ∧ SameBytes s (scopes.foldl State.acquire s) := by
    refine List.foldlRecOn scopes State.acquire (motive := fun t => t.cur = s.cur ∧ SameBytes s t)
      ⟨rfl, fun _ => ⟨rfl, rfl, rfl⟩⟩ fun t ht scope _ => ?_
    unfold State.acquire
    split
    · exact ht
    · exact ht
  obtain ⟨hcur, hbytes⟩ := acquired _
  refine ⟨?_, hbytes⟩
  rw [State.flagsPassed, hcur]

/-- What the start of a run changes in the group: the open run, the flags bound, and where the fragment stands. -/
theorem State.startRun_spec (s : State) (l : BitVec 5) (a b : BitVec 4) (ws : List Instr) :
    let t := s.startRun l a b ws
    (∃ r, t.cur.run = some r ∧ r.base = s.cur.frag.pc ∧ r.len = l.toNat ∧ r.words = ws ∧ r.temps = [] ∧ r.flight = []
        ∧ r.flagLd = a.toNat ∧ r.flagMrd = b.toNat)
      ∧ t.cur.frag.pc = after s ∧ t.cur.regs = (s.cur.regs.bindFlag a.toNat).bindFlag b.toNat ∧ SameBytes s t :=
  ⟨⟨_, rfl, rfl, rfl, rfl, rfl, rfl, rfl, rfl⟩, rfl, rfl, fun _ => ⟨rfl, rfl, rfl⟩⟩

end Sys2Proof.Machine

namespace Sys2Proof.Claims

open Sys2Proof.Machine Sys2Proof.Safety

/-- Settles O19: HRUN by the outcome of its check, over the frames of the fetch and of the flags passed; RUN_START decodes the
word again and is that HRUN. -/
theorem hrunOpensACheckedRun : Obligations.HrunOpensACheckedRun := by
  intro s l w a b ws found fits opened
  have fetched : OnlyCaches s found.1 := s.fetchRun_onlyCaches _ _
  refine ⟨fun h1 h24 ha hb ok => ?_, fun h => ?_, fun h1 h24 ha hb cause idx bad => ?_, fun raw u hu hraw hdone => ?_⟩
  · have run := State.hrun_of_pass w h1 h24 ha hb ok
    refine ⟨fun hdone => ⟨_, congrArg Host.Outcome.next (run.trans (if_pos hdone)), ?_⟩,
      fun hwait => ⟨_, congrArg Host.Outcome.next (run.trans (if_neg (by simp [hwait]))), ?_⟩⟩
    · obtain ⟨passed, same⟩ := found.1.flagsPassed_frame w
      have start := (found.1.flagsPassed w).startRun_spec l a b ws
      rw [after, passed, fetched.cur] at start
      obtain ⟨open_, pc, regs, bytes⟩ := start
      exact ⟨open_, pc, regs, SameBytes.trans (SameBytes.trans fetched.sameBytes same) bytes⟩
    · rw [State.waitAt_spec found.1 (.flags w), State.unitPc, fetched.cur]
      exact ⟨rfl, rfl, rfl, rfl, fetched.sameBytes⟩
  · obtain ⟨addr, trap⟩ := State.hrun_of_length (s := s) w a b h
    exact ⟨_, congrArg Host.Outcome.next trap, (State.trap_spec s 32 _).1⟩
  · obtain ⟨addr, trap⟩ := State.hrun_of_fail w h1 h24 ha hb bad
    exact ⟨_, congrArg Host.Outcome.next trap, fetched.trapped (State.trap_spec _ cause _).1⟩
  · have same : u.cur = s.cur := (hu ▸ s.fetchWord_onlyCaches s.cur.frag.pc : OnlyCaches s (u, Except.ok raw).1).cur
    refine ⟨_, ?_, rfl⟩
    show execRunStart s = _
    simp only [execRunStart, hu, hraw, same, hdone, if_true]

end Sys2Proof.Claims

/-! # The end of a run (R43, R80, R81) -/

namespace Sys2Proof.Machine

open Sys2Proof.Safety Sys2Proof.Claims

/-- The fields of an HEND that hold no reserved value of R43. -/
theorem hendFields_pass {f : BitVec 4} {x y z : BitVec 7} (hf : f.toNat < 12 ∨ f = 15#4)
    (hn : ∀ n ∈ [x, y, z], n.toNat < 120 ∨ n = 127#7) : (flagReserved f || [x, y, z].any hendRegReserved) = false := by
  rw [flagReserved_eq_false hf, Bool.false_or, List.any_eq_false]
  intro n hmem
  rcases hn n hmem with h | rfl
  · simp [hendRegReserved, Nat.not_le.mpr h]
  · decide

/-- A word that completes later than the clock of HEND goes on as it is. -/
theorem mem_settleBy {w : InFlight} {flight : List InFlight} {t : Nat} (hw : w ∈ flight) (late : t < w.complete) :
    w ∈ (settleBy t flight).2 :=
  List.mem_map.mpr ⟨w, hw, if_neg (Nat.not_le.mpr late)⟩

/-- An HEND that names no register is complete only when every word of its run is. -/
theorem HendFlag.incomplete_of_mem {h : HendFlag} {w : InFlight} (none : h.regs = []) (hw : w ∈ h.flight)
    (pending : w.done = false) : h.complete = false := by
  rw [HendFlag.complete, none, List.all_eq_false]
  exact ⟨w, List.mem_filter.mpr ⟨hw, rfl⟩, by simp [pending]⟩

/-- A flag that has just been bound is not done. -/
theorem Regs.flagDone_bindFlag (r : Regs) {i : Nat} (h : i < 12) : (r.bindFlag i).flagDone i = false := by
  simp [Regs.bindFlag, Regs.flagDone, Nat.not_le.mpr h]

/-- The flags of closed runs that complete: of the group only f0 to f11 and the records of those runs differ. -/
theorem Group.settleFlags_frame (g : Group) :
    g.settleFlags = { g with regs := { g.regs with fpend := g.settleFlags.regs.fpend }, hend := g.settleFlags.hend } := by
  have regs : g.settleFlags.regs = { g.regs with fpend := g.settleFlags.regs.fpend } := by
    refine List.foldlRecOn g.hend _ (motive := fun (r : Regs) => r = { g.regs with fpend := r.fpend }) rfl
      fun r hr h _ => ?_
    split
    · rw [Regs.unbindFlag_eq, hr]
    · exact hr
  rw [← regs]
  rfl

/-- A closed run stays on record while one of its words has not completed. -/
theorem Group.settleFlags_keeps {g : Group} {h : HendFlag} {w : InFlight} (hh : h ∈ g.hend) (hw : w ∈ h.flight)
    (pending : w.done = false) : ∃ k ∈ g.settleFlags.hend, w ∈ k.flight := by
  have some_left (k : HendFlag) (hk : k.flight = h.flight) : k.flight.any (fun w => !w.done) = true :=
    List.any_eq_true.mpr ⟨w, hk ▸ hw, by simp [pending]⟩
  refine ⟨_, List.mem_filter.mpr ⟨List.mem_map_of_mem hh, some_left _ ?_⟩, ?_⟩
  · split <;> rfl
  · split <;> exact hw

/-- With one closed run, which is not complete, no flag is unbound. -/
theorem Group.settleFlags_regs_of_incomplete {g : Group} {h : HendFlag} (only : g.hend = [h]) (open_ : h.complete = false) :
    g.settleFlags.regs = g.regs := by
  simp [Group.settleFlags, only, open_]

/-- The record that a closed run leaves. -/
def closedRun (r : Run) (flag : Nat) (named : List Nat) : HendFlag :=
  { flag := flag, regs := named, flight := (settleBy (2 * (r.clock + 1)) r.flight).2, clock := r.clock + 1 }

/-- The registers with the flags of the words that are complete at HEND (R90). -/
def flaggedRegs (g : Group) (r : Run) : Regs :=
  { g.regs with fstat := g.regs.fstat ||| (settleBy (2 * (r.clock + 1)) r.flight).1 }

/-- The registers once the run is closed and its flag bound: the bindings that the run still held end (R43). -/
def closedRegs (g : Group) (r : Run) (flag : Nat) : Regs :=
  let regs1 := if r.ldDone then flaggedRegs g r else (flaggedRegs g r).unbindFlag r.flagLd
  let regs2 := if r.mrdDone then regs1 else regs1.unbindFlag r.flagMrd
  regs2.bindFlag flag

theorem Group.closeRun_eq (g : Group) (r : Run) (flag : Nat) (named : List Nat) :
    g.closeRun r flag named =
      { g with regs := closedRegs g r flag, run := none, hend := g.hend ++ [closedRun r flag named] }.settleFlags := rfl

theorem closedRegs_frame (g : Group) (r : Run) (flag : Nat) :
    closedRegs g r flag = { g.regs with fstat := (closedRegs g r flag).fstat, fpend := (closedRegs g r flag).fpend }
      ∧ (closedRegs g r flag).fstat &&& g.regs.fstat = g.regs.fstat := by
  have unbound (x : Regs) (done : Bool) (i : Nat) :
      ∃ fpend, (if done then x else x.unbindFlag i) = { x with fpend := fpend } := by
    cases done
    · exact ⟨_, Regs.unbindFlag_eq x i⟩
    · exact ⟨_, rfl⟩
  unfold closedRegs
  obtain ⟨ld, hld⟩ := unbound (flaggedRegs g r) r.ldDone r.flagLd
  obtain ⟨mrd, hmrd⟩ := unbound { flaggedRegs g r with fpend := ld } r.mrdDone r.flagMrd
  dsimp only
  rw [Regs.bindFlag_eq, hld, hmrd]
  exact ⟨rfl, or_and_self _ _⟩

/-- What the end of a run changes in the group (R80, R81): the run is closed, FSTAT gains flags, f0 to f11 follow. -/
theorem Group.closeRun_frame (g : Group) (r : Run) (flag : Nat) (named : List Nat) :
    let u := g.closeRun r flag named
    u = { g with regs := { g.regs with fstat := u.regs.fstat, fpend := u.regs.fpend }, run := none, hend := u.hend }
      ∧ u.regs.fstat &&& g.regs.fstat = g.regs.fstat := by
  obtain ⟨regs, fstat⟩ := closedRegs_frame g r flag
  intro u
  have settled := Group.settleFlags_frame
    { g with regs := closedRegs g r flag, run := none, hend := g.hend ++ [closedRun r flag named] }
  rw [← Group.closeRun_eq] at settled
  change u = _ at settled
  refine ⟨?_, ?_⟩
  · rw [settled, regs]
  · rw [settled]
    exact fstat

/-- Words of a closed run that have not completed go on (R80). -/
theorem Group.closeRun_keeps {g : Group} {r : Run} (flag : Nat) (named : List Nat) {w : InFlight} (hw : w ∈ r.flight)
    (late : 2 * (r.clock + 1) < w.complete) (pending : w.done = false) :
    ∃ h ∈ (g.closeRun r flag named).hend, w ∈ h.flight :=
  Group.settleFlags_keeps (h := closedRun r flag named) (List.mem_append_right _ (.head _)) (mem_settleBy hw late) pending

/-- The flag that an HEND of no registers binds waits for every word of the run (R43). -/
theorem Group.closeRun_flag {g : Group} {r : Run} {flag : Nat} (none : g.hend = []) (hf : flag < 12) {w : InFlight}
    (hw : w ∈ r.flight) (late : 2 * (r.clock + 1) < w.complete) (pending : w.done = false) :
    (g.closeRun r flag []).regs.flagDone flag = false := by
  have waits : (closedRun r flag []).complete = false :=
    HendFlag.incomplete_of_mem rfl (mem_settleBy hw late) pending
  rw [Group.closeRun_eq, Group.settleFlags_regs_of_incomplete (h := closedRun r flag []) (by rw [none]; rfl) waits]
  exact Regs.flagDone_bindFlag _ hf

/-- A stop of the selected group at a place of its own: what the group is then, and no byte changes. -/
theorem State.stopWith_spec (s : State) (cause : Nat) (a : TrapArgs) (pc : Nat) (modal : Bool) (skipTo : Addr) (frag : Mask) :
    (s.stopWith cause a pc modal skipTo frag).cur = s.cur.stopped cause a.fmask modal skipTo frag
      ∧ SameBytes s (s.stopWith cause a pc modal skipTo frag) := by
  unfold State.stopWith
  rw [(State.report_spec _ _ _).1]
  exact ⟨rfl, fun _ => ⟨rfl, rfl, rfl⟩⟩

end Sys2Proof.Machine

namespace Sys2Proof.Claims

open Sys2Proof.Machine Sys2Proof.Safety

/-- The registers that an HEND names (R43). -/
def exitRegs (s : State) (x y z : BitVec 7) : List Nat :=
  ([x, y, z].filter (fun n => n != 127#7)).map (fun n => n.toNat + s.xw)

/-- The state that an HEND leaves before a deferred fault of its run is raised. -/
def runClosed (s : State) (f : BitVec 4) (x y z : BitVec 7) (r : Run) : State :=
  State.advance { s with cur := s.cur.closeRun r f.toNat (exitRegs s x y z) }

section

variable {s : State} {f : BitVec 4} {x y z : BitVec 7} (hf : f.toNat < 12 ∨ f = 15#4)
  (hn : ∀ n ∈ [x, y, z], n.toNat < 120 ∨ n = 127#7)

include hf hn

theorem exec_hend_of_noRun (hr : s.cur.run = none) : exec (.hend f x y z) s = .next (s.trap0 1 4) := by
  show execHend f x y z s = _
  simp only [execHend, hendFields_pass hf hn, hr, Bool.false_eq_true, if_false]

theorem exec_hend_of_run {r : Run} (hr : s.cur.run = some r) (hd : r.deferred = none) :
    exec (.hend f x y z) s = .next (runClosed s f x y z r) := by
  show execHend f x y z s = _
  simp only [execHend, hendFields_pass hf hn, hr, hd, Bool.false_eq_true, if_false]
  rfl

theorem exec_hend_of_deferred {r : Run} {cause : Nat} {pc : Addr} (hr : s.cur.run = some r)
    (hd : r.deferred = some (cause, pc)) :
    ∃ at_ modal skipTo frag aux, exec (.hend f x y z) s =
      .next ((runClosed s f x y z r).stopWith cause { fmask := 0#32, addr := 0, aux := aux } at_ modal skipTo frag) := by
  show ∃ at_ modal skipTo frag aux, execHend f x y z s = _
  simp only [execHend, hendFields_pass hf hn, hr, hd, Bool.false_eq_true, if_false]
  exact ⟨_, _, _, _, _, rfl⟩

end

/-- The frame of an HEND: the run is closed and the fragment goes on. -/
theorem runClosed_frame (s : State) (f : BitVec 4) (x y z : BitVec 7) (r : Run) :
    let t := runClosed s f x y z r
    OnlyGroup s t ∧ t.cur.run = none ∧ t.cur.frag = s.cur.frag.movedTo (after s)
      ∧ t.cur.regs = { s.cur.regs with fstat := t.cur.regs.fstat, fpend := t.cur.regs.fpend }
      ∧ t.cur.regs.fstat &&& s.cur.regs.fstat = s.cur.regs.fstat := by
  intro t
  obtain ⟨frame, fstat⟩ := s.cur.closeRun_frame r f.toNat (exitRegs s x y z)
  refine ⟨OnlyGroup.of_mem rfl, ?_, ?_, ?_, fstat⟩
  · exact congrArg Group.run frame
  · show (s.cur.closeRun _ _ _).frag.movedTo ((s.cur.closeRun _ _ _).frag.pc + 4#57) = _
    rw [frame]
    rfl
  · exact congrArg Group.regs frame

/-- Settles O20: HEND by what stands open, over what the end of a run changes in its group. -/
theorem hendClosesTheRun : Obligations.HendClosesTheRun := by
  refine ⟨fun s f x y z r hf hn hr hd => ?_, fun s f x y z r cause pc hf hn hr hd => ?_, fun s f x y z hf hn hr => ?_⟩
  · obtain ⟨group, run, frag, regs, fstat⟩ := runClosed_frame s f x y z r
    refine ⟨_, exec_hend_of_run hf hn hr hd, run, group, frag, regs, fstat, fun w hw late pending => ⟨?_, ?_⟩⟩
    · exact Group.closeRun_keeps _ _ hw late pending
    · rintro none flag rfl rfl rfl
      exact Group.closeRun_flag none flag hw late pending
  · obtain ⟨group, run, frag, -, -⟩ := runClosed_frame s f x y z r
    obtain ⟨_, modal, skipTo, member, _, e⟩ := exec_hend_of_deferred hf hn hr hd
    obtain ⟨stopped, same⟩ := State.stopWith_spec (runClosed s f x y z r) cause _ _ modal skipTo member
    refine ⟨_, e, ?_, ?_, ?_, ?_, SameBytes.trans group.2 same⟩ <;> rw [stopped]
    · exact ⟨_, rfl, rfl⟩
    · exact run
    · exact congrArg Frag.pc frag
    · rfl
  · exact ⟨_, exec_hend_of_noRun hf hn hr, (State.trap0_spec s 1 4).1⟩

end Sys2Proof.Claims

/-! # Words of runs that complete and that decide (R76, R83 to R86, R90) -/

namespace Sys2Proof.Machine

open Sys2Proof.Safety Sys2Proof.Claims

/-! ## Completion (R76, R90) -/

/-- ORing flags keeps those of every member. -/
theorem orFlags_of_mem {f : Flags} {fs : List Flags} (h : f ∈ fs) : ∃ rest, orFlags fs = f ||| rest := by
  obtain ⟨before, after, rfl⟩ := List.append_of_mem h
  refine ⟨orFlags before ||| orFlags after, ?_⟩
  have single : orFlags [f] = f := BitVec.zero_or
  rw [← List.singleton_append, orFlags_append, orFlags_append, single, ← BitVec.or_assoc, ← BitVec.or_assoc,
    BitVec.or_comm f]

/-- A word whose time has come completes. -/
theorem done_mem_settleBy {w : InFlight} {flight : List InFlight} {t : Nat} (hw : w ∈ flight) (due : w.complete ≤ t) :
    { w with done := true } ∈ (settleBy t flight).2 :=
  List.mem_map.mpr ⟨w, hw, if_pos due⟩

/-- A word that completes raises its flags. -/
theorem flags_settleBy {w : InFlight} {flight : List InFlight} {t : Nat} (hw : w ∈ flight) (pending : w.done = false)
    (due : w.complete ≤ t) : ∃ rest, (settleBy t flight).1 = orFlags w.flags ||| rest :=
  orFlags_of_mem (List.mem_map_of_mem (List.mem_filter.mpr ⟨hw, by simp [pending, due]⟩))

theorem settleWith_of_mem {w : InFlight} {flight : List InFlight} (hw : w ∈ flight) :
    settleWith w flight = settleBy w.complete flight :=
  if_pos (List.contains_iff_mem.mpr hw)

/-- A pending word has not completed. -/
theorem Group.done_of_mem_pending {g : Group} {w : InFlight} (h : w ∈ g.pending) : w.done = false := by
  simpa using (List.mem_filter.mp h).2

/-- The completion of a word of the open run, before the flags of closed runs follow: the run's words that are due complete,
and FSTAT gains the word's flags. -/
theorem Group.commit_eq_settleFlags {g : Group} {r : Run} {w : InFlight} (hr : g.run = some r) (hw : w ∈ r.flight)
    (pending : w.done = false) :
    ∃ (u : Group) (rest : Flags), g.commit w = u.settleFlags
      ∧ u.run = some { r with flight := (settleBy w.complete r.flight).2 }
      ∧ u.regs = { g.regs with fstat := g.regs.fstat ||| orFlags w.flags ||| rest } := by
  obtain ⟨others, hothers⟩ := orFlags_of_mem (List.mem_cons_self (a := (settleBy w.complete r.flight).1)
    (l := (g.hend.map fun h => (h, settleWith w h.flight)).map (·.2.1)))
  obtain ⟨rest, hrest⟩ := flags_settleBy hw pending le_rfl
  refine ⟨_, rest ||| others, rfl, ?_, ?_⟩
  · simp only [hr, Option.map_some, settleWith_of_mem hw]
  · simp only [hr, Option.map_some, Option.getD_some, settleWith_of_mem hw]
    rw [hothers, hrest, BitVec.or_assoc, BitVec.or_assoc]

/-- What the completion of a word of the open run does in its group. -/
theorem Group.commit_spec {g : Group} {r : Run} {w : InFlight} (hr : g.run = some r) (hw : w ∈ r.flight)
    (pending : w.done = false) :
    let u := g.commit w
    u.run = some { r with flight := (settleBy w.complete r.flight).2 }
      ∧ u.regs = { g.regs with fstat := u.regs.fstat, fpend := u.regs.fpend }
      ∧ ∃ rest, u.regs.fstat = g.regs.fstat ||| orFlags w.flags ||| rest := by
  obtain ⟨v, rest, commit, run, regs⟩ := Group.commit_eq_settleFlags hr hw pending
  dsimp only
  rw [commit, Group.settleFlags_frame, regs]
  exact ⟨run, rfl, rest, rfl⟩

theorem exec_resultCommit_of_pending {s : State} {i : Nat} {w : InFlight} (h : s.cur.pending[i]? = some w) :
    exec (.resultCommit i) s = .next { s with cur := s.cur.commit w } := by
  show execResultCommit i s = _
  simp only [execResultCommit, State.groups, commitAt, h, State.withGroups]

/-! ## Early decision (R83 to R86) -/

/-- What an early decision of `w` may do to a word of its run: `x` before, `y` after. -/
def Decided (w x y : InFlight) : Prop :=
  y.idx = x.idx ∧ y.dests = x.dests ∧ x.cancelled &&& ~~~y.cancelled = 0#32
    ∧ (x.idx ≠ w.idx ∨ x.returned = [] → y.complete = x.complete)
    ∧ (x.idx = w.idx → y.cancelled = x.cancelled ∧ y.open_ &&& ~~~x.open_ = 0#32 ∧ y.flags = x.flags)
    ∧ ∀ l, (y.flags.getD l 0#8 ||| 0x18#8) = (x.flags.getD l 0#8 ||| 0x18#8)

theorem and_not_or_eq_zero (a b : Mask) : a &&& ~~~(a ||| b) = 0#32 := by
  rw [BitVec.not_or, ← BitVec.and_assoc, BitVec.and_not_self]
  exact BitVec.zero_and

theorem and_and_not_eq_zero (a b : Mask) : a &&& b &&& ~~~a = 0#32 := by
  rw [BitVec.and_comm a, BitVec.and_assoc, BitVec.and_not_self]
  exact BitVec.and_zero

theorem and_not_or_same (a b : BitVec 8) : a &&& ~~~b ||| b = a ||| b := by
  ext i
  simp only [BitVec.getElem_or, BitVec.getElem_and, BitVec.getElem_not]
  cases b[i] <;> simp

/-- The deciding word settles: only what returns an operand completes earlier (R84). -/
theorem InFlight.settled_decided {w x : InFlight} (h : x.idx = w.idx) (before : List InFlight) (settle : Mask) :
    Decided w x (x.settled before settle) := by
  refine ⟨rfl, rfl, BitVec.and_not_self _, ?_, fun _ => ⟨rfl, and_and_not_eq_zero _ _, rfl⟩, fun _ => rfl⟩
  rintro (other | none)
  · exact absurd h other
  · simp [InFlight.settled, none]

/-- The word cancelled in `lanes`, which leaves out inexact and underflow in those of `drop` (R86). -/
def InFlight.cancelledIn (x : InFlight) (lanes drop : Mask) : InFlight :=
  { x with
    cancelled := x.cancelled ||| lanes
    flags := x.flags.zipIdx.map fun f =>
      if lanes.getLsbD f.2 && drop.getLsbD f.2 then f.1 &&& ~~~droppedFlags else f.1 }

/-- A decision settles the deciding word and cancels lanes of the others. -/
theorem decideIn_eq_map (w : InFlight) (later : List Instr) (settle : Mask) (pick drop : Nat → Mask)
    (flight : List InFlight) : ∃ (before : List InFlight) (lanes : InFlight → Mask),
      decideIn w later settle pick drop flight = flight.map fun x =>
        if x.idx = w.idx then x.settled before settle else x.cancelledIn (lanes x) (drop x.idx) :=
  ⟨_, _, rfl⟩

/-- A cancelled word keeps each flag but inexact and underflow. -/
theorem InFlight.cancelledIn_flags (x : InFlight) (lanes drop : Mask) (l : Nat) :
    (x.cancelledIn lanes drop).flags.getD l 0#8 ||| 0x18#8 = x.flags.getD l 0#8 ||| 0x18#8 := by
  rw [InFlight.cancelledIn, List.getD_eq_getElem?_getD, List.getD_eq_getElem?_getD, List.getElem?_map,
    List.getElem?_zipIdx]
  cases x.flags[l]? with
  | none => rfl
  | some f =>
    simp only [Option.map_some, Option.getD_some]
    split
    · exact and_not_or_same f droppedFlags
    · rfl

/-- A word that does not decide is cancelled in lanes at most, and its completion does not move (R86). -/
theorem InFlight.cancelledIn_decided {w x : InFlight} (h : x.idx ≠ w.idx) (lanes drop : Mask) :
    Decided w x (x.cancelledIn lanes drop) :=
  ⟨rfl, rfl, and_not_or_eq_zero _ _, fun _ => rfl, fun same => absurd same h, x.cancelledIn_flags lanes drop⟩

/-- What a decision does to each word of the flight. -/
theorem decideIn_spec (w : InFlight) (later : List Instr) (settle : Mask) (pick drop : Nat → Mask) (flight : List InFlight) :
    let decided := decideIn w later settle pick drop flight
    decided.length = flight.length ∧ ∀ (k : Nat) (x y : InFlight), flight[k]? = some x → decided[k]? = some y → Decided w x y := by
  obtain ⟨before, lanes, eq⟩ := decideIn_eq_map w later settle pick drop flight
  dsimp only
  rw [eq]
  refine ⟨List.length_map _, fun k x y hx hy => ?_⟩
  rw [List.getElem?_map, hx, Option.map_some, Option.some_inj] at hy
  subst hy
  split
  next same => exact InFlight.settled_decided same before settle
  next other => exact InFlight.cancelledIn_decided other (lanes x) (drop x.idx)

/-- What an early decision of a word of the open run does in its group: the words of the flight, and FSTAT.cut (R86). -/
theorem Group.decideWord_spec {g : Group} {r : Run} {w : InFlight} (hr : g.run = some r) (hw : w ∈ r.flight) (seed : Nat) :
    let u := g.decideWord w seed
    (∃ later settle pick drop, u.run = some { r with flight := decideIn w later settle pick drop r.flight })
      ∧ u.regs = { g.regs with fstat := u.regs.fstat }
      ∧ (u.regs.fstat = g.regs.fstat ∨ u.regs.fstat = g.regs.fstat ||| 0x40#8) := by
  refine ⟨?_, ?_⟩
  · simp only [Group.decideWord, hr, Option.map_some, List.contains_iff_mem.mpr hw, if_true]
    exact ⟨_, _, _, _, rfl⟩
  · simp only [Group.decideWord]
    split
    · exact ⟨rfl, .inr rfl⟩
    · exact ⟨rfl, .inl rfl⟩

theorem exec_earlyDecision_of_deciding {s : State} {i : Nat} {w : InFlight} (h : s.cur.deciding[i]? = some w) :
    exec (.earlyDecision i) s = .next { s.drew 32 with cur := s.cur.decideWord w s.fresh } := by
  show execEarlyDecision i s = _
  simp only [execEarlyDecision, State.groups, decideAt, h, State.withGroups]
  rfl

end Sys2Proof.Machine

namespace Sys2Proof.Claims

open Sys2Proof.Machine Sys2Proof.Safety

/-- Settles O21: RESULT_COMMIT over what a completion does in the group, EARLY_DECISION over what a decision does to each word
of the flight. -/
theorem runWordsCompleteAndDecide : Obligations.RunWordsCompleteAndDecide := by
  refine fun s i w r hr => ⟨fun hi hw => ?_, fun hi hw => ?_⟩
  · have pending := Group.done_of_mem_pending (List.mem_of_getElem? hi)
    obtain ⟨run, regs, rest, fstat⟩ := Group.commit_spec hr hw pending
    refine ⟨_, _, exec_resultCommit_of_pending hi, rfl, run, fun x hx due => done_mem_settleBy hx due,
      fun x hx late => mem_settleBy hx late, ?_, regs⟩
    exact fstat ▸ or_and_self _ rest
  · obtain ⟨⟨later, settle, pick, drop, run⟩, regs, fstat⟩ := Group.decideWord_spec hr hw s.fresh
    obtain ⟨length, words⟩ := decideIn_spec w later settle pick drop r.flight
    exact ⟨_, _, exec_earlyDecision_of_deciding hi, rfl, run, rfl, rfl, length, words, regs, fstat⟩

end Sys2Proof.Claims

namespace Sys2Proof.Machine

open Sys2Proof.Safety Sys2Proof.Claims

/-! # Translations after translations (R174 to R178)

A walk reads table entries in package memory alone, and two addresses of one page walk alike: what a settled translation adds
to the caches leaves every other settled translation settled. -/

/-! ## What a walk reads -/

/-- Two memories hold the same tables: their package memory, its poison and JPTB agree. -/
def SameTables (m n : Mem) : Prop := n.pkg = m.pkg ∧ n.pkgPoison = m.pkgPoison ∧ n.jptb = m.jptb

theorem SameTables.checkEntry {m n : Mem} (h : SameTables m n) (c : Nat × Nat) (a level : Nat) :
    checkEntry n c a level = checkEntry m c a level := by
  obtain ⟨pkg, poison, -⟩ := h
  rw [Machine.checkEntry, pkgPoisoned, pkgWord, pkg, poison]
  rfl

theorem SameTables.walkFrom {m n : Mem} (h : SameTables m n) (c : Nat × Nat) (va pick : Nat) (level table : Nat) :
    walkFrom (fun _ => none) n c va pick level table = walkFrom (fun _ => none) m c va pick level table := by
  induction level generalizing table with
  | zero => simp only [Machine.walkFrom, h.checkEntry]
  | succ level ih => simp only [Machine.walkFrom, h.checkEntry, ih]

theorem SameTables.walkTables {m n : Mem} (h : SameTables m n) (c : Nat × Nat) (va level table : Nat) :
    walkTables n c va level table = walkTables m c va level table := by
  induction level generalizing table with
  | zero => rfl
  | succ level ih => simp only [Machine.walkTables, h.checkEntry, ih]

theorem SameTables.root {m n : Mem} (h : SameTables m n) : n.root = m.root := by
  obtain ⟨-, -, jptb⟩ := h
  rw [Mem.root, Mem.root, jptb]

/-! ## Addresses of one page -/

/-- An entry that passes the test is not malformed (R175, R179). -/
theorem entryMalformed_of_checkEntry {m : Mem} {c : Nat × Nat} {a level e : Nat} (h : checkEntry m c a level = .ok e) :
    entryMalformed c level e = false := by
  unfold checkEntry at h
  simp only at h
  split at h
  · cases h
  · split at h
    · cases h
    · split at h
      · cases h
      · cases h
        rwa [← Bool.not_eq_true]

/-- A leaf above level 0 maps the whole of what its entry covers (R174, R175). -/
theorem leafOf_lg {m : Mem} {c : Nat × Nat} {a level e : Nat} (h : checkEntry m c a (level + 1) = .ok e)
    (leaf : entryKind e ≠ 0) : (leafOf (level + 1) e).lg = 12 + 9 * (level + 1) := by
  have ok := entryMalformed_of_checkEntry h
  simp only [entryMalformed, Bool.or_eq_false_iff, Bool.and_eq_false_iff, bne_eq_false_iff_eq, decide_eq_false_iff_not] at ok
  have low : level + 1 < 3 := by
    obtain ⟨⟨⟨⟨⟨⟨⟨-, high⟩, -⟩, -⟩, -⟩, -⟩, -⟩, -⟩ := ok
    exact Nat.not_le.mp (high.resolve_left leaf)
  match level with
  | 0 => rfl
  | 1 => rfl

/-- A page that a walk finds from a level on has 4 KiB or more, and no more than an entry of the level covers. -/
theorem walkFrom_lg {m : Mem} {c : Nat × Nat} {va pick : Nat} {l : Leaf} (n : Nat) {table : Nat}
    (h : walkFrom (fun _ => none) m c va pick n table = .ok l) : 12 ≤ l.lg ∧ l.lg ≤ max 16 (12 + 9 * n) := by
  have low (e : Nat) : 12 ≤ (leafOf 0 e).lg ∧ (leafOf 0 e).lg ≤ max 16 (12 + 9 * 0) := by
    simp only [leafOf, leafLg]
    split <;> omega
  induction n generalizing table with
  | zero =>
    unfold walkFrom at h
    simp only at h
    split at h
    · cases h
    · split at h
      · split at h
        · cases h
        · cases h
          exact low _
      · cases h
        exact low _
  | succ n ih =>
    unfold walkFrom at h
    simp only at h
    split at h
    · cases h
    · next found =>
      split at h
      · exact (ih h).imp_right fun le => le.trans (by omega)
      · next leaf =>
        cases h
        rw [leafOf_lg found leaf]
        omega

/-- Addresses that agree from one bit on agree from every later bit on. -/
theorem div_two_pow_eq_of_le {a b j k : Nat} (h : a / 2 ^ j = b / 2 ^ j) (le : j ≤ k) : a / 2 ^ k = b / 2 ^ k := by
  obtain ⟨d, rfl⟩ := Nat.exists_eq_add_of_le le
  rw [pow_add, ← Nat.div_div_eq_div_mul, ← Nat.div_div_eq_div_mul, h]

/-- A walk at level 0 ends at the page of its entry; for a page of 64 KiB that of the entry picked (R174, R176). -/
theorem walkFrom_zero_ok {m : Mem} {c : Nat × Nat} {va pick table : Nat} {l : Leaf} :
    walkFrom (fun _ => none) m c va pick 0 table = .ok l ↔
      ∃ e, checkEntry m c (table + 8 * (va / 2 ^ 12 % 512)) 0 = .ok e
        ∧ if e.testBit 57 then
            ∃ e', checkEntry m c (table + 8 * (va / 2 ^ 12 % 512 / 16 * 16 + pick % 16)) 0 = .ok e' ∧ leafOf 0 e' = l
          else leafOf 0 e = l := by
  unfold walkFrom
  simp only
  cases checkEntry m c (table + 8 * (va / 2 ^ 12 % 512)) 0 with
  | error f => simp
  | ok e =>
    by_cases size : e.testBit 57
    · cases checkEntry m c (table + 8 * (va / 2 ^ 12 % 512 / 16 * 16 + pick % 16)) 0 <;> simp [size]
    · simp [size]

/-- The entry of an address of a 64 KiB page is one of the sixteen that may be picked (R176). -/
theorem walkFrom_zero_samePage {m : Mem} {c : Nat × Nat} {va vb table : Nat} {l : Leaf} (page : va / 2 ^ l.lg = vb / 2 ^ l.lg)
    (h : ∀ pick, walkFrom (fun _ => none) m c va pick 0 table = .ok l) (pick : Nat) :
    walkFrom (fun _ => none) m c vb pick 0 table = .ok l := by
  obtain ⟨e, entry, rest⟩ := walkFrom_zero_ok.mp (h 0)
  cases size : e.testBit 57 with
  | false =>
    simp only [size, Bool.false_eq_true, if_false] at rest
    subst rest
    simp only [leafOf, leafLg, size, Bool.false_eq_true, if_false] at page
    exact walkFrom_zero_ok.mpr ⟨e, page ▸ entry, by simp [size]⟩
  | true =>
    have picked (p : Nat) :
        ∃ e', checkEntry m c (table + 8 * (va / 2 ^ 12 % 512 / 16 * 16 + p % 16)) 0 = .ok e' ∧ leafOf 0 e' = l := by
      obtain ⟨e1, entry1, rest1⟩ := walkFrom_zero_ok.mp (h p)
      obtain rfl : e = e1 := Except.ok.inj (entry.symm.trans entry1)
      simpa only [size, if_true] using rest1
    have large : l.lg = 16 := by
      obtain ⟨e1, entry1, rfl⟩ := picked (va / 2 ^ 12 % 512)
      obtain rfl : e = e1 := by
        rw [Nat.div_add_mod'] at entry1
        exact Except.ok.inj (entry.symm.trans entry1)
      simp [leafOf, leafLg, size]
    rw [large] at page
    have row : va / 2 ^ 12 % 512 / 16 = vb / 2 ^ 12 % 512 / 16 := by omega
    obtain ⟨e1, entry1, leaf1⟩ := picked (vb / 2 ^ 12 % 512)
    rw [row, Nat.div_add_mod'] at entry1
    have size1 : e1.testBit 57 = true := by
      by_contra no
      rw [← leaf1] at large
      simp [leafOf, leafLg, no] at large
    refine walkFrom_zero_ok.mpr ⟨e1, entry1, ?_⟩
    rw [if_pos size1, ← row]
    exact picked pick

/-- Walks of two addresses of one page find the page alike. -/
theorem walkFrom_samePage {m : Mem} {c : Nat × Nat} {va vb : Nat} {l : Leaf} (page : va / 2 ^ l.lg = vb / 2 ^ l.lg) (n : Nat)
    {table : Nat} (h : ∀ pick, walkFrom (fun _ => none) m c va pick n table = .ok l) (pick : Nat) :
    walkFrom (fun _ => none) m c vb pick n table = .ok l := by
  induction n generalizing table with
  | zero => exact walkFrom_zero_samePage page h pick
  | succ n ih =>
    have found := h 0
    unfold walkFrom at found
    simp only at found
    split at found
    · cases found
    · next e entry =>
      split at found
      · next table_ =>
        have at_ := div_two_pow_eq_of_le (k := 12 + 9 * (n + 1)) page ((walkFrom_lg n found).2.trans (by omega))
        have below (pick : Nat) : walkFrom (fun _ => none) m c va pick n (entryAddr e) = .ok l := by
          have := h pick
          unfold walkFrom at this
          simpa only [entry, table_, if_true] using this
        unfold walkFrom
        simp only [← at_, entry, table_, if_true, ih below]
      · next leaf =>
        cases found
        have at_ := div_two_pow_eq_of_le page (leafOf_lg entry leaf).le
        unfold walkFrom
        simp only [← at_, entry, leaf, if_false]

/-- The tables on the walks of two addresses are the same down to the level at which their entries part. -/
theorem mem_walkTables_of_div_eq {m : Mem} {c : Nat × Nat} {va vb k t : Nat} (n : Nat) {table : Nat}
    (h : (k, t) ∈ walkTables m c va n table) (same : va / 2 ^ (12 + 9 * k) = vb / 2 ^ (12 + 9 * k)) :
    1 ≤ k ∧ k ≤ n ∧ (k, t) ∈ walkTables m c vb n table := by
  induction n generalizing table with
  | zero => cases h
  | succ n ih =>
    unfold walkTables at h ⊢
    split at h
    · cases h
    · next e entry =>
      split at h
      · next table_ =>
        have le : k ≤ n + 1 := by
          rcases List.mem_cons.mp h with first | later
          · cases first
            exact le_rfl
          · exact (ih later).2.1.trans (Nat.le_succ n)
        rw [div_two_pow_eq_of_le same (by omega : 12 + 9 * k ≤ 12 + 9 * (n + 1))] at entry
        simp only [entry, table_, if_true]
        rcases List.mem_cons.mp h with first | later
        · cases first
          exact ⟨by omega, le_rfl, List.mem_cons_self ..⟩
        · obtain ⟨one, -, there⟩ := ih later
          exact ⟨one, le, List.mem_cons_of_mem _ there⟩
      · cases h

/-! ## What a translation caches -/

theorem mem_of_mem_sdel {α : Type} {m : SMap α} {k : Nat} {e : Nat × α} (h : e ∈ sdel m k) : e ∈ m := by
  induction m with
  | nil => cases h
  | cons f m ih =>
    simp only [sdel] at h
    split at h
    · exact List.mem_cons_of_mem _ (ih h)
    · exact (List.mem_cons.mp h).elim (fun first => first ▸ List.mem_cons_self ..) (fun later => List.mem_cons_of_mem _ (ih later))

theorem mem_sins {α : Type} {m : SMap α} {k : Nat} {x : α} {e : Nat × α} (h : e ∈ sins k x m) : e = (k, x) ∨ e ∈ m := by
  induction m with
  | nil => exact .inl (List.mem_singleton.mp h)
  | cons f m ih =>
    simp only [sins] at h
    split at h
    · exact List.mem_cons.mp h
    · rcases List.mem_cons.mp h with first | later
      · exact .inr (first ▸ List.mem_cons_self ..)
      · exact (ih later).imp_right (List.mem_cons_of_mem _)

/-- What a map lists after a write: the entry written, or what it listed before. -/
theorem mem_sput {α : Type} [DecidableEq α] {d : α} {m : SMap α} {k : Nat} {x : α} {e : Nat × α} (h : e ∈ sput d m k x) :
    e = (k, x) ∨ e ∈ m := by
  unfold sput at h
  split at h
  · exact .inr (mem_of_mem_sdel h)
  · exact (mem_sins h).imp_right mem_of_mem_sdel

/-- The cached entry above the leaves that names a further table of a walk (R178). -/
def tableLeaf (x : Nat × Nat) : Leaf :=
  { kind := 0, read := false, write := false, exec := false, unit := 0, addr := x.2, lg := 12 + 9 * x.1 }

/-- The cached translations with the tables of a walk. -/
def withTables (va : Nat) (path : List (Nat × Nat)) (tlb : SMap (Option Leaf)) : SMap (Option Leaf) :=
  path.foldl (fun t x => sput none t (walkKey x.1 va) (some (tableLeaf x))) tlb

theorem mem_withTables {va : Nat} {path : List (Nat × Nat)} {tlb : SMap (Option Leaf)} {e : Nat × Option Leaf}
    (h : e ∈ withTables va path tlb) : e ∈ tlb ∨ ∃ x, e.2 = some (tableLeaf x) := by
  induction path generalizing tlb with
  | nil => exact .inl h
  | cons x path ih =>
    rcases ih h with first | later
    · exact (mem_sput first).elim (fun new => .inr ⟨x, by rw [new]⟩) .inl
    · exact .inr later

theorem sget_withTables (va k : Nat) (path : List (Nat × Nat)) (tlb : SMap (Option Leaf)) :
    sget none (withTables va path tlb) k = sget none tlb k
      ∨ ∃ x ∈ path, walkKey x.1 va = k ∧ sget none (withTables va path tlb) k = some (tableLeaf x) := by
  induction path generalizing tlb with
  | nil => exact .inl rfl
  | cons x path ih =>
    rcases ih (sput none tlb (walkKey x.1 va) (some (tableLeaf x))) with before | ⟨y, hy, key, value⟩
    · by_cases key : k = walkKey x.1 va
      · exact .inr ⟨x, List.mem_cons_self .., key.symm, before.trans (key ▸ sget_sput_same ..)⟩
      · exact .inl (before.trans (sget_sput_ne _ _ _ key))
    · exact .inr ⟨y, List.mem_cons_of_mem _ hy, key, value⟩

theorem State.cacheWalk_tlb (s : State) (va : Nat) (l : Leaf) :
    (s.cacheWalk va l).mem.tlb =
      withTables va (walkTables s.mem s.ctxArea va 4 s.mem.root) (sput none s.mem.tlb (va / 4096) (some l)) := rfl

/-- A settled translation, when it is not yet cached, is cached with the tables of its walk (R178). -/
theorem State.translate_of_mapsTo {s : State} {va : Nat} {l : Leaf} (h : MapsTo s va l) :
    s.translate va = (s, .ok l) ∨ s.translate va = ((if l.lg = 16 then s.drawn else s).cacheWalk va l, .ok l) := by
  obtain ⟨leaves, stale, walks⟩ := h
  have others : (s.mem.leavesFor va).filter (fun x => x != l) = [] :=
    List.filter_eq_nil_iff.mpr fun x hx => by simp [leaves x hx]
  unfold State.translate
  simp only [walks, stale, others, List.isEmpty_nil, Bool.and_self, if_true]
  split
  · exact .inl rfl
  · exact .inr rfl

/-- Keys of table entries do not meet those of pages, and tell levels and entries apart (R178). -/
theorem walkKey_ne_page {va vb k : Nat} (hk : 1 ≤ k) (hv : va < 2 ^ 57) : walkKey k vb ≠ va / 4096 := by
  unfold walkKey
  have : va / 4096 < 2 ^ 45 := by omega
  have : 2 ^ 45 ≤ k * 2 ^ 45 := Nat.le_mul_of_pos_left _ hk
  omega

theorem walkKey_inj {va vb j k : Nat} (ha : va < 2 ^ 57) (hb : vb < 2 ^ 57) (h : walkKey j va = walkKey k vb) :
    j = k ∧ va / 2 ^ (12 + 9 * k) = vb / 2 ^ (12 + 9 * k) := by
  have low {v n : Nat} (hv : v < 2 ^ 57) : v / 2 ^ (12 + 9 * n) * 2 ^ (9 * n) < 2 ^ 45 := by
    rw [pow_add, ← Nat.div_div_eq_div_mul]
    exact (Nat.div_mul_le_self _ _).trans_lt (by omega)
  unfold walkKey at h
  have ja := low (n := j) ha
  have kb := low (n := k) hb
  obtain rfl : j = k := by omega
  exact ⟨rfl, Nat.eq_of_mul_eq_mul_right (by positivity) (Nat.add_left_cancel h)⟩

end Sys2Proof.Machine

namespace Sys2Proof.Safety

open Sys2Proof.Machine

/-- A translation depends on the tables, the cached translations and the context area alone. -/
theorem MapsTo.congr {s t : State} {va : Nat} {l : Leaf} (h : MapsTo s va l) (tables : SameTables s.mem t.mem)
    (tlb : t.mem.tlb = s.mem.tlb) (area : t.ctxArea = s.ctxArea) : MapsTo t va l := by
  obtain ⟨leaves, stale, walks⟩ := h
  refine ⟨?_, ?_, fun pick => ?_⟩
  · rwa [Mem.leavesFor, tlb]
  · rwa [State.staleTables, tables.root, area, funext (tables.walkTables _ va 4), show t.mem.tableFor va = s.mem.tableFor va by
      funext k; rw [Mem.tableFor, tlb, Mem.tableFor]]
  · rw [walk, tables.walkFrom, tables.root, area]
    exact walks pick

/-- Settled translations of two addresses of one page give one leaf. -/
theorem MapsTo.samePage {s : State} {va vb : Nat} {l m : Leaf} (ha : MapsTo s va l) (hb : MapsTo s vb m)
    (page : va / 2 ^ l.lg = vb / 2 ^ l.lg) : l = m :=
  Except.ok.inj ((walkFrom_samePage page 4 ha.2.2 0).symm.trans (hb.2.2 0))

/-- A cached page of 4 KiB or more covers the addresses that it shares with the address it was cached for (R178). -/
theorem samePage_of_cachedFor {va vb : Nat} {l : Leaf} (lg : 12 ≤ l.lg) (hva : va < 2 ^ 57)
    (h : cachedFor vb (va / 4096, some l) = true) : va / 2 ^ l.lg = vb / 2 ^ l.lg := by
  obtain ⟨d, hd⟩ := Nat.exists_eq_add_of_le lg
  have size : 2 ^ l.lg = 4096 * 2 ^ d := by norm_num [hd, pow_add]
  rw [← beq_iff_eq.mp h, Nat.mod_eq_of_lt (by omega : va / 4096 < 2 ^ 45), size, Nat.mul_comm (va / 4096),
    Nat.mul_div_mul_left _ _ (by decide), ← Nat.div_div_eq_div_mul]

/-- What a settled translation caches leaves every settled translation settled. -/
theorem MapsTo.cacheWalk {s : State} {va vb : Nat} {l m : Leaf} (ha : MapsTo s va l) (hb : MapsTo s vb m) (hva : va < 2 ^ 57)
    (hvb : vb < 2 ^ 57) : MapsTo (s.cacheWalk va l) vb m := by
  have ⟨leaves, stale, walks⟩ := hb
  have area : (s.cacheWalk va l).ctxArea = s.ctxArea := rfl
  have tables : SameTables s.mem (s.cacheWalk va l).mem := ⟨rfl, rfl, rfl⟩
  refine ⟨fun x hx => ?_, List.filter_eq_nil_iff.mpr fun k hk => ?_, fun pick => ?_⟩
  · obtain ⟨e, he, value⟩ := List.mem_filterMap.mp hx
    obtain ⟨listed, covers⟩ := List.mem_filter.mp he
    rw [State.cacheWalk_tlb] at listed
    rcases mem_withTables listed with leaf | ⟨y, table⟩
    · rcases mem_sput leaf with rfl | old
      · have page : va / 2 ^ l.lg = vb / 2 ^ l.lg := by
          exact samePage_of_cachedFor (walkFrom_lg 4 (ha.2.2 0)).1 hva covers
        simp only [Option.bind_some] at value
        split at value
        · cases value
        · cases value
          exact ha.samePage hb page
      · exact leaves x (List.mem_filterMap.mpr ⟨e, List.mem_filter.mpr ⟨old, covers⟩, value⟩)
    · simp [table, tableLeaf] at value
  · have one : 1 ≤ k := by
      simp only [List.mem_cons, List.not_mem_nil, or_false] at hk
      omega
    have fresh := List.filter_eq_nil_iff.mp stale k hk
    rw [area, tables.root, funext (tables.walkTables s.ctxArea vb 4)]
    simp only [Mem.tableFor, State.cacheWalk_tlb] at fresh ⊢
    rcases sget_withTables va (walkKey k vb) (walkTables s.mem s.ctxArea va 4 s.mem.root)
      (sput none s.mem.tlb (va / 4096) (some l)) with same | ⟨x, hx, key, value⟩
    · rw [same, sget_sput_ne _ _ _ (walkKey_ne_page one hva)]
      exact fresh
    · obtain ⟨level, same⟩ := walkKey_inj hva hvb key
      obtain ⟨j, t⟩ := x
      obtain rfl : j = k := level
      have there := (mem_walkTables_of_div_eq 4 hx same).2.2
      rw [value]
      simpa [tableLeaf] using there
  · rw [walk, tables.walkFrom, tables.root]
    exact walks pick

/-- A settled translation leaves every settled translation settled. -/
theorem MapsTo.translate {s : State} {va vb : Nat} {l m : Leaf} (ha : MapsTo s va l) (hb : MapsTo s vb m) (hva : va < 2 ^ 57)
    (hvb : vb < 2 ^ 57) : MapsTo (s.translate va).1 vb m := by
  rcases State.translate_of_mapsTo ha with same | cached
  · rwa [same]
  · rw [cached]
    split
    · exact (ha.cacheWalk hb hva hvb).congr ⟨rfl, rfl, rfl⟩ rfl rfl
    · exact ha.cacheWalk hb hva hvb

end Sys2Proof.Safety

namespace Sys2Proof.Machine

open Sys2Proof.Safety Sys2Proof.Claims

/-! # Split entries that come back (R137) -/

/-- Outside the pages of 64 KiB a settled translation draws no free value (R176). -/
theorem State.translate_fresh {s : State} {va : Nat} {l : Leaf} (h : MapsTo s va l) (size : l.lg ≠ 16) :
    (s.translate va).1.fresh = s.fresh := by
  rcases State.translate_of_mapsTo h with same | cached
  · rw [same]
  · rw [cached, if_neg size]
    rfl

/-- A slot of the spill area that lies inside the job space and is mapped: its bytes stand in the memory of this package or
nowhere that a spill reaches (R137). -/
theorem State.spillPhys_of_mapsTo {s : State} {slot : Nat} {l : Leaf} (fits : s.spillBase + 32 * slot + 32 ≤ 2 ^ 57)
    (h : MapsTo s (s.spillBase + 32 * slot) l) :
    s.spillPhys slot = ((s.translate (s.spillBase + 32 * slot)).1,
      if l.kind = 1 then some (leafPhys l (s.spillBase + 32 * slot)) else none) := by
  have inside : ¬2 ^ 57 ≤ s.spillBase + 32 * slot + 31 := by omega
  simp only [State.spillPhys, if_neg inside]
  rw [← Prod.eta (s.translate _), State.translate_maps h]

/-- A refill from a slot that another package holds is the fault (R137). -/
theorem State.refill_of_foreign {s : State} {en : SplitEntry} {slot seed : Nat} {l : Leaf}
    (fits : s.spillBase + 32 * slot + 32 ≤ 2 ^ 57) (h : MapsTo s (s.spillBase + 32 * slot) l) (kind : l.kind ≠ 1) :
    s.refill en slot seed = (s.translate (s.spillBase + 32 * slot)).1.refillFault := by
  simp only [State.refill, State.spillPhys_of_mapsTo fits h, if_neg kind]

/-- A fault of the current unit leaves the group its place. -/
theorem State.trapSkip_id (s : State) (cause : Nat) (a : TrapArgs) (next : Addr) :
    (s.trapSkip cause a next).cur.id = s.cur.id := by
  rw [State.trapSkip, (State.stopWith_spec _ _ _ _ _ _ _).1, Group.stopped, Group.settleRun_frame]
  rfl

/-- An entry leaves the chip for a free slot in the memory of this package: free values are written there (R137). -/
theorem State.spillOne_of_local {s : State} {keep : Nat} {l : Leaf} (k bad : State → State)
    (victim : s.cur.entries.filter (fun e => e.spilled.isNone && e.id != keep) ≠ [])
    (room : s.spillBase + 32 * freeSlot s.cur.entries + 32 ≤ 2 ^ 57)
    (home : MapsTo s (s.spillBase + 32 * freeSlot s.cur.entries) l) (kind : l.kind = 1) (size : l.lg ≠ 16) :
    ∃ t, s.spillOne keep k bad = k t ∧ t.mem.pkg =
      writeBytes s.mem.pkg (leafPhys l (s.spillBase + 32 * freeSlot s.cur.entries)) (freeBytes (s.fresh + 1) 4) := by
  have chosen : s.freeNow.toNat % max 1 (s.cur.entries.filter (fun e => e.spilled.isNone && e.id != keep)).length
      < (s.cur.entries.filter (fun e => e.spilled.isNone && e.id != keep)).length := by
    have := List.length_pos_iff.mpr victim
    exact (Nat.mod_lt _ (by omega)).trans_eq (by omega)
  unfold State.spillOne
  simp only [List.getElem?_eq_getElem chosen, State.spillPhys_of_mapsTo room home, if_pos kind, State.translate_fresh home size]
  refine ⟨_, rfl, ?_⟩
  show writeBytes (s.translate _).1.mem.pkg _ _ = _
  rw [State.translate_frame]

/-- A fragment of a spilled entry, in a group that has more entries on chip than R137 lets stand there. The spill area begins in
a page of this package and goes on in a page of node 51, where slot 8 lies; slot 0 begins with the byte `b`. -/
def crowded (b : Byte) : State :=
  let s := State.reset.withGroup
  let l := { probeLaunch with record := { probeLaunch.record with spillBase := 0x1FFF00#57, spillEntries := 16 } }
  { s with
    cur := { s.cur with
      frag := { s.cur.frag with entry := 1 },
      entries := SplitEntry.mk 1 0x200#57 0#32 0 (some (8, 0))
        :: (List.range 8).map (fun i => SplitEntry.mk (i + 2) 0x200#57 0#32 0 none) },
    sched := { s.sched with launches := [l] },
    mem := { s.mem with
      pkg := sput 0#8 (putEntry s.mem.pkg 0x4008 (2 ^ 63 + 2 ^ 62 + 2 ^ 60 + 2 ^ 59 + 51 * 2 ^ 43 + 0x200000)) 0x3FFF00 b } }

/-- The page of this package in which the spill area of `crowded` begins. -/
def crowdedHome : Leaf := { kind := 1, read := true, write := true, exec := true, unit := 0, addr := 0x200000, lg := 21 }

/-- The page of node 51 in which it goes on. -/
def crowdedPeer : Leaf := { kind := 2, read := true, write := true, exec := false, unit := 51, addr := 0x200000, lg := 21 }

/-- The entry of the current fragment of `crowded`. -/
def crowdedEntry : SplitEntry := SplitEntry.mk 1 0x200#57 0#32 0 (some (8, 0))

theorem crowded_entries (b : Byte) :
    (crowded b).cur.entries.find? (fun e => e.id == (crowded b).cur.frag.entry) = some crowdedEntry
      ∧ ((crowded b).cur.entries.map (·.id)).Nodup
      ∧ (crowded b).cur.entries.filter (fun e => e.spilled.isNone && e.id != 1) ≠ []
      ∧ freeSlot (crowded b).cur.entries = 0 ∧ 8 < (crowded b).cur.onChip := by
  have same : (crowded b).cur = (crowded 0#8).cur := rfl
  rw [same]
  decide +kernel

theorem crowded_spillBase (b : Byte) : (crowded b).spillBase = 0x1FFF00 := by
  rw [show (crowded b).spillBase = (crowded 0#8).spillBase from rfl]
  decide +kernel

theorem crowded_maps : ∀ b ∈ [0#8, 1#8],
    MapsTo (crowded b) 0x1FFF00 crowdedHome ∧ MapsTo (crowded b) 0x200000 crowdedPeer
      ∧ pkgByte (crowded b) 0x3FFF00 = b := by
  have walks : ∀ b ∈ [0#8, 1#8], (walk (crowded b).mem (crowded b).ctxArea 0x1FFF00 0).toOption = some crowdedHome
      ∧ (walk (crowded b).mem (crowded b).ctxArea 0x200000 0).toOption = some crowdedPeer := by
    decide +kernel
  intro b hb
  obtain ⟨home, peer⟩ := walks b hb
  exact ⟨mapsTo_of_walk rfl home (by decide), mapsTo_of_walk rfl peer (by decide), sget_sput_same ..⟩

/-- A fault of a refill stops the group and reaches the fault unit; the place of the group and its entries stand. -/
theorem State.refillFault_frame (s : State) :
    TrapOnly s s.refillFault ∧ s.refillFault.cur.id = s.cur.id ∧ s.refillFault.cur.entries = s.cur.entries := by
  obtain ⟨-, only, -, entries⟩ := s.trapSkip_spec (32 * 4 + 3) TrapArgs.plain (s.pastUnit s.unitPc 2)
  exact ⟨only, s.trapSkip_id .., entries⟩

theorem State.spillBase_congr {s t : State} (id : t.cur.id = s.cur.id) (sched : t.sched = s.sched) :
    t.spillBase = s.spillBase := by
  simp only [State.spillBase, State.launchRec, State.launchOf, id, sched]

/-- In `crowded` the fault of the refill is followed by the spill of another entry, which writes slot 0. -/
theorem exec_splitRefill_crowded {b : Byte} (hb : b ∈ [0#8, 1#8]) :
    ∃ t, exec .splitRefill (crowded b) = .next t
      ∧ pkgByte t 0x3FFF00 = (freeBytes ((crowded 0#8).fresh + 1) 4).getD 0 0#8 := by
  obtain ⟨found, -, victim, slot, many⟩ := crowded_entries b
  obtain ⟨home, peer, -⟩ := crowded_maps b hb
  have begins := crowded_spillBase b
  let u := ((crowded b).translate 0x200000).1
  have frame : OnlyCaches (crowded b) u := State.translate_onlyCaches _ _
  obtain ⟨only, place, entries⟩ := u.refillFault_frame
  rw [frame.cur] at place entries
  have base : u.refillFault.spillBase = 0x1FFF00 := (State.spillBase_congr place (by rw [only, frame])).trans begins
  have settled : MapsTo u.refillFault 0x1FFF00 crowdedHome :=
    (peer.translate home (by decide) (by decide)).congr (by rw [only]; exact ⟨rfl, rfl, rfl⟩) (by rw [only]) (by rw [only]; rfl)
  have still : ¬u.refillFault.cur.onChip ≤ 8 := by
    rw [Group.onChip, entries]
    exact Nat.not_le.mpr many
  have fresh : u.refillFault.fresh = (crowded b).fresh := by
    rw [only]
    exact State.translate_fresh peer (by decide)
  rw [← entries] at victim slot
  have target : u.refillFault.spillBase + 32 * freeSlot u.refillFault.cur.entries = 0x1FFF00 := by rw [base, slot]
  obtain ⟨t, spill, bytes⟩ := State.spillOne_of_local id
    (fun v => State.refillFault { v with cur := { v.cur with entries := (crowded b).cur.entries } }) victim
    (by rw [target]; decide) (by rwa [target]) rfl (by decide)
  have fault : (crowded b).refill crowdedEntry 8 0 = u.refillFault := by
    have := State.refill_of_foreign (s := crowded b) (en := crowdedEntry) (slot := 8) (seed := 0) (l := crowdedPeer)
    rw [begins] at this
    exact this (by decide) peer (by decide)
  refine ⟨t, ?_, ?_⟩
  · show execSplitRefill (crowded b) = _
    simp only [execSplitRefill, found, show crowdedEntry.spilled = some (8, 0) from rfl, fault]
    rw [if_neg still]
    exact congrArg Host.Outcome.next spill
  · rw [pkgByte, bytes, target, fresh, show leafPhys crowdedHome 0x1FFF00 = 0x3FFF00 from by decide, sget_writeBytes,
      if_pos (by simp [freeBytes, leBytes])]
    rfl

end Sys2Proof.Machine

namespace Sys2Proof.Claims

open Sys2Proof.Machine Sys2Proof.Safety

/-- Refutes O16: the clause of the fault takes in groups with more than eight entries on chip, from which the refill spills an
entry after the fault, so that bytes of package memory change. -/
theorem not_refillBringsTheEntryBack : ¬ Obligations.RefillBringsTheEntryBack := by
  intro h
  have kept : ∀ b ∈ [0#8, 1#8], b = (freeBytes ((crowded 0#8).fresh + 1) 4).getD 0 0#8 := by
    intro b hb
    obtain ⟨found, distinct, -⟩ := crowded_entries b
    obtain ⟨-, peer, byte⟩ := crowded_maps b hb
    have base := crowded_spillBase b
    obtain ⟨t, next, -, -, -, -, same, -⟩ := (h (crowded b) crowdedEntry 8 0 crowdedPeer found rfl (by rw [base]; decide)
      (by rwa [base]) distinct).2 (by decide)
    obtain ⟨t', next', written⟩ := exec_splitRefill_crowded hb
    obtain rfl : t = t' := Host.Outcome.next.inj (next.symm.trans next')
    rw [← written, (same 0x3FFF00).1, byte]
  exact absurd ((kept 0#8 (by decide)).trans (kept 1#8 (by decide)).symm) (by decide)

end Sys2Proof.Claims

namespace Sys2Proof.Machine

open Sys2Proof.Safety Sys2Proof.Claims

/-! # Launch records and launch queues (R129 to R131, R293 to R299) -/

/-! ## A state with other caches (R178) -/

/-- A state that differs in its caches is the state with other caches. -/
theorem OnlyCaches.eq_with {s t : State} (h : OnlyCaches s t) :
    ∃ tlb icache fresh, t = { s with mem := { s.mem with tlb := tlb, icache := icache }, fresh := fresh } := ⟨_, _, _, h⟩

theorem OnlyCaches.queue {s t : State} (h : OnlyCaches s t) (q : Nat) : t.queue q = s.queue q := by
  rw [h]
  rfl

theorem OnlyCaches.checkRecord {s t : State} (h : OnlyCaches s t) (bs : List Byte) : t.checkRecord bs = s.checkRecord bs := by
  rw [h]
  rfl

/-! ## Stores on their way (R135, R184) -/

theorem OnlyCaches.noStoreOut {s t : State} (h : OnlyCaches s t) (out : NoStoreOut s) : NoStoreOut t := by
  rw [h]
  exact out

theorem late_of_noStoreOut {s : State} (h : NoStoreOut s) : s.mem.late = [] := by
  obtain ⟨-, -, late⟩ := h
  exact late

theorem State.ownStores_settled {s : State} (h : NoStoreOut s) : s.ownStores = s := by
  simp only [State.ownStores, late_of_noStoreOut h, List.isEmpty_nil, if_true]

theorem State.flushGroup_settled {s : State} (h : NoStoreOut s) (g : GroupId) : s.flushGroup g = s := by
  obtain ⟨held, -, -⟩ := h
  simp only [State.flushGroup, State.sendAll, held, List.filter_nil, List.foldl_nil]

theorem State.drains_settled {s : State} (h : NoStoreOut s) (g : GroupId) (scope : Nat) (bar : Bool) :
    s.drains g (.release scope bar) = false := by
  obtain ⟨held, txns, -⟩ := h
  simp [State.drains, State.lanesOut, State.weakOut, held, txns]

theorem Mem.released_settled {m : Mem} (late : m.late = []) (g : GroupId) (scope : Nat) : m.released g scope = m := by
  simp only [Mem.released, late, List.isEmpty_nil, if_true]

/-- No store is there to be performed. -/
theorem Mem.performLate_settled {m : Mem} (late : m.late = []) (p : LateStore → Bool) : m.performLate p = m := by
  simp only [Mem.performLate, late, List.filter_nil, List.foldl_nil]
  rw [← late]

/-! ## Queues -/

@[simp] theorem State.queue_putQueue_same (s : State) (q : Nat) (x : Queue) : (s.putQueue q x).queue q = x :=
  sget_sput_same ..

theorem State.queue_putQueue_ne (s : State) {p q : Nat} (x : Queue) (h : p ≠ q) : (s.putQueue q x).queue p = s.queue p :=
  sget_sput_ne _ _ _ h

/-! ## LAUNCH (R299) -/

theorem gridOf_eq (q : Nat) (device : Bool) (n : Nat) : gridOf q device n = gridNumber q device n := by
  rw [gridOf, gridNumber]

/-- What a list enters for a record (R295). -/
theorem State.newLaunch_entered {s : State} {q n : Nat} {device : Bool}
    (h : n = if device then (s.queue q).takenDev else (s.queue q).takenHost) (job : BitVec 16) (r : LaunchRec) (priv : Bool)
    (entry : Nat) : enteredLaunch s (newLaunch (gridOf q device n) job r priv q device entry) q device job r entry := by
  rw [gridOf_eq, h]
  exact ⟨rfl, rfl, rfl, rfl, rfl, rfl, rfl, rfl, fun _ => rfl⟩

/-- A queue changed and a scalar register written, at the end of a word. -/
theorem State.putQueue_putS_spec (s : State) (q : Nat) (x : Queue) (d : BitVec 6) (v : DWord) :
    let t := ((s.putQueue q x).putS d v).advance
    t.queue q = x ∧ (∀ p, p ≠ q → t.queue p = s.queue p) ∧ t.getS d = v ∧ (∀ e, e ≠ d → t.getS e = s.getS e)
      ∧ MovedTo s t (after s) ∧ OnlyScalars s t ∧ SameBytes s t :=
  ⟨s.queue_putQueue_same q x, fun _ hp => s.queue_putQueue_ne x hp, sget_sput_same ..,
    fun _ he => sget_sput_ne _ _ _ fun h => he (BitVec.eq_of_toNat_eq h), rfl, ⟨rfl, fun _ => rfl, rfl⟩, fun _ => ⟨rfl, rfl, rfl⟩⟩

/-- A record enters the device list with the next grid number, which the destination then holds. -/
theorem State.enterDevice_spec (s : State) (q : Nat) (r : LaunchRec) (d : BitVec 6) :
    let t := s.enterDevice q r d
    ∃ l, enteredLaunch s l q true s.cur.id.job r 0 ∧ (t.queue q).dev = (s.queue q).dev ++ [l]
      ∧ (t.queue q).takenDev = (s.queue q).takenDev + 1 ∧ (∀ p, p ≠ q → t.queue p = s.queue p)
      ∧ t.getS d = BitVec.ofNat 64 l.grid ∧ (∀ e, e ≠ d → t.getS e = s.getS e) ∧ MovedTo s t (after s) ∧ OnlyScalars s t
      ∧ SameBytes s t := by
  intro t
  let l := newLaunch (gridOf q true (s.queue q).takenDev) s.cur.id.job r false q true 0
  obtain ⟨entered, rest⟩ := s.putQueue_putS_spec q
    { s.queue q with dev := (s.queue q).dev ++ [l], takenDev := (s.queue q).takenDev + 1 } d (BitVec.ofNat 64 l.grid)
  exact ⟨l, State.newLaunch_entered rfl _ r false 0, congrArg Queue.dev entered, congrArg Queue.takenDev entered, rest⟩

/-- With no store on its way LAUNCH waits for nothing but its list. -/
theorem State.launchRecord_settled {s : State} (h : NoStoreOut s) (q : Nat) (r : LaunchRec) (d : BitVec 6) :
    s.launchRecord q r d =
      if 16 ≤ (s.queue q).dev.length then s.waitAt (.deviceList q r) else s.enterDevice q r d := by
  simp only [State.launchRecord, State.flushGroup_settled h, State.drains_settled h, Mem.released_settled (late_of_noStoreOut h),
    Bool.false_eq_true, if_false]

/-- LAUNCH reads its record once: it is entered, or the check names its fault. -/
theorem exec_launch_of_record {s : State} {d a : BitVec 6} {bs : List Byte} (out : NoStoreOut s) (clean : s.mem.pkgPoison = [])
    (ready : ∀ p x, s.cur.frag.wait ≠ .deviceList p x) (record : RecordAt s (s.getS a).toNat 128 bs) :
    ∃ u, OnlyCaches s u
      ∧ (∀ r, s.checkRecord bs = .ok r → exec (.launch d a) s = .next (u.launchRecord (s.cur.id.grid / 2 ^ 42 % 64) r d))
      ∧ (∀ c, s.checkRecord bs = .error c →
          ∃ args, args.fmask = 0#32 ∧ exec (.launch d a) s = .next (u.trap (32 * 4 + c) args)) := by
  obtain ⟨aligned, inside, l, maps, kind, read, rfl⟩ := record
  let u := (s.translate (s.getS a).toNat).1
  have frame : OnlyCaches s u := s.translate_onlyCaches _
  have found : s.translate (s.getS a).toNat = (u, .ok l) := Prod.ext rfl (State.translate_maps maps)
  have pkg : u.mem.pkg = s.mem.pkg := by rw [frame]
  have poison : u.mem.pkgPoison = [] := by rw [frame]; exact clean
  refine ⟨u, frame, fun r ok => ?_, fun c bad => ⟨{ fmask := 0#32, addr := (s.getS a).toNat, aux := 0#64 }, rfl, ?_⟩⟩
  all_goals
    show execLaunch d a s = _
    unfold execLaunch
    split
    · exact absurd ‹_› (ready _ _)
    simp only [aligned, Nat.not_le.mpr inside, found, State.ownStores_settled (frame.noStoreOut out), kind, read, pkgPoisoned,
      poison, anyMarked_nil, pkg, frame.checkRecord, bne_self_eq_false, decide_false, Bool.or_self, Bool.false_eq_true, if_false, ne_eq,
      not_true_eq_false, Bool.not_true]
  · rw [ok]
  · rw [bad]

end Sys2Proof.Machine

namespace Sys2Proof.Machine

open Sys2Proof.Safety Sys2Proof.Claims

/-! ## Numbers in bytes (R6) -/

theorem leNat_append (xs ys : List Byte) : leNat (xs ++ ys) = leNat xs + 256 ^ xs.length * leNat ys := by
  induction xs with
  | nil => simp [leNat]
  | cons x xs ih =>
    rw [List.cons_append, leNat, leNat, ih, List.length_cons, pow_succ]
    ring

theorem leNat_lt (xs : List Byte) : leNat xs < 256 ^ xs.length := by
  induction xs with
  | nil => simp [leNat]
  | cons x xs ih =>
    have := x.isLt
    rw [leNat, List.length_cons, pow_succ]
    omega

theorem leNat_leBytes (n x : Nat) : leNat (leBytes n x) = x % 256 ^ n := by
  induction n generalizing x with
  | zero => simp [leBytes, leNat, Nat.mod_one]
  | succ n ih =>
    rw [leBytes, leNat, ih, BitVec.toNat_ofNat, pow_succ' 256]
    exact Nat.mod_mul.symm

theorem leBytes_length (n x : Nat) : (leBytes n x).length = n := by
  rw [leBytes_eq, List.length_map, List.length_range]

/-- The high half of a 64-bit word is the number four bytes further on. -/
theorem field_word64_high (bs : List Byte) (o : Nat) : field (word64 bs o) 32 32 = leNat ((bs.drop (o + 4)).take 4) := by
  have low := leNat_lt ((bs.drop o).take 4)
  have high := leNat_lt ((bs.drop (o + 4)).take 4)
  have parts : (bs.drop o).take 8 = (bs.drop o).take 4 ++ (bs.drop (o + 4)).take 4 := by
    rw [List.take_add (i := 4) (j := 4), List.drop_drop]
  rw [field, word64, parts, leNat_append]
  by_cases whole : o + 4 ≤ bs.length
  · rw [show ((bs.drop o).take 4).length = 4 by simp; omega] at low ⊢
    have : 256 ^ ((bs.drop (o + 4)).take 4).length ≤ 256 ^ 4 := Nat.pow_le_pow_right (by decide) (by simp)
    omega
  · have none_ : bs.drop (o + 4) = [] := List.drop_eq_nil_of_le (by omega)
    have : 256 ^ ((bs.drop o).take 4).length ≤ 256 ^ 4 := Nat.pow_le_pow_right (by decide) (by simp)
    simp only [none_, List.take_nil, leNat]
    omega

/-- Bytes of package memory as a number. -/
theorem bytesAt_pkgByte (s : State) (a n : Nat) : bytesAt (pkgByte s) a n = leNat (readBytes s.mem.pkg a n) := by
  rw [readBytes_eq_map]
  rfl

/-- Bytes that have been written read back. -/
theorem readBytes_writeBytes (m : Memory) (a : Nat) (bs : List Byte) : readBytes (writeBytes m a bs) a bs.length = bs := by
  refine List.ext_getElem (by simp) fun i hi hb => ?_
  have byte := readBytes_getD (writeBytes m a bs) a bs.length i hb
  rw [sget_writeBytes, if_pos ⟨by omega, by omega⟩, Nat.add_sub_cancel_left, List.getD_eq_getElem _ _ hi,
    List.getD_eq_getElem _ _ hb] at byte
  exact byte

/-! ## The record (R129, R130) -/

theorem length_of_mapM {α β : Type} {f : α → Option β} {xs : List α} {ys : List β} (h : xs.mapM f = some ys) :
    ys.length = xs.length := by
  induction xs generalizing ys with
  | nil => cases h; rfl
  | cons x xs ih =>
    simp only [List.mapM_cons, Option.bind_eq_bind, Option.bind_eq_some_iff] at h
    obtain ⟨y, -, zs, rest, whole⟩ := h
    cases whole
    exact congrArg (· + 1) (ih rest)

/-- The fields of a record that passes the check of R130. -/
theorem recordFrom_fields {bs : List Byte} {r : LaunchRec} (h : recordFrom bs = some r) :
    r.entry.toNat = leNat (bs.take 8) ∧ r.entry.toNat % 4 = 0 ∧ r.args.toNat = leNat ((bs.drop 8).take 8)
      ∧ r.clusters = leNat ((bs.drop 0x1C).take 4) ∧ r.clusters ≠ 0 ∧ 1 ≤ r.rows ∧ r.rows ≤ 10 ∧ 1 ≤ r.cols
      ∧ r.rows * r.cols ≤ 12 ∧ 1 ≤ r.groups ∧ r.groups ≤ 16 ∧ r.vregs % 8 = 0 ∧ 8 ≤ r.vregs ∧ r.vregs ≤ 256
      ∧ r.accs ≤ 16 ∧ r.tilePages ≤ 384 ∧ r.tiles ≤ 256 ∧ r.spillEntries ≤ 248 ∧ r.deps.length = 4 := by
  simp only [recordFrom] at h
  split at h
  · cases h
  · next deps four =>
    split at h
    · cases h
    · next passes =>
      have length : deps.length = 4 := by
        simpa using length_of_mapM four
      simp only [Bool.or_eq_true, not_or, decide_eq_true_eq, bne_iff_ne, ne_eq, not_not, beq_iff_eq, Nat.not_le, Nat.not_lt, and_assoc]
        at passes
      cases h
      obtain ⟨entry, aligned, args, -, -, some_, -, rows, rows10, cols, -, cores, accs, -, -, pages, tiles, spills, -⟩ := passes
      have groups : field (word64 bs 0x18) 16 4 < 16 := Nat.mod_lt _ (by decide)
      have vregs : field (word64 bs 0x18) 11 5 < 32 := Nat.mod_lt _ (by decide)
      have word (o : Nat) (small : word64 bs o < 2 ^ 57) : (BitVec.ofNat 57 (word64 bs o)).toNat = word64 bs o :=
        Nat.mod_eq_of_lt small
      refine ⟨word 0 entry, (congrArg (· % 4) (word 0 entry)).trans aligned, word 8 args, field_word64_high bs 0x18, some_,
        Nat.one_le_iff_ne_zero.mpr rows, rows10, Nat.one_le_iff_ne_zero.mpr cols, cores, ?_, ?_, ?_, ?_, ?_, accs, pages, tiles,
        spills, length⟩
      all_goals
        dsimp only
        omega

/-! ## Completion words (R295) -/

theorem State.writeCompletion_sched (s : State) (entry grid status : Nat) :
    (s.writeCompletion entry grid status).sched = s.sched := by
  have sched : (s.translate (entry + 0x78)).1.sched = s.sched := by rw [State.translate_frame]
  simp only [State.writeCompletion]
  split
  · rfl
  · split <;> rename_i found <;> rw [found] at sched
    · split <;> exact sched
    · exact sched

/-- A completion word is written at its place in the ring and nowhere else. -/
theorem State.writeCompletion_spec {s : State} {entry grid status : Nat} {l : Leaf} (inside : entry + 0x78 < 2 ^ 57)
    (maps : MapsTo s (entry + 0x78) l) (kind : l.kind = 1) (small : completionWord grid status < 2 ^ 64) :
    WrittenAt s (s.writeCompletion entry grid status) (entry + 0x78) l (completionWord grid status) := by
  let bs := leBytes 8 (completionWord grid status)
  have found : s.translate (entry + 0x78) = ((s.translate (entry + 0x78)).1, .ok l) := Prod.ext rfl (State.translate_maps maps)
  have pkg : (s.writeCompletion entry grid status).mem.pkg = writeBytes s.mem.pkg (leafPhys l (entry + 0x78)) bs := by
    simp only [State.writeCompletion, if_neg (Nat.not_le.mpr inside)]
    rw [found]
    simp only [kind, if_true]
    show writeBytes (s.translate (entry + 0x78)).1.mem.pkg _ bs = _
    rw [State.translate_frame]
  have length : bs.length = 8 := leBytes_length ..
  refine ⟨?_, fun b hb => ?_⟩
  · rw [bytesAt_pkgByte, pkg, ← length, readBytes_writeBytes, leNat_leBytes]
    exact Nat.mod_eq_of_lt small
  · rw [pkgByte, pkg, sget_writeBytes, if_neg (by rw [length]; omega)]
    rfl

/-! ## QUEUE_TAKE_RECORD (R294) -/

/-- A queue reads its ring in a readable page of this package. -/
theorem State.queueRead_readable {s : State} {va n : Nat} {l : Leaf} (inside : va < 2 ^ 57) (maps : MapsTo s va l)
    (kind : l.kind = 1) (read : l.read = true) (clean : s.mem.pkgPoison = []) :
    s.queueRead va n = ((s.translate va).1, some (readBytes s.mem.pkg (leafPhys l va) n)) := by
  have frame : OnlyCaches s (s.translate va).1 := s.translate_onlyCaches _
  have pkg : (s.translate va).1.mem.pkg = s.mem.pkg := by rw [frame]
  have poison : (s.translate va).1.mem.pkgPoison = [] := by rw [frame]; exact clean
  have found : s.translate va = ((s.translate va).1, .ok l) := Prod.ext rfl (State.translate_maps maps)
  simp only [State.queueRead, if_neg (Nat.not_le.mpr inside)]
  rw [found]
  simp only [kind, read, pkgPoisoned, poison, anyMarked_nil, pkg, decide_true, Bool.and_self, Bool.not_false, if_true]

/-- From any other page it reads nothing. -/
theorem State.queueRead_unreadable {s : State} {va n : Nat} {l : Leaf} (inside : va < 2 ^ 57) (maps : MapsTo s va l)
    (page : ¬(l.kind = 1 ∧ l.read = true)) : s.queueRead va n = ((s.translate va).1, none) := by
  have found : s.translate va = ((s.translate va).1, .ok l) := Prod.ext rfl (State.translate_maps maps)
  have closed : (decide (l.kind = 1) && l.read) = false := by
    rw [← Bool.not_eq_true, Bool.and_eq_true, decide_eq_true_eq]
    exact page
  simp only [State.queueRead, if_neg (Nat.not_le.mpr inside)]
  rw [found]
  simp only [closed, Bool.false_and, Bool.false_eq_true, if_false]

/-- A queue that is enabled, has a record to take, and is not stalled or has been told to read again. -/
theorem Queue.canTake_of {x : Queue} (enable : x.enable = true) (some_ : x.head ≠ x.tail)
    (runs : x.stalled = false ∨ x.retry = true) : x.canTake = true := by
  simp only [Queue.canTake, enable, bne_iff_ne.mpr some_, Bool.true_and]
  rcases runs with h | h <;> simp [h]

/-- The queue after it has taken a record from its ring. -/
def Queue.took (x : Queue) (w : TakenRecord) : Queue :=
  { x with head := x.head + 1#32, takenHost := x.takenHost + 1, stalled := false, retry := false, taken := x.taken ++ [w] }

/-- The record that an unsigned queue takes. -/
def takenRecord (x : Queue) (q : Nat) (bs : List Byte) : TakenRecord :=
  { grid := gridOf q false x.takenHost, entry := x.entryAt x.head.toNat, job := x.job, bytes := bs, signed := true,
    privileged := false }

/-- The record that an unsigned queue can read enters its list, whose head is then checked. -/
theorem exec_queueTakeRecord_of_read {s u : State} {q : BitVec 6} {bs : List Byte} (can : (s.queue q.toNat).canTake = true)
    (unsigned : (s.queue q.toNat).signed = false)
    (read : s.queueRead ((s.queue q.toNat).entryAt (s.queue q.toNat).head.toNat) 128 = (u, some bs)) :
    exec (.queueTakeRecord q) s = .next ((u.putQueue q.toNat
      ((s.queue q.toNat).took (takenRecord (s.queue q.toNat) q.toNat bs))).headChecked q.toNat) := by
  show execQueueTakeRecord q s = _
  simp only [execQueueTakeRecord, can, unsigned, read, Bool.not_true, Bool.not_false, Bool.false_eq_true, if_false, Bool.true_or,
    Bool.false_and, Queue.took, takenRecord]

/-- A queue stalls when it cannot read its entry. -/
theorem exec_queueTakeRecord_of_unread {s u : State} {q : BitVec 6} (can : (s.queue q.toNat).canTake = true)
    (unread : s.queueRead ((s.queue q.toNat).entryAt (s.queue q.toNat).head.toNat) 128 = (u, none)) :
    exec (.queueTakeRecord q) s = .next (u.stallQueue q.toNat) := by
  show execQueueTakeRecord q s = _
  simp only [execQueueTakeRecord, can, unread, Bool.not_true, Bool.false_eq_true, if_false]

/-! ### The head of the list (R294) -/

theorem State.headChecked_of_host {s : State} {q : Nat} (h : (s.queue q).host ≠ []) : s.headChecked q = s := by
  unfold State.headChecked
  cases (s.queue q).taken.length with
  | zero => rfl
  | succ n =>
    simp only [State.settleHost]
    split
    · exact absurd ‹_› h
    · rfl

theorem State.headChecked_of_none {s : State} {q : Nat} (h : (s.queue q).taken = []) : s.headChecked q = s := by
  rw [State.headChecked, h]
  rfl

section Head

variable {s : State} {q : Nat} {w : TakenRecord} (host : (s.queue q).host = []) (taken : (s.queue q).taken = [w])
  (signed : w.signed = true)

include host taken signed

/-- A record that passes its check becomes the head. -/
theorem State.headChecked_of_ok {r : LaunchRec} (ok : s.checkRecord w.bytes = .ok r) :
    s.headChecked q = s.putQueue q { s.queue q with
      taken := [], host := [newLaunch w.grid w.job r w.privileged q false w.entry] } := by
  simp only [State.headChecked, taken, List.length_singleton, State.settleHost, host, signed, if_true, ok]

/-- A refused record is skipped with status 2. -/
theorem State.headChecked_of_error {c : Nat} (bad : s.checkRecord w.bytes = .error c) :
    s.headChecked q = (s.putQueue q { s.queue q with taken := [] }).writeCompletion w.entry w.grid 2 := by
  simp only [State.headChecked, taken, List.length_singleton, State.settleHost, host, signed, if_true, bad]

end Head

end Sys2Proof.Machine

namespace Sys2Proof.Machine

open Sys2Proof.Safety Sys2Proof.Claims

/-! # Placement on an idle package (R128, R131, R300 to R302) -/

/-! ## Lists by their places -/

/-- The pairs of a rectangle, row after row. -/
theorem flatMap_range_range {α : Type} (f : Nat → Nat → α) (n m : Nat) :
    (List.range n).flatMap (fun i => (List.range m).map (f i)) = (List.range (n * m)).map (fun k => f (k / m) (k % m)) := by
  induction n with
  | zero => simp
  | succ n ih =>
    have last : (List.range m).map (f n) =
        ((List.range m).map (n * m + ·)).map (fun k => f (k / m) (k % m)) := by
      rw [List.map_map]
      refine List.map_congr_left fun j hj => ?_
      have small := List.mem_range.mp hj
      show f n j = f ((n * m + j) / m) ((n * m + j) % m)
      rw [Nat.add_comm, Nat.add_mul_div_right _ _ (by omega), Nat.div_eq_of_lt small, Nat.zero_add, Nat.add_mul_mod_self_right,
        Nat.mod_eq_of_lt small]
    rw [List.range_succ, List.flatMap_append, ih, List.flatMap_singleton, last, Nat.succ_mul, List.range_add, List.map_append]

theorem zipIdx_map_range {α : Type} (f : Nat → α) (n : Nat) :
    ((List.range n).map f).zipIdx = (List.range n).map (fun k => (f k, k)) :=
  List.ext_getElem (by simp) fun i _ _ => by simp

/-- A list whose images are listed by place. -/
theorem of_getElem?_of_map_eq {α β : Type} {xs : List α} {f : α → β} {g : Nat → β} {n k : Nat} {x : α}
    (h : xs.map f = (List.range n).map g) (at_ : xs[k]? = some x) : f x = g k := by
  have image : (xs.map f)[k]? = some (f x) := by rw [List.getElem?_map, at_]; rfl
  rw [h, List.getElem?_map] at image
  obtain ⟨j, hj, hx⟩ := Option.map_eq_some_iff.mp image
  obtain ⟨_, rfl⟩ := List.getElem?_eq_some_iff.mp hj
  rw [← hx, List.getElem_range]

theorem findSome?_of_unique {α β : Type} {f : α → Option β} {xs : List α} {x : α} {y : β} (mem : x ∈ xs) (h : f x = some y)
    (others : ∀ z ∈ xs, z ≠ x → f z = none) : xs.findSome? f = some y := by
  induction xs with
  | nil => cases mem
  | cons z xs ih =>
    by_cases same : z = x
    · rw [List.findSome?_cons, same, h]
    · rw [List.findSome?_cons, others z (List.mem_cons_self ..) same]
      exact ih ((List.mem_cons.mp mem).resolve_left (Ne.symm same)) fun w hw => others w (List.mem_cons_of_mem _ hw)

/-! ## The place (R128, R301) -/

/-- The cores of a rectangle at the first origin, in TEAM order (R23, R131). -/
def cornerCore (die cols k : Nat) : Nat := 256 * die + 16 * (k / cols) + k % cols

theorem rectangle_corner (die rows cols : Nat) :
    rectangle die 0 0 rows cols = (List.range (rows * cols)).map (cornerCore die cols) := by
  simp only [rectangle, Nat.zero_add]
  exact flatMap_range_range (coreAt die) rows cols

theorem lowestGap_nil {n top : Nat} (h : n ≤ top) : lowestGap [] n top = some 0 := by
  simp [lowestGap, List.range_succ_eq_map, h]

theorem TileErrors.reset_failedIn (g : Nat) : TileErrors.reset.failedIn g = 0 := by
  simp only [TileErrors.failedIn, TileErrors.reset, BitVec.getLsbD_zero, Bool.false_eq_true, if_false, BitVec.extractLsb'_zero]
  decide

/-- Every core of an idle package takes a team of a placeable record. -/
theorem State.coreTakes_idle {s : State} {r : LaunchRec} (idle : IdlePackage s) (fits : Placeable r) (core : Nat) :
    s.coreTakes r core = true := by
  obtain ⟨dead, words, others, clusters, teams, cmds, launches, errors, stopping, restoring⟩ := idle
  obtain ⟨-, -, -, -, -, groups, vregs, accs, pages, tiles, -, -⟩ := fits
  have sound : s.coreExcluded core = false := by
    simp [State.coreExcluded, errors, TileErrors.reset_failedIn]
  have place : s.teamPlace core r = some (0, 0) := by
    simp [State.teamPlace, State.teamsOn, teams, lowestGap_nil pages, lowestGap_nil tiles]
  have alone : s.residents core = [] := by
    simp [State.residents, State.groups, others, dead, words]
  have room : s.groupsFit core r.groups r.vregs r.accs = true := by
    simp only [State.groupsFit, alone, List.length_nil, List.foldl_nil, Nat.zero_add, Bool.and_eq_true, decide_eq_true_eq]
    exact ⟨⟨by omega, vregs⟩, accs⟩
  simp [State.coreTakes, sound, place, room, clusters, State.partsBusy, stopping, restoring]

theorem origins_cons {r : LaunchRec} (rows : r.rows ≤ 10) (cols : r.cols ≤ 12) : ∃ rest, origins r = (0, 0) :: rest := by
  obtain ⟨a, ha⟩ := Nat.exists_eq_add_of_le rows
  obtain ⟨b, hb⟩ := Nat.exists_eq_add_of_le cols
  rw [origins, show 11 - r.rows = a + 1 by omega, show 17 - r.cols = (b + 4) + 1 by omega, List.range_succ_eq_map (n := a),
    List.range_succ_eq_map (n := b + 4), List.flatMap_cons, List.map_cons, List.cons_append]
  exact ⟨_, List.filter_cons_of_pos (by simp)⟩

/-- The search of an idle package ends at the first origin of the die that it tries first. -/
theorem State.findPlace_idle {s : State} {r : LaunchRec} (idle : IdlePackage s) (fits : Placeable r) (die : s.sched.nextDie < 4) :
    s.findPlace r = some (s.sched.nextDie, 0, 0) := by
  have ⟨_, rows, _, cols, _⟩ := fits
  obtain ⟨rest, first⟩ := origins_cons rows cols
  have corner (n : Nat) : (origins r).find? (fun o => (rectangle n o.1 o.2 r.rows r.cols).all (s.coreTakes r)) = some (0, 0) := by
    rw [first]
    exact List.find?_cons_of_pos (List.all_eq_true.mpr fun c _ => s.coreTakes_idle idle fits c)
  simp only [State.findPlace, corner, Option.map_some]
  rw [show List.range 4 = 0 :: [1, 2, 3] from rfl, List.map_cons, List.findSome?_cons, Nat.add_zero, Nat.mod_eq_of_lt die]

/-! ## The record (R298, R300) -/

section Record

variable {s : State} {q : Nat} {l : Launch} (idle : IdlePackage s) (only : OnlyRecord s q l)

include only

/-- The lists of the queues but one have no head. -/
theorem State.listHead_only {n : Nat} (h : n < 128) : s.listHead n = if n = 2 * q then some l else none := by
  obtain ⟨-, host, dev, -, others⟩ := only
  unfold State.listHead
  by_cases here : n / 2 = q
  · by_cases even : n % 2 = 0
    · rw [if_pos (by omega : n = 2 * q)]
      simp [here, even, host]
    · rw [if_neg (by omega : ¬n = 2 * q)]
      simp [here, even, dev]
  · obtain ⟨host', dev'⟩ := others (n / 2) (by omega) here
    rw [if_neg (by omega : ¬n = 2 * q)]
    simp [host', dev']

include idle

theorem State.dropStopped_only (runs : l.stopped = false) : s.dropStopped = none := by
  obtain ⟨-, -, -, -, -, -, launches, -⟩ := idle
  refine List.findSome?_eq_none_iff.mpr fun n hn => ?_
  rw [State.listHead_only only (List.mem_range.mp hn)]
  split
  · rfl
  · next x h =>
    split at h
    · cases h
      simp [launches, runs]
    · cases h

/-- The record is the next one (R300). -/
theorem State.nextRecord_only (fits : Placeable l.record) (waits : WaitsMet s l.job l.record) (runs : l.stopped = false)
    (die : s.sched.nextDie < 4) : s.nextRecord = some (2 * q, l, s.sched.nextDie, 0, 0) := by
  have ⟨q64, _⟩ := only
  have priority : l.record.priority ∈ [3, 2, 1, 0] := by
    obtain ⟨-, -, -, -, -, -, -, -, -, -, three, -⟩ := fits
    simp only [List.mem_cons, List.not_mem_nil, or_false]
    omega
  have met : s.depsMet l.job l.record = true := List.all_eq_true.mpr fun d hd => by
    simpa [← or_iff_not_imp_left, imp_iff_not_or] using waits d hd
  have listed (prio : Nat) : 2 * q ∈ s.listOrder prio :=
    List.mem_map.mpr ⟨(2 * q + (128 - sget 0 s.sched.lastList prio % 128)) % 128, List.mem_range.mpr (by omega), by omega⟩
  have small {prio n : Nat} (hn : n ∈ s.listOrder prio) : n < 128 := by
    obtain ⟨i, -, rfl⟩ := List.mem_map.mp hn
    omega
  simp only [State.nextRecord, State.headLaunch]
  refine findSome?_of_unique priority (findSome?_of_unique (listed _) ?_ fun n hn other => ?_)
    fun prio _ other => List.findSome?_eq_none_iff.mpr fun n hn => ?_
  · rw [State.listHead_only only (by omega), if_pos rfl]
    simp [met, runs, State.findPlace_idle idle fits die]
  · rw [State.listHead_only only (small hn), if_neg other]
  · rw [State.listHead_only only (small hn)]
    by_cases here : n = 2 * q
    · simp [here, Ne.symm other]
    · simp [here]

end Record

end Sys2Proof.Machine

namespace Sys2Proof.Machine

open Sys2Proof.Safety Sys2Proof.Claims

/-! ## The cluster (R31, R32, R131) -/

/-- A team without the place of its allotments. -/
def unplacedTeam (u : Team) : Team := { u with tileBase := 0, tabBase := 0 }

/-- A group without its place among the groups of its core. -/
def unplacedGroup (g : Group) : Group := { g with id := { g.id with slot := 0, pos := 0, order := 0 } }

/-- The team of a launch on a core, without the place of its allotments. -/
def newTeam (l : Launch) (clu team core : Nat) : Team :=
  { grid := l.grid, clu := clu, team := team, core := core, job := l.job, groups := l.record.groups, tileBase := 0,
    tilePages := l.record.tilePages, tabBase := 0, tabCount := l.record.tiles, kibMax := 2048, reqMax := 64, abars := [],
    rings := [], bars := [] }

/-- The groups of a team, without their places. -/
def newGroups (l : Launch) (clu team core : Nat) : List Group :=
  (List.range l.record.groups).map (fun g => newGroup l clu team g core 0 0 0)

/-- Teams start on cores, given with the number of their team: they and their groups come behind those that there are, and
nothing else changes but memory, free values and the count of groups. -/
def TeamsStart (l : Launch) (clu : Nat) (ks : List (Nat × Nat)) (s t : State) : Prop :=
  ∃ mem fresh order ts gs,
    t = { s with mem := mem, fresh := fresh, sched := { s.sched with order := order }, teams := s.teams ++ ts,
                 others := s.others ++ gs }
      ∧ ts.map unplacedTeam = ks.map (fun k => newTeam l clu k.2 k.1)
      ∧ gs.map unplacedGroup = ks.flatMap (fun k => newGroups l clu k.2 k.1)

theorem TeamsStart.trans {l : Launch} {clu : Nat} {ks js : List (Nat × Nat)} {s t u : State} (h : TeamsStart l clu ks s t)
    (k : TeamsStart l clu js t u) : TeamsStart l clu (ks ++ js) s u := by
  obtain ⟨_, _, _, ts, gs, rfl, teams, groups⟩ := h
  obtain ⟨mem, fresh, order, ts', gs', rfl, teams', groups'⟩ := k
  refine ⟨mem, fresh, order, ts ++ ts', gs ++ gs', ?_, ?_, ?_⟩
  · simp only [List.append_assoc]
  · simp only [List.map_append, teams, teams']
  · simp only [List.map_append, groups, groups', List.flatMap_append]

theorem State.claimPages_frame (s : State) (job : BitVec 16) (core p n : Nat) :
    s.claimPages job core p n = { s with mem := (s.claimPages job core p n).mem, fresh := (s.claimPages job core p n).fresh } := by
  induction n generalizing s p with
  | zero => rfl
  | succ n ih =>
    rw [State.claimPages]
    dsimp only
    rw [ih]
    split <;> rfl

/-- One team starts on its core. -/
theorem State.startTeam_starts (s : State) (l : Launch) (clu team core : Nat) :
    TeamsStart l clu [(core, team)] s (s.startTeam l clu team core) := by
  unfold State.startTeam
  dsimp only
  rw [State.claimPages_frame]
  refine ⟨_, _, _, _, _, rfl, rfl, ?_⟩
  simp only [List.map_map, List.flatMap_singleton, newGroups]
  rfl

theorem startTeams_start (l : Launch) (clu : Nat) (ks : List (Nat × Nat)) (s : State) :
    TeamsStart l clu ks s (ks.foldl (fun t k => t.startTeam l clu k.2 k.1) s) := by
  induction ks generalizing s with
  | nil => exact ⟨s.mem, s.fresh, s.sched.order, [], [], by simp, rfl, rfl⟩
  | cons k ks ih => exact (s.startTeam_starts l clu k.2 k.1).trans (ih _)

/-- The cluster that a launch starts (R131). -/
def newCluster (l : Launch) (die row col : Nat) : Cluster :=
  { grid := l.grid, clu := l.started, rows := l.record.rows, cols := l.record.cols, die := die, row := row, col := col,
    swapped := false, woken := false, bars := [] }

/-- A cluster starts: its teams do, on the cores of its rectangle. -/
theorem State.startCluster_starts (s : State) (l : Launch) (die row col : Nat) :
    TeamsStart l l.started (newCluster l die row col).cores.zipIdx { s with clusters := s.clusters ++ [newCluster l die row col] }
      (s.startCluster l die row col) := by
  have start := startTeams_start l l.started (newCluster l die row col).cores.zipIdx
    { s with clusters := s.clusters ++ [newCluster l die row col] }
  simp only [newCluster] at start ⊢
  unfold State.startCluster
  dsimp only
  split
  · obtain ⟨_, fresh, order, ts, gs, whole, lists⟩ := start
    rw [whole]
    exact ⟨_, fresh, order, ts, gs, rfl, lists⟩
  · exact start

/-- The teams of a cluster at the first origin of a die, and their groups, by their places. -/
theorem newCluster_lists (l : Launch) (die : Nat) :
    ((newCluster l die 0 0).cores.zipIdx.map (fun k => newTeam l l.started k.2 k.1) =
        (List.range (l.record.rows * l.record.cols)).map (fun k => newTeam l l.started k (cornerCore die l.record.cols k)))
      ∧ (newCluster l die 0 0).cores.zipIdx.flatMap (fun k => newGroups l l.started k.2 k.1) =
        (List.range (l.record.rows * l.record.cols * l.record.groups)).map (fun k =>
          newGroup l l.started (k / l.record.groups) (k % l.record.groups) (cornerCore die l.record.cols (k / l.record.groups)) 0 0 0) := by
  have places : (newCluster l die 0 0).cores.zipIdx =
      (List.range (l.record.rows * l.record.cols)).map (fun k => (cornerCore die l.record.cols k, k)) := by
    rw [Cluster.cores, newCluster, rectangle_corner, zipIdx_map_range]
  rw [places, List.map_map, List.flatMap_map]
  exact ⟨rfl, flatMap_range_range (fun k g => newGroup l l.started k g (cornerCore die l.record.cols k) 0 0 0) _ _⟩

/-- A queue whose host list has been served once more: its head has started a cluster, and leaves when that was the last. -/
def Queue.served (x : Queue) (l : Launch) : Queue :=
  { x with host :=
      if l.record.clusters ≤ l.started + 1 then x.host.drop 1 else x.host.set 0 { l with started := l.started + 1 } }

/-- A host list behind whose head no record waits has been served. -/
theorem State.servedList_host {s : State} {q : Nat} (taken : (s.queue q).taken = []) (l : Launch) (die : Nat) :
    let t := s.servedList (2 * q) l die
    t = { s with sched := t.sched } ∧ t.sched.nextDie = (die + 1) % 4 ∧ t.queue q = (s.queue q).served l := by
  have unchecked : (s.putQueue q ((s.queue q).served l)).headChecked q = s.putQueue q ((s.queue q).served l) :=
    State.headChecked_of_none (by rw [State.queue_putQueue_same]; exact taken)
  have served : ∃ launches last, s.servedList (2 * q) l die = { s.putQueue q ((s.queue q).served l) with
      sched := { (s.putQueue q ((s.queue q).served l)).sched with
        launches := launches, nextDie := (die + 1) % 4, lastList := last } } := by
    have half : 2 * q / 2 = q := by omega
    have even : 2 * q % 2 = 0 := by omega
    simp only [Queue.served] at unchecked
    simp only [State.servedList, half, even, if_true, decide_eq_true_eq, unchecked, Queue.served]
    exact ⟨_, _, rfl⟩
  obtain ⟨launches, last, whole⟩ := served
  intro t
  refine ⟨?_, ?_, ?_⟩
  · rw [show t = _ from whole]
    rfl
  · rw [show t = _ from whole]
  · rw [show t = _ from whole]
    exact s.queue_putQueue_same q _

/-- On an idle package the head record starts its next cluster at the first place of the die that is tried first. -/
theorem exec_placeCluster_idle {s : State} {q : Nat} {l : Launch} (idle : IdlePackage s) (only : OnlyRecord s q l)
    (fits : Placeable l.record) (waits : WaitsMet s l.job l.record) (runs : l.stopped = false) (die : s.sched.nextDie < 4) :
    exec .placeCluster s = .next ((s.startCluster l s.sched.nextDie 0 0).servedList (2 * q) l s.sched.nextDie) := by
  have clusters : s.clusters = [] := by
    obtain ⟨-, -, -, clusters, -⟩ := idle
    exact clusters
  show execPlaceCluster s = _
  simp only [execPlaceCluster, State.placement, State.dropStopped_only idle only runs, State.returning, clusters, List.filter_nil,
    List.foldl_nil, State.nextRecord_only idle only fits waits runs die, Option.map_some, Option.getD_some]

/-- What stands on a package that was idle after the head record has started its first cluster. -/
theorem placeCluster_spec {s : State} {q : Nat} {l : Launch} (idle : IdlePackage s) (only : OnlyRecord s q l)
    (first : l.started = 0) :
    let r := l.record
    let t := (s.startCluster l s.sched.nextDie 0 0).servedList (2 * q) l s.sched.nextDie
    t.clusters = [newCluster l s.sched.nextDie 0 0] ∧ t.teams.length = r.rows * r.cols
      ∧ t.others.length = r.rows * r.cols * r.groups
      ∧ (∀ (k : Nat) (u : Team), t.teams[k]? = some u →
          unplacedTeam u = newTeam l 0 k (cornerCore s.sched.nextDie r.cols k))
      ∧ (∀ (k : Nat) (g : Group), t.others[k]? = some g → unplacedGroup g =
          newGroup l 0 (k / r.groups) (k % r.groups) (cornerCore s.sched.nextDie r.cols (k / r.groups)) 0 0 0)
      ∧ (t.queue q).host = (if r.clusters ≤ 1 then [] else [{ l with started := 1 }])
      ∧ t.sched.nextDie = (s.sched.nextDie + 1) % 4 := by
  obtain ⟨-, -, others, clusters, teams, -⟩ := idle
  obtain ⟨-, host, -, taken, -⟩ := only
  obtain ⟨mem, fresh, order, ts, gs, start, startTeams, startGroups⟩ := s.startCluster_starts l s.sched.nextDie 0 0
  obtain ⟨listedTeams, listedGroups⟩ := newCluster_lists l s.sched.nextDie
  rw [listedTeams, first] at startTeams
  rw [listedGroups, first] at startGroups
  obtain ⟨kept, next, served⟩ := State.servedList_host (s := s.startCluster l s.sched.nextDie 0 0) (q := q)
    (by rw [start]; exact taken) l s.sched.nextDie
  intro r t
  have clustersT : t.clusters = [newCluster l s.sched.nextDie 0 0] :=
    (congrArg State.clusters kept).trans ((congrArg State.clusters start).trans (congrArg (· ++ [_]) clusters))
  have teamsT : t.teams = ts :=
    (congrArg State.teams kept).trans ((congrArg State.teams start).trans (congrArg (· ++ ts) teams))
  have othersT : t.others = gs :=
    (congrArg State.others kept).trans ((congrArg State.others start).trans (congrArg (· ++ gs) others))
  have queue : (s.startCluster l s.sched.nextDie 0 0).queue q = s.queue q := by
    rw [start]
    rfl
  refine ⟨clustersT, ?_, ?_, fun k u hu => ?_, fun k g hg => ?_, ?_, next⟩
  · simpa [teamsT] using congrArg List.length startTeams
  · simpa [othersT] using congrArg List.length startGroups
  · exact of_getElem?_of_map_eq (k := k) startTeams (teamsT ▸ hu)
  · exact of_getElem?_of_map_eq (k := k) startGroups (othersT ▸ hg)
  · rw [served, queue, Queue.served, host, first]
    rfl

end Sys2Proof.Machine

namespace Sys2Proof.Machine

open Sys2Proof.Safety Sys2Proof.Claims

/-! # Launches leave and end (R298, R305, R309, R311) -/

/-! ## SWAP_OUT (R305, R306) -/

/-- The writes of every group of a cluster that may be swapped out have landed, and it has waited for its threshold. -/
theorem State.canSwap_groups {s : State} {c : Cluster} (can : s.canSwap c = true) {g : Group} (mem : g ∈ s.cur :: s.others)
    (alive : g.alive = true) (grid : g.id.grid = c.grid) (clu : g.id.clu = c.clu) :
    s.threshold c.grid ≤ g.idle ∧ g.run = none ∧ g.matrix.words = [] ∧ g.part = none
      ∧ ∀ p ∈ s.fabric.peers, p.owner ≠ g.id.key := by
  have listed : g ∈ s.clusterGroups c :=
    List.mem_filter.mpr ⟨List.mem_filter.mpr ⟨mem, alive⟩, by simp [grid, clu]⟩
  simp only [State.canSwap, Bool.and_eq_true, List.all_eq_true] at can
  obtain ⟨⟨-, all⟩, -⟩ := can
  obtain ⟨⟨⟨idle, run⟩, landed⟩, -⟩ := all g listed
  simp only [State.writesLanded, Bool.and_eq_true, List.isEmpty_iff, Option.isNone_iff_eq_none, Bool.not_eq_true',
    List.any_eq_false, beq_iff_eq] at landed run
  obtain ⟨⟨⟨-, words⟩, part⟩, peers⟩ := landed
  exact ⟨of_decide_eq_true idle, run, words, part, peers⟩

/-- A cluster that may be swapped out leaves its cores, and its groups with it. -/
theorem exec_swapOut_of_canSwap {s : State} {i : Nat} {c : Cluster} (at_ : s.clusters[i]? = some c) (can : s.canSwap c = true) :
    ∃ t, exec (.swapOut i) s = .next t ∧ { c with swapped := true, woken := false } ∈ t.clusters
      ∧ (∀ g ∈ t.cur :: t.others, g.alive = true → g.id.grid = c.grid → g.id.clu = c.clu → g.swapped = true)
      ∧ t.cur.regs = s.cur.regs ∧ SameBytes s t := by
  let out (g : Group) : Group := if g.alive && g.id.grid == c.grid && g.id.clu == c.clu then { g with swapped := true } else g
  have leaves (g : Group) (alive : (out g).alive = true) (grid : (out g).id.grid = c.grid) (clu : (out g).id.clu = c.clu) :
      (out g).swapped = true := by
    by_cases mine : (g.alive && g.id.grid == c.grid && g.id.clu == c.clu) = true
    · rw [show out g = { g with swapped := true } from if_pos mine]
    · rw [show out g = g from if_neg mine] at alive grid clu
      exact absurd (by simp [alive, grid, clu]) mine
  have run : ∃ ctx, exec (.swapOut i) s =
      .next (State.mapGroups { s.putCluster { c with swapped := true, woken := false } with ctx := ctx } out) := by
    show ∃ ctx, execSwapOut i s = _
    simp only [execSwapOut, at_, can, Bool.not_true, Bool.false_eq_true, if_false]
    exact ⟨_, rfl⟩
  obtain ⟨ctx, next⟩ := run
  refine ⟨_, next, ?_, fun g hg => ?_, ?_, fun _ => ⟨rfl, rfl, rfl⟩⟩
  · exact List.mem_map.mpr ⟨c, List.mem_of_getElem? at_, if_pos (by simp [isCluster])⟩
  · obtain ⟨h, -, rfl⟩ := List.mem_map.mp (show g ∈ (s.cur :: s.others).map out from hg)
    exact leaves h
  · show (out s.cur).regs = s.cur.regs
    simp only [out]
    split <;> rfl

/-! ## LAUNCH_COMPLETE (R295, R298, R311) -/

theorem signalCounter_toNat (m : SMap (BitVec 32)) (j k : Nat) :
    (sget 0#32 (signalCounter m j) k).toNat = min (2 ^ 32 - 1) ((sget 0#32 m k).toNat + if j = k then 1 else 0) := by
  have small := (sget 0#32 m k).isLt
  unfold signalCounter
  dsimp only
  split
  · next full =>
    split
    · next same =>
      rw [← same, full]
      rfl
    · omega
  · next room =>
    rw [sget_sput]
    by_cases same : k = j
    · subst same
      rw [if_pos rfl, if_pos rfl]
      bv_omega
    · rw [if_neg same, if_neg (Ne.symm same)]
      omega

/-- Dependence signals saturate their counters (R298). -/
theorem signals_toNat (base n : Nat) (ds : List (Nat × Nat × Nat)) (m : SMap (BitVec 32)) :
    (sget 0#32 (ds.foldl (fun m d => signalCounter m (base + d.2.2)) m) (base + n)).toNat =
      min (2 ^ 32 - 1) ((sget 0#32 m (base + n)).toNat + ds.countP (fun d => d.2.2 == n)) := by
  induction ds generalizing m with
  | nil =>
    have := (sget 0#32 m (base + n)).isLt
    simp only [List.foldl_nil, List.countP_nil]
    omega
  | cons d ds ih =>
    rw [List.foldl_cons, ih, signalCounter_toNat, List.countP_cons]
    simp only [Nat.add_left_cancel_iff, beq_iff_eq]
    split <;> omega

/-- The dependence signals that the end of a launch sends (R298). -/
def Launch.signals (l : Launch) : List (Nat × Nat × Nat) :=
  if l.killed || l.stopped then [] else l.record.deps.filter (fun d => decide (2 ≤ d.1))

/-- The package after the end of a launch, before its completion word. -/
def State.endedLaunch (s : State) (l : Launch) : State :=
  { s.freeGrid l.grid with
    sched := { s.sched with
      launches := s.sched.launches.filter (fun x => x.grid != l.grid),
      counters := l.signals.foldl (fun m d => signalCounter m (l.job.toNat * 4096 + d.2.2)) s.sched.counters } }

/-- A finished launch ends; a host record's has its completion word written. -/
theorem exec_launchComplete_of_done {s : State} {grid : BitVec 48} {l : Launch} (out : NoStoreOut s)
    (found : s.launchOf grid.toNat = some l) (done : s.launchDone l = true) :
    exec (.launchComplete grid) s = .next (if l.device then s.endedLaunch l
      else (s.endedLaunch l).writeCompletion l.entryAddr l.grid (if l.killed = true ∨ l.stopped = true then 3 else 1)) := by
  show execLaunchComplete grid s = _
  simp only [execLaunchComplete, found, done, Mem.performLate_settled (late_of_noStoreOut out), Bool.not_true, Bool.false_eq_true, if_false,
    ← Bool.or_eq_true]
  rfl

theorem State.launchOf_endedLaunch {s : State} {grid : Nat} {l : Launch} (found : s.launchOf grid = some l) :
    (s.endedLaunch l).launchOf grid = none := by
  have named : l.grid = grid := by simpa using List.find?_some found
  refine List.find?_eq_none.mpr fun x hx => ?_
  rw [← named]
  simpa using (List.mem_filter.mp hx).2

theorem State.endedLaunch_counters_of_cut {s : State} {l : Launch} (h : l.killed = true ∨ l.stopped = true) :
    (s.endedLaunch l).sched.counters = s.sched.counters := by
  have none_ : l.signals = [] := if_pos (by simpa using h)
  simp only [State.endedLaunch, none_, List.foldl_nil]

theorem State.endedLaunch_counters {s : State} {l : Launch} (killed : l.killed = false) (stopped : l.stopped = false) (n : Nat) :
    (sget 0#32 (s.endedLaunch l).sched.counters (l.job.toNat * 4096 + n)).toNat =
      min (2 ^ 32 - 1) ((sget 0#32 s.sched.counters (l.job.toNat * 4096 + n)).toNat
        + l.record.deps.countP (fun d => decide (2 ≤ d.1) && d.2.2 == n)) := by
  have all : l.signals = l.record.deps.filter (fun d => decide (2 ≤ d.1)) := by simp [Launch.signals, killed, stopped]
  simp only [State.endedLaunch, all, signals_toNat, List.countP_filter]
  simp only [Bool.and_comm]

/-- The completion word of the end of a launch. -/
theorem State.endedLaunch_completion {s : State} {l : Launch} {m : Leaf} {status : Nat} (inside : l.entryAddr + 0x78 < 2 ^ 57)
    (maps : MapsTo s (l.entryAddr + 0x78) m) (kind : m.kind = 1) (grid : l.grid < 2 ^ 48) (small : status ≤ 3) :
    WrittenAt s ((s.endedLaunch l).writeCompletion l.entryAddr l.grid status) (l.entryAddr + 0x78) m
      (2 ^ 63 + l.grid / 8 * 8 + status) :=
  State.writeCompletion_spec inside (maps.congr (t := s.endedLaunch l) ⟨rfl, rfl, rfl⟩ rfl rfl) kind
    (by unfold completionWord; omega)

/-! ## GANG_SLICE_START (R309) -/

/-- A due slice with nothing to stop and nothing to restore starts. -/
theorem exec_gangSliceStart_of_due {s : State} (arm : s.sched.arm = true) (stopping : s.ctx.stopping = [])
    (start : s.ctx.start = false) (alone : s.otherJobs s.sliceParts = []) (due : s.sched.gstart.toNat ≤ s.time.toNat)
    (running : s.frozen = false) (saved : s.ctx.saved = []) :
    exec .gangSliceStart s = .next { s with sched := { s.sched with arm := false, running := true },
                                            ctx := { s.ctx with restoring := none } } := by
  have restored : s.restoreAll s.sched.gjob = s := by simp [State.restoreAll, saved]
  show execGangSliceStart s = _
  simp [execGangSliceStart, arm, stopping, start, alone, State.sliceDue, due, running, saved, restored]

end Sys2Proof.Machine

namespace Sys2Proof.Machine

open Sys2Proof.Safety Sys2Proof.Claims

/-! # The words and events of launches -/

section Launch

variable {s : State} {d a : BitVec 6} (out : NoStoreOut s) (ready : ∀ p x, s.cur.frag.wait ≠ .deviceList p x)

section Read

variable {bs : List Byte} {r : LaunchRec} (clean : s.mem.pkgPoison = []) (record : RecordAt s (s.getS a).toNat 128 bs)

include out ready clean record

/-- LAUNCH of a good record enters it while its list has room. -/
theorem launch_enters (good : s.checkRecord bs = .ok r) (room : (s.queue (s.cur.id.grid / 2 ^ 42 % 64)).dev.length < 16) :
    let q := s.cur.id.grid / 2 ^ 42 % 64
    ∃ t l, exec (.launch d a) s = .next t ∧ enteredLaunch s l q true s.cur.id.job r 0
      ∧ (t.queue q).dev = (s.queue q).dev ++ [l] ∧ (t.queue q).takenDev = (s.queue q).takenDev + 1
      ∧ (∀ p, p ≠ q → t.queue p = s.queue p) ∧ t.getS d = BitVec.ofNat 64 l.grid
      ∧ (∀ e, e ≠ d → t.getS e = s.getS e) ∧ MovedTo s t (after s) ∧ OnlyScalars s t ∧ SameBytes s t := by
  obtain ⟨u, frame, enters, -⟩ := exec_launch_of_record (d := d) out clean ready record
  have next := enters r good
  generalize s.cur.id.grid / 2 ^ 42 % 64 = q at *
  rw [State.launchRecord_settled (frame.noStoreOut out), frame.queue, if_neg (Nat.not_le.mpr room)] at next
  obtain ⟨tlb, icache, fresh, rfl⟩ := frame.eq_with
  obtain ⟨l, spec⟩ := State.enterDevice_spec _ q r d
  exact ⟨_, l, next, spec⟩

/-- With its list full it waits for room. -/
theorem launch_waits (good : s.checkRecord bs = .ok r) (full : 16 ≤ (s.queue (s.cur.id.grid / 2 ^ 42 % 64)).dev.length) :
    ∃ t, exec (.launch d a) s = .next t ∧ t.cur.frag.wait = .deviceList (s.cur.id.grid / 2 ^ 42 % 64) r
      ∧ t.cur.frag.pc = s.unitPc ∧ t.cur.regs = s.cur.regs ∧ t.sched = s.sched ∧ SameBytes s t := by
  obtain ⟨u, frame, enters, -⟩ := exec_launch_of_record (d := d) out clean ready record
  have next := enters r good
  generalize s.cur.id.grid / 2 ^ 42 % 64 = q at *
  rw [State.launchRecord_settled (frame.noStoreOut out), frame.queue, if_pos full] at next
  obtain ⟨tlb, icache, fresh, rfl⟩ := frame.eq_with
  exact ⟨_, next, rfl, rfl, rfl, rfl, fun _ => ⟨rfl, rfl, rfl⟩⟩

/-- A malformed record is the fault of the check (R130). -/
theorem launch_malformed (bad : recordFrom bs = none) : ∃ t, exec (.launch d a) s = .next t ∧ Trapped s t 135 0#32 := by
  obtain ⟨u, frame, -, faults⟩ := exec_launch_of_record (d := d) out clean ready record
  obtain ⟨args, mask, next⟩ := faults 7 (by simp only [State.checkRecord, bad])
  exact ⟨_, next, frame.trapped (mask ▸ (State.trap_spec u (32 * 4 + 7) args).1)⟩

end Read

include ready

theorem launch_misaligned (h : (s.getS a).toNat % 128 ≠ 0) :
    ∃ t, exec (.launch d a) s = .next t ∧ Trapped s t 134 0#32 := by
  refine ⟨s.trap0 4 6, ?_, (State.trap0_spec s 4 6).1⟩
  show execLaunch d a s = _
  unfold execLaunch
  split
  · exact absurd ‹_› (ready _ _)
  · simp only [bne_iff_ne.mpr h, Bool.true_or, if_true]

end Launch

theorem State.checkRecord_ok {s : State} {bs : List Byte} {r : LaunchRec} (good : recordFrom bs = some r)
    (place : s.placeable r = true) : s.checkRecord bs = .ok r := by
  simp only [State.checkRecord, good, place, if_true]

theorem State.checkRecord_malformed {s : State} {bs : List Byte} (bad : recordFrom bs = none) : s.checkRecord bs = .error 7 := by
  simp only [State.checkRecord, bad]

section Take

variable {s : State} {q : BitVec 6} {x : Queue} {entry : Nat} {l : Leaf} (queue : s.queue q.toNat = x)
  (place : x.entryAt x.head.toNat = entry) (can : x.canTake = true) (inside : entry < 2 ^ 57) (maps : MapsTo s entry l)

include queue place can inside maps

/-- An entry that cannot be read stalls its queue and signals the host. -/
theorem queueTakeRecord_stalls (page : ¬(l.kind = 1 ∧ l.read = true)) :
    ∃ t, exec (.queueTakeRecord q) s = .next t ∧ t.queue q.toNat = { x with stalled := true, retry := false }
      ∧ t.msi = s.msi ++ [0] ∧ SameBytes s t := by
  subst queue place
  have next := exec_queueTakeRecord_of_unread can (State.queueRead_unreadable inside maps page)
  obtain ⟨tlb, icache, fresh, u⟩ := (s.translate_onlyCaches _).eq_with
  rw [u] at next
  exact ⟨_, next, State.queue_putQueue_same .., rfl, fun _ => ⟨rfl, rfl, rfl⟩⟩

section Read

variable (unsigned : x.signed = false) (kind : l.kind = 1) (read : l.read = true) (clean : s.mem.pkgPoison = [])

include unsigned kind read clean

/-- A record that is read stands behind those of its list, whose head is then checked. -/
theorem queueTakeRecord_takes :
    ∃ v w, exec (.queueTakeRecord q) s = .next (v.headChecked q.toNat) ∧ v.queue q.toNat = x.took w
      ∧ w = takenRecord x q.toNat (readBytes s.mem.pkg (leafPhys l entry) 128)
      ∧ (∀ p, p ≠ q.toNat → v.queue p = s.queue p) ∧ v.cur = s.cur ∧ SameBytes s v
      ∧ (∀ bs, v.checkRecord bs = s.checkRecord bs) ∧ ∀ va m, MapsTo s va m → va < 2 ^ 57 → MapsTo v va m := by
  subst queue place
  have frame := s.translate_onlyCaches ((s.queue q.toNat).entryAt (s.queue q.toNat).head.toNat)
  exact ⟨_, _, exec_queueTakeRecord_of_read can unsigned (State.queueRead_readable inside maps kind read clean),
    State.queue_putQueue_same .., rfl, fun p hp => (State.queue_putQueue_ne _ _ hp).trans (frame.queue p), frame.cur, frame.sameBytes,
    frame.checkRecord, fun _ _ hm hv => (maps.translate hm inside hv).congr ⟨rfl, rfl, rfl⟩ rfl rfl⟩

/-- Behind a head it waits. -/
theorem queueTakeRecord_waits (host : x.host ≠ []) :
    ∃ t w, exec (.queueTakeRecord q) s = .next t ∧ t.queue q.toNat = x.took w
      ∧ w.bytes = readBytes s.mem.pkg (leafPhys l entry) 128 ∧ w.entry = entry ∧ SameBytes s t := by
  obtain ⟨v, w, next, stands, rfl, -, -, same, -⟩ := queueTakeRecord_takes queue place can inside maps unsigned kind read clean
  rw [State.headChecked_of_host (by rw [stands]; exact host)] at next
  exact ⟨v, _, next, stands, rfl, place, same⟩

section Head

variable (host : x.host = []) (taken : x.taken = [])

include host taken

/-- On an empty list it becomes the head, when it passes the check. -/
theorem queueTakeRecord_enters {r : LaunchRec} (good : s.checkRecord (readBytes s.mem.pkg (leafPhys l entry) 128) = .ok r) :
    ∃ t y, exec (.queueTakeRecord q) s = .next t
      ∧ t.queue q.toNat = { x with head := x.head + 1#32, takenHost := x.takenHost + 1, stalled := false, retry := false,
                                   host := [y] }
      ∧ enteredLaunch s y q.toNat false x.job r entry ∧ y.privileged = false
      ∧ (∀ p, p ≠ q.toNat → t.queue p = s.queue p) ∧ t.cur = s.cur ∧ SameBytes s t := by
  obtain ⟨v, w, next, stands, record, others, cur, same, check, -⟩ :=
    queueTakeRecord_takes queue place can inside maps unsigned kind read clean
  rw [State.headChecked_of_ok (w := w) (r := r) (by rw [stands]; exact host) (by rw [stands, Queue.took, taken]; rfl)
    (by rw [record]; rfl) (by rw [check, record]; exact good), stands] at next
  refine ⟨_, newLaunch w.grid w.job r w.privileged q.toNat false w.entry, next, ?_, ?_, by rw [record]; rfl,
    fun p hp => (State.queue_putQueue_ne _ _ hp).trans (others p hp), cur, same⟩
  · rw [State.queue_putQueue_same, taken]
    rfl
  · rw [record, ← place]
    exact State.newLaunch_entered (by rw [queue]; rfl) _ r false _

/-- A refused record is skipped with status 2. -/
theorem queueTakeRecord_skips {c : Nat} {m : Leaf}
    (bad : s.checkRecord (readBytes s.mem.pkg (leafPhys l entry) 128) = .error c) (inRing : entry + 0x78 < 2 ^ 57)
    (there : MapsTo s (entry + 0x78) m) (home : m.kind = 1) :
    ∃ t, exec (.queueTakeRecord q) s = .next t
      ∧ t.queue q.toNat = { x with head := x.head + 1#32, takenHost := x.takenHost + 1, stalled := false, retry := false }
      ∧ WrittenAt s t (entry + 0x78) m (2 ^ 63 + gridNumber q.toNat false x.takenHost / 8 * 8 + 2) := by
  obtain ⟨v, w, next, stands, record, -, -, same, check, settled⟩ :=
    queueTakeRecord_takes queue place can inside maps unsigned kind read clean
  rw [State.headChecked_of_error (w := w) (c := c) (by rw [stands]; exact host) (by rw [stands, Queue.took, taken]; rfl)
    (by rw [record]; rfl) (by rw [check, record]; exact bad), stands,
    show w.entry = entry from record ▸ place, show w.grid = gridNumber q.toNat false x.takenHost from record ▸ gridOf_eq ..] at next
  have small : completionWord (gridNumber q.toNat false x.takenHost) 2 < 2 ^ 64 := by
    have := q.isLt
    simp only [completionWord, gridNumber, Bool.false_eq_true, if_false]
    omega
  obtain ⟨written, kept⟩ := State.writeCompletion_spec (s := v.putQueue q.toNat _) inRing
    ((settled _ m there inRing).congr ⟨rfl, rfl, rfl⟩ rfl rfl) home small
  refine ⟨_, next, ?_, written, fun b hb => (kept b hb).trans (same b).1⟩
  rw [State.queue, State.writeCompletion_sched]
  exact (State.queue_putQueue_same ..).trans (by rw [Queue.took, ← taken])

end Head

end Read

end Take

/-! ## What stands after a start (R31, R131) -/

theorem fields_of_unplacedTeam {l : Launch} {u : Team} {clu team core : Nat} (h : unplacedTeam u = newTeam l clu team core) :
    u.grid = l.grid ∧ u.clu = clu ∧ u.team = team ∧ u.job = l.job ∧ u.groups = l.record.groups
      ∧ u.tilePages = l.record.tilePages ∧ u.tabCount = l.record.tiles ∧ u.core = core :=
  ⟨congrArg Team.grid h, congrArg Team.clu h, congrArg Team.team h, congrArg Team.job h, congrArg Team.groups h,
    congrArg Team.tilePages h, congrArg Team.tabCount h, congrArg Team.core h⟩

theorem fields_of_unplacedGroup {l : Launch} {g : Group} {clu team grp core : Nat}
    (h : unplacedGroup g = newGroup l clu team grp core 0 0 0) :
    g.alive = true ∧ g.id.grid = l.grid ∧ g.id.clu = clu ∧ g.id.team = team ∧ g.id.grp = grp ∧ g.id.job = l.job
      ∧ g.id.vregs = l.record.vregs ∧ g.id.accs = l.record.accs ∧ g.frag.pc = l.record.entry ∧ g.frag.exec = 0xFFFFFFFF#32
      ∧ g.regs.s = sput 0#64 [] 0 (l.record.args.zeroExtend 64) ∧ g.regs.v = [] ∧ g.regs.fstat = 0#8 := by
  have id := congrArg Group.id h
  have frag : g.frag = { Frag.reset with pc := l.record.entry } := congrArg Group.frag h
  have regs : g.regs = { Regs.reset with s := sput 0#64 [] 0 (l.record.args.zeroExtend 64) } := congrArg Group.regs h
  exact ⟨congrArg Group.alive h, congrArg GroupId.grid id, congrArg GroupId.clu id, congrArg GroupId.team id,
    congrArg GroupId.grp id, congrArg GroupId.job id, congrArg GroupId.vregs id, congrArg GroupId.accs id, by rw [frag],
    by rw [frag]; rfl, by rw [regs], by rw [regs]; rfl, by rw [regs]; rfl⟩

end Sys2Proof.Machine

namespace Sys2Proof.Claims

open Sys2Proof.Machine Sys2Proof.Safety

/-- Settles O47, a case for each word and event: LAUNCH, the record, QUEUE_TAKE_RECORD, PLACE_CLUSTER, SWAP_OUT, LAUNCH_COMPLETE
and GANG_SLICE_START. -/
theorem launchesEnterStartAndEnd : Obligations.LaunchesEnterStartAndEnd := by
  refine fun s out => ⟨?launch, fun d a misaligned ready => launch_misaligned ready misaligned, fun bs r h => recordFrom_fields h,
    ?take, ?place, ?swap, ?complete, ?slice⟩
  case launch =>
    rintro d a bs r q - ⟨clean, -⟩ ready record
    refine ⟨fun good place => ?_, fun bad => launch_malformed out ready clean record bad⟩
    have ok := State.checkRecord_ok good place
    exact ⟨fun room => launch_enters out ready clean record ok room, fun full => launch_waits out ready clean record ok full⟩
  case take =>
    intro q l x entry enable some_ runs unsigned inside maps
    have can := Queue.canTake_of enable some_ runs
    refine ⟨?_, fun page => queueTakeRecord_stalls rfl rfl can inside maps page⟩
    rintro kind read ⟨clean, -⟩ bs took
    refine ⟨fun host => ?_, fun r host taken good place => ?_, fun host taken bad m inRing there home => ?_⟩
    · obtain ⟨t, w, next, queue, rest⟩ := queueTakeRecord_waits rfl rfl can inside maps unsigned kind read clean host
      exact ⟨t, w, next, queue, rest⟩
    · obtain ⟨t, y, next, queue, rest⟩ := queueTakeRecord_enters rfl rfl can inside maps unsigned kind read clean host taken
        (State.checkRecord_ok good place)
      exact ⟨t, y, next, ⟨[y], queue⟩, by rw [queue], rest⟩
    · obtain ⟨t, next, queue, written⟩ := queueTakeRecord_skips rfl rfl can inside maps unsigned kind read clean host taken
        (State.checkRecord_malformed bad) inRing there home
      exact ⟨t, next, ⟨x.host, queue⟩, (congrArg Queue.host queue).trans host, written⟩
  case place =>
    intro q l idle only fits waits first runs die r
    obtain ⟨clusters, teams, others, team, group, host, next⟩ := placeCluster_spec idle only first
    refine ⟨_, _, exec_placeCluster_idle idle only fits waits runs die, clusters, by rw [newCluster, first], teams, others,
      fun k u hu => fields_of_unplacedTeam (team k u hu), fun k g hg => fields_of_unplacedGroup (group k g hg),
      fun one => host.trans (if_pos one.le), fun more => ⟨_, host.trans (if_neg (Nat.not_le.mpr more)), rfl⟩, next⟩
  case swap =>
    exact fun i c at_ can =>
      ⟨fun g mem alive grid clu => State.canSwap_groups can mem alive grid clu, exec_swapOut_of_canSwap at_ can⟩
  case complete =>
    intro grid l found done
    have next := exec_launchComplete_of_done out found done
    cases device : l.device with
    | true =>
      rw [device, if_pos rfl] at next
      exact ⟨_, next, State.launchOf_endedLaunch found, State.endedLaunch_counters_of_cut, State.endedLaunch_counters,
        fun _ _ => ⟨rfl, rfl, rfl⟩, nofun⟩
    | false =>
      rw [device, if_neg Bool.false_ne_true] at next
      have sched := (s.endedLaunch l).writeCompletion_sched l.entryAddr l.grid
        (if l.killed = true ∨ l.stopped = true then 3 else 1)
      refine ⟨_, next, ?_, fun cut => ?_, fun killed stopped n => ?_, nofun, fun m _ inRing there home small =>
        State.endedLaunch_completion inRing there home small (by split <;> decide)⟩
      · rw [State.launchOf, sched]
        exact State.launchOf_endedLaunch found
      · rw [sched]
        exact State.endedLaunch_counters_of_cut cut
      · rw [sched]
        exact State.endedLaunch_counters killed stopped n
  case slice =>
    exact fun arm stopping start alone due running saved =>
      ⟨_, exec_gangSliceStart_of_due arm stopping start alone due running saved, rfl⟩

end Sys2Proof.Claims

/-! # Predicate words and EXWR (R15, R153, R154) -/

namespace Sys2Proof.Machine

open Sys2Proof.Safety Sys2Proof.Claims

theorem lowWord_eq_ofNat (x : DWord) : x.extractLsb' 0 32 = BitVec.ofNat 32 x.toNat :=
  BitVec.eq_of_toNat_eq (by simp)

/-- The active lanes of a predicate take the result, the others keep their value. -/
theorem getLsbD_mergePred (old m active : Mask) {l : Nat} (hl : l < 32) :
    ((old &&& ~~~active) ||| (m &&& active)).getLsbD l = if active.getLsbD l then m.getLsbD l else old.getLsbD l := by
  simp only [BitVec.getLsbD_or, BitVec.getLsbD_and, BitVec.getLsbD_not, hl]
  cases active.getLsbD l <;> simp

theorem State.predOut_spec (s : State) (d : BitVec 3) (srcs : List Loc) (m : Mask) :
    ∃ t, s.predOut d srcs m = .next t
      ∧ (∀ l, l < 32 → (t.getP d).getLsbD l = if s.active.getLsbD l then m.getLsbD l else (s.getP d).getLsbD l)
      ∧ (∀ q, q ≠ d → t.getP q = s.getP q) ∧ Passed s t ∧ OnlyPreds s t ∧ Ended s t 0#8 := by
  obtain ⟨written, rest⟩ := State.pred_spec s d ((s.getP d &&& ~~~s.active) ||| (m &&& s.active)) (.fixed 1) srcs
    [Dest.pred d.toNat (s.getP d)] [] none
  exact ⟨_, rfl, fun l hl => by rw [State.done, written, getLsbD_mergePred _ _ _ hl], rest⟩

/-- The words of the table of R153 end in one operation. -/
theorem exec_predResult {s : State} {i : Instr} {d : BitVec 3} {m : Mask} (h : predResult s i = some (d, m)) :
    ∃ srcs, exec i s = s.predOut d srcs m := by
  unfold predResult at h
  split at h <;> cases h
  case h_6 d n => exact ⟨[Loc.scalar n.toNat], lowWord_eq_ofNat (s.getS n) ▸ rfl⟩
  all_goals exact ⟨_, rfl⟩

/-- EXWR clears the active lanes in which the predicate is 0 (R154). -/
theorem getLsbD_narrowed (exec active p : Mask) {l : Nat} (hl : l < 32) :
    (exec &&& ~~~(active &&& ~~~p)).getLsbD l = (exec.getLsbD l && (!active.getLsbD l || p.getLsbD l)) := by
  simp [hl]

end Sys2Proof.Machine

namespace Sys2Proof.Claims

open Sys2Proof.Machine Sys2Proof.Safety

/-- Settles O3: the predicate forms through the operation that they share, EXWR by the bits of the EXEC that it leaves. -/
theorem predicatesAndExecFollowTheirWords : Obligations.PredicatesAndExecFollowTheirWords := by
  refine ⟨fun i s d m h => ?_, fun s p => ⟨_, rfl, OnlyGroup.of_mem rfl, rfl, rfl, fun l hl => getLsbD_narrowed _ _ _ hl⟩⟩
  obtain ⟨srcs, next⟩ := exec_predResult h
  rw [next]
  exact State.predOut_spec s d srcs m

end Sys2Proof.Claims

/-! # Words that write vector registers (R112) -/

namespace Sys2Proof.Machine

open Sys2Proof.Safety Sys2Proof.Claims

/-! ## Registers written before the end of a word -/

/-- From `s` to `u` nothing differs but vector registers, temporaries and the record of the lanes written. -/
structure VectorsWritten (s u : State) : Prop where
  state : u = { s with cur := { s.cur with regs := u.cur.regs, run := u.cur.run, matrix := u.cur.matrix } }
  regs : u.cur.regs = { s.cur.regs with v := u.cur.regs.v }
  results : SameResults s.cur.matrix u.cur.matrix
  run : u.cur.run.isSome = s.cur.run.isSome

theorem SameResults.trans {x y z : MatrixState} (h : SameResults x y) (k : SameResults y z) : SameResults x z := by
  obtain ⟨hy, hr⟩ := h
  obtain ⟨hz, kr⟩ := k
  exact ⟨by rw [hz, hy], kr.trans hr⟩

theorem VectorsWritten.refl (s : State) : VectorsWritten s s := ⟨rfl, rfl, SameResults.refl _, rfl⟩

theorem VectorsWritten.trans {s u w : State} (h : VectorsWritten s u) (k : VectorsWritten u w) : VectorsWritten s w :=
  ⟨by rw [k.state, h.state], by rw [k.regs, h.regs], SameResults.trans h.results k.results, k.run.trans h.run⟩

theorem State.putRef_written (s : State) (m : Mask) (r : RegRef) (x : Lanes) : VectorsWritten s (s.putRef m r x) := by
  obtain ⟨state, regs, results, -⟩ := State.putRef_frame s m r x
  refine ⟨state, regs, results, ?_⟩
  cases r with
  | reg n => simp [State.putRef]
  | temp n => cases h : s.cur.run <;> simp [State.putRef, h]

theorem VectorsWritten.holds {s u : State} (h : VectorsWritten s u) {r : RegRef} (hr : s.holds r) : u.holds r :=
  fun i hi => h.run.trans (hr i hi)

/-- A word whose registers have been written and which then ends. -/
theorem VectorsWritten.finish {s u : State} (h : VectorsWritten s u) (tm : Timing) (j : Option Loc) (srcs : List Loc)
    (dests : List Dest) (fl : List Flags) (dec : Option Decision) :
    let t := u.finish tm j srcs dests fl dec
    (∀ r, t.getRef r = u.getRef r) ∧ Passed s t ∧ OnlyVectors s t ∧ Ended s t (orFlags fl) := by
  obtain ⟨passed, ⟨kept, ended⟩, ⟨regs, same, -⟩, -⟩ := State.finish_ends u tm j srcs dests fl dec
  have fstat : u.cur.regs.fstat = s.cur.regs.fstat := by rw [h.regs]
  have fpend : u.cur.regs.fpend = s.cur.regs.fpend := by rw [h.regs]
  refine ⟨same, Passed.of_regs h.state h.results passed, ?_, fstat ▸ kept, fun plain => ?_⟩
  · rw [OnlyVectors, regs, h.regs]
  · rw [← fstat, ← fpend]
    exact ended (Option.not_isSome_iff_eq_none.mp (by simp [h.run, plain]))

/-- Distinct registers written one after the other, the register of each entry with the lanes of its number. -/
theorem State.foldl_putRef_spec (m : Mask) (x : Nat → Lanes) (rks : List (RegRef × Nat)) (s : State)
    (held : ∀ rk ∈ rks, s.holds rk.1) (distinct : (rks.map Prod.fst).Nodup) :
    let u := rks.foldl (fun t rk => t.putRef m rk.1 (x rk.2)) s
    VectorsWritten s u ∧ (∀ rk ∈ rks, u.getRef rk.1 = mergeLanes m (s.getRef rk.1) (x rk.2))
      ∧ ∀ r, r ∉ rks.map Prod.fst → u.getRef r = s.getRef r := by
  induction rks generalizing s with
  | nil => exact ⟨VectorsWritten.refl s, nofun, fun _ _ => rfl⟩
  | cons rk rks ih =>
    rw [List.map_cons, List.nodup_cons] at distinct
    have first := s.putRef_written m rk.1 (x rk.2)
    have reads (r : RegRef) := s.getRef_putRef m rk.1 r (x rk.2) (held rk (.head _))
    obtain ⟨later, put, kept⟩ := ih (s.putRef m rk.1 (x rk.2)) (fun e he => first.holds (held e (.tail _ he))) distinct.2
    refine ⟨first.trans later, fun e he => ?_, fun r hr => ?_⟩
    · rcases List.mem_cons.mp he with rfl | he
      · exact (kept e.1 distinct.1).trans ((reads e.1).trans (if_pos rfl))
      · have other : e.1 ≠ rk.1 := fun same => distinct.1 (same ▸ List.mem_map_of_mem he)
        rw [List.foldl_cons, put e he, reads, if_neg other]
    · rw [List.map_cons, List.mem_cons, not_or] at hr
      exact (kept r hr.2).trans ((reads r).trans (if_neg hr.1))

/-! ## Blocks of registers (R13, R107) -/

/-- No two field values name one register: inside a run 120 to 127 are the temporaries, and every other value is its distance
into the window. -/
theorem State.ref_injective {s : State} {n m : Nat} {r : RegRef} (hn : s.ref n = some r) (hm : s.ref m = some r) : n = m := by
  unfold State.ref at hn hm
  grind

/-- A block is the register of its field value and the block of the next value. -/
theorem State.refs_succ {s : State} {n k : Nat} {rs : List RegRef} (h : s.refs n (k + 1) = some rs) :
    ∃ r rest, rs = r :: rest ∧ s.ref n = some r ∧ s.refs (n + 1) k = some rest := by
  rw [State.refs] at h
  split at h
  case h_1 r rest hr hrest => exact ⟨r, rest, (Option.some.inj h).symm, hr, hrest⟩
  case h_2 => cases h

theorem State.refs_length {s : State} {n k : Nat} {rs : List RegRef} (h : s.refs n k = some rs) : rs.length = k := by
  induction k generalizing n rs with
  | zero =>
    cases h
    rfl
  | succ k ih =>
    obtain ⟨r, rest, rfl, -, hrest⟩ := State.refs_succ h
    exact congrArg Nat.succ (ih hrest)

/-- Every register of a block has a field value of its own, the first or a later one. -/
theorem State.ref_of_mem_refs {s : State} {n k : Nat} {rs : List RegRef} (h : s.refs n k = some rs) {r : RegRef}
    (hr : r ∈ rs) : ∃ m, n ≤ m ∧ s.ref m = some r := by
  induction k generalizing n rs with
  | zero =>
    cases h
    cases hr
  | succ k ih =>
    obtain ⟨q, rest, rfl, hq, hrest⟩ := State.refs_succ h
    rcases List.mem_cons.mp hr with rfl | hr
    · exact ⟨n, Nat.le_refl n, hq⟩
    · obtain ⟨m, above, hm⟩ := ih hrest hr
      exact ⟨m, by omega, hm⟩

theorem State.refs_nodup {s : State} {n k : Nat} {rs : List RegRef} (h : s.refs n k = some rs) : rs.Nodup := by
  induction k generalizing n rs with
  | zero =>
    cases h
    exact .nil
  | succ k ih =>
    obtain ⟨r, rest, rfl, hr, hrest⟩ := State.refs_succ h
    refine List.nodup_cons.mpr ⟨fun twice => ?_, ih hrest⟩
    obtain ⟨m, above, hm⟩ := State.ref_of_mem_refs hrest twice
    have := State.ref_injective hr hm
    omega

theorem State.holds_of_refs {s : State} {n k : Nat} {rs : List RegRef} (h : s.refs n k = some rs) {r : RegRef} (hr : r ∈ rs) :
    s.holds r :=
  let ⟨_, _, hm⟩ := State.ref_of_mem_refs h hr
  State.holds_of_ref hm

/-! ## Vector words -/

/-- Flags of the active lanes, the others raising none. -/
theorem orFlags_active (s : State) (out : Nat → LaneOut) :
    orFlags ((List.range 32).map (fun l => (if s.active.getLsbD l then out l else ([], 0#8)).2))
      = raisedBy s (fun l => (out l).2) := by
  rw [orFlags, raisedBy, List.foldl_map, List.foldl_filter]
  congr 1
  funext x l
  split
  · rfl
  · exact BitVec.or_zero

theorem raisedBy_congr (s : State) {f g : Nat → Flags} (same : ∀ l, l < 32 → f l = g l) : raisedBy s f = raisedBy s g := by
  refine List.foldl_ext _ _ _ fun x l hl => ?_
  rw [same l (List.mem_range.mp (List.mem_of_mem_filter hl))]

/-- What a vector word with a block of destinations can do: register `k` of the block takes word `k` of the outcome. -/
theorem State.vector_block_spec {s : State} {n k : Nat} {ds : List RegRef} (block : s.refs n k = some ds) (tm : Timing)
    (j : Option Loc) (srcs : List RegRef) (extra : List Loc) (f : Nat → List Word → LaneOut) (dec : Option Decision) :
    let t := s.vector tm j srcs ds extra f dec
    let out := fun l => f l (srcs.map (fun r => laneOf (s.getRef r) l))
    (∀ l i r, l < 32 → ds[i]? = some r →
        laneOf (t.getRef r) l = if s.active.getLsbD l then (out l).1.getD i 0#32 else laneOf (s.getRef r) l)
      ∧ (∀ r, r ∉ ds → t.getRef r = s.getRef r) ∧ Passed s t ∧ OnlyVectors s t ∧ Ended s t (raisedBy s (fun l => (out l).2)) := by
  intro t out
  have shape : t = (ds.zipIdx.foldl (fun u rk => u.putRef s.active rk.1 (mkLanes (fun l =>
      (if s.active.getLsbD l then out l else ([], 0#8)).1.getD rk.2 0#32))) s).finish tm j (srcs.map Loc.vec ++ extra)
        (ds.map (fun r => Dest.vec r (s.getRef r)))
        ((List.range 32).map (fun l => (if s.active.getLsbD l then out l else ([], 0#8)).2)) dec := by
    simp only [t, out, State.vector, mkLanes, List.map_map, Function.comp_def]
  have entries := List.zipIdx_map_fst 0 ds
  obtain ⟨written, put, kept⟩ := State.foldl_putRef_spec s.active
    (fun i => mkLanes (fun l => (if s.active.getLsbD l then out l else ([], 0#8)).1.getD i 0#32)) ds.zipIdx s
    (fun rk hrk => State.holds_of_refs block (entries ▸ List.mem_map_of_mem hrk))
    (entries.symm ▸ State.refs_nodup block)
  obtain ⟨reads, passed, only, ended⟩ := written.finish tm j (srcs.map Loc.vec ++ extra)
    (ds.map (fun r => Dest.vec r (s.getRef r)))
    ((List.range 32).map (fun l => (if s.active.getLsbD l then out l else ([], 0#8)).2)) dec
  rw [shape]
  refine ⟨fun l i r hl hr => ?_, fun r hr => (reads r).trans (kept r (entries.symm ▸ hr)), passed, only, ?_⟩
  · rw [reads, put (r, i) (List.mem_zipIdx_iff_getElem?.mpr hr), laneOf_mergeLanes _ _ _ hl]
    refine ite_congr rfl (fun active => ?_) (fun _ => rfl)
    rw [laneOf_mkLanes _ hl, if_pos active]
  · rwa [orFlags_active] at ended

end Sys2Proof.Machine

/-! # Permutations (R143, R144, R150) -/

namespace Sys2Proof.Machine

open Sys2Proof.Safety Sys2Proof.Claims

/-! ## Lanes of a mask -/

theorem filter_range_lt {n m : Nat} (h : n ≤ m) : (List.range m).filter (fun l => decide (l < n)) = List.range n := by
  obtain ⟨k, rfl⟩ := Nat.exists_eq_add_of_le h
  rw [List.range_add, List.filter_append, List.filter_eq_self.mpr (by simp), List.filter_eq_nil_iff.mpr (by simp),
    List.append_nil]

theorem activeBelow_eq_filter (s : State) {n : Nat} (h : n ≤ 32) :
    activeBelow s n = (lanesOf s.active).filter (fun l => decide (l < n)) := by
  rw [activeBelow, ← filter_range_lt h, lanesOf, List.filter_filter, List.filter_filter]
  simp only [Bool.and_comm]

theorem lowestLane_eq_find? (m : Mask) : lowestLane m = ((List.range 32).find? (fun l => m.getLsbD l)).getD 0 := by
  rw [lowestLane, lanesOf, List.headD_eq_head?_getD, List.head?_filter]

/-! ## The words -/

/-- What a copy between lanes can do: a lane without a source lane keeps its value. -/
theorem State.permute_spec {s : State} {d a : BitVec 7} {more : List (BitVec 7)} {rd ra : RegRef} {rest : List RegRef}
    (fields : (d :: a :: more).mapM (fun n => s.ref n.toNat) = some (rd :: ra :: rest)) (hd : s.ref d.toNat = some rd)
    (preds : List Loc) (src : Mask → List RegRef → Nat → Option Nat) :
    let t := s.permute d a more preds src
    (∀ l, l < 32 → laneOf (t.getRef rd) l =
        if s.active.getLsbD l then (src s.active (rd :: ra :: rest) l).elim (laneOf (s.getRef rd) l) (laneOf (s.getRef ra))
        else laneOf (s.getRef rd) l)
      ∧ (∀ r, r ≠ rd → t.getRef r = s.getRef r) ∧ Passed s t ∧ OnlyVectors s t ∧ Ended s t 0#8 := by
  intro t
  let new := mkLanes (fun l =>
    (src s.active (rd :: ra :: rest) l).elim (laneOf (s.getRef rd) l) (laneOf (s.getRef ra)))
  have shape : t = (s.putRef s.active rd new).done 4 ((ra :: rest).map Loc.vec ++ preds) [Dest.vec rd (s.getRef rd)] := by
    simp only [t, State.permute, State.withRefs, fields, List.getD_cons_zero, List.getD_cons_succ, List.drop_succ_cons,
      List.drop_zero]
    congr 3
    funext l
    cases src s.active (rd :: ra :: rest) l <;> rfl
  obtain ⟨reads, passed, only, ended⟩ := (s.putRef_written s.active rd new).finish (.fixed 4) none
    ((ra :: rest).map Loc.vec ++ preds) [Dest.vec rd (s.getRef rd)] [] none
  have put (r : RegRef) := s.getRef_putRef s.active rd r new (State.holds_of_ref hd)
  rw [shape]
  refine ⟨fun l hl => ?_, fun r hr => ((reads r).trans (put r)).trans (if_neg hr), passed, only, ended⟩
  rw [State.done, reads, put, if_pos rfl, laneOf_mergeLanes _ _ _ hl, laneOf_mkLanes _ hl]

/-- Lanes of a segment of VROTW (R142). -/
theorem segLanes_eq (g : BitVec 3) : segLanes g = if g.toNat < 4 then 2 ^ (g.toNat + 1) else if g = 4#3 then 16 else 32 := by
  revert g
  decide

theorem xor_lane_eq {l : Nat} (hl : l < 32) (m : BitVec 5) : l ^^^ m.toNat = (BitVec.ofNat 5 l ^^^ m).toNat := by
  rw [BitVec.toNat_xor, BitVec.toNat_ofNat, Nat.mod_eq_of_lt hl]

/-- Every permutation is a copy between lanes whose source lanes are those of the manual. -/
theorem exec_permutation {s : State} {i : Instr} {d a b : BitVec 7} {rd ra rb : RegRef} (h : permFields i = some (d, a, b))
    (hd : s.ref d.toNat = some rd) (ha : s.ref a.toNat = some ra) (hb : s.ref b.toNat = some rb) :
    ∃ more preds src rest, exec i s = .next (s.permute d a more preds src)
      ∧ (d :: a :: more).mapM (fun n => s.ref n.toNat) = some (rd :: ra :: rest)
      ∧ ∀ l, l < 32 → src s.active (rd :: ra :: rest) l = sourceLane s rb l i := by
  have two : [d, a].mapM (fun n => s.ref n.toNat) = some [rd, ra] := by simp [hd, ha]
  have three : [d, a, b].mapM (fun n => s.ref n.toNat) = some [rd, ra, rb] := by simp [hd, ha, hb]
  unfold permFields at h
  split at h <;> cases h
  case h_1 => exact ⟨[b], [], _, [rb], rfl, three, fun _ _ => rfl⟩
  case h_2 g n => exact ⟨[], [], _, [], rfl, two, fun l _ => by rw [sourceLane, ← segLanes_eq]⟩
  case h_3 m => exact ⟨[], [], _, [], rfl, two, fun l hl => congrArg some (xor_lane_eq hl m)⟩
  case h_4 => exact ⟨[], [], _, [], rfl, two, fun _ _ => rfl⟩
  case h_5 => exact ⟨[], [], _, [], rfl, two, fun _ _ => congrArg some (lowestLane_eq_find? s.active)⟩
  case h_6 p =>
    refine ⟨[], [Loc.pred p.toNat], _, [], rfl, two, fun l hl => ?_⟩
    rw [sourceLane, ← activeBelow, activeBelow_eq_filter s (Nat.le_of_lt hl)]
    simp only [lanesOf, BitVec.getLsbD_and]

end Sys2Proof.Machine

namespace Sys2Proof.Claims

open Sys2Proof.Machine Sys2Proof.Safety

/-- Settles O8: every permutation is one copy between lanes, which reads the source register before it writes. -/
theorem permutationCopiesItsSourceLane : Obligations.PermutationCopiesItsSourceLane := by
  intro i s d a b rd ra rb h hd ha hb
  obtain ⟨more, preds, src, rest, next, fields, source⟩ := exec_permutation h hd ha hb
  obtain ⟨lanes, frame⟩ := State.permute_spec fields hd preds src
  refine ⟨_, next, fun l hl => ?_, frame⟩
  rw [lanes l hl, source l hl]
  cases sourceLane s rb l i <;> rfl

end Sys2Proof.Claims

/-! # Reductions and scans (R145 to R148, R151) -/

namespace Sys2Proof.Claims

open Sys2Proof.Safety Sys2Proof.Machine

/-! ## Values of a block of one or two registers -/

theorem blockValue_one (s : State) (r : RegRef) (l : Nat) : blockValue s [r] l = (laneOf (s.getRef r) l).toNat := by
  simp only [blockValue, List.zipIdx_singleton, List.map_cons, List.map_nil, List.sum_singleton, Nat.mul_zero, pow_zero,
    Nat.mul_one]

theorem sum_zipIdx_two (value : RegRef → Nat) (weight : Nat → Nat) (r q : RegRef) :
    ([r, q].zipIdx.map (fun e => value e.1 * weight e.2)).sum = value r * weight 0 + value q * weight 1 := by
  simp

theorem blockValue_two (s : State) (r q : RegRef) (l : Nat) :
    blockValue s [r, q] l = (laneOf (s.getRef r) l).toNat + (laneOf (s.getRef q) l).toNat * 2 ^ 32 := by
  rw [blockValue, sum_zipIdx_two (fun r => (laneOf (s.getRef r) l).toNat) (fun i => 2 ^ (32 * i)), Nat.mul_zero, pow_zero,
    Nat.mul_one, Nat.mul_one]

theorem toNat_wordPair (high low : Word) : (high ++ low).toNat = low.toNat + high.toNat * 2 ^ 32 := by
  rw [toNat_append_add, Nat.add_comm]

/-- A number is the pair of its words. -/
theorem append_redWords (x : DWord) : x.extractLsb' 32 32 ++ x.extractLsb' 0 32 = x := by
  rw [BitVec.extractLsb'_append_extractLsb'_eq_extractLsb' (by rfl)]
  exact BitVec.extractLsb'_eq_self

section Block

variable {s : State} {n k : Nat} {rs : List RegRef} (block : s.refs n k = some rs) (size : k = 1 ∨ k = 2)

include block size

/-- The registers of a block of one or two. -/
theorem block_cases : (k = 1 ∧ ∃ r, rs = [r]) ∨ (k = 2 ∧ ∃ r q, rs = [r, q]) := by
  have length := State.refs_length block
  exact size.imp (fun one => ⟨one, List.length_eq_one_iff.mp (length.trans one)⟩)
    (fun two => ⟨two, List.length_eq_two.mp (length.trans two)⟩)

/-- The value that the model reads of a block is the block's value. -/
theorem redValues_toNat (l : Nat) : (s.redValues rs l).toNat = blockValue s rs l := by
  obtain ⟨-, r, rfl⟩ | ⟨-, r, q, rfl⟩ := block_cases block size
  · rw [blockValue_one]
    exact (toNat_wordPair 0#32 _).trans (Nat.add_zero _)
  · rw [blockValue_two]
    exact toNat_wordPair _ _

theorem redValues_eq : s.redValues rs = fun l => BitVec.ofNat 64 (blockValue s rs l) := by
  funext l
  rw [← redValues_toNat block size, BitVec.ofNat_toNat, BitVec.setWidth_eq]

/-- A block that holds the low words of a number. -/
theorem blockValue_of_words {t : State} {l : Nat} {x : DWord}
    (words : ∀ i r, rs[i]? = some r → laneOf (t.getRef r) l = (redWords x).getD i 0#32) :
    blockValue t rs l = x.toNat % 2 ^ (32 * k) := by
  obtain ⟨rfl, r, rfl⟩ | ⟨rfl, r, q, rfl⟩ := block_cases block size
  · rw [blockValue_one, words 0 r rfl]
    exact BitVec.extractLsb'_toNat 0 32 x
  · rw [blockValue_two, words 0 r rfl, words 1 q rfl, ← toNat_wordPair, Nat.mod_eq_of_lt x.isLt]
    exact congrArg BitVec.toNat (append_redWords x)

end Block

theorem blockValue_congr {s t : State} {ds : List RegRef} {l : Nat}
    (same : ∀ r ∈ ds, laneOf (t.getRef r) l = laneOf (s.getRef r) l) : blockValue t ds l = blockValue s ds l := by
  rw [blockValue, blockValue]
  congr 1
  refine List.map_congr_left fun e he => ?_
  rw [same e.1 (List.fst_mem_of_mem_zipIdx he)]

/-- A vector word that writes a number into a block of its destinations. -/
theorem vector_value_spec {s : State} {n k : Nat} {ds : List RegRef} (block : s.refs n k = some ds) (size : k = 1 ∨ k = 2)
    (tm : Timing) (srcs : List RegRef) (out : Nat → DWord × Flags) :
    let t := s.vector tm none srcs ds [] (fun l _ => (redWords (out l).1, (out l).2)) none
    (∀ l, l < 32 → blockValue t ds l = if s.active.getLsbD l then (out l).1.toNat % 2 ^ (32 * k) else blockValue s ds l)
      ∧ (∀ r, r ∉ ds → t.getRef r = s.getRef r) ∧ Passed s t ∧ OnlyVectors s t ∧ Ended s t (raisedBy s (fun l => (out l).2)) := by
  intro t
  obtain ⟨words, frame⟩ := State.vector_block_spec block tm none srcs [] (fun l _ => (redWords (out l).1, (out l).2)) none
  refine ⟨fun l hl => ?_, frame⟩
  split
  case isTrue active => exact blockValue_of_words block size fun i r hr => (words l i r hl hr).trans (if_pos active)
  case isFalse inactive =>
    refine blockValue_congr fun r hr => ?_
    obtain ⟨i, hi⟩ := List.mem_iff_getElem?.mp hr
    exact (words l i r hl hi).trans (if_neg inactive)

/-! ## The operations and their folds -/

theorem zeroExtend_eq_ofNat (x : Word) : x.zeroExtend 64 = BitVec.ofNat 64 x.toNat := (BitVec.ofNat_toNat 64 x).symm

theorem sMin_eq {w : Nat} (a b : BitVec w) : sMin a b = if a.toInt ≤ b.toInt then a else b := by
  simp only [sMin, BitVec.slt_iff_toInt_lt, ← Int.not_le, ite_not]

theorem nMin_eq {w : Nat} (a b : BitVec w) : nMin a b = if a.toNat ≤ b.toNat then a else b := by
  simp only [nMin, BitVec.ult_iff_lt, BitVec.lt_def, ← Nat.not_le, ite_not]

/-- At equal values the two words are the same, so that it does not matter which one a maximum delivers. -/
theorem sMax_eq {w : Nat} (a b : BitVec w) : sMax a b = if a.toInt ≤ b.toInt then b else a := by
  simp only [sMax, BitVec.slt_iff_toInt_lt]
  by_cases same : a.toInt = b.toInt
  · rw [BitVec.eq_of_toInt_eq same, ite_self, ite_self]
  · simp only [lt_iff_le_and_ne, ne_eq, same, not_false_eq_true, and_true]

theorem nMax_eq {w : Nat} (a b : BitVec w) : nMax a b = if a.toNat ≤ b.toNat then b else a := by
  simp only [nMax, BitVec.ult_iff_lt, BitVec.lt_def]
  by_cases same : a.toNat = b.toNat
  · rw [BitVec.eq_of_toNat_eq same, ite_self, ite_self]
  · simp only [lt_iff_le_and_ne, ne_eq, same, not_false_eq_true, and_true]

/-- The operation of the model is that of the table of R145: the same cases of o, each a match of its own definition. -/
theorem redOp_eq_reduceOp (env : FEnv) (o : BitVec 4) (x y : DWord) : redOp env o x y = reduceOp env o x y := by
  simp only [redOp, reduceOp, lowWord_eq_ofNat, zeroExtend_eq_ofNat, sMin_eq, sMax_eq, nMin_eq, nMax_eq, apply_ite BitVec.toNat,
    apply_ite (BitVec.ofNat 64)] <;> rfl

theorem redFold_map (env : FEnv) (o : BitVec 4) (v : Nat → DWord) (ls : List Nat) :
    redFold env o (ls.map v) = reduceOver env o v ls := by
  cases ls with
  | nil => rfl
  | cons l ls =>
    simp only [List.map_cons, redFold, reduceOver, redOp_eq_reduceOp, List.foldl_map, List.map_map, Function.comp_def,
      Bool.or_eq_true, decide_eq_true_eq]

theorem redScalar_eq_reduceScalar (o : BitVec 4) (x : DWord) : redScalar o x = reduceScalar o x := by
  have signed : ∀ o : BitVec 4, (o = 3#4 ∨ o = 4#4 ∨ o = 5#4) ↔ (o.toNat = 3 ∨ o.toNat = 4 ∨ o.toNat = 5) := by decide
  simp only [redScalar, reduceScalar, signed, lowWord_eq_ofNat]
  split <;> simp_all

theorem opRegs_cases (o : BitVec 4) : opRegs o = 1 ∨ opRegs o = 2 := by
  rw [opRegs]
  split
  · exact .inr rfl
  · exact .inl rfl

/-! ## The words -/

theorem lanesOf_active_isEmpty (s : State) : (lanesOf s.active).isEmpty = decide (s.active = 0#32) := by
  rw [Bool.eq_iff_iff, List.isEmpty_iff, decide_eq_true_iff, lanesOf, List.filter_eq_nil_iff]
  refine ⟨fun empty => BitVec.eq_of_getLsbD_eq fun l hl => ?_, fun zero l _ => by simp [zero]⟩
  rw [BitVec.getLsbD_zero]
  exact Bool.eq_false_iff.mpr (empty l (List.mem_range.mpr hl))

/-- The lanes that a scan combines: those below a lane, with it or without it (R148). -/
theorem scanLanes_eq (s : State) (x : BitVec 1) {l : Nat} (hl : l < 32) :
    (lanesOf s.active).filter (fun j => j < l || (x = 0#1 && j = l)) = activeBelow s (if x = 1#1 then l else l + 1) := by
  rw [activeBelow_eq_filter s (by split <;> omega)]
  congr 1
  funext j
  rcases (by decide : ∀ x : BitVec 1, x = 0#1 ∨ x = 1#1) x with rfl | rfl
  · simp [← Bool.decide_or, Nat.le_iff_lt_or_eq]
  · simp

/-- What VRSTEP delivers in lane l: the operation on the values of l and of the lane that differs from it in one bit, the lower
lane first (R146). -/
def stepResult (s : State) (o : BitVec 4) (v : Nat → DWord) (st : BitVec 3) (l : Nat) : DWord × Flags :=
  reduceOp (envOf s) o (v (min l (l ^^^ 2 ^ st.toNat))) (v (max l (l ^^^ 2 ^ st.toNat)))

/-- What VSCAN delivers in lane l (R148). -/
def scanResult (s : State) (o : BitVec 4) (v : Nat → DWord) (x : BitVec 1) (l : Nat) : DWord × Flags :=
  reduceOver (envOf s) o v (activeBelow s (if x = 1#1 then l else l + 1))

/-- What VRED delivers, before it is extended (R147). -/
def reduceResult (s : State) (o : BitVec 4) (v : Nat → DWord) : DWord × Flags := reduceOver (envOf s) o v (activeBelow s 32)

section Words

variable {s : State} {d a : BitVec 7} {o : BitVec 4} {ds as : List RegRef} {v : Nat → DWord}
  (dst : s.refs d.toNat (opRegs o) = some ds) (src : s.refs a.toNat (opRegs o) = some as) (value : s.redValues as = v)

include src value

section Vectors

include dst

theorem exec_vrstep (st : BitVec 3) :
    exec (.vrstep d a o st) s = .next (s.vector (.fixed 8) none as ds []
      (fun l _ => (redWords (stepResult s o v st l).1, (stepResult s o v st l).2)) none) := by
  show execVrstep d a o st s = _
  simp only [execVrstep, show redRegs o = opRegs o from rfl, dst, src, redOp_eq_reduceOp, value]
  rfl

theorem vrstep_spec (st : BitVec 3) :
    ∃ t, exec (.vrstep d a o st) s = .next t
      ∧ (∀ l, l < 32 → blockValue t ds l =
          if s.active.getLsbD l then (stepResult s o v st l).1.toNat % 2 ^ (32 * opRegs o) else blockValue s ds l)
      ∧ (∀ r, r ∉ ds → t.getRef r = s.getRef r) ∧ Passed s t ∧ OnlyVectors s t
      ∧ Ended s t (raisedBy s (fun l => (stepResult s o v st l).2)) :=
  ⟨_, exec_vrstep dst src value st, vector_value_spec dst (opRegs_cases o) (.fixed 8) as (stepResult s o v st)⟩

/-- VSCAN with an active lane. -/
theorem exec_vscan (x : BitVec 1) (active : s.active ≠ 0#32) :
    exec (.vscan d a o x) s = .next (s.vector (.fixed 16) none as ds [] (fun l _ =>
      let lanes := (lanesOf s.active).filter (fun j => j < l || (x = 0#1 && j = l))
      (redWords (reduceOver (envOf s) o v lanes).1, (reduceOver (envOf s) o v lanes).2)) none) := by
  show execVscan d a o x s = _
  simp only [execVscan, show redRegs o = opRegs o from rfl, dst, src, if_neg active, redFold_map, value]
  rfl

omit value in
/-- VSCAN without one (R151). -/
theorem exec_vscan_empty (x : BitVec 1) (empty : s.active = 0#32) :
    exec (.vscan d a o x) s = .next (s.finish (.fixed 16) none (as.map Loc.vec) []
      [if s.cur.frag.exec = 0#32 then 0#8 else 0x20#8] none) := by
  show execVscan d a o x s = _
  simp only [execVscan, show redRegs o = opRegs o from rfl, dst, src, if_pos empty, flagIf, flagEmpty, bne_iff_ne, ne_eq, ite_not]

theorem vscan_spec (x : BitVec 1) :
    ∃ t, exec (.vscan d a o x) s = .next t
      ∧ (∀ l, l < 32 → blockValue t ds l =
          if s.active.getLsbD l then (scanResult s o v x l).1.toNat % 2 ^ (32 * opRegs o) else blockValue s ds l)
      ∧ (∀ r, r ∉ ds → t.getRef r = s.getRef r) ∧ Passed s t ∧ OnlyVectors s t
      ∧ Ended s t (if s.active = 0#32 then (if s.cur.frag.exec = 0#32 then 0#8 else 0x20#8)
          else raisedBy s (fun l => (scanResult s o v x l).2)) := by
  by_cases empty : s.active = 0#32
  · obtain ⟨reads, passed, only, ended⟩ := (VectorsWritten.refl s).finish (.fixed 16) none (as.map Loc.vec) []
      [if s.cur.frag.exec = 0#32 then 0#8 else 0x20#8] none
    refine ⟨_, exec_vscan_empty dst src x empty, fun l _ => ?_, fun r _ => reads r, passed, only, ?_⟩
    · have inactive : s.active.getLsbD l = false := by rw [empty, BitVec.getLsbD_zero]
      rw [inactive, if_neg Bool.false_ne_true]
      exact blockValue_congr fun r _ => by rw [reads]
    · rw [if_pos empty]
      rwa [orFlags, List.foldl_cons, List.foldl_nil, BitVec.zero_or] at ended
  · obtain ⟨lanes, frame, passed, only, ended⟩ := vector_value_spec dst (opRegs_cases o) (.fixed 16) as (fun l =>
      reduceOver (envOf s) o v ((lanesOf s.active).filter (fun j => j < l || (x = 0#1 && j = l))))
    refine ⟨_, exec_vscan dst src value x empty, fun l hl => ?_, frame, passed, only, ?_⟩
    · rw [lanes l hl, scanLanes_eq s x hl, scanResult]
    · rw [if_neg empty]
      rwa [raisedBy_congr s (g := fun l => (scanResult s o v x l).2)
        (fun l hl => by rw [scanLanes_eq s x hl, scanResult])] at ended

end Vectors

theorem exec_vred (e : BitVec 6) :
    exec (.vred e a o) s = .next ((s.putS e (reduceScalar o (reduceResult s o v).1)).finish (.fixed 16) none (as.map Loc.vec)
      [Dest.scalar e.toNat (s.getS e)]
      [(reduceResult s o v).2 ||| (if s.active = 0#32 ∧ s.cur.frag.exec ≠ 0#32 then 0x20#8 else 0#8)] none) := by
  show execVred e a o s = _
  simp only [execVred, show redRegs o = opRegs o from rfl, src, redFold_map, value, redScalar_eq_reduceScalar,
    lanesOf_active_isEmpty, flagIf, flagEmpty, Bool.and_eq_true, decide_eq_true_eq, bne_iff_ne]
  rfl

theorem vred_spec (e : BitVec 6) :
    ∃ t, exec (.vred e a o) s = .next t ∧ t.getS e = reduceScalar o (reduceResult s o v).1
      ∧ (∀ j, j ≠ e → t.getS j = s.getS j) ∧ Passed s t ∧ OnlyScalars s t
      ∧ Ended s t ((reduceResult s o v).2 ||| (if s.active = 0#32 ∧ s.cur.frag.exec ≠ 0#32 then 0x20#8 else 0#8)) := by
  refine ⟨_, exec_vred src value e, ?_⟩
  have scalar := s.scalar_spec e (reduceScalar o (reduceResult s o v).1) (.fixed 16) (as.map Loc.vec)
    [Dest.scalar e.toNat (s.getS e)]
    [(reduceResult s o v).2 ||| (if s.active = 0#32 ∧ s.cur.frag.exec ≠ 0#32 then 0x20#8 else 0#8)]
  rwa [orFlags, List.foldl_cons, List.foldl_nil, BitVec.zero_or] at scalar

end Words

/-- Settles O9: VRSTEP and VSCAN as vector words with a number for each lane, VRED as a word with a scalar result; the model's
fold over the values of a list of lanes is the manual's over the lanes. -/
theorem reductionsCombineActiveLanes : Obligations.ReductionsCombineActiveLanes := by
  intro s d a e o st x ds as _ _ dst src v lows
  have value : s.redValues as = v := redValues_eq src (opRegs_cases o)
  exact ⟨vrstep_spec dst src value st, vscan_spec dst src value x, vred_spec src value e⟩

end Sys2Proof.Claims

/-! # Matching keys (R149) -/

namespace Sys2Proof.Claims

open Sys2Proof.Machine Sys2Proof.Safety

theorem getLsbD_foldl_setBits (f : Nat → Bool) {n : Nat} (hn : n ≤ 32) (j : Nat) :
    ((List.range n).foldl (fun m l => if f l then m ||| (1#32 <<< l) else m) 0#32).getLsbD j = (decide (j < n) && f j) := by
  induction n with
  | zero => simp
  | succ n ih =>
    rw [List.range_succ, List.foldl_append, List.foldl_cons, List.foldl_nil, apply_ite (BitVec.getLsbD · j), BitVec.getLsbD_or,
      ih (by omega), BitVec.getLsbD_shiftLeft, BitVec.getLsbD_one]
    grind

theorem getLsbD_mkMask (f : Nat → Bool) {j : Nat} (hj : j < 32) : (mkMask f).getLsbD j = f j := by
  rw [mkMask, getLsbD_foldl_setBits f (Nat.le_refl 32), decide_eq_true hj, Bool.true_and]

/-- Two lanes match as R149 says: as FP32 numbers for k = 1, with zeros alike and a NaN equal to no other lane, else as bits. -/
theorem keysMatch_eq {s : State} {n : Nat} {k : BitVec 2} {as : List RegRef}
    (src : s.refs n (if k = 2#2 then 2 else 1) = some as) (j l : Nat) :
    keysMatch k j l (s.redValues as j) (s.redValues as l) =
      (if k = 1#2 then
        decide (j = l) || (decide (blockValue s as j % 2 ^ 31 = 0) && decide (blockValue s as l % 2 ^ 31 = 0))
          || (decide (blockValue s as j = blockValue s as l) && !numIsNan (unpack .fp32 (blockValue s as j)))
      else decide (blockValue s as j = blockValue s as l)) := by
  have toNat := redValues_toNat src (by split <;> simp)
  have equal : (s.redValues as j == s.redValues as l) = decide (blockValue s as j = blockValue s as l) := by
    rw [← toNat, ← toNat, Bool.eq_iff_iff, beq_iff_eq, decide_eq_true_iff, BitVec.toNat_inj]
  rw [keysMatch, equal]
  refine ite_congr rfl (fun float => ?_) (fun _ => rfl)
  subst float
  obtain ⟨-, r, rfl⟩ | ⟨two, -⟩ := block_cases src (.inl rfl)
  case inr => cases two
  have low (i : Nat) : ((s.redValues [r] i).extractLsb' 0 32).toNat = blockValue s [r] i := by
    rw [BitVec.extractLsb'_toNat, toNat, blockValue_one, Nat.shiftRight_zero, Nat.mod_eq_of_lt (BitVec.isLt _)]
  simp only [low, Bool.beq_eq_decide_eq, Bool.or_comm (decide (j = l))]
  by_cases same : blockValue s [r] j = blockValue s [r] l
  · simp only [same, Bool.and_self, decide_true, Bool.and_true, Bool.true_and]
  · simp only [same, decide_false, Bool.and_false, Bool.false_and]

/-- Settles O10: VMATCH as a vector word whose lanes are masks, by the bits of a mask. -/
theorem matchWritesTheMaskOfEqualKeys : Obligations.MatchWritesTheMaskOfEqualKeys := by
  intro s d a k rd as _ dst src
  let out := fun l => mkMask (fun j => s.active.getLsbD j && keysMatch k j l (s.redValues as j) (s.redValues as l))
  have next : exec (.vmatch d a k) s = .next (s.vector (.fixed 6) none as [rd] [] (fun l _ => ([out l], 0#8)) none) := by
    show execVmatch d a k s = _
    simp only [execVmatch, dst, src, out]
  obtain ⟨lanes, kept, passed, only, ended⟩ :=
    s.vector_spec (.fixed 6) none as rd [] (fun l _ => ([out l], 0#8)) none (State.holds_of_ref dst)
  refine ⟨_, next, fun l j hl hj active => ?_, fun l hl inactive => ?_, kept, passed, only, ?_⟩
  · rw [lanes l hl, if_pos active, List.getD_cons_zero, getLsbD_mkMask _ hj, keysMatch_eq src]
  · rw [lanes l hl, inactive, if_neg Bool.false_ne_true]
  · simp only [ite_self] at ended
    exact ended

end Sys2Proof.Claims

/-! # TLBINV (R178, R336) -/

namespace Sys2Proof.Machine

open Sys2Proof.Safety Sys2Proof.Claims

theorem Mem.lands_late (m : Mem) (x : LateStore) : (m.lands x).late = m.late := by
  simp only [Mem.lands, Mem.l1Patch]
  split <;> rfl

/-- Every store of the package is performed: none is on its way afterwards (R184). -/
theorem Mem.performLate_all_late (m : Mem) : (m.performLate (fun _ => true)).late = [] := by
  have kept (xs : List LateStore) (n : Mem) : (xs.foldl Mem.lands n).late = n.late := by
    induction xs generalizing n with
    | nil => rfl
    | cons x xs ih => rw [List.foldl_cons, ih, Mem.lands_late]
  simp only [Mem.performLate, kept, Bool.not_true, List.filter_false]

/-- The memories as TLBINV leaves them (R336). -/
def Mem.invalidated (m : Mem) (va : Nat) (r : BitVec 2) : Mem :=
  { m.performLate (fun _ => true) with
    tlb := if r = 0#2 then tlbWithout (m.performLate (fun _ => true)).tlb va else [] }

/-- TLBINV in a privileged group, with no weak store held for merging. -/
theorem exec_tlbinv {s : State} (a : BitVec 6) (r : BitVec 2) (privileged : s.cur.id.privileged = true)
    (held : s.fabric.held = []) :
    exec (.tlbinv a r) s = .next (
      let t := { s with mem := s.mem.invalidated (s.getS a).toNat r }
      if s.fabric.txns.isEmpty then t.advance else t.waitAt .performed) := by
  show execTlbinv a r s = _
  simp only [execTlbinv, State.privileged, privileged, if_true, State.sendAll, State.accessesOut, held, List.filter_nil,
    List.foldl_nil, List.isEmpty_nil, Bool.not_true, Bool.or_false, Bool.not_eq_true', Mem.invalidated]
  cases s.fabric.txns.isEmpty <;> rfl

/-- What is left of the cached translations is what does not lie on the walk of the address (R178). -/
theorem mem_tlbWithout {m : SMap (Option Leaf)} {va k : Nat} {l : Leaf} :
    (k, some l) ∈ tlbWithout m va ↔ (k, some l) ∈ m ∧ k % 2 ^ 45 * 4096 / 2 ^ l.lg ≠ va / 2 ^ l.lg := by
  simp only [tlbWithout, cachedFor, List.mem_filter, Bool.not_eq_true', beq_eq_false_iff_ne]

end Sys2Proof.Machine

namespace Sys2Proof.Claims

open Sys2Proof.Machine Sys2Proof.Safety

/-- Settles O32, by the memories as TLBINV leaves them: with no store on its way nothing but the cached translations
differs. -/
theorem tlbinvDropsTranslations : Obligations.TlbinvDropsTranslations := by
  intro s a r privileged _
  refine ⟨fun out => ?_, fun txns held => ?_⟩
  · obtain ⟨held, txns, late⟩ := out
    refine ⟨_, exec_tlbinv a r privileged held, ?_⟩
    simp only [txns, List.isEmpty_nil, if_true, Mem.invalidated, Mem.performLate_settled late]
    exact ⟨rfl, rfl, fun all => if_neg all, fun page k l => by
      show (k, some l) ∈ (if r = 0#2 then _ else _) ↔ _
      rw [if_pos page, mem_tlbWithout]⟩
  · refine ⟨_, exec_tlbinv a r privileged held, ?_⟩
    simp only [List.isEmpty_eq_false_iff.mpr txns, Bool.false_eq_true, if_false]
    exact ⟨rfl, rfl, rfl, Mem.performLate_all_late s.mem, fun late => by
      simp only [Mem.invalidated, Mem.performLate_settled late]
      exact fun _ => ⟨rfl, rfl, rfl⟩⟩

end Sys2Proof.Claims

/-! # The tile table and the fetch window (R167 to R169, R226, R247, R248, R255) -/

namespace Sys2Proof.Machine

open Sys2Proof.Safety Sys2Proof.Claims

/-! ## Entries -/

theorem State.withTile_eq {s : State} {n : Nat} {e : TileEntry} {sts : List TileState} (h : HasTile s n e sts)
    (k : TileEntry → State) : s.withTile n k = k e := by
  have tile := State.tileOf_eq h
  obtain ⟨-, -, defined, -⟩ := h
  simp only [State.withTile, tile, defined, if_true]

/-- A tile in one of the states holds nothing up (R169). -/
theorem State.inStates_of_mem (s : State) (n : Nat) {e : TileEntry} {sts : List Nat} (h : tileStateNum e.st ∈ sts) (k : State) :
    s.inStates n e sts k = k :=
  if_pos (List.contains_iff_mem.mpr h)

theorem State.inStates_of_not_mem (s : State) (n : Nat) {e : TileEntry} {sts : List Nat} (h : tileStateNum e.st ∉ sts)
    (k : State) : s.inStates n e sts k = s.waitAt (.tile n sts) :=
  if_neg (mt List.contains_iff_mem.mp h)

theorem Team.ringSlot_iff (s : State) (n : Nat) : s.team.ringSlot n none = true ↔ inRing s n := by
  simp [Team.ringSlot, inRing, and_assoc]

theorem State.tileBusy_iff (s : State) (n : Nat) : s.tileBusy (s.team.entryKey n) = true ↔ inUse s n := by
  simp [State.tileBusy, State.groups, inUse]

theorem tileStateNum_eq (st : TileState) : tileStateNum st = stateNum st := by
  cases st <;> rfl

/-- The word at its end after entry `n` of the team has been replaced. -/
theorem State.putEntry_advance_spec (s : State) (n : Nat) (e : TileEntry) :
    EntryBecomes s (s.putEntry s.team n e).advance n e :=
  ⟨sget_sput_same .., fun _ other => sget_sput_ne _ _ _ other, rfl⟩

/-! ## TDEF (R168, R247) -/

theorem extract_eq_zero_iff (x : DWord) (lo n : Nat) : x.extractLsb' lo n = 0#n ↔ bitsOf x lo n = 0 := by
  rw [← BitVec.toNat_inj, extract_toNat, BitVec.toNat_ofNat, Nat.zero_mod]

/-- TDEF with a range of whole 16-byte words and no reserved bit. -/
theorem exec_tdef {s : State} {a b : BitVec 6} (r : BitVec 1)
    (word : bitsOf (s.getS a) 56 8 = 0 ∧ bitsOf (s.getS a) 32 24 ≠ 0 ∧ bitsOf (s.getS a) 32 24 % 16 = 0
      ∧ bitsOf (s.getS a) 8 24 % 16 = 0 ∧ bitsOf (s.getS b) 20 44 = 0 ∧ bitsOf (s.getS b) 0 20 % 16 = 0) :
    exec (.tdef a b r) s = .next (
      if bitsOf (s.getS a) 0 8 < s.team.tabCount
          ∧ (sget TileEntry.reset s.mem.table (s.team.entryKey (bitsOf (s.getS a) 0 8))).defined = false then
        if s.team.bytes < bitsOf (s.getS a) 8 24 + bitsOf (s.getS a) 32 24 then s.trap0 15 4
        else (s.putEntry s.team (bitsOf (s.getS a) 0 8) (TileEntry.mk true (bitsOf (s.getS a) 8 24) (bitsOf (s.getS a) 32 24)
          (bitsOf (s.getS b) 0 20) (if r = 1#1 then .ready else .empty))).advance
      else s.trap0 15 3) := by
  obtain ⟨top, nonzero, size, off, rest, pitch⟩ := word
  show execTdef a b r s = _
  simp only [execTdef, State.tdef, extract_toNat, (extract_eq_zero_iff _ _ _).mpr top, (extract_eq_zero_iff _ _ _).mpr rest, size,
    off, pitch, beq_eq_false_iff_ne.mpr nonzero, bne_self_eq_false, Bool.or_self, Bool.false_eq_true, if_false, State.tileOf]
  by_cases inRange : bitsOf (s.getS a) 0 8 < s.team.tabCount
  · cases defined : (sget TileEntry.reset s.mem.table (s.team.entryKey (bitsOf (s.getS a) 0 8))).defined <;>
      simp [defined, inRange]
  · simp only [inRange, false_and, if_false]

/-! ## TREL and TSTATE (R168, R248) -/

theorem high_bits_zero {x : DWord} (h : bitsOf x 8 56 = 0) : x.toNat < 2 ^ 8 := by
  have := x.isLt
  unfold bitsOf at h
  omega

/-- A control word that holds a tile number and nothing else has no reserved field or value (R250). -/
theorem ctlBad_tile {x : DWord} (h : bitsOf x 8 56 = 0) : ctlBad x ctlTileBits = false := by
  have small := high_bits_zero h
  have flag : ctlFlag x = 0 := by
    rw [ctlFlag, extract_toNat, bitsOf]
    omega
  have others : ∀ i < 64, (~~~ctlTileBits).getLsbD i = decide (8 ≤ i) := by decide
  have unused : x &&& ~~~ctlTileBits = 0#64 := by
    refine BitVec.eq_of_getLsbD_eq fun i hi => ?_
    rw [BitVec.getLsbD_and, others i hi, BitVec.getLsbD_zero, Bool.and_eq_false_imp]
    intro bit
    have : 2 ^ i ≤ x.toNat := Nat.ge_two_pow_of_testBit bit
    have : i < 8 := (Nat.pow_lt_pow_iff_right (by decide)).mp (by omega : 2 ^ i < 2 ^ 8)
    simp [this]
  have scope : ctlTileBits &&& ctlScopeBits = 0#64 := by decide
  simp [ctlBad, unused, flag, scope]

theorem exec_trel {s : State} {a : BitVec 6} {e : TileEntry} {sts : List TileState} (plain : bitsOf (s.getS a) 8 56 = 0)
    (tile : HasTile s (bitsOf (s.getS a) 0 8) e sts) :
    exec (.trel a) s = .next (
      if s.team.ringSlot (bitsOf (s.getS a) 0 8) none then s.trap0 15 7
      else s.inStates (bitsOf (s.getS a) 0 8) e [0, 2] (
        if s.tileBusy (s.team.entryKey (bitsOf (s.getS a) 0 8)) then s.waitAt (.tileIdle (bitsOf (s.getS a) 0 8))
        else (s.putEntry s.team (bitsOf (s.getS a) 0 8) TileEntry.reset).advance)) := by
  show execTrel a s = _
  simp only [execTrel, ctlBad_tile plain, ctlTile, extract_toNat, State.withTile_eq tile, Bool.false_eq_true, if_false]

theorem exec_tstate {s : State} {a : BitVec 6} (d : BitVec 6) (plain : bitsOf (s.getS a) 8 56 = 0)
    (inRange : bitsOf (s.getS a) 0 8 < s.team.tabCount) :
    exec (.tstate a d) s = .next (s.putS d (BitVec.ofNat 64
      (tstateValue (sget TileEntry.reset s.mem.table (s.team.entryKey (bitsOf (s.getS a) 0 8)))
        (s.team.ringSlot (bitsOf (s.getS a) 0 8) none) (s.tileBusy (s.team.entryKey (bitsOf (s.getS a) 0 8)))))).advance := by
  show execTstate a d s = _
  simp only [execTstate, ctlBad_tile plain, ctlTile, extract_toNat, State.tileOf, inRange, Bool.false_eq_true, if_true, if_false]

theorem tstateValue_undefined {e : TileEntry} (undefined : e.defined = false) (ring busy : Bool) : tstateValue e ring busy = 0 :=
  if_neg (by simp [undefined])

/-- The fields of the value that TSTATE shows of a defined entry (R248). -/
theorem tstateValue_fields {e : TileEntry} (defined : e.defined = true) (ring busy : Bool) :
    let v := tstateValue e ring busy
    v % 4 = stateNum e.st ∧ v / 4 % 2 = 1 ∧ (v / 8 % 2 = 1 ↔ busy = true) ∧ (v / 16 % 2 = 1 ↔ ring = true) ∧ v < 32 := by
  simp only [tstateValue, defined, if_true, tileStateNum_eq]
  cases e.st <;> cases ring <;> cases busy <;> decide

/-! ## The team's window (R255) -/

/-- The word at its end after scalar register `d` has been written. -/
theorem State.putS_advance_teamBecomes (s : State) (d : BitVec 6) (v : DWord) :
    TeamBecomes s (s.putS d v).advance s.team (some d) ∧ (s.putS d v).advance.getS d = v := by
  refine ⟨⟨rfl, fun _ _ => rfl, rfl, rfl, fun e other => ?_⟩, sget_sput_same ..⟩
  exact sget_sput_ne _ _ _ fun same => other (congrArg some (BitVec.eq_of_toNat_eq same))

theorem isTeam_iff {grid clu team : Nat} {t : Team} :
    isTeam grid clu team t = true ↔ t.grid = grid ∧ t.clu = clu ∧ t.team = team := by
  simp [isTeam, and_assoc]

theorem State.team_found {s : State} (h : Placed s) :
    s.teams.find? (isTeam s.cur.id.grid s.cur.id.clu s.cur.id.team) = some s.team := by
  obtain ⟨⟨t, listed, same⟩, -⟩ := h
  obtain ⟨u, found⟩ := Option.isSome_iff_exists.mp (List.find?_isSome.mpr ⟨t, listed, isTeam_iff.mpr same⟩)
  rw [State.team, State.teamFor, found, Option.getD_some]

/-- A search for a team finds it in the same place after a team has been replaced by one of its identity. -/
theorem State.find_putTeam (s : State) (u : Team) (grid clu team : Nat) :
    (s.putTeam u).teams.find? (isTeam grid clu team) =
      (s.teams.find? (isTeam grid clu team)).map (fun t => if isTeam u.grid u.clu u.team t then u else t) := by
  rw [State.putTeam_teams, List.find?_map]
  congr 2
  funext t
  simp only [Function.comp_apply]
  split
  · obtain ⟨grid', clu', team'⟩ := isTeam_iff.mp ‹_›
    simp only [isTeam, grid', clu', team']
  · rfl

/-- The word at its end after the group's team has been replaced by one of the same identity. -/
theorem State.putTeam_advance_teamBecomes {s : State} (h : Placed s) {u : Team}
    (same : u.grid = s.team.grid ∧ u.clu = s.team.clu ∧ u.team = s.team.team) :
    TeamBecomes s (s.putTeam u).advance u none := by
  have found := State.team_found h
  obtain ⟨grid, clu, team⟩ := isTeam_iff.mp (List.find?_some found)
  rw [grid, clu, team] at same
  obtain ⟨gridU, cluU, teamU⟩ := same
  refine ⟨?_, fun g other => ?_, rfl, rfl, fun _ _ => rfl⟩
  · show ((s.putTeam u).teams.find? (isTeam s.cur.id.grid s.cur.id.clu s.cur.id.team)).getD _ = u
    have self : isTeam u.grid u.clu u.team s.team = true := by
      rw [gridU, cluU, teamU]
      exact isTeam_iff.mpr ⟨grid, clu, team⟩
    rw [State.find_putTeam, found, Option.map_some, if_pos self, Option.getD_some]
  · show ((s.putTeam u).teams.find? (isTeam g.grid g.clu g.team)).getD _ = s.teamFor g
    rw [State.find_putTeam, State.teamFor]
    cases hit : s.teams.find? (isTeam g.grid g.clu g.team) with
    | none => rfl
    | some t =>
      obtain ⟨gridT, cluT, teamT⟩ := isTeam_iff.mp (List.find?_some hit)
      have apart : ¬isTeam u.grid u.clu u.team t = true := fun twin => by
        obtain ⟨grid', clu', team'⟩ := isTeam_iff.mp twin
        exact other ⟨by omega, by omega, by omega⟩
      rw [Option.map_some, if_neg apart]

theorem exec_twin {s : State} {a : BitVec 6} (top : bitsOf (s.getS a) 31 33 = 0) (gap : bitsOf (s.getS a) 9 7 = 0)
    (kib : 1 ≤ bitsOf (s.getS a) 16 15 ∧ bitsOf (s.getS a) 16 15 ≤ 16384)
    (req : 1 ≤ bitsOf (s.getS a) 0 9 ∧ bitsOf (s.getS a) 0 9 ≤ 256) :
    exec (.twin a) s =
      .next (s.putTeam { s.team with kibMax := bitsOf (s.getS a) 16 15, reqMax := bitsOf (s.getS a) 0 9 }).advance := by
  show execTwin a s = _
  have kib0 : bitsOf (s.getS a) 16 15 ≠ 0 := by omega
  have req0 : bitsOf (s.getS a) 0 9 ≠ 0 := by omega
  simp only [execTwin, extract_toNat, (extract_eq_zero_iff _ _ _).mpr top, (extract_eq_zero_iff _ _ _).mpr gap,
    beq_eq_false_iff_ne.mpr kib0, beq_eq_false_iff_ne.mpr req0, decide_eq_false (Nat.not_lt.mpr kib.2),
    decide_eq_false (Nat.not_lt.mpr req.2), bne_self_eq_false, Bool.or_self, Bool.false_eq_true, if_false]

end Sys2Proof.Machine

/-! # Block decode (R267, R268) -/

namespace Sys2Proof.Machine

open Sys2Proof.Safety Sys2Proof.Claims

/-! ## A value without a rest (R57, R268) -/

/-- A magnitude that is a multiple of the unit rounds to itself, in every mode. -/
theorem roundAt_exact (mode : Nat) (neg : Bool) (n : Nat) {e q : Int} (h : q ≤ e) :
    roundAt mode neg { mant := n, exp := e, sticky := false } q = (n * 2 ^ (e - q).toNat, false) := by
  have up : (2 - (q - e)).toNat = (e - q).toNat + 2 := by omega
  have sh : (q - (e - ((e - q).toNat + 2 : Nat))).toNat = 2 := by omega
  have four : n * 2 ^ ((e - q).toNat + 2) = n * 2 ^ (e - q).toNat * 4 := by rw [Nat.pow_add, ← Nat.mul_assoc]
  simp only [roundAt, if_neg (show ¬e + 2 ≤ q by omega), up, sh, four]
  have none_up (odd : Bool) : roundsUp mode neg odd 0 2 false = false := by
    unfold roundsUp
    split <;> simp
  simp [none_up]

/-- A whole number of at most 7 bits times 2^(E − 133) is a BF16 number, normal or subnormal (R268). -/
theorem roundIeee_bf16_exact (neg : Bool) {n E : Nat} (pos : n ≠ 0) (small : n < 128) (finite : E < 255) :
    (roundIeee .bf16 { mode := 0, ftz := false, sat := false } neg { mant := n, exp := (E : Int) - 133, sticky := false }).1 =
      (if neg then 2 ^ 15 else 0)
        + (if 1 ≤ (n.log2 : Int) + E - 133 + 127 then
            ((n.log2 : Int) + E - 133 + 127).toNat * 128 + (n * 2 ^ (7 - n.log2) - 128) else n * 2 ^ E) := by
  have top : n.log2 < 7 := (Nat.log2_lt pos).mpr small
  obtain ⟨k, hk⟩ : ∃ k, n.log2 + k = 7 := ⟨7 - n.log2, by omega⟩
  have low : 2 ^ n.log2 ≤ n := Nat.log2_self_le pos
  have high : n < 2 ^ (n.log2 + 1) := Nat.lt_log2_self
  have fits : 128 ≤ n * 2 ^ k ∧ n * 2 ^ k ≤ 255 := by
    have least := Nat.mul_le_mul_right (2 ^ k) low
    have most := Nat.mul_lt_mul_of_pos_right high (Nat.two_pow_pos k)
    rw [← Nat.pow_add, hk] at least
    rw [← Nat.pow_add, show n.log2 + 1 + k = 8 by omega] at most
    omega
  have largest : unpack .bf16 (fmtMaxCode .bf16) = .fin false 255 120 := by decide
  obtain ⟨u, hu⟩ : ∃ u : Int, (E : Int) - 133 + n.log2 - 7 = u := ⟨_, rfl⟩
  have atUnit := roundAt_exact 0 neg n (show u ≤ (E : Int) - 133 by omega)
  have atLeast := roundAt_exact 0 neg n (show (-133 : Int) ≤ (E : Int) - 133 by omega)
  rw [show ((E : Int) - 133 - u).toNat = k by omega] at atUnit
  rw [show ((E : Int) - 133 - -133).toNat = E by omega] at atLeast
  have inRange : ¬(255 : Int) * 2 ^ (120 - u).toNat < ((n * 2 ^ k : Nat) : Int) := by
    have : (1 : Int) ≤ 2 ^ (120 - u).toNat := one_le_pow₀ (by decide)
    omega
  simp only [roundIeee, magTop, fmtFrac, fmtBias, Nat.cast_ofNat, hu, atUnit, largest, min_eq_right (show u ≤ 120 by omega),
    sub_self, Int.toNat_zero, pow_zero, mul_one, decide_eq_false inRange, Bool.and_false, Bool.false_and, Bool.false_eq_true,
    if_false, withSign, show fmtSignBit .bf16 = 2 ^ 15 from rfl, show (1 - 127 - 7 : Int) = -133 from rfl]
  by_cases subnormal : u < -133
  · rw [if_pos subnormal, atLeast, if_neg (show ¬1 ≤ (n.log2 : Int) + E - 133 + 127 by omega)]
    cases neg <;> simp
  · rw [if_neg subnormal, atUnit, if_pos (show 1 ≤ (n.log2 : Int) + E - 133 + 127 by omega),
      show (u - -133).toNat = n.log2 + E - 7 by omega, show ((n.log2 : Int) + E - 133 + 127).toNat = n.log2 + E - 7 + 1 by omega,
      show 7 - n.log2 = k by omega]
    cases neg <;> simp <;> omega

/-! ## A block in tile memory (R267) -/

theorem bytesAt_tileByte (s : State) (a n : Nat) : bytesAt (tileByte s) a n = leNat (readBytes s.mem.tile a n) := by
  rw [bytesAt, readBytes_eq_map]
  rfl

theorem readBytes_getD_toNat (s : State) {a n i : Nat} (h : i < n) :
    ((readBytes s.mem.tile a n).getD i 0#8).toNat = bytesAt (tileByte s) (a + i) 1 := by
  rw [readBytes_getD _ _ _ _ h, bytesAt_tileByte]
  simp [readBytes, leNat]

theorem and_one_eq_iff (b : Byte) : b &&& 1#8 = 1#8 ↔ b.toNat % 2 = 1 := by
  rw [← BitVec.toNat_inj, BitVec.toNat_and]
  simp

theorem rawValue_eq (s : State) (a : Nat) {q : Nat} (h : q < 128) :
    rawValue (readBytes s.mem.tile a 256) q = bytesAt (tileByte s) (a + 2 * q) 2 := by
  rw [rawValue, readBytes_part _ (by omega), bytesAt_tileByte]

theorem mantissa_eq (s : State) (a q : Nat) : mantissa (readBytes s.mem.tile a 114) q = mantissaAt (tileByte s) a q := by
  simp only [mantissa, mantissaAt, readBytes_part _ (show 2 + 112 ≤ 114 by decide), ← bytesAt_tileByte]
  split <;> split <;> omega

theorem mantissaAt_range (f : Nat → Byte) (a q : Nat) : -64 ≤ mantissaAt f a q ∧ mantissaAt f a q < 64 := by
  simp only [mantissaAt]
  split <;> omega

/-- A value of a block without escape is the BF16 number that the block's exponent and its mantissa give (R268). -/
theorem blockValue_eq_bf16Of (s : State) (a q : Nat) (finite : bytesAt (tileByte s) a 1 ≠ 255) :
    Machine.blockValue (readBytes s.mem.tile a 114) q = bf16Of (bytesAt (tileByte s) a 1) (mantissaAt (tileByte s) a q) := by
  obtain ⟨low, high⟩ := mantissaAt_range (tileByte s) a q
  have exponent := readBytes_getD_toNat s (a := a) (show 0 < 114 by decide)
  have byte := ((readBytes s.mem.tile a 114).getD 0 0#8).isLt
  rw [Nat.add_zero] at exponent
  rw [exponent] at byte
  simp only [Machine.blockValue, mantissa_eq, exponent, bf16Of, roundNum, roundMag]
  generalize mantissaAt (tileByte s) a q = m at *
  by_cases zero : m = 0
  · simp [zero, fmtTapered, withSign]
  · have pos : m.natAbs ≠ 0 := by omega
    have rounded := roundIeee_bf16_exact (decide (m < 0)) pos (show m.natAbs < 128 by omega)
      (show bytesAt (tileByte s) a 1 < 255 by omega)
    simpa [zero, pos, fmtTapered] using rounded

/-! ## VDECODE (R267, R268) -/

theorem VectorsWritten.advance {s u : State} (h : VectorsWritten s u) : Passed s u.advance ∧ OnlyVectors s u.advance :=
  ⟨Passed.of_regs h.state h.results ⟨OnlyGroup.of_mem rfl, ⟨rfl, SameResults.refl _⟩, rfl⟩, by
    rw [OnlyVectors, State.advance_cur_regs, h.regs]⟩

/-- A block of registers takes decoded values, and the word ends. -/
def State.decoded (s : State) (ds : List RegRef) (value : Nat → Nat) : State :=
  (ds.zipIdx.foldl (fun u rk => u.putRef s.active rk.1 (decodeLanes value rk.2)) s).advance

theorem State.decoded_spec {s : State} {n k : Nat} {ds : List RegRef} (block : s.refs n k = some ds) (value : Nat → Nat) :
    let t := s.decoded ds value
    Passed s t ∧ OnlyVectors s t
      ∧ (∀ l i r, l < 32 → ds[i]? = some r → laneOf (t.getRef r) l =
          if s.active.getLsbD l then BitVec.ofNat 32 (value (4 * l + 2 * i) + 2 ^ 16 * value (4 * l + 2 * i + 1))
          else laneOf (s.getRef r) l)
      ∧ ∀ r, r ∉ ds → t.getRef r = s.getRef r := by
  have entries := List.zipIdx_map_fst 0 ds
  obtain ⟨written, put, kept⟩ := State.foldl_putRef_spec s.active (decodeLanes value) ds.zipIdx s
    (fun rk hrk => State.holds_of_refs block (entries ▸ List.mem_map_of_mem hrk))
    (entries.symm ▸ State.refs_nodup block)
  have reads (r : RegRef) : (s.decoded ds value).getRef r =
      (ds.zipIdx.foldl (fun u rk => u.putRef s.active rk.1 (decodeLanes value rk.2)) s).getRef r := rfl
  obtain ⟨passed, only⟩ := written.advance
  refine ⟨passed, only, fun l i r hl hr => ?_, fun r hr => (reads r).trans (kept r (entries.symm ▸ hr))⟩
  rw [reads, put (r, i) (List.mem_zipIdx_iff_getElem?.mpr hr), laneOf_mergeLanes _ _ _ hl, decodeLanes, laneOf_mkLanes _ hl]

/-- What VDECODE makes of the block whose first byte is at `a`, in a tile of entry `e` (R268): decoded values, those of the
block or those of the raw bytes that it names, or the fault. -/
def State.decodeBlock (s : State) (ds : List RegRef) (e : TileEntry) (a : Nat) : State :=
  let head := readBytes s.mem.tile a 8
  let raw := leNat ((head.drop 4).take 3)
  if head.getD 1 0#8 &&& 1#8 = 1#8 then
    if raw % 16 != 0 || decide (e.size < raw + 256) then s.trap0 15 8
    else s.decoded ds (rawValue (readBytes s.mem.tile (s.team.key (e.off + raw)) 256))
  else if head.getD 0 0#8 = 255#8 then s.trap0 15 8
  else s.decoded ds (Machine.blockValue (readBytes s.mem.tile a 114))

theorem exec_vdecode {s : State} {a : BitVec 6} {ds : List RegRef} {e : TileEntry}
    (apart : s.straddles (bitsOf (s.getS a) 32 7) 2 = false) (block : s.refs (bitsOf (s.getS a) 32 7) 2 = some ds)
    (short : bitsOf (s.getS a) 32 7 < 127) (top : bitsOf (s.getS a) 39 25 = 0) (whole : bitsOf (s.getS a) 8 24 % 128 = 0)
    (tile : HasTile s (bitsOf (s.getS a) 0 8) e [.ready, .draining]) (inside : bitsOf (s.getS a) 8 24 + 128 ≤ e.size)
    (clean : NoPoison s) (settled : s.mem.epi = []) :
    exec (.vdecode a) s = .next (s.decodeBlock ds e (s.team.key (e.off + bitsOf (s.getS a) 8 24))) := by
  show execVdecode a s = _
  have sound := Mem.TileSound.of_noPoison clean
  have long : blockLong (bitsOf (s.getS a) 32 7) 2 = false := decide_eq_false (by omega)
  have state : tileStateNum e.st ∈ [2, 3] := by
    obtain ⟨-, -, -, st⟩ := tile
    simp only [List.mem_cons, List.not_mem_nil, or_false] at st
    rcases st with st | st <;> rw [st] <;> decide
  simp only [execVdecode, extract_toNat, long, State.withBlock, apart, block, (extract_eq_zero_iff _ _ _).mpr top, whole,
    State.withTile_eq tile, s.inStates_of_mem _ state, if_neg (Nat.not_lt.mpr inside), State.scanned, sound.tileRead, State.tileLoad, settled,
    List.isEmpty_nil, State.rangePoison_false sound, bne_self_eq_false, Bool.or_self, Bool.false_eq_true, if_true, if_false,
    State.decodeBlock, State.decoded]

/-- The head of a block says by bit 0 of byte 1 whether it escapes, and by bytes 4 to 6 where the raw bytes are (R268). -/
theorem blockHead_eq (s : State) (a : Nat) :
    let head := readBytes s.mem.tile a 8
    (head.getD 1 0#8 &&& 1#8 = 1#8 ↔ bytesAt (tileByte s) (a + 1) 1 % 2 = 1)
      ∧ leNat ((head.drop 4).take 3) = bytesAt (tileByte s) (a + 4) 3
      ∧ (head.getD 0 0#8 = 255#8 ↔ bytesAt (tileByte s) a 1 = 255) := by
  refine ⟨?_, ?_, ?_⟩
  · rw [and_one_eq_iff, readBytes_getD_toNat s (by decide)]
  · rw [readBytes_part _ (by decide), bytesAt_tileByte]
  · rw [← BitVec.toNat_inj, readBytes_getD_toNat s (by decide), Nat.add_zero, BitVec.toNat_ofNat]

/-- The block at `a` of a tile can be decoded: its raw bytes lie at a multiple of 16 within the tile, or, without
escape, its exponent is not 255 (R268). -/
def Decodable (s : State) (e : TileEntry) (a : Nat) : Prop :=
  if bytesAt (tileByte s) (a + 1) 1 % 2 = 1 then
    bytesAt (tileByte s) (a + 4) 3 % 16 = 0 ∧ bytesAt (tileByte s) (a + 4) 3 + 256 ≤ e.size
  else bytesAt (tileByte s) a 1 ≠ 255

/-- Value `q` of the block at `a` of a tile of entry `e` (R267, R268). -/
def decodedValue (s : State) (e : TileEntry) (a q : Nat) : Nat :=
  if bytesAt (tileByte s) (a + 1) 1 % 2 = 1 then
    bytesAt (tileByte s) (s.team.key (e.off + bytesAt (tileByte s) (a + 4) 3) + 2 * q) 2
  else bf16Of (bytesAt (tileByte s) a 1) (mantissaAt (tileByte s) a q)

theorem State.decodeBlock_of_decodable {s : State} (ds : List RegRef) {e : TileEntry} {a : Nat} (good : Decodable s e a) :
    ∃ value, s.decodeBlock ds e a = s.decoded ds value ∧ ∀ q, q < 128 → value q = decodedValue s e a q := by
  obtain ⟨escape, raw, exponent⟩ := blockHead_eq s a
  simp only [State.decodeBlock, escape, raw, exponent]
  by_cases escapes : bytesAt (tileByte s) (a + 1) 1 % 2 = 1
  · rw [Decodable, if_pos escapes] at good
    obtain ⟨aligned, inside⟩ := good
    refine ⟨_, ?_, fun q hq => (rawValue_eq s (s.team.key (e.off + bytesAt (tileByte s) (a + 4) 3)) hq).trans ?_⟩
    · simp only [escapes, aligned, if_true, bne_self_eq_false, Nat.not_lt.mpr inside, decide_false, Bool.or_self,
        Bool.false_eq_true, if_false]
    · rw [decodedValue, if_pos escapes]
  · rw [Decodable, if_neg escapes] at good
    refine ⟨_, ?_, fun q _ => (blockValue_eq_bf16Of s a q good).trans ?_⟩
    · rw [if_neg escapes, if_neg good]
    · rw [decodedValue, if_neg escapes]

theorem State.decodeBlock_of_not_decodable {s : State} (ds : List RegRef) {e : TileEntry} {a : Nat} (bad : ¬Decodable s e a) :
    s.decodeBlock ds e a = s.trap0 15 8 := by
  obtain ⟨escape, raw, exponent⟩ := blockHead_eq s a
  simp only [State.decodeBlock, escape, raw, exponent]
  by_cases escapes : bytesAt (tileByte s) (a + 1) 1 % 2 = 1
  · rw [Decodable, if_pos escapes, not_and_or, Nat.not_le] at bad
    simp only [if_pos escapes, Bool.or_eq_true, bne_iff_ne, decide_eq_true_iff, if_pos bad]
  · rw [Decodable, if_neg escapes, not_not] at bad
    rw [if_neg escapes, if_pos bad]

end Sys2Proof.Machine

namespace Sys2Proof.Claims

open Sys2Proof.Machine Sys2Proof.Safety

/-- VDECODE of a block of a tile that is ready or draining, into two registers (R267, R268). -/
theorem vdecode_decodes {s : State} {a : BitVec 6} {e : TileEntry} {v0 v1 : RegRef}
    (apart : s.straddles (bitsOf (s.getS a) 32 7) 2 = false) (block : s.refs (bitsOf (s.getS a) 32 7) 2 = some [v0, v1])
    (short : bitsOf (s.getS a) 32 7 < 127) (top : bitsOf (s.getS a) 39 25 = 0) (whole : bitsOf (s.getS a) 8 24 % 128 = 0)
    (tile : HasTile s (bitsOf (s.getS a) 0 8) e [.ready, .draining]) (inside : bitsOf (s.getS a) 8 24 + 128 ≤ e.size)
    (clean : NoPoison s) (settled : s.mem.epi = []) :
    let at_ := s.team.key (e.off + bitsOf (s.getS a) 8 24)
    let value := decodedValue s e at_
    (Decodable s e at_ → ∃ t, exec (.vdecode a) s = .next t ∧ MovedTo s t (after s) ∧ OnlyGroup s t ∧ OnlyVectors s t
      ∧ (∀ l, l < 32 → s.active.getLsbD l = true →
          laneOf (t.getRef v0) l = BitVec.ofNat 32 (value (4 * l) + 2 ^ 16 * value (4 * l + 1))
            ∧ laneOf (t.getRef v1) l = BitVec.ofNat 32 (value (4 * l + 2) + 2 ^ 16 * value (4 * l + 3)))
      ∧ (∀ l q, l < 32 → s.active.getLsbD l = false → laneOf (t.getRef q) l = laneOf (s.getRef q) l)
      ∧ (∀ q, q ≠ v0 → q ≠ v1 → t.getRef q = s.getRef q))
    ∧ (¬Decodable s e at_ → ∃ t, exec (.vdecode a) s = .next t ∧ Trapped s t 488 0#32 ∧ TrapOnly s t) := by
  intro at_ value
  have next := exec_vdecode apart block short top whole tile inside clean settled
  refine ⟨fun good => ?_, fun bad => ⟨_, next, ?_⟩⟩
  · obtain ⟨found, decoded, values⟩ := State.decodeBlock_of_decodable [v0, v1] good
    obtain ⟨⟨group, -, moved⟩, only, lanes, kept⟩ := State.decoded_spec block found
    have lane0 (l : Nat) (hl : l < 32) := lanes l 0 v0 hl rfl
    have lane1 (l : Nat) (hl : l < 32) := lanes l 1 v1 hl rfl
    refine ⟨_, next.trans (congrArg _ decoded), moved, group, only, fun l hl active => ⟨?_, ?_⟩, fun l q hl inactive => ?_,
      fun q h0 h1 => kept q (by simp [h0, h1])⟩
    · rw [lane0 l hl, if_pos active, values _ (by omega), values _ (by omega), Nat.mul_zero, Nat.add_zero]
    · rw [lane1 l hl, if_pos active, values _ (by omega), values _ (by omega)]
    · by_cases h0 : q = v0
      · rw [h0, lane0 l hl, inactive, if_neg Bool.false_ne_true]
      by_cases h1 : q = v1
      · rw [h1, lane1 l hl, inactive, if_neg Bool.false_ne_true]
      rw [kept q (by simp [h0, h1])]
  · rw [State.decodeBlock_of_not_decodable _ bad]
    exact State.trap0_spec s 15 8

/-! ## The words of the table -/

section Entry

variable {s : State} {a : BitVec 6} {e : TileEntry} (plain : bitsOf (s.getS a) 8 56 = 0)
  (tile : HasTile s (bitsOf (s.getS a) 0 8) e [.empty, .ready, .filling, .draining])

include plain tile

/-- TREL of a defined tile: a slot of a ring faults, a tile under transfer or in use is waited for, any other entry becomes
undefined (R168, R226, R248). -/
theorem trel_releases :
    let n := bitsOf (s.getS a) 0 8
    (¬inRing s n → ¬inUse s n → (e.st = .empty ∨ e.st = .ready) →
        ∃ t, exec (.trel a) s = .next t ∧ EntryBecomes s t n TileEntry.reset)
      ∧ (¬inRing s n → inUse s n → (e.st = .empty ∨ e.st = .ready) →
          ∃ t, exec (.trel a) s = .next t ∧ WaitsFor s t (.tileIdle n))
      ∧ (¬inRing s n → (e.st = .filling ∨ e.st = .draining) → ∃ t, exec (.trel a) s = .next t ∧ WaitsFor s t (.tile n [0, 2]))
      ∧ (inRing s n → ∃ t, exec (.trel a) s = .next t ∧ Trapped s t 487 0#32 ∧ TrapOnly s t) := by
  intro n
  have next := exec_trel plain tile
  have slot := Team.ringSlot_iff s n
  have used := s.tileBusy_iff n
  have idle (st : e.st = .empty ∨ e.st = .ready) : tileStateNum e.st ∈ [0, 2] := by
    rcases st with st | st <;> rw [st] <;> decide
  have moving (st : e.st = .filling ∨ e.st = .draining) : tileStateNum e.st ∉ [0, 2] := by
    rcases st with st | st <;> rw [st] <;> decide
  refine ⟨fun ring busy st => ?_, fun ring busy st => ?_, fun ring st => ?_, fun ring => ?_⟩
  · rw [if_neg (mt slot.mp ring), s.inStates_of_mem n (idle st), if_neg (mt used.mp busy)] at next
    exact ⟨_, next, s.putEntry_advance_spec n TileEntry.reset⟩
  · rw [if_neg (mt slot.mp ring), s.inStates_of_mem n (idle st), if_pos (used.mpr busy)] at next
    exact ⟨_, next, s.waitAt_spec (.tileIdle n)⟩
  · rw [if_neg (mt slot.mp ring), s.inStates_of_not_mem n (moving st)] at next
    exact ⟨_, next, s.waitAt_spec (.tile n [0, 2])⟩
  · rw [if_pos (slot.mpr ring)] at next
    exact ⟨_, next, s.trap0_spec 15 7⟩

/-- TSTATE of a defined tile (R248). -/
theorem tstate_reads (d : BitVec 6) :
    let n := bitsOf (s.getS a) 0 8
    ∃ t v, exec (.tstate a d) s = .next t ∧ TeamBecomes s t s.team (some d) ∧ t.getS d = BitVec.ofNat 64 v
      ∧ v % 4 = stateNum e.st ∧ v / 4 % 2 = 1 ∧ (v / 8 % 2 = 1 ↔ inUse s n) ∧ (v / 16 % 2 = 1 ↔ inRing s n) ∧ v < 32 := by
  intro n
  obtain ⟨inRange, entry, defined, -⟩ := tile
  have next := exec_tstate d plain inRange
  rw [entry] at next
  obtain ⟨st, valid, busy, ring, small⟩ :=
    tstateValue_fields defined (s.team.ringSlot n none) (s.tileBusy (s.team.entryKey n))
  obtain ⟨becomes, value⟩ := s.putS_advance_teamBecomes d
    (BitVec.ofNat 64 (tstateValue e (s.team.ringSlot n none) (s.tileBusy (s.team.entryKey n))))
  exact ⟨_, _, next, becomes, value, st, valid, busy.trans (s.tileBusy_iff n), ring.trans (Team.ringSlot_iff s n), small⟩

end Entry

/-- Settles O42: TDEF by the entry and the allotment, TREL and TSTATE by the entry, TWIN by the team, VDECODE by what the block
in tile memory says. -/
theorem tileWordsKeepTheTable : Obligations.TileWordsKeepTheTable := by
  intro s a b d r e _ placed x y n size off wordOk free
  refine ⟨fun word vacant room => ?_, fun word vacant room => ?_, fun word taken => ?_, fun plain tile => ?_,
    fun plain vacant => ?_, fun top gap kib1 kib2 req1 req2 => ?_, ?_,
    fun v0 v1 apart block short top whole tile inside clean settled =>
      vdecode_decodes apart block short top whole tile inside clean settled⟩
  · have next := exec_tdef r word
    rw [if_pos vacant, if_neg (Nat.not_lt.mpr room)] at next
    exact ⟨_, next, s.putEntry_advance_spec n _⟩
  · have next := exec_tdef r word
    rw [if_pos vacant, if_pos room] at next
    exact ⟨_, next, s.trap0_spec 15 4⟩
  · have next := exec_tdef r word
    rw [if_neg taken] at next
    exact ⟨_, next, s.trap0_spec 15 3⟩
  · obtain ⟨releases, waitsIdle, waits, faults⟩ := trel_releases plain tile
    exact ⟨releases, waitsIdle, waits, faults, tstate_reads plain tile d⟩
  · obtain ⟨inRange, undefined⟩ := vacant
    have next := exec_tstate d plain inRange
    rw [tstateValue_undefined undefined] at next
    exact ⟨_, next, s.putS_advance_teamBecomes d 0#64⟩
  · exact ⟨_, exec_twin top gap ⟨kib1, kib2⟩ ⟨req1, req2⟩, State.putTeam_advance_teamBecomes placed ⟨rfl, rfl, rfl⟩⟩
  · exact ⟨_, rfl, s.putS_advance_teamBecomes a _⟩

end Sys2Proof.Claims
